-- ==== Sys2Proof/Word.lean ====
section
/-! DEFINITION. The word types of Zheah and the sparse lists that hold memories and tables (05_memory R72, R75, R81). -/

namespace Sys2Proof

/-- A doubleword: the integer part of a register (R155). -/
abbrev W64 := BitVec 64

/-- The data bits of a register or of a 16-byte granule (R72, R180). -/
abbrev W128 := BitVec 128

/-- A register's value: 128 bits and the capability tag (R72), and the mark of a poisoned register line (R351). -/
structure RegVal where
  bits : W128
  tag  : Bool
  psn  : Bool
  deriving DecidableEq, Repr, Inhabited

/-- A list of (key, value) pairs with strictly rising keys: memories, register files and tables. -/
abbrev Sparse (α : Type) := List (Nat × α)

end Sys2Proof
end

