-- ==== Sys2Proof/Config.lean ====
section
/-! DEFINITION. What an implementation fixes, and the free values. Every constant is opaque: nothing can evaluate it, so a
claim about it holds whatever it is. The assumption log names each. -/

namespace Sys2Proof.Config

/-- The check byte of the 64 stored bits of a word (R371). The manual names the code's kind and not its matrix.
[Log 10: DESIGN CHOICE] -/
opaque checkByte : W64 → BitVec 8

/-- The stored bit that a single-bit syndrome points at: 0-63 a data bit, 64-71 a check bit; none for every other syndrome
(R371). [Log 10: DESIGN CHOICE] -/
opaque flipOf : BitVec 8 → Option Nat

/-- The cipher of device memory (R93: AES-XTS-256) as a permutation of the 16-byte blocks: key number, and the block's physical address
div 16, which gives its line's tweak and its place there. [Log 11: DESIGN CHOICE] -/
opaque cipher : Nat → Nat → Equiv.Perm W128

/-- The data bits of a register line that poisoned data was written to (R351), one fresh value for each counter.
[Log 12: DESIGN CHOICE] -/
opaque poisonBits : Nat → W128

/-- The words an engine or a structure write takes from a read that returned poisoned data (R372). [Log 12: DESIGN CHOICE] -/
opaque poisonByte : Nat → BitVec 8

/-- Whether Hawkmoth's mask ROM accepts the vendor signature of a firmware image (R314 steps 1 and 6).
[Log 13: DESIGN CHOICE] -/
opaque signatureGood : List (BitVec 8) → Bool

/-- Whether a training step of a boot succeeds (R314 steps 3 and 6), one value for each counter. [Log 13: DESIGN CHOICE] -/
opaque trainingGood : Nat → Bool

/-- Whether the exchange that agrees a link key succeeds (R316), by the number of the key. [Log 13: DESIGN CHOICE] -/
opaque exchangeGood : Nat → Bool

/-- The bytes of the engine microcode and tables in a firmware image (R314 step 4): image, its length.
[Log 13: DESIGN CHOICE] -/
opaque microcode : Nat → Nat → List (BitVec 8)

/-- The ML-DSA-44 device identity public key, 1,312 bytes as a number (R319). [Log 13: DESIGN CHOICE] -/
opaque identityKey : Nat

/-- The ML-DSA-44 signature of a digest under the device identity key, 2,420 bytes as a number (R317).
[Log 13: DESIGN CHOICE] -/
opaque sign : BitVec 256 → Nat

/-- A correctly rounded special function whose exact value the enclosures of the model did not separate (R196): function,
operand, bits wanted. The truncated value. [Log 15: DESIGN CHOICE] -/
opaque specialFloor : Nat → Nat → Int → Nat

/-- The bits that another part returns for a load, an atomic or an RDMA read (R71, R275): that part is outside the model.
[Log 16: DESIGN CHOICE] -/
opaque peerData : Nat → Nat

/-- Whether a chip lies in the load-store domain of this part (R71): the manual does not name the members.
[Log 16: DESIGN CHOICE] -/
opaque inDomain : Nat → Bool

/-- Where an export of a partition begins in device virtual space (R70): partition, export. The manual gives no table of exports.
[Log 17: DESIGN CHOICE] -/
opaque exportBase : Nat → Nat → Nat

/-- The bytes of an export (R369). [Log 17: DESIGN CHOICE] -/
opaque exportLen : Nat → Nat → Nat

/-- The tenant whose device virtual space an export is a range of (R70). [Log 17: DESIGN CHOICE] -/
opaque exportTenant : Nat → Nat → Nat

/-- The bytes of an export of another part (R369): chip, export. [Log 16: DESIGN CHOICE] -/
opaque peerExportLen : Nat → Nat → Nat

/-- The core and the slot that a trace entry gives for a store that another part sent (R140), one value for each counter.
[Log 16: DESIGN CHOICE] -/
opaque peerSource : Nat → Nat

end Sys2Proof.Config
end

