-- ==== Sys2Proof/Syntax.lean ====
section
/-! DEFINITION. The instructions and steps of the C960: one constructor for each row of the opcode table.
Operand structures follow the instruction formats (09_encoding R143-R150, 07_matrix R112, 14_insn_control R252). Fields are
the numbers that stand in the word. -/

namespace Sys2Proof

/-- R format, three registers: marker, D, A, B. -/
structure R3 where
  s : Bool
  d : Nat
  a : Nat
  b : Nat
  deriving DecidableEq, Repr

/-- R format, two registers: marker, D, A. -/
structure R2 where
  s : Bool
  d : Nat
  a : Nat
  deriving DecidableEq, Repr

/-- R format, four registers: marker, D, A, B, C. -/
structure R4 where
  s : Bool
  d : Nat
  a : Nat
  b : Nat
  c : Nat
  deriving DecidableEq, Repr

/-- IALUI (R147, R163): marker, D, A, the 32-bit form, IMM32. -/
structure ImmOp where
  s   : Bool
  d   : Nat
  a   : Nat
  w   : Bool
  imm : Nat
  deriving DecidableEq, Repr

/-- LI (R147, R165): marker, D, IMM32. -/
structure LiOp where
  s   : Bool
  d   : Nat
  imm : Nat
  deriving DecidableEq, Repr

/-- BITF (R147, R166): marker, D, A, position, width - 1. -/
structure FieldOp where
  s   : Bool
  d   : Nat
  a   : Nat
  pos : Nat
  wm1 : Nat
  deriving DecidableEq, Repr

/-- SKIP (R147, R167): marker, A, count. -/
structure SkipOp where
  s : Bool
  a : Nat
  n : Nat
  deriving DecidableEq, Repr

/-- CAPI (R147, R173): marker, D, A, IMM32. -/
structure CapImmOp where
  s   : Bool
  d   : Nat
  a   : Nat
  imm : Nat
  deriving DecidableEq, Repr

/-- V format (R144, R148): marker, D, A, B, C, lane type, rounding override, ME, MZ, mask register. For VCVT, C is the
source lane type. -/
structure VecOp where
  s   : Bool
  d   : Nat
  a   : Nat
  b   : Nat
  c   : Nat
  ty  : Nat
  rnd : Nat
  me  : Bool
  mz  : Bool
  k   : Nat
  deriving DecidableEq, Repr

/-- M format (R144, R150): marker, D, A, X, SH, RX, ORD, DISP as its 32-bit pattern. -/
structure MemOperand where
  s    : Bool
  d    : Nat
  a    : Nat
  x    : Nat
  sh   : Nat
  rx   : Bool
  ord  : Nat
  disp : Nat
  deriving DecidableEq, Repr

/-- A format (R144, R149): marker, D, A, B, C, the 8-byte size, ORD. -/
structure AmoOp where
  s   : Bool
  d   : Nat
  a   : Nat
  b   : Nat
  c   : Nat
  dbl : Bool
  ord : Nat
  deriving DecidableEq, Repr

/-- FENCE (R135): marker and scope. -/
structure FenceOp where
  s     : Bool
  scope : Nat
  deriving DecidableEq, Repr

/-- `sbind` (R212): marker, port register 48-55, A, B. -/
structure BindOp where
  s    : Bool
  port : Nat
  a    : Nat
  b    : Nat
  deriving DecidableEq, Repr

/-- REP (R147, R220): marker, A, body length - 1, stagger, fix mask. -/
structure RepOp where
  s       : Bool
  a       : Nat
  lenm1   : Nat
  stagger : Nat
  fix     : Nat
  deriving DecidableEq, Repr

/-- MMA, MMQ, MML, MMD (R112, R225): marker, accumulator, A slot, B slot, C register, swizzle id, Z. -/
structure MatOperand where
  s   : Bool
  acc : Nat
  a   : Nat
  b   : Nat
  c   : Nat
  swz : Nat
  z   : Bool
  deriving DecidableEq, Repr

/-- `macc.st` (R225, R234): marker, accumulator, A, B, format byte. -/
structure MaccStOp where
  s   : Bool
  acc : Nat
  a   : Nat
  b   : Nat
  fmt : Nat
  deriving DecidableEq, Repr

/-- A selector of `end` (R55). -/
structure Sel where
  reg : Nat
  ofs : Nat
  wc  : Nat
  deriving DecidableEq, Repr

/-- `end` (R243): marker, table, selectors 0-3. -/
structure EndOp where
  s     : Bool
  table : Nat
  sel0  : Sel
  sel1  : Sel
  sel2  : Sel
  sel3  : Sel
  deriving DecidableEq, Repr

/-- How a request of another part arrives (R301, R302): over `port` (0-35 scale-up, from 36 on scale-out), on queue pair `qp` where that
is scale-out; over scale-up it names the source `chip`. -/
structure PeerRoute where
  port : Nat
  qp   : Nat
  chip : Nat
  deriving DecidableEq, Repr

/-- E format (R252): marker, reply register, A, B, REL. -/
structure EngOp where
  s   : Bool
  d   : Nat
  a   : Nat
  b   : Nat
  rel : Bool
  deriving DecidableEq, Repr

/-- One constructor for each row of the opcode table: the Zheah words first, then the steps of the part's other agents. -/
inductive Instr where
  /-- ADD. Adds two 64-bit register values modulo 2^64 (R159). -/
  | add (o : R3)
  /-- SUB. Subtracts B from A modulo 2^64 (R159). -/
  | sub (o : R3)
  /-- AND. Bitwise and of A and B (R159). -/
  | and (o : R3)
  /-- OR. Bitwise or of A and B (R159). -/
  | or (o : R3)
  /-- XOR. Bitwise exclusive or of A and B (R159). -/
  | xor (o : R3)
  /-- ANDN. A and not B (R159). -/
  | andn (o : R3)
  /-- ORN. A or not B (R159). -/
  | orn (o : R3)
  /-- XNOR. Not of A xor B (R159). -/
  | xnor (o : R3)
  /-- SHL. Shifts A left by B[5:0] (R159). -/
  | shl (o : R3)
  /-- SHR. Logical right shift of A by B[5:0] (R159). -/
  | shr (o : R3)
  /-- SRA. Arithmetic right shift of A by B[5:0] (R159). -/
  | sra (o : R3)
  /-- ROTL. Rotates A left by B[5:0] (R159). -/
  | rotl (o : R3)
  /-- ROTR. Rotates A right by B[5:0] (R159). -/
  | rotr (o : R3)
  /-- MIN. Signed minimum of A and B (R159). -/
  | min (o : R3)
  /-- MAX. Signed maximum of A and B (R159). -/
  | max (o : R3)
  /-- MINU. Unsigned minimum of A and B (R159). -/
  | minu (o : R3)
  /-- MAXU. Unsigned maximum of A and B (R159). -/
  | maxu (o : R3)
  /-- CMPEQ. Writes 1 when A equals B, else 0 (R159). -/
  | cmpeq (o : R3)
  /-- CMPNE. Writes 1 when A differs from B, else 0 (R159). -/
  | cmpne (o : R3)
  /-- CMPLT. Signed less-than comparison (R159). -/
  | cmplt (o : R3)
  /-- CMPLTU. Unsigned less-than comparison (R159). -/
  | cmpltu (o : R3)
  /-- CMPLE. Signed less-or-equal comparison (R159). -/
  | cmple (o : R3)
  /-- CMPLEU. Unsigned less-or-equal comparison (R159). -/
  | cmpleu (o : R3)
  /-- SEL. Copies A or B with tag according to whether C[63:0] is nonzero (R160). -/
  | sel (o : R4)
  /-- CLZ. Counts leading zero bits of A (R161). -/
  | clz (o : R2)
  /-- CTZ. Counts trailing zero bits of A (R161). -/
  | ctz (o : R2)
  /-- POPC. Counts set bits of A (R161). -/
  | popc (o : R2)
  /-- BSWAP. Reverses the eight bytes of A (R161). -/
  | bswap (o : R2)
  /-- ABS. Absolute value of A, wrapping at -2^63 (R161). -/
  | abs (o : R2)
  /-- NEG. Negates A modulo 2^64 (R161). -/
  | neg (o : R2)
  /-- MUL. Low 64 bits of the product of A and B (R162). -/
  | mul (o : R3)
  /-- MULH. High half of the signed 128-bit product (R162). -/
  | mulh (o : R3)
  /-- MULHU. High half of the unsigned 128-bit product (R162). -/
  | mulhu (o : R3)
  /-- DIV. Signed division truncating toward zero, trapping DIVZERO on zero divisor (R162). -/
  | div (o : R3)
  /-- DIVU. Unsigned division, trapping DIVZERO on zero divisor (R162). -/
  | divu (o : R3)
  /-- REM. Signed remainder with the sign of the dividend (R162). -/
  | rem (o : R3)
  /-- REMU. Unsigned remainder (R162). -/
  | remu (o : R3)
  /-- MADD. Multiplies A and B and adds C modulo 2^64 (R162). -/
  | madd (o : R4)
  /-- ADDI. Adds a sign-extended immediate, or its 32-bit form with .w (R163). -/
  | addi (o : ImmOp)
  /-- ANDI. Bitwise and with an immediate (R163). -/
  | andi (o : ImmOp)
  /-- ORI. Bitwise or with an immediate (R163). -/
  | ori (o : ImmOp)
  /-- XORI. Bitwise exclusive or with an immediate (R163). -/
  | xori (o : ImmOp)
  /-- SHLI. Shifts left by an immediate count (R163). -/
  | shli (o : ImmOp)
  /-- SHRI. Logical right shift by an immediate count (R163). -/
  | shri (o : ImmOp)
  /-- SRAI. Arithmetic right shift by an immediate count (R163). -/
  | srai (o : ImmOp)
  /-- CMPEQI. Compares A with an immediate for equality (R163). -/
  | cmpeqi (o : ImmOp)
  /-- CMPLTI. Signed less-than against an immediate (R163). -/
  | cmplti (o : ImmOp)
  /-- CMPLTUI. Unsigned less-than against an immediate (R163). -/
  | cmpltui (o : ImmOp)
  /-- MINI. Signed minimum with an immediate (R163). -/
  | mini (o : ImmOp)
  /-- MAXI. Signed maximum with an immediate (R163). -/
  | maxi (o : ImmOp)
  /-- LI. Loads a sign-extended 32-bit immediate, zeroing bits 127:64 and the tag (R21). -/
  | li (o : LiOp)
  /-- LIQ_1. Replaces bits 63:32 of D with the immediate (R165). -/
  | liq1 (o : LiOp)
  /-- LIQ_2. Replaces bits 95:64 of D with the immediate (R165). -/
  | liq2 (o : LiOp)
  /-- LIQ_3. Replaces bits 127:96 of D with the immediate (R165). -/
  | liq3 (o : LiOp)
  /-- EXT. Extracts a zero-extended bit field (R166). -/
  | ext (o : FieldOp)
  /-- EXT_S. Extracts a sign-extended bit field (R166). -/
  | extS (o : FieldOp)
  /-- INS. Inserts the low bits of A into a field of D (R166). -/
  | ins (o : FieldOp)
  /-- SKIP_Z. Turns the next n words into no-ops when A is zero (R167). -/
  | skipZ (o : SkipOp)
  /-- SKIP_NZ. Turns the next n words into no-ops when A is nonzero (R167). -/
  | skipNz (o : SkipOp)
  /-- SKIP_NEG. Turns the next n words into no-ops when bit 63 of A is set (R167). -/
  | skipNeg (o : SkipOp)
  /-- SKIP_NNEG. Turns the next n words into no-ops when bit 63 of A is clear (R167). -/
  | skipNneg (o : SkipOp)
  /-- RANK. Counts set bits below an index of a bitmap in memory (R168). -/
  | rank (o : R3)
  /-- SELB. Finds the bitmap bit of a given rank (R169). -/
  | selb (o : R3)
  /-- HMIX. Mixes three 64-bit values into a hash (R171). -/
  | hmix (o : R4)
  /-- MOV. Copies all 128 bits and the tag of A into D (R172). -/
  | mov (o : R2)
  /-- CADD. Moves a capability's address by a register amount, keeping the tag only if bounds are unchanged (R175). -/
  | cadd (o : R3)
  /-- CBND. Narrows a capability to a rounded region of length B (R176). -/
  | cbnd (o : R3)
  /-- CBND_X. Narrows a capability exactly, clearing the tag if rounding is needed (R176). -/
  | cbndX (o : R3)
  /-- CPERM. Ands a capability's permissions with a register mask (R177). -/
  | cperm (o : R3)
  /-- CCLR. Clears a capability's tag (R177). -/
  | cclr (o : R2)
  /-- CGET_ADDR. Reads a capability's address (R178). -/
  | cgetAddr (o : R2)
  /-- CGET_BASE. Reads a capability's decoded base (R178). -/
  | cgetBase (o : R2)
  /-- CGET_TOP. Reads a capability's decoded top (R178). -/
  | cgetTop (o : R2)
  /-- CGET_PERM. Reads a capability's permissions and object type (R178). -/
  | cgetPerm (o : R2)
  /-- CGET_TAG. Reads a capability's tag (R178). -/
  | cgetTag (o : R2)
  /-- CSUB. Subtracts capability addresses (R178). -/
  | csub (o : R3)
  /-- CCMP. Compares two capabilities into a bit set (R178). -/
  | ccmp (o : R3)
  /-- CSEAL. Seals a capability with a granted object type (R179). -/
  | cseal (o : R3)
  /-- CUNSEAL. Unseals a capability of a matching granted type (R179). -/
  | cunseal (o : R3)
  /-- CADD_I. Moves a capability's address by an immediate (R175). -/
  | caddI (o : CapImmOp)
  /-- CPERM_I. Ands a capability's permissions with an immediate mask (R177). -/
  | cpermI (o : CapImmOp)
  /-- CBND_I. Narrows a capability to an immediate length (R176). -/
  | cbndI (o : CapImmOp)
  /-- VADD. Lane-wise addition (R186). -/
  | vadd (o : VecOp)
  /-- VSUB. Lane-wise subtraction (R186). -/
  | vsub (o : VecOp)
  /-- VMUL. Lane-wise multiplication (R186). -/
  | vmul (o : VecOp)
  /-- VMIN. Lane-wise minimum (R187). -/
  | vmin (o : VecOp)
  /-- VMAX. Lane-wise maximum (R187). -/
  | vmax (o : VecOp)
  /-- VABS. Lane-wise absolute value (R187). -/
  | vabs (o : VecOp)
  /-- VNEG. Lane-wise negation (R187). -/
  | vneg (o : VecOp)
  /-- VDIV. Lane-wise float division (R186). -/
  | vdiv (o : VecOp)
  /-- VSQRT. Lane-wise float square root (R186). -/
  | vsqrt (o : VecOp)
  /-- VAND. Lane-wise bitwise and (R188). -/
  | vand (o : VecOp)
  /-- VOR. Lane-wise bitwise or (R188). -/
  | vor (o : VecOp)
  /-- VXOR. Lane-wise bitwise exclusive or (R188). -/
  | vxor (o : VecOp)
  /-- VSHL. Lane-wise left shift (R188). -/
  | vshl (o : VecOp)
  /-- VSHR. Lane-wise logical right shift (R188). -/
  | vshr (o : VecOp)
  /-- VSRA. Lane-wise arithmetic right shift (R188). -/
  | vsra (o : VecOp)
  /-- VFMA. Fused a×b+c per lane, one rounding (R189). -/
  | vfma (o : VecOp)
  /-- VFMS. Fused a×b−c per lane, one rounding (R189). -/
  | vfms (o : VecOp)
  /-- VFNMA. Fused −(a×b)+c per lane, one rounding (R189). -/
  | vfnma (o : VecOp)
  /-- VCMP_EQ. Lane-wise equality into a bit mask (R190). -/
  | vcmpEq (o : VecOp)
  /-- VCMP_NE. Lane-wise inequality into a bit mask (R190). -/
  | vcmpNe (o : VecOp)
  /-- VCMP_LT. Lane-wise less-than into a bit mask (R190). -/
  | vcmpLt (o : VecOp)
  /-- VCMP_LE. Lane-wise less-or-equal into a bit mask (R190). -/
  | vcmpLe (o : VecOp)
  /-- VCMP_GT. Lane-wise greater-than into a bit mask (R190). -/
  | vcmpGt (o : VecOp)
  /-- VCMP_GE. Lane-wise greater-or-equal into a bit mask (R190). -/
  | vcmpGe (o : VecOp)
  /-- VCMP_UN. Lane-wise unordered test into a bit mask (R190). -/
  | vcmpUn (o : VecOp)
  /-- VSEL. Selects lanes of A or B by bits of C (R191). -/
  | vsel (o : VecOp)
  /-- VREDSUM. Sums candidate lanes in ascending order (R192). -/
  | vredsum (o : VecOp)
  /-- VREDMAX. Largest candidate lane (R193). -/
  | vredmax (o : VecOp)
  /-- VREDMIN. Smallest candidate lane (R193). -/
  | vredmin (o : VecOp)
  /-- VREDARGMAX. Best (value, index) pair among a prior pair and the lanes (R194). -/
  | vredargmax (o : VecOp)
  /-- VSHUF. Permutes lanes of A by indices in B (R195). -/
  | vshuf (o : VecOp)
  /-- VBCAST. Broadcasts lane 0 of A (R195). -/
  | vbcast (o : VecOp)
  /-- VINS. Inserts a value into one lane of D (R195). -/
  | vins (o : VecOp)
  /-- VEXT. Extracts one lane, extended to 64 bits (R195). -/
  | vext (o : VecOp)
  /-- VEXP2. Correctly rounded 2^x per lane, variable latency (R196). -/
  | vexp2 (o : VecOp)
  /-- VLOG2. Correctly rounded log2 x per lane (R196). -/
  | vlog2 (o : VecOp)
  /-- VRCP. Correctly rounded reciprocal per lane (R196). -/
  | vrcp (o : VecOp)
  /-- VRSQRT. Correctly rounded reciprocal square root per lane (R196). -/
  | vrsqrt (o : VecOp)
  /-- VTANH. Correctly rounded tanh per lane (R196). -/
  | vtanh (o : VecOp)
  /-- VSIG. Correctly rounded logistic sigmoid per lane (R196). -/
  | vsig (o : VecOp)
  /-- VGELU. Correctly rounded GELU per lane (R196). -/
  | vgelu (o : VecOp)
  /-- VCVT. Converts lanes between types, narrowing or widening (R198). -/
  | vcvt (o : VecOp)
  /-- VCVT_I. Rounds to integral then converts lanes (R199). -/
  | vcvtI (o : VecOp)
  /-- SMERGE. Merges two softmax states and returns rescale factors (R200). -/
  | smerge (o : VecOp)
  /-- LD_B. Loads one byte through a capability (R204). -/
  | ldB (o : MemOperand)
  /-- LD_H. Loads a halfword (R204). -/
  | ldH (o : MemOperand)
  /-- LD_W. Loads a word (R204). -/
  | ldW (o : MemOperand)
  /-- LD_D. Loads a doubleword (R204). -/
  | ldD (o : MemOperand)
  /-- LD_Q. Loads 16 bytes without tag (R204). -/
  | ldQ (o : MemOperand)
  /-- LD_C. Loads 16 bytes with the granule tag when LC is held (R204). -/
  | ldC (o : MemOperand)
  /-- ST_B. Stores one byte (R204). -/
  | stB (o : MemOperand)
  /-- ST_H. Stores a halfword (R204). -/
  | stH (o : MemOperand)
  /-- ST_W. Stores a word (R204). -/
  | stW (o : MemOperand)
  /-- ST_D. Stores a doubleword (R204). -/
  | stD (o : MemOperand)
  /-- ST_Q. Stores 16 bytes, clearing the tag (R204). -/
  | stQ (o : MemOperand)
  /-- ST_C. Stores 16 bytes with the register's tag (R204). -/
  | stC (o : MemOperand)
  /-- LDFE. Waits for full, reads the word and sets it empty (R206). -/
  | ldfe (o : MemOperand)
  /-- LDFF. Waits for full and reads the word (R206). -/
  | ldff (o : MemOperand)
  /-- STEF. Waits for empty, writes the word and sets it full (R206). -/
  | stef (o : MemOperand)
  /-- STFILL. Writes the word and sets it full (R206). -/
  | stfill (o : MemOperand)
  /-- FECTL_READ. Reads the full/empty bit (R206). -/
  | fectlRead (o : MemOperand)
  /-- FECTL_EMPTY. Sets the word empty (R206). -/
  | fectlEmpty (o : MemOperand)
  /-- FECTL_FULL. Sets the word full (R206). -/
  | fectlFull (o : MemOperand)
  /-- AMO_ADD. Atomic add returning the old value (R208). -/
  | amoAdd (o : AmoOp)
  /-- AMO_AND. Atomic and (R208). -/
  | amoAnd (o : AmoOp)
  /-- AMO_OR. Atomic or (R208). -/
  | amoOr (o : AmoOp)
  /-- AMO_XOR. Atomic exclusive or (R208). -/
  | amoXor (o : AmoOp)
  /-- AMO_MIN. Atomic signed minimum (R208). -/
  | amoMin (o : AmoOp)
  /-- AMO_MAX. Atomic signed maximum (R208). -/
  | amoMax (o : AmoOp)
  /-- AMO_MINU. Atomic unsigned minimum (R208). -/
  | amoMinu (o : AmoOp)
  /-- AMO_MAXU. Atomic unsigned maximum (R208). -/
  | amoMaxu (o : AmoOp)
  /-- AMO_SWAP. Atomic swap (R208). -/
  | amoSwap (o : AmoOp)
  /-- AMO_CAS. Atomic compare and swap (R208). -/
  | amoCas (o : AmoOp)
  /-- AMO_FADD_F32. Atomic FP32 add rounded to nearest even (R209). -/
  | amoFaddF32 (o : AmoOp)
  /-- FENCE_RW. Waits for earlier loads, relaxed accesses and, at wider scopes, drained and completed device stores (R136). -/
  | fenceRw (o : FenceOp)
  /-- FENCE_X. Waits as fence rw plus stream ports, engine kicks and replies (R136). -/
  | fenceX (o : FenceOp)
  /-- FENCE_M. Waits for every earlier matrix operation, oload and macc.st of the thread (R136). -/
  | fenceM (o : FenceOp)
  /-- SBIND_IN. Binds a stream port for input (R213). -/
  | sbindIn (o : BindOp)
  /-- SBIND_OUT. Binds a stream port for output (R213). -/
  | sbindOut (o : BindOp)
  /-- SUNBIND. Unbinds a port, closing any open output block (R219). -/
  | sunbind (s : Bool) (port : Nat)
  /-- SSTAT. Reports a port's element count and state (R219). -/
  | sstat (s : Bool) (d port : Nat)
  /-- REP. Repeats a short body with staggered fields, inline or detached (R220). -/
  | rep (o : RepOp)
  /-- MMA. Matrix multiply-accumulate of two operand slots into an accumulator (R226). -/
  | mma (o : MatOperand)
  /-- MMQ. Matrix multiply with narrow-integer weights using integer codes (R226). -/
  | mmq (o : MatOperand)
  /-- MML. Matrix multiply with LUT4 weights through a codebook pair (R226). -/
  | mml (o : MatOperand)
  /-- MMD. Delta-reuse matrix multiply through a reuse record (R123). -/
  | mmd (o : MatOperand)
  /-- MMD_FULL. Delta-reuse multiply forcing a full computation (R123). -/
  | mmdFull (o : MatOperand)
  /-- RINIT. Writes a fresh invalid reuse record header (R121). -/
  | rinit (s : Bool) (a b : Nat)
  /-- RINVAL. Invalidates a reuse record after checking its tenant (R230). -/
  | rinval (s : Bool) (a : Nat)
  /-- RSTAT. Reads a reuse record header's first two doublewords (R230). -/
  | rstat (s : Bool) (d a : Nat)
  /-- MACC_ST. Converts accumulator rows and writes them through a capability (R236). -/
  | maccSt (o : MaccStOp)
  /-- MACC_Z. Zeroes an accumulator and sets FP32 mode (R231). -/
  | maccZ (s : Bool) (acc : Nat)
  /-- MQFIN. Applies column scales and zero points to an accumulator (R232). -/
  | mqfin (s : Bool) (acc slot swz : Nat)
  /-- OCLAIM. Claims an operand slot or accumulator, parking if held (R237). -/
  | oclaim (s : Bool) (res : Nat)
  /-- OREL. Releases a resource after its pending operations complete (R237). -/
  | orel (s : Bool) (res : Nat)
  /-- OLOAD. Fills an operand slot with raw blocks read through a capability (R238). -/
  | oload (s : Bool) (slot a b : Nat)
  /-- OSTAT. Reports a resource's header or mode and pending state (R239). -/
  | ostat (s : Bool) (d res : Nat)
  /-- TDEF. Defines a tile entry over a home-cluster SRAM region (R241). -/
  | tdef (s : Bool) (tile a b : Nat)
  /-- TSTATE. Reads a tile's state (R240). -/
  | tstate (s : Bool) (d tile : Nat)
  /-- TSET. Sets a tile's state without moving data (R242). -/
  | tset (s : Bool) (tile b : Nat)
  /-- TFREE. Returns a tile entry to reset, trapping its waiters (R242). -/
  | tfree (s : Bool) (tile : Nat)
  /-- END. Builds a key, searches a table and continues, suspends, retires, waits or traps (R244). -/
  | endBlk (o : EndOp)
  /-- MATCH. Looks up a key in a table and returns the winning entry (R67). -/
  | matchKey (s : Bool) (d a table : Nat)
  /-- TBL_WR. Writes one entry of a table's shadow bank (R65). -/
  | tblWr (s : Bool) (table a b c : Nat)
  /-- TBL_COMMIT. Flips a table's active bank, announces and waits for every cluster (R65). -/
  | tblCommit (s : Bool) (d table a : Nat)
  /-- TBL_RD. Reads part of a table entry or the header (R65). -/
  | tblRd (s : Bool) (d table a b : Nat)
  /-- TBL_SYNC. Copies the active bank into the shadow bank (R65). -/
  | tblSync (s : Bool) (table a : Nat)
  /-- SPAWN. Creates a new continuation and returns its capability (R54). -/
  | spawn (o : R4)
  /-- DEC. Decrements a continuation's dependence counter (R54). -/
  | dec (s : Bool) (a b : Nat)
  /-- TGET. Reads a continuation's block, priority, state and counter (R54). -/
  | tget (o : R2)
  /-- TSET_CNT. Sets a continuation's counter, or resumes or aborts a trapped record (R54). -/
  | tsetCnt (s : Bool) (a b : Nat)
  /-- MFS. Reads a special register (R261). -/
  | mfs (s : Bool) (d spr : Nat)
  /-- MTS. Writes a special register (R261). -/
  | mts (s : Bool) (spr a : Nat)
  /-- TLBI. Invalidates a range of the partition's translations in every TLB (R262). -/
  | tlbi (s : Bool) (a b : Nat)
  /-- TLBSYNC. Waits until every earlier tlbi of the thread is complete (R263). -/
  | tlbsync (s : Bool)
  /-- PORTWR. Completes a parked access by retry or by supplied value (R264). -/
  | portwr (s : Bool) (a b c : Nat)
  /-- PORTFAIL. Fails a parked access with a trap cause (R265). -/
  | portfail (s : Bool) (a b : Nat)
  /-- DIAG_ST. Writes a word with chosen check bits (R266). -/
  | diagSt (s : Bool) (a b c : Nat)
  /-- TRAP. Raises a software trap with P0 from A (R267). -/
  | trap (s : Bool) (a : Nat)
  /-- HALT. Retires the continuation without decrementing its successor (R268). -/
  | halt (s : Bool)
  /-- COPY_XFER. Copy engine copies n bytes from source to destination (R275). -/
  | copyXfer (o : EngOp)
  /-- COPY_FILL. Copy engine writes an 8-byte pattern over the destination (R275). -/
  | copyFill (o : EngOp)
  /-- COPY_RWRITE. RDMA write to a peer's export over scale-out (R275). -/
  | copyRwrite (o : EngOp)
  /-- COPY_RREAD. RDMA read from a peer's export (R275). -/
  | copyRread (o : EngOp)
  /-- COPY_RSEND. RDMA send of a launch packet to remote SRAM (R275). -/
  | copyRsend (o : EngOp)
  /-- COPY_REMAP. Copies one physical page and retires it to another (R376). -/
  | copyRemap (o : EngOp)
  /-- COPY_STAT. Returns the copy engine's status reply (R256). -/
  | copyStat (o : EngOp)
  /-- DIST_DEAL. Deals bursts from device memory into operand slots under a pattern (R276). -/
  | distDeal (o : EngOp)
  /-- DIST_CFG. Writes one distributor pattern register (R87). -/
  | distCfg (o : EngOp)
  /-- DIST_STAT. Returns the distributor's status reply (R256). -/
  | distStat (o : EngOp)
  /-- COLL_ALLREDUCE. All-reduce across a group, delivered to every member (R278). -/
  | collAllreduce (o : EngOp)
  /-- COLL_REDUCE. Reduce delivered to the root (R278). -/
  | collReduce (o : EngOp)
  /-- COLL_BCAST. Broadcast of the root's contribution (R278). -/
  | collBcast (o : EngOp)
  /-- COLL_ALLGATHER. All-gather delivered to every member (R278). -/
  | collAllgather (o : EngOp)
  /-- COLL_STAT. Returns the collective engine's status reply (R256). -/
  | collStat (o : EngOp)
  /-- CTX_SAVE. Saves a slot's claimed resources and ports to a save area (R279). -/
  | ctxSave (o : EngOp)
  /-- CTX_RESTORE. Restores saved resources into a target slot (R279). -/
  | ctxRestore (o : EngOp)
  /-- CTX_SCRUB. Zeroes SRAM, operand memory and record pools of a partition (R279). -/
  | ctxScrub (o : EngOp)
  /-- CTX_STAT. Returns the context engine's status reply (R256). -/
  | ctxStat (o : EngOp)
  /-- GATE_RUN. Starts one Swallowtail layer from a configuration block (R281). -/
  | gateRun (o : EngOp)
  /-- GATE_STAT. Returns the gate engine's status reply (R256). -/
  | gateStat (o : EngOp)
  /-- DISPATCH_STAT. Returns the dispatch engine's status reply (R256). -/
  | dispatchStat (o : EngOp)
  /-- COMBINE_STAT. Returns the combine engine's status reply (R256). -/
  | combineStat (o : EngOp)
  /-- ACCEPT_LAUNCH. Scheduler accepts a full head slot, checks it and creates or refuses continuations: the scheduler of cluster `cl` looks at the head slot of queue `q` (R36). -/
  | acceptLaunch (cl q : Nat)
  /-- CREATE_CONTINUATION. Creation message arrives at a home, which builds the record and image and enqueues it: the next creation message of launch `lid` of the scheduler of cluster `cl` arrives (R38). -/
  | createContinuation (cl lid : Nat)
  /-- RETIREMENT_REPORT. A retirement report lowers the launch's live count at the accepting scheduler: the `k`-th report in flight arrives (R39). -/
  | retirementReport (k : Nat)
  /-- SUCCESSOR_DECREMENT. A decrement message at the successor's home lowers its counter and may enqueue it: the `k`-th decrement in flight arrives (R54). -/
  | successorDecrement (k : Nat)
  /-- TAKE_RUN_LIST_HEAD. An Idle slot takes the run-list head and begins issue: an Idle slot of cluster `cl` takes the run-list head (R45). -/
  | takeRunListHead (cl : Nat)
  /-- RESULT_RETURN. A variable-latency result returns and may unpark a marked thread: the `k`-th outstanding result of slot `g` returns (R50). -/
  | resultReturn (g k : Nat)
  /-- WAIT_LIST_RECHECK. A word's state change re-checks its waiters in arrival order: the wait list of cluster `cl` re-checks the waiters of the word whose state changed first (R52). -/
  | waitListRecheck (cl : Nat)
  /-- FELIMIT_TRAP. A thread's re-check count exceeds FELIM and it traps FELIMIT: the waiting access `rid` has passed its limit (R364). -/
  | felimitTrap (rid : Nat)
  /-- WAIT_LIST_ENTRY_FREED. A freed wait-list entry lets a held full/empty access be re-sent: an entry of the wait list of `cl` is free and the oldest held access is sent again (R52). -/
  | waitListEntryFreed (cl : Nat)
  /-- MATCH_CACHE_FILL. A table line or header arrives and parked searches resume: the header that the search of slot `g` waits for arrives (R62). -/
  | matchCacheFill (g : Nat)
  /-- COMMIT_COMPLETE. All acknowledgements arrive; PEND clears and the commit returns: the `k`-th commit being published has every acknowledgement (R65). -/
  | commitComplete (k : Nat)
  /-- SWEEP_CLOSE. Root closes a sweep and broadcasts its announcements in order: the root closes the open sweep (R132). -/
  | sweepClose
  /-- SEQUENCER_SEND. The repetition sequencer checks and sends one operation of a body: the sequencer of core `core` sends its next operation (R224). -/
  | sequencerSend (core : Nat)
  /-- MATRIX_OP_COMPLETE. An array operation completes and its flags join STAT: the `k`-th operation of the array queue of `core` completes (R114). -/
  | matrixOpComplete (core k : Nat)
  /-- OLOAD_COMPLETE. The last block of an oload lands and the slot becomes FULL: the last block of the `k`-th `oload` of `core` lands (R109). -/
  | oloadComplete (core k : Nat)
  /-- TRAP_DELIVERY. A slot delivers a trap after outstanding work, saving and writing the record: slot `g` delivers the trap it holds (R355). -/
  | trapDelivery (g : Nat)
  /-- HANDLER_ENTRY_WRITE. A trapped record is written to the handler queue when its entry is empty: the oldest trapped record of partition `part` reaches its handler queue (R357). -/
  | handlerEntryWrite (part : Nat)
  /-- PAGE_WALK_COMPLETE. A page walk finishes and installs a translation or faults: the `k`-th walk finishes (R80). -/
  | pageWalkComplete (k : Nat)
  /-- RETRY_ENTRY_WRITE. A held fault is written to the retry ring when the entry frees: the oldest held fault of cluster `cl` is written to its retry ring (R360). -/
  | retryEntryWrite (cl : Nat)
  /-- TLBI_COMPLETE. A tlbi completes once TLBs dropped the range and affected accesses drained: the `k`-th invalidation not yet complete completes (R263). -/
  | tlbiComplete (k : Nat)
  /-- STREAM_ELEMENT_ARRIVAL. A fetched stream element arrives and a waiting pop may issue: the next element of port `port` of slot `g` moves between memory and the port (R215). -/
  | streamElementArrival (g port : Nat)
  /-- SRAM_REQUEST. A memory agent performs an SRAM request at its bank and replies: the bank performs request `rid` (R71). -/
  | sramRequest (rid : Nat)
  /-- DEVICE_STORE. A base die performs a device store and sends the parity difference: the base die performs the `k`-th drained store in flight (R91). -/
  | deviceStore (k : Nat)
  /-- PARITY_DIFFERENCE. A parity stack applies a difference and acknowledges the store: the `k`-th difference in flight reaches its parity stack (R91). -/
  | parityDifference (k : Nat)
  /-- DEVICE_READ. A base die reads a device word and acts on its syndrome: the base die performs the read `rid` (R371). -/
  | deviceRead (rid : Nat)
  /-- RECONSTRUCTION. The parity stack rebuilds a unit from its stripe, or marks lost lines: the parity stack performs the `k`-th reconstruction asked for (R373). -/
  | reconstruction (k : Nat)
  /-- DEVICE_ATOMIC. An atomic unit performs one atomic from its class queues: the atomic unit performs request `rid` (R384). -/
  | deviceAtomic (rid : Nat)
  /-- FENCE_MARKER. A base die acknowledges a fence marker after earlier requests complete: the base die of `stack` acknowledges the marker of the fence of slot `g` on `plane` (R137). -/
  | fenceMarker (g plane stack : Nat)
  /-- MARKER_ACK. A fence acknowledgement arrives; the last ends the fence's wait: that acknowledgement reaches slot `g` (R137). -/
  | markerAck (g plane stack : Nat)
  /-- PARITY_RESYNC. A stale parity unit is recomputed from the stripe's data units: the `k`-th stale parity unit is recomputed (R381). -/
  | parityResync (k : Nat)
  /-- ENGINE_KICK_ACCEPT. An engine accepts a kick, reads its record and checks it, replying RC: engine instance `e` accepts its oldest kick (R273). -/
  | engineKickAccept (e : Nat)
  /-- ENGINE_COMMAND_COMPLETE. An engine finishes a command's writes, readies its tile and fills the completion word: engine instance `e` finishes its running command (R139). -/
  | engineCommandComplete (e : Nat)
  /-- ENGINE_ACCESS_FAILED. A post-acceptance access fails, ending the command with a fault-ring entry: an access of the running command of `e` fails with `cause` (R407). -/
  | engineAccessFailed (e cause : Nat)
  /-- DISPATCH_STAGE. Dispatch places tokens with experts, writing headers, vectors, bitmaps and send lists: the dispatch engine of `die` places the tokens of its layer (R283). -/
  | dispatchStage (die : Nat)
  /-- PRODUCT_SPAWN. After dispatch writes are performed, the gate spawns one product per used expert: the gate engine of `die` spawns the products of its layer (R284). -/
  | productSpawn (die : Nat)
  /-- COMBINE_STAGE. After every product retires, combine writes weighted rows and fills GDONE: the combine engine of `die` writes the rows of its layer (R285). -/
  | combineStage (die : Nat)
  /-- ROTATION_START. A store to the rotation word updates the held set and starts slot rotation: `val` is stored to the rotation word of `cl` (R308). -/
  | rotationStart (cl val : Nat)
  /-- SLOT_HANDOVER. A slot of the outgoing tenant drains, saves and writes back its continuation: slot `g` is visited by the rotation of its cluster (R309). -/
  | slotHandover (g : Nat)
  /-- CLUSTER_HANDOVER. A handover word store swaps a cluster's partition image: `val` is stored to handover doubleword 0 of `cl` (R312). -/
  | clusterHandover (cl val : Nat)
  /-- QUEUE_WORD_STORE. A store to a queue word configures or enables a launch queue: `val` is stored to queue word `q` of `cl` at privilege `prv` by partition `part` (R299). -/
  | queueWordStore (cl q val prv part : Nat)
  /-- POOL_WORD_STORE. A store to a record or context pool word frees the whole pool: `val` is stored to the pool word at `ofs` of `cl` (R306). -/
  | poolWordStore (cl ofs val prv part : Nat)
  /-- COCOON_WORD_STORE. A store arms, reopens or disarms a cocoon: `val` is stored to cocoon word `n` of the die of `cl` (R389). -/
  | cocoonWordStore (cl n val prv part : Nat)
  /-- PAIR_WORD_STORE. A store sets a cluster's paired partner: `val` is stored to the pair word of `cl` (R396). -/
  | pairWordStore (cl val prv part : Nat)
  /-- CONTROL_WORD_WRITE. A store to any other control-window word, with width and privilege checks: `val` is stored to the control window of `cl` at `ofs` (R296). -/
  | controlWordWrite (cl ofs size val prv part : Nat)
  /-- VF_POSTED_WRITE. A posted write from a virtual function is applied: virtual function `vf` writes `len` bytes of `data` at `addr`, with the granule tag bits `tags` (R297). -/
  | vfPostedWrite (vf addr len data tags : Nat) (full : Bool)
  /-- VF_TAGGED_READ. A tagged read from a virtual function is performed and completed: virtual function `vf` reads `len` bytes at `addr` (R297). -/
  | vfTaggedRead (vf tag addr len : Nat)
  /-- PEER_REQUEST. A scale-up or scale-out request is checked against the access-control table: a request of `kind` (0 write, 1 read, 2 atomic, 3 launch write) arrives by the route `via` from tenant `ten` (R301). -/
  | peerRequest (via : PeerRoute) (ten kind addr len data : Nat)
  /-- FUNCTION_LEVEL_RESET. Resets a VF and discards and scrubs its partition: the function-level reset of `vf` (R403). -/
  | functionLevelReset (vf : Nat)
  /-- STATUS. Management request returning the status word (R319). -/
  | status (seq : Nat)
  /-- ATTEST. Management request returning a signed attestation report (R317). -/
  | attest (seq nonce : Nat)
  /-- IDKEY. Management request returning the device identity public key (R319). -/
  | idkey (seq : Nat)
  /-- EXTEND. Management request extending M3 with a digest (R319). -/
  | extend (seq digest : Nat)
  /-- FWCHUNK. Management request delivering a host firmware image chunk (R319). -/
  | fwchunk (seq ofs total len data : Nat)
  /-- SETCHIP. Management request setting the part's chip number (R319). -/
  | setchip (seq chip : Nat)
  /-- BINDVF. Management request binding a VF to a partition (R319). -/
  | bindvf (seq vf part : Nat)
  /-- KEYINSTALL. Installs a fresh memory key for a tenant (R316). -/
  | keyinstall (seq ten : Nat)
  /-- KEYERASE. Destroys a tenant's memory key (R316). -/
  | keyerase (seq ten : Nat)
  /-- ADDRMAP. Adds a chip to Ethernet and IP address mapping (R319). -/
  | addrmap (seq chip mac ip : Nat)
  /-- QPSET. Creates a scale-out queue pair (R319). -/
  | qpset (seq qp port cls ten chip peerQp psn : Nat)
  /-- QPCLEAR. Removes a scale-out queue pair (R319). -/
  | qpclear (seq qp port : Nat)
  /-- RESET. Responds then performs a whole-part reset and reboots (R319). -/
  | reset (seq : Nat)
  /-- POWER_ON_BOOT. Hawkmoth verifies firmware, trains dies and brings the part to reset state: boot from the firmware image of `len` bytes (R314). -/
  | powerOnBoot (len image : Nat)
  /-- MONITOR_EVENT. Hawkmoth writes an event-ring entry when its slot is free and interrupts: the oldest event held is written to the event ring (R320). -/
  | monitorEvent
  /-- MONITOR_SAMPLE. Hawkmoth samples monitors and lowers clock steps: the monitors read, in degrees, degrees, tenths of a percent and tenths of a percent (R322). -/
  | monitorSample (die : Nat) (temp stackTemp railDrop oscSlow : Nat)
  /-- CLOCK_STEP_CLIMB. After 10^6 cycles inside thresholds a die climbs one step: the readings of `die` have stayed inside every threshold for 10^6 cycles (R322). -/
  | clockStepClimb (die : Nat)
  /-- LINK_KEY_RENEWAL. A scale-up port pair renews its key every 2^32 flits: 2^32 flits have passed on scale-up port `port` (R316). -/
  | linkKeyRenewal (port : Nat)
  /-- STACK_LOSS. A stack is lost and the part enters degraded mode (R377). -/
  | stackLoss (stack : Nat)
  /-- PLANE_LOSS. A plane is lost and Hawkmoth rehashes over the live planes (R382). -/
  | planeLoss (plane : Nat)
  /-- DIE_EXCLUSION. A compute die is excluded and its work discarded (R399). -/
  | dieExclusion (die cause : Nat)
  /-- COCOON_FENCING. A cocoon is fenced: boundary closed, cores reset, SRAM scrubbed (R391). -/
  | cocoonFencing (die n cause : Nat)
  /-- DISCARD_REPORT. A discard report lowers a launch's live count and marks it FAULTED: the `k`-th discard report in flight arrives (R394). -/
  | discardReport (k : Nat)
  /-- PAIRED_MESSAGE_COMPARE. The router compares running hashes of paired copies before forwarding: the router compares the next messages of the `k`-th pair (R397). -/
  | pairedMessageCompare (k : Nat)
  /-- SOFT_ERROR. A soft error strikes a register-cache line, operand memory, an accumulator, SRAM or a TLB or match-cache entry; the error is corrected, or the data becomes poison, or the entry is dropped: kind 0 register line, 1 operand memory, 2 accumulator, 3 SRAM, 4 TLB entry, 5 match-cache entry (R395). -/
  | softError (kind place idx bit : Nat) (fixable : Bool)
  /-- SCALE_PORT_LINK_CHANGE. A scale-up or scale-out port comes up, agreeing its link key, or goes down, which changes which ports are live: ports 0-35 are scale-up, 36-43 scale-out (R316). -/
  | scalePortLinkChange (port : Nat) (up : Bool)
  /-- MANAGEMENT_WINDOW_WRITE. Host firmware writes the management function's window: a doorbell write ignored while GO reads 1, or a write of EV to 0 in an event entry, which releases held monitor events: host firmware writes `len` bytes of `data` at `ofs` of the window (R318). -/
  | managementWindowWrite (ofs len data : Nat)
  deriving DecidableEq, Repr

end Sys2Proof
end

