-- ==== Sys2Proof/WellFormed.lean ====
section
/-! DEFINITION. Which instructions are well formed: the field limits of 09_encoding R145-R150, 04_matching R55, 07_matrix R112,
08_consistency R131 and R135, 11_insn_vector R185, 12_insn_memory R203-R212, 13_insn_matrix R225 and R234, 14_insn_control. -/

namespace Sys2Proof

/-- A register number that a field may name (R145): 60-63 are reserved. -/
def isReg (r : Nat) : Bool := decide (r < 60)

/-- A stream port (R145). -/
def isPort (r : Nat) : Bool := decide (48 ≤ r ∧ r ≤ 55)

/-- A register that a result may name (R145): not `p0`, `p1`, `wid` or `cc`. -/
def isDst (r : Nat) : Bool := decide (r < 56)

/-- `gz` or `g1`-`g47`: the destinations of loads and of the forms that read their destination (R145). -/
def isGen (r : Nat) : Bool := decide (r < 48)

/-- The registers of an `eng` word whose function uses A and B (R252, R253). -/
def engTwo (o : EngOp) : Bool := isGen o.d && isReg o.a && isReg o.b

/-- The same where B must be `gz`. -/
def engOne (o : EngOp) : Bool := isGen o.d && isReg o.a && decide (o.b = 0)

/-- The same where A and B must be `gz`. -/
def engNone (o : EngOp) : Bool := isGen o.d && decide (o.a = 0 ∧ o.b = 0)

/-- A lane type of R148. -/
def anyType (t : Nat) : Bool := decide (t ≤ 10)

/-- `.f32`, `.bf16`, `.f16`. -/
def floatType (t : Nat) : Bool := decide (t ≤ 2)

/-- `.i8` to `.u64`. -/
def intType (t : Nat) : Bool := decide (3 ≤ t ∧ t ≤ 10)

/-- `.f32` alone. -/
def isF32 (t : Nat) : Bool := decide (t = 0)

/-- Which rounding overrides a vector function takes (R185). -/
inductive RndRule where
  /-- none but 00 -/
  | none
  /-- any on a float lane type -/
  | float
  deriving DecidableEq, Repr

/-- Which masks a vector function takes (R185). -/
inductive MaskRule where
  | yes
  /-- `m=` only -/
  | merge
  | no
  deriving DecidableEq, Repr

/-- The mask bits of a V word (R148, R181, R185). -/
def maskWf (rule : MaskRule) (o : VecOp) : Bool :=
  (o.me || (!o.mz && o.k = 0)) && isGen o.k &&
    match rule with
    | .yes => true
    | .merge => !o.mz
    | .no => !o.me

/-- The limits of a vector word with `n` register sources (R145, R148, R181, R182, R185). -/
def vecWf (ty : Nat → Bool) (rnd : RndRule) (mask : MaskRule) (n : Nat) (o : VecOp) : Bool :=
  isDst o.d && isReg o.a && (if 2 ≤ n then isReg o.b else o.b = 0) && (if 3 ≤ n then isReg o.c else o.c = 0) && ty o.ty
    && o.rnd ≤ 3 && (o.rnd = 0 || (rnd = .float && floatType o.ty)) && maskWf mask o && (!(o.me && !o.mz) || !isPort o.d)

/-- The lane width in bits of a lane type (R148, R180). -/
def laneBits (t : Nat) : Nat :=
  match t with
  | 0 => 32 | 1 => 16 | 2 => 16 | 3 => 8 | 4 => 16 | 5 => 32 | 6 => 64 | 7 => 8 | 8 => 16 | 9 => 32 | _ => 64

/-- The limits of `vcvt` (R148, R182, R185, R198): C holds the source type, and a narrowing form reads D. -/
def cvtWf (o : VecOp) : Bool :=
  isDst o.d && isReg o.a && isReg o.b && anyType o.c && anyType o.ty && o.rnd ≤ 3 && maskWf .yes o
    && (!((o.me && !o.mz) || laneBits o.ty < laneBits o.c) || !isPort o.d)

/-- The common limits of an M word (R131, R144). -/
def memWf (o : MemOperand) : Bool :=
  isReg o.a && isReg o.x && o.sh ≤ 7 && o.ord ≤ 3 && (!o.rx || o.ord = 0) && o.disp < 2 ^ 32

/-- The common limits of an A word (R149, R207). -/
def amoWf (o : AmoOp) : Bool := isGen o.d && isReg o.a && isReg o.b && o.ord ≤ 3

/-- The common limits of an array operation (R112). -/
def matWf (o : MatOperand) : Bool := o.acc ≤ 7 && o.a ≤ 15 && o.b ≤ 15 && o.swz ≤ 7

/-- A narrow-float format code (R96): S, e of at least 1 and m, of 2 to 8 bits together. -/
def narrowFloat (f : Nat) : Bool :=
  f < 0x80 && 1 ≤ f / 8 % 8 && (let w := f / 64 % 2 + f / 8 % 8 + f % 8; 2 ≤ w && w ≤ 8)

/-- A narrow-integer format code (R96). -/
def narrowInt (f : Nat) : Bool := 0x80 ≤ f && f < 0xC0 && f / 8 % 4 = 0 && f % 8 ≠ 0

/-- The format bytes of `macc.st` that make a word (R234). -/
def storeFormat (f : Nat) : Bool := (1 ≤ f && f ≤ 4) || narrowFloat f || narrowInt f || f = 0xC4

/-- The width in bits of a selector's width code (R55). -/
def selWidth (wc : Nat) : Nat :=
  match wc with
  | 1 => 8 | 2 => 16 | 3 => 32 | _ => 0

/-- The limits of one selector (R55). -/
def selWf (x : Sel) : Bool :=
  if x.wc = 0 then x.reg = 0 && x.ofs = 0
  else isReg x.reg && x.wc ≤ 3 && x.ofs * 8 + selWidth x.wc ≤ 128

/-- The special registers (R259). -/
def isSpr (n : Nat) : Bool := n ≤ 2 || (0x10 ≤ n && n ≤ 0x16) || (0x100 ≤ n && n ≤ 0x105)

/-- Whether the fields of an instruction keep the limits. The steps of other agents have no encoding.
[Log 68, 70: DESIGN CHOICE] -/
def Instr.wf (i : Instr) : Bool :=
  match i with
  | .add o => isDst o.d && isReg o.a && isReg o.b
  | .sub o => isDst o.d && isReg o.a && isReg o.b
  | .and o => isDst o.d && isReg o.a && isReg o.b
  | .or o => isDst o.d && isReg o.a && isReg o.b
  | .xor o => isDst o.d && isReg o.a && isReg o.b
  | .andn o => isDst o.d && isReg o.a && isReg o.b
  | .orn o => isDst o.d && isReg o.a && isReg o.b
  | .xnor o => isDst o.d && isReg o.a && isReg o.b
  | .shl o => isDst o.d && isReg o.a && isReg o.b
  | .shr o => isDst o.d && isReg o.a && isReg o.b
  | .sra o => isDst o.d && isReg o.a && isReg o.b
  | .rotl o => isDst o.d && isReg o.a && isReg o.b
  | .rotr o => isDst o.d && isReg o.a && isReg o.b
  | .min o => isDst o.d && isReg o.a && isReg o.b
  | .max o => isDst o.d && isReg o.a && isReg o.b
  | .minu o => isDst o.d && isReg o.a && isReg o.b
  | .maxu o => isDst o.d && isReg o.a && isReg o.b
  | .cmpeq o => isDst o.d && isReg o.a && isReg o.b
  | .cmpne o => isDst o.d && isReg o.a && isReg o.b
  | .cmplt o => isDst o.d && isReg o.a && isReg o.b
  | .cmpltu o => isDst o.d && isReg o.a && isReg o.b
  | .cmple o => isDst o.d && isReg o.a && isReg o.b
  | .cmpleu o => isDst o.d && isReg o.a && isReg o.b
  | .sel o => isDst o.d && isReg o.a && isReg o.b && isReg o.c
  | .clz o => isDst o.d && isReg o.a
  | .ctz o => isDst o.d && isReg o.a
  | .popc o => isDst o.d && isReg o.a
  | .bswap o => isDst o.d && isReg o.a
  | .abs o => isDst o.d && isReg o.a
  | .neg o => isDst o.d && isReg o.a
  | .mul o => isDst o.d && isReg o.a && isReg o.b
  | .mulh o => isDst o.d && isReg o.a && isReg o.b
  | .mulhu o => isDst o.d && isReg o.a && isReg o.b
  | .div o => isDst o.d && isReg o.a && isReg o.b
  | .divu o => isDst o.d && isReg o.a && isReg o.b
  | .rem o => isDst o.d && isReg o.a && isReg o.b
  | .remu o => isDst o.d && isReg o.a && isReg o.b
  | .madd o => isDst o.d && isReg o.a && isReg o.b && isReg o.c
  | .addi o => isDst o.d && isReg o.a && o.imm < 2 ^ 32
  | .andi o => isDst o.d && isReg o.a && o.imm < 2 ^ 32
  | .ori o => isDst o.d && isReg o.a && o.imm < 2 ^ 32
  | .xori o => isDst o.d && isReg o.a && o.imm < 2 ^ 32
  | .shli o => isDst o.d && isReg o.a && o.imm < (if o.w then 32 else 64)
  | .shri o => isDst o.d && isReg o.a && o.imm < (if o.w then 32 else 64)
  | .srai o => isDst o.d && isReg o.a && o.imm < (if o.w then 32 else 64)
  | .cmpeqi o => isDst o.d && isReg o.a && o.imm < 2 ^ 32
  | .cmplti o => isDst o.d && isReg o.a && o.imm < 2 ^ 32
  | .cmpltui o => isDst o.d && isReg o.a && o.imm < 2 ^ 32
  | .mini o => isDst o.d && isReg o.a && o.imm < 2 ^ 32
  | .maxi o => isDst o.d && isReg o.a && o.imm < 2 ^ 32
  | .li o => isDst o.d && o.imm < 2 ^ 32
  | .liq1 o => isGen o.d && o.imm < 2 ^ 32
  | .liq2 o => isGen o.d && o.imm < 2 ^ 32
  | .liq3 o => isGen o.d && o.imm < 2 ^ 32
  | .ext o => isDst o.d && isReg o.a && o.pos < 64 && o.wm1 < 64 && o.pos + o.wm1 + 1 ≤ 64
  | .extS o => isDst o.d && isReg o.a && o.pos < 64 && o.wm1 < 64 && o.pos + o.wm1 + 1 ≤ 64
  | .ins o => isGen o.d && isReg o.a && o.pos < 64 && o.wm1 < 64 && o.pos + o.wm1 + 1 ≤ 64
  | .skipZ o => isReg o.a && 1 ≤ o.n && o.n ≤ 15
  | .skipNz o => isReg o.a && 1 ≤ o.n && o.n ≤ 15
  | .skipNeg o => isReg o.a && 1 ≤ o.n && o.n ≤ 15
  | .skipNneg o => isReg o.a && 1 ≤ o.n && o.n ≤ 15
  | .rank o => isGen o.d && isReg o.a && isReg o.b
  | .selb o => isGen o.d && isReg o.a && isReg o.b
  | .hmix o => isDst o.d && isReg o.a && isReg o.b && isReg o.c
  | .mov o => isDst o.d && isReg o.a
  | .cadd o => isDst o.d && isReg o.a && isReg o.b
  | .cbnd o => isDst o.d && isReg o.a && isReg o.b
  | .cbndX o => isDst o.d && isReg o.a && isReg o.b
  | .cperm o => isDst o.d && isReg o.a && isReg o.b
  | .cclr o => isDst o.d && isReg o.a
  | .cgetAddr o => isDst o.d && isReg o.a
  | .cgetBase o => isDst o.d && isReg o.a
  | .cgetTop o => isDst o.d && isReg o.a
  | .cgetPerm o => isDst o.d && isReg o.a
  | .cgetTag o => isDst o.d && isReg o.a
  | .csub o => isDst o.d && isReg o.a && isReg o.b
  | .ccmp o => isDst o.d && isReg o.a && isReg o.b
  | .cseal o => isDst o.d && isReg o.a && isReg o.b
  | .cunseal o => isDst o.d && isReg o.a && isReg o.b
  | .caddI o => isDst o.d && isReg o.a && o.imm < 2 ^ 32
  | .cpermI o => isDst o.d && isReg o.a && o.imm < 2 ^ 11
  | .cbndI o => isDst o.d && isReg o.a && o.imm < 2 ^ 32
  | .vadd o => vecWf anyType .float .yes 2 o
  | .vsub o => vecWf anyType .float .yes 2 o
  | .vmul o => vecWf anyType .float .yes 2 o
  | .vmin o => vecWf anyType .none .yes 2 o
  | .vmax o => vecWf anyType .none .yes 2 o
  | .vabs o => vecWf anyType .none .yes 1 o
  | .vneg o => vecWf anyType .none .yes 1 o
  | .vdiv o => vecWf floatType .float .yes 2 o
  | .vsqrt o => vecWf floatType .float .yes 1 o
  | .vand o => vecWf anyType .none .yes 2 o
  | .vor o => vecWf anyType .none .yes 2 o
  | .vxor o => vecWf anyType .none .yes 2 o
  | .vshl o => vecWf intType .none .yes 2 o
  | .vshr o => vecWf intType .none .yes 2 o
  | .vsra o => vecWf intType .none .yes 2 o
  | .vfma o => vecWf floatType .float .yes 3 o
  | .vfms o => vecWf floatType .float .yes 3 o
  | .vfnma o => vecWf floatType .float .yes 3 o
  | .vcmpEq o => vecWf anyType .none .yes 2 o
  | .vcmpNe o => vecWf anyType .none .yes 2 o
  | .vcmpLt o => vecWf anyType .none .yes 2 o
  | .vcmpLe o => vecWf anyType .none .yes 2 o
  | .vcmpGt o => vecWf anyType .none .yes 2 o
  | .vcmpGe o => vecWf anyType .none .yes 2 o
  | .vcmpUn o => vecWf floatType .none .yes 2 o
  | .vsel o => vecWf anyType .none .yes 3 o
  | .vredsum o => vecWf anyType .float .merge 1 o
  | .vredmax o => vecWf anyType .none .merge 1 o
  | .vredmin o => vecWf anyType .none .merge 1 o
  | .vredargmax o => vecWf floatType .none .merge 3 o
  | .vshuf o => vecWf anyType .none .yes 2 o
  | .vbcast o => vecWf anyType .none .yes 1 o
  | .vins o => vecWf anyType .none .no 2 o && !isPort o.d
  | .vext o => vecWf anyType .none .no 2 o
  | .vexp2 o => vecWf floatType .float .yes 1 o
  | .vlog2 o => vecWf floatType .float .yes 1 o
  | .vrcp o => vecWf floatType .float .yes 1 o
  | .vrsqrt o => vecWf floatType .float .yes 1 o
  | .vtanh o => vecWf floatType .float .yes 1 o
  | .vsig o => vecWf floatType .float .yes 1 o
  | .vgelu o => vecWf floatType .float .yes 1 o
  | .vcvt o => cvtWf o
  | .vcvtI o => cvtWf o
  | .smerge o => vecWf isF32 .float .no 2 o
  | .ldB o => memWf o && isGen o.d && o.ord ≠ 2
  | .ldH o => memWf o && isGen o.d && o.ord ≠ 2
  | .ldW o => memWf o && isGen o.d && o.ord ≠ 2
  | .ldD o => memWf o && isGen o.d && o.ord ≠ 2
  | .ldQ o => memWf o && isGen o.d && o.ord ≠ 2
  | .ldC o => memWf o && isGen o.d && o.ord ≠ 2
  | .stB o => memWf o && isReg o.d && o.ord ≠ 1
  | .stH o => memWf o && isReg o.d && o.ord ≠ 1
  | .stW o => memWf o && isReg o.d && o.ord ≠ 1
  | .stD o => memWf o && isReg o.d && o.ord ≠ 1
  | .stQ o => memWf o && isReg o.d && o.ord ≠ 1
  | .stC o => memWf o && isReg o.d && o.ord ≠ 1
  | .ldfe o => memWf o && isGen o.d && o.ord ≤ 1 && !o.rx
  | .ldff o => memWf o && isGen o.d && o.ord ≤ 1 && !o.rx
  | .stef o => memWf o && isReg o.d && (o.ord = 0 || o.ord = 2) && !o.rx
  | .stfill o => memWf o && isReg o.d && (o.ord = 0 || o.ord = 2) && !o.rx
  | .fectlRead o => memWf o && isGen o.d && o.ord = 0 && !o.rx && o.x = 0 && o.sh = 0
  | .fectlEmpty o => memWf o && o.d = 0 && o.ord = 0 && !o.rx && o.x = 0 && o.sh = 1
  | .fectlFull o => memWf o && o.d = 0 && o.ord = 0 && !o.rx && o.x = 0 && o.sh = 2
  | .amoAdd o => amoWf o && o.c = 0
  | .amoAnd o => amoWf o && o.c = 0
  | .amoOr o => amoWf o && o.c = 0
  | .amoXor o => amoWf o && o.c = 0
  | .amoMin o => amoWf o && o.c = 0
  | .amoMax o => amoWf o && o.c = 0
  | .amoMinu o => amoWf o && o.c = 0
  | .amoMaxu o => amoWf o && o.c = 0
  | .amoSwap o => amoWf o && o.c = 0
  | .amoCas o => amoWf o && isReg o.c
  | .amoFaddF32 o => amoWf o && o.c = 0 && !o.dbl
  | .fenceRw o => o.scope ≤ 6
  | .fenceX o => o.scope ≤ 6
  | .fenceM o => o.scope ≤ 6
  | .sbindIn o => isPort o.port && isReg o.a && !isPort o.a && isReg o.b && !isPort o.b
  | .sbindOut o => isPort o.port && isReg o.a && !isPort o.a && isReg o.b && !isPort o.b
  | .sunbind _ port => isPort port
  | .sstat _ d port => isGen d && isPort port
  | .rep o => isReg o.a && o.lenm1 ≤ 7 && o.stagger ≤ 31 && o.fix < 2 ^ (4 * (o.lenm1 + 1))
  | .mma o => matWf o && o.c = 0
  | .mmq o => matWf o && o.c = 0
  | .mml o => matWf o && 2 ≤ o.c && o.c ≤ 46 && o.c % 2 = 0
  | .mmd o => matWf o && 1 ≤ o.c && o.c ≤ 46 && !o.z
  | .mmdFull o => matWf o && 1 ≤ o.c && o.c ≤ 46 && !o.z
  | .rinit _ a b => isReg a && isReg b
  | .rinval _ a => isReg a
  | .rstat _ d a => isGen d && d ≠ 0 && isReg a
  | .maccSt o => o.acc ≤ 7 && isReg o.a && isReg o.b && storeFormat o.fmt
  | .maccZ _ acc => acc ≤ 7
  | .mqfin _ acc slot swz => acc ≤ 7 && slot ≤ 15 && swz ≤ 7
  | .oclaim _ res => res ≤ 23
  | .orel _ res => res ≤ 23
  | .oload _ slot a b => slot ≤ 15 && isReg a && !isPort a && isReg b && !isPort b
  | .ostat _ d res => isGen d && d ≠ 0 && res ≤ 23
  | .tdef _ tile a b => tile ≤ 255 && isReg a && isReg b
  | .tstate _ d tile => isGen d && d ≠ 0 && tile ≤ 255
  | .tset _ tile b => tile ≤ 255 && isReg b
  | .tfree _ tile => tile ≤ 255
  | .endBlk o => o.table ≤ 255 && selWf o.sel0 && selWf o.sel1 && selWf o.sel2 && selWf o.sel3
      && selWidth o.sel0.wc + selWidth o.sel1.wc + selWidth o.sel2.wc + selWidth o.sel3.wc ≤ 64
  | .matchKey _ d a table => isGen d && isReg a && table ≤ 255
  | .tblWr _ table a b c => table ≤ 255 && isReg a && isReg b && isReg c
  | .tblCommit _ d table a => isGen d && table ≤ 255 && isReg a
  | .tblRd _ d table a b => isGen d && table ≤ 255 && isReg a && isReg b
  | .tblSync _ table a => table ≤ 255 && isReg a
  | .spawn o => isGen o.d && isReg o.a && isReg o.b && isReg o.c
  | .dec _ a b => isReg a && isReg b
  | .tget o => isGen o.d && isReg o.a
  | .tsetCnt _ a b => isReg a && isReg b
  | .mfs _ d spr => isGen d && isSpr spr
  | .mts _ spr a => isSpr spr && isReg a
  | .tlbi _ a b => isReg a && isReg b
  | .tlbsync _ => true
  | .portwr _ a b c => isReg a && isReg b && isReg c
  | .portfail _ a b => isReg a && isReg b
  | .diagSt _ a b c => isReg a && isReg b && isReg c
  | .trap _ a => isReg a
  | .halt _ => true
  | .copyXfer o => engTwo o
  | .copyFill o => engTwo o
  | .copyRwrite o => engOne o
  | .copyRread o => engTwo o
  | .copyRsend o => engOne o
  | .copyRemap o => engOne o
  | .copyStat o => engNone o
  | .distDeal o => engOne o
  | .distCfg o => engTwo o
  | .distStat o => engNone o
  | .collAllreduce o => engTwo o
  | .collReduce o => engTwo o
  | .collBcast o => engTwo o
  | .collAllgather o => engTwo o
  | .collStat o => engNone o
  | .ctxSave o => engTwo o
  | .ctxRestore o => engOne o
  | .ctxScrub o => engOne o
  | .ctxStat o => engNone o
  | .gateRun o => engOne o
  | .gateStat o => engNone o
  | .dispatchStat o => engNone o
  | .combineStat o => engNone o
  | .acceptLaunch _ _ => true
  | .createContinuation _ _ => true
  | .retirementReport _ => true
  | .successorDecrement _ => true
  | .takeRunListHead _ => true
  | .resultReturn _ _ => true
  | .waitListRecheck _ => true
  | .felimitTrap _ => true
  | .waitListEntryFreed _ => true
  | .matchCacheFill _ => true
  | .commitComplete _ => true
  | .sweepClose => true
  | .sequencerSend _ => true
  | .matrixOpComplete _ _ => true
  | .oloadComplete _ _ => true
  | .trapDelivery _ => true
  | .handlerEntryWrite _ => true
  | .pageWalkComplete _ => true
  | .retryEntryWrite _ => true
  | .tlbiComplete _ => true
  | .streamElementArrival _ _ => true
  | .sramRequest _ => true
  | .deviceStore _ => true
  | .parityDifference _ => true
  | .deviceRead _ => true
  | .reconstruction _ => true
  | .deviceAtomic _ => true
  | .fenceMarker _ _ _ => true
  | .markerAck _ _ _ => true
  | .parityResync _ => true
  | .engineKickAccept _ => true
  | .engineCommandComplete _ => true
  | .engineAccessFailed _ _ => true
  | .dispatchStage _ => true
  | .productSpawn _ => true
  | .combineStage _ => true
  | .rotationStart _ _ => true
  | .slotHandover _ => true
  | .clusterHandover _ _ => true
  | .queueWordStore _ _ _ _ _ => true
  | .poolWordStore _ _ _ _ _ => true
  | .cocoonWordStore _ _ _ _ _ => true
  | .pairWordStore _ _ _ _ => true
  | .controlWordWrite _ _ _ _ _ _ => true
  | .vfPostedWrite _ _ _ _ _ _ => true
  | .vfTaggedRead _ _ _ _ => true
  | .peerRequest _ _ _ _ _ _ => true
  | .functionLevelReset _ => true
  | .status _ => true
  | .attest _ _ => true
  | .idkey _ => true
  | .extend _ _ => true
  | .fwchunk _ _ _ _ _ => true
  | .setchip _ _ => true
  | .bindvf _ _ _ => true
  | .keyinstall _ _ => true
  | .keyerase _ _ => true
  | .addrmap _ _ _ _ => true
  | .qpset _ _ _ _ _ _ _ _ => true
  | .qpclear _ _ _ => true
  | .reset _ => true
  | .powerOnBoot _ _ => true
  | .monitorEvent => true
  | .monitorSample _ _ _ _ _ => true
  | .clockStepClimb _ => true
  | .linkKeyRenewal _ => true
  | .stackLoss _ => true
  | .planeLoss _ => true
  | .dieExclusion _ _ => true
  | .cocoonFencing _ _ _ => true
  | .discardReport _ => true
  | .pairedMessageCompare _ => true
  | .softError _ _ _ _ _ => true
  | .scalePortLinkChange _ _ => true
  | .managementWindowWrite _ _ _ => true

end Sys2Proof
end

