-- ==== Sys2Proof/Decode.lean ====
section
/-! DEFINITION. The decoder and the encoder of Zheah words (09_encoding R143-R154, 07_matrix R112, 13_insn_matrix R225,
14_insn_control R243-R258). Words are numbers; bit 0 is the least significant bit of the 64-bit little-endian word (R143). -/

namespace Sys2Proof

/-- Bits lo + n - 1 down to lo of a word. -/
def fld (w lo n : Nat) : Nat := w / 2 ^ lo % 2 ^ n

/-- The switch marker (R143). -/
def mark (w : Nat) : Bool := fld w 63 1 == 1

/-- Field D (R143). -/
def fD (w : Nat) : Nat := fld w 50 6

/-- Field A (R143). -/
def fA (w : Nat) : Nat := fld w 44 6

/-- Field B (R143). -/
def fB (w : Nat) : Nat := fld w 38 6

/-- Field C (R143). -/
def fC (w : Nat) : Nat := fld w 32 6

/-- R format, fields D, A, B (R144). -/
def getR3 (w : Nat) : R3 := ⟨mark w, fD w, fA w, fB w⟩

/-- R format, fields D, A (R144). -/
def getR2 (w : Nat) : R2 := ⟨mark w, fD w, fA w⟩

/-- R format, fields D, A, B, C (R144). -/
def getR4 (w : Nat) : R4 := ⟨mark w, fD w, fA w, fB w, fC w⟩

/-- I format of IALUI (R147). -/
def getImm (w : Nat) : ImmOp := ⟨mark w, fD w, fA w, fld w 32 1 == 1, fld w 0 32⟩

/-- I format of LI (R147). -/
def getLi (w : Nat) : LiOp := ⟨mark w, fD w, fld w 0 32⟩

/-- I format of BITF (R147). -/
def getField (w : Nat) : FieldOp := ⟨mark w, fD w, fA w, fld w 0 6, fld w 8 6⟩

/-- I format of SKIP (R147). -/
def getSkip (w : Nat) : SkipOp := ⟨mark w, fA w, fld w 0 4⟩

/-- I format of CAPI (R147). -/
def getCapImm (w : Nat) : CapImmOp := ⟨mark w, fD w, fA w, fld w 0 32⟩

/-- V format (R144, R148). -/
def getVec (w : Nat) : VecOp :=
  ⟨mark w, fD w, fA w, fB w, fC w, fld w 20 4, fld w 18 2, fld w 17 1 == 1, fld w 16 1 == 1, fld w 10 6⟩

/-- M format (R144). -/
def getMem (w : Nat) : MemOperand :=
  ⟨mark w, fD w, fA w, fB w, fld w 35 3, fld w 34 1 == 1, fld w 32 2, fld w 0 32⟩

/-- A format (R144, R149): size 10 is a word, 11 a double. -/
def getAmo (w : Nat) : AmoOp := ⟨mark w, fD w, fA w, fB w, fC w, fld w 22 2 == 3, fld w 20 2⟩

/-- X format of the array operations (R112). -/
def getMat (w : Nat) : MatOperand := ⟨mark w, fD w, fA w, fB w, fC w, fld w 21 3, fld w 20 1 == 1⟩

/-- The selector whose lowest bit is `lo` (R55). -/
def getSel (w lo : Nat) : Sel := ⟨fld w (lo + 6) 6, fld w (lo + 2) 4, fld w lo 2⟩

/-- E format (R252). -/
def getEng (w : Nat) : EngOp := ⟨mark w, fD w, fA w, fB w, fld w 25 1 == 1⟩

/-- Group IALU, OP 0x01 (R146). -/
def decodeIALU (w : Nat) : Option Instr :=
  match fld w 24 8 with
  | 0 => some (.add (getR3 w))
  | 1 => some (.sub (getR3 w))
  | 2 => some (.and (getR3 w))
  | 3 => some (.or (getR3 w))
  | 4 => some (.xor (getR3 w))
  | 5 => some (.andn (getR3 w))
  | 6 => some (.orn (getR3 w))
  | 7 => some (.xnor (getR3 w))
  | 8 => some (.shl (getR3 w))
  | 9 => some (.shr (getR3 w))
  | 10 => some (.sra (getR3 w))
  | 11 => some (.rotl (getR3 w))
  | 12 => some (.rotr (getR3 w))
  | 13 => some (.min (getR3 w))
  | 14 => some (.max (getR3 w))
  | 15 => some (.minu (getR3 w))
  | 16 => some (.maxu (getR3 w))
  | 17 => some (.cmpeq (getR3 w))
  | 18 => some (.cmpne (getR3 w))
  | 19 => some (.cmplt (getR3 w))
  | 20 => some (.cmpltu (getR3 w))
  | 21 => some (.cmple (getR3 w))
  | 22 => some (.cmpleu (getR3 w))
  | 24 => some (.sel (getR4 w))
  | 25 => some (.clz (getR2 w))
  | 26 => some (.ctz (getR2 w))
  | 27 => some (.popc (getR2 w))
  | 28 => some (.bswap (getR2 w))
  | 29 => some (.abs (getR2 w))
  | 30 => some (.neg (getR2 w))
  | _ => none

/-- Group IMUL, OP 0x02 (R146). -/
def decodeIMUL (w : Nat) : Option Instr :=
  match fld w 24 8 with
  | 0 => some (.mul (getR3 w))
  | 1 => some (.mulh (getR3 w))
  | 2 => some (.mulhu (getR3 w))
  | 3 => some (.div (getR3 w))
  | 4 => some (.divu (getR3 w))
  | 5 => some (.rem (getR3 w))
  | 6 => some (.remu (getR3 w))
  | 7 => some (.madd (getR4 w))
  | _ => none

/-- Group IALUI, OP 0x03 (R146). -/
def decodeIALUI (w : Nat) : Option Instr :=
  match fld w 40 4 with
  | 0 => some (.addi (getImm w))
  | 1 => some (.andi (getImm w))
  | 2 => some (.ori (getImm w))
  | 3 => some (.xori (getImm w))
  | 4 => some (.shli (getImm w))
  | 5 => some (.shri (getImm w))
  | 6 => some (.srai (getImm w))
  | 7 => some (.cmpeqi (getImm w))
  | 8 => some (.cmplti (getImm w))
  | 9 => some (.cmpltui (getImm w))
  | 10 => some (.mini (getImm w))
  | 11 => some (.maxi (getImm w))
  | _ => none

/-- Group LI, OP 0x04 (R146). -/
def decodeLI (w : Nat) : Option Instr :=
  match fld w 40 4 with
  | 0 => some (.li (getLi w))
  | 1 => some (.liq1 (getLi w))
  | 2 => some (.liq2 (getLi w))
  | 3 => some (.liq3 (getLi w))
  | _ => none

/-- Group BITF, OP 0x05 (R146). -/
def decodeBITF (w : Nat) : Option Instr :=
  match fld w 40 4 with
  | 0 => some (.ext (getField w))
  | 1 => some (.extS (getField w))
  | 2 => some (.ins (getField w))
  | _ => none

/-- Group SKIP, OP 0x06 (R146). -/
def decodeSKIP (w : Nat) : Option Instr :=
  match fld w 40 4 with
  | 0 => some (.skipZ (getSkip w))
  | 1 => some (.skipNz (getSkip w))
  | 2 => some (.skipNeg (getSkip w))
  | 3 => some (.skipNneg (getSkip w))
  | _ => none

/-- Group BITMAP, OP 0x07 (R146). -/
def decodeBITMAP (w : Nat) : Option Instr :=
  match fld w 24 8 with
  | 0 => some (.rank (getR3 w))
  | 1 => some (.selb (getR3 w))
  | _ => none

/-- Group HMIX, OP 0x08 (R146). -/
def decodeHMIX (w : Nat) : Option Instr :=
  match fld w 24 8 with
  | 0 => some (.hmix (getR4 w))
  | _ => none

/-- Group MOV, OP 0x09 (R146). -/
def decodeMOV (w : Nat) : Option Instr :=
  match fld w 24 8 with
  | 0 => some (.mov (getR2 w))
  | _ => none

/-- Group CAP, OP 0x20 (R146). -/
def decodeCAP (w : Nat) : Option Instr :=
  match fld w 24 8 with
  | 0 => some (.cadd (getR3 w))
  | 1 => some (.cbnd (getR3 w))
  | 2 => some (.cbndX (getR3 w))
  | 3 => some (.cperm (getR3 w))
  | 4 => some (.cclr (getR2 w))
  | 5 => some (.cgetAddr (getR2 w))
  | 6 => some (.cgetBase (getR2 w))
  | 7 => some (.cgetTop (getR2 w))
  | 8 => some (.cgetPerm (getR2 w))
  | 9 => some (.cgetTag (getR2 w))
  | 10 => some (.csub (getR3 w))
  | 11 => some (.ccmp (getR3 w))
  | 12 => some (.cseal (getR3 w))
  | 13 => some (.cunseal (getR3 w))
  | _ => none

/-- Group CAPI, OP 0x21 (R146). -/
def decodeCAPI (w : Nat) : Option Instr :=
  match fld w 40 4 with
  | 0 => some (.caddI (getCapImm w))
  | 1 => some (.cpermI (getCapImm w))
  | 2 => some (.cbndI (getCapImm w))
  | _ => none

/-- Group VARITH, OP 0x30 (R146). -/
def decodeVARITH (w : Nat) : Option Instr :=
  match fld w 24 8 with
  | 0 => some (.vadd (getVec w))
  | 1 => some (.vsub (getVec w))
  | 2 => some (.vmul (getVec w))
  | 3 => some (.vmin (getVec w))
  | 4 => some (.vmax (getVec w))
  | 5 => some (.vabs (getVec w))
  | 6 => some (.vneg (getVec w))
  | 7 => some (.vdiv (getVec w))
  | 8 => some (.vsqrt (getVec w))
  | 9 => some (.vand (getVec w))
  | 10 => some (.vor (getVec w))
  | 11 => some (.vxor (getVec w))
  | 12 => some (.vshl (getVec w))
  | 13 => some (.vshr (getVec w))
  | 14 => some (.vsra (getVec w))
  | _ => none

/-- Group VFMA, OP 0x31 (R146). -/
def decodeVFMA (w : Nat) : Option Instr :=
  match fld w 24 8 with
  | 0 => some (.vfma (getVec w))
  | 1 => some (.vfms (getVec w))
  | 2 => some (.vfnma (getVec w))
  | _ => none

/-- Group VCMP, OP 0x32 (R146). -/
def decodeVCMP (w : Nat) : Option Instr :=
  match fld w 24 8 with
  | 0 => some (.vcmpEq (getVec w))
  | 1 => some (.vcmpNe (getVec w))
  | 2 => some (.vcmpLt (getVec w))
  | 3 => some (.vcmpLe (getVec w))
  | 4 => some (.vcmpGt (getVec w))
  | 5 => some (.vcmpGe (getVec w))
  | 6 => some (.vcmpUn (getVec w))
  | _ => none

/-- Group VSEL, OP 0x33 (R146). -/
def decodeVSEL (w : Nat) : Option Instr :=
  match fld w 24 8 with
  | 0 => some (.vsel (getVec w))
  | _ => none

/-- Group VRED, OP 0x34 (R146). -/
def decodeVRED (w : Nat) : Option Instr :=
  match fld w 24 8 with
  | 0 => some (.vredsum (getVec w))
  | 1 => some (.vredmax (getVec w))
  | 2 => some (.vredmin (getVec w))
  | 3 => some (.vredargmax (getVec w))
  | _ => none

/-- Group VPERM, OP 0x35 (R146). -/
def decodeVPERM (w : Nat) : Option Instr :=
  match fld w 24 8 with
  | 0 => some (.vshuf (getVec w))
  | 1 => some (.vbcast (getVec w))
  | 2 => some (.vins (getVec w))
  | 3 => some (.vext (getVec w))
  | _ => none

/-- Group VSPEC, OP 0x36 (R146). -/
def decodeVSPEC (w : Nat) : Option Instr :=
  match fld w 24 8 with
  | 0 => some (.vexp2 (getVec w))
  | 1 => some (.vlog2 (getVec w))
  | 2 => some (.vrcp (getVec w))
  | 3 => some (.vrsqrt (getVec w))
  | 4 => some (.vtanh (getVec w))
  | 5 => some (.vsig (getVec w))
  | 6 => some (.vgelu (getVec w))
  | _ => none

/-- Group VCVT, OP 0x37 (R146). -/
def decodeVCVT (w : Nat) : Option Instr :=
  match fld w 24 8 with
  | 0 => some (.vcvt (getVec w))
  | 1 => some (.vcvtI (getVec w))
  | _ => none

/-- Group SMERGE, OP 0x38 (R146). -/
def decodeSMERGE (w : Nat) : Option Instr :=
  match fld w 24 8 with
  | 0 => some (.smerge (getVec w))
  | _ => none

/-- The M-format groups with one function for each major opcode (R146, R150). -/
def decodeMem (op w : Nat) : Option Instr :=
  match op with
  | 80 => some (.ldB (getMem w))
  | 81 => some (.ldH (getMem w))
  | 82 => some (.ldW (getMem w))
  | 83 => some (.ldD (getMem w))
  | 84 => some (.ldQ (getMem w))
  | 85 => some (.ldC (getMem w))
  | 86 => some (.stB (getMem w))
  | 87 => some (.stH (getMem w))
  | 88 => some (.stW (getMem w))
  | 89 => some (.stD (getMem w))
  | 90 => some (.stQ (getMem w))
  | 91 => some (.stC (getMem w))
  | 96 => some (.ldfe (getMem w))
  | 97 => some (.ldff (getMem w))
  | 98 => some (.stef (getMem w))
  | 99 => some (.stfill (getMem w))
  | _ => none

/-- Group FECTL, OP 0x64 (R146). -/
def decodeFECTL (w : Nat) : Option Instr :=
  match fld w 35 3 with
  | 0 => some (.fectlRead (getMem w))
  | 1 => some (.fectlEmpty (getMem w))
  | 2 => some (.fectlFull (getMem w))
  | _ => none

/-- Group AMO, OP 0x65 (R146). -/
def decodeAMO (w : Nat) : Option Instr :=
  match fld w 24 8 with
  | 0 => some (.amoAdd (getAmo w))
  | 1 => some (.amoAnd (getAmo w))
  | 2 => some (.amoOr (getAmo w))
  | 3 => some (.amoXor (getAmo w))
  | 4 => some (.amoMin (getAmo w))
  | 5 => some (.amoMax (getAmo w))
  | 6 => some (.amoMinu (getAmo w))
  | 7 => some (.amoMaxu (getAmo w))
  | 8 => some (.amoSwap (getAmo w))
  | 9 => some (.amoCas (getAmo w))
  | 10 => some (.amoFaddF32 (getAmo w))
  | _ => none

/-- Group FENCE, OP 0x68 (R146). -/
def decodeFENCE (w : Nat) : Option Instr :=
  match fld w 24 8 with
  | 0 => some (.fenceRw ⟨mark w, fld w 16 4⟩)
  | 1 => some (.fenceX ⟨mark w, fld w 16 4⟩)
  | 2 => some (.fenceM ⟨mark w, fld w 16 4⟩)
  | _ => none

/-- Group STREAM, OP 0x69 (R146). -/
def decodeSTREAM (w : Nat) : Option Instr :=
  match fld w 24 8 with
  | 0 => some (.sbindIn ⟨mark w, fD w, fA w, fB w⟩)
  | 1 => some (.sbindOut ⟨mark w, fD w, fA w, fB w⟩)
  | 2 => some (.sunbind (mark w) (fD w))
  | 3 => some (.sstat (mark w) (fD w) (fA w))
  | _ => none

/-- Group REP, OP 0x6a (R146). -/
def decodeREP (w : Nat) : Option Instr :=
  match fld w 40 4 with
  | 0 => some (.rep ⟨mark w, fA w, fld w 32 3, fld w 35 5, fld w 0 32⟩)
  | _ => none

/-- Group MMA, OP 0x70 (R146). -/
def decodeMMA (w : Nat) : Option Instr :=
  match fld w 24 8 with
  | 0 => some (.mma (getMat w))
  | _ => none

/-- Group MMQ, OP 0x71 (R146). -/
def decodeMMQ (w : Nat) : Option Instr :=
  match fld w 24 8 with
  | 0 => some (.mmq (getMat w))
  | _ => none

/-- Group MML, OP 0x72 (R146). -/
def decodeMML (w : Nat) : Option Instr :=
  match fld w 24 8 with
  | 0 => some (.mml (getMat w))
  | _ => none

/-- Group MMD, OP 0x73 (R146). -/
def decodeMMD (w : Nat) : Option Instr :=
  match fld w 24 8 with
  | 0 => some (.mmd (getMat w))
  | 1 => some (.mmdFull (getMat w))
  | 2 => some (.rinit (mark w) (fA w) (fB w))
  | 3 => some (.rinval (mark w) (fA w))
  | 4 => some (.rstat (mark w) (fD w) (fA w))
  | _ => none

/-- Group ACC, OP 0x74 (R146). -/
def decodeACC (w : Nat) : Option Instr :=
  match fld w 24 8 with
  | 0 => some (.maccSt ⟨mark w, fD w, fA w, fB w, fld w 16 8⟩)
  | 1 => some (.maccZ (mark w) (fD w))
  | 2 => some (.mqfin (mark w) (fD w) (fC w) (fld w 21 3))
  | _ => none

/-- Group OPER, OP 0x75 (R146). -/
def decodeOPER (w : Nat) : Option Instr :=
  match fld w 24 8 with
  | 0 => some (.oclaim (mark w) (fld w 16 8))
  | 1 => some (.orel (mark w) (fld w 16 8))
  | 2 => some (.oload (mark w) (fld w 16 8) (fA w) (fB w))
  | 3 => some (.ostat (mark w) (fD w) (fld w 16 8))
  | _ => none

/-- Group TILE, OP 0x76 (R146). -/
def decodeTILE (w : Nat) : Option Instr :=
  match fld w 24 8 with
  | 0 => some (.tdef (mark w) (fld w 16 8) (fA w) (fB w))
  | 1 => some (.tstate (mark w) (fD w) (fld w 16 8))
  | 2 => some (.tset (mark w) (fld w 16 8) (fB w))
  | 3 => some (.tfree (mark w) (fld w 16 8))
  | _ => none

/-- END, OP 0x78 (R55, R243). -/
def decodeEND (w : Nat) : Option Instr :=
  some (.endBlk ⟨mark w, fld w 48 8, getSel w 0, getSel w 12, getSel w 24, getSel w 36⟩)

/-- Group MATCH, OP 0x79 (R146). -/
def decodeMATCH (w : Nat) : Option Instr :=
  match fld w 40 4 with
  | 0 => some (.matchKey (mark w) (fD w) (fA w) (fld w 0 32))
  | _ => none

/-- Group TBL, OP 0x7a (R146). -/
def decodeTBL (w : Nat) : Option Instr :=
  match fld w 24 8 with
  | 0 => some (.tblWr (mark w) (fld w 16 8) (fA w) (fB w) (fC w))
  | 1 => some (.tblCommit (mark w) (fD w) (fld w 16 8) (fA w))
  | 2 => some (.tblRd (mark w) (fD w) (fld w 16 8) (fA w) (fB w))
  | 3 => some (.tblSync (mark w) (fld w 16 8) (fA w))
  | _ => none

/-- Group TASK, OP 0x7b (R146). -/
def decodeTASK (w : Nat) : Option Instr :=
  match fld w 24 8 with
  | 0 => some (.spawn (getR4 w))
  | 1 => some (.dec (mark w) (fA w) (fB w))
  | 2 => some (.tget (getR2 w))
  | 3 => some (.tsetCnt (mark w) (fA w) (fB w))
  | _ => none

/-- Group SYS, OP 0x7c (R146). -/
def decodeSYS (w : Nat) : Option Instr :=
  match fld w 24 8 with
  | 0 => some (.mfs (mark w) (fD w) (fld w 4 12))
  | 1 => some (.mts (mark w) (fld w 4 12) (fA w))
  | 2 => some (.tlbi (mark w) (fA w) (fB w))
  | 3 => some (.tlbsync (mark w))
  | 4 => some (.portwr (mark w) (fA w) (fB w) (fC w))
  | 5 => some (.portfail (mark w) (fA w) (fB w))
  | 6 => some (.diagSt (mark w) (fA w) (fB w) (fC w))
  | 7 => some (.trap (mark w) (fA w))
  | 8 => some (.halt (mark w))
  | _ => none

/-- Group ENG, OP 0x7e (R146). -/
def decodeENG (w : Nat) : Option Instr :=
  match fld w 26 5 * 128 + fld w 31 7 with
  | 0 => some (.copyXfer (getEng w))
  | 1 => some (.copyFill (getEng w))
  | 2 => some (.copyRwrite (getEng w))
  | 3 => some (.copyRread (getEng w))
  | 4 => some (.copyRsend (getEng w))
  | 5 => some (.copyRemap (getEng w))
  | 16 => some (.copyStat (getEng w))
  | 128 => some (.distDeal (getEng w))
  | 129 => some (.distCfg (getEng w))
  | 144 => some (.distStat (getEng w))
  | 256 => some (.collAllreduce (getEng w))
  | 257 => some (.collReduce (getEng w))
  | 258 => some (.collBcast (getEng w))
  | 259 => some (.collAllgather (getEng w))
  | 272 => some (.collStat (getEng w))
  | 384 => some (.ctxSave (getEng w))
  | 385 => some (.ctxRestore (getEng w))
  | 386 => some (.ctxScrub (getEng w))
  | 400 => some (.ctxStat (getEng w))
  | 512 => some (.gateRun (getEng w))
  | 528 => some (.gateStat (getEng w))
  | 656 => some (.dispatchStat (getEng w))
  | 784 => some (.combineStat (getEng w))
  | _ => none

/-- The group of a major opcode (R146); every other opcode is reserved (R354). -/
def decodeRaw (w : Nat) : Option Instr :=
  match fld w 56 7 with
  | 1 => decodeIALU w
  | 2 => decodeIMUL w
  | 3 => decodeIALUI w
  | 4 => decodeLI w
  | 5 => decodeBITF w
  | 6 => decodeSKIP w
  | 7 => decodeBITMAP w
  | 8 => decodeHMIX w
  | 9 => decodeMOV w
  | 32 => decodeCAP w
  | 33 => decodeCAPI w
  | 48 => decodeVARITH w
  | 49 => decodeVFMA w
  | 50 => decodeVCMP w
  | 51 => decodeVSEL w
  | 52 => decodeVRED w
  | 53 => decodeVPERM w
  | 54 => decodeVSPEC w
  | 55 => decodeVCVT w
  | 56 => decodeSMERGE w
  | 100 => decodeFECTL w
  | 101 => decodeAMO w
  | 104 => decodeFENCE w
  | 105 => decodeSTREAM w
  | 106 => decodeREP w
  | 112 => decodeMMA w
  | 113 => decodeMMQ w
  | 114 => decodeMML w
  | 115 => decodeMMD w
  | 116 => decodeACC w
  | 117 => decodeOPER w
  | 118 => decodeTILE w
  | 120 => decodeEND w
  | 121 => decodeMATCH w
  | 122 => decodeTBL w
  | 123 => decodeTASK w
  | 124 => decodeSYS w
  | 126 => decodeENG w
  | op => decodeMem op w

/-- The common high half of a word: OP, S, D, A, B, C (R143). -/
def word (op : Nat) (s : Bool) (d a b c : Nat) : Nat :=
  (if s then 2 ^ 63 else 0) + op * 2 ^ 56 + d * 2 ^ 50 + a * 2 ^ 44 + b * 2 ^ 38 + c * 2 ^ 32

/-- A Boolean as a bit. -/
def bit (b : Bool) : Nat := if b then 1 else 0

/-- Encodes an R word with D, A, B. -/
def putR3 (op fn : Nat) (o : R3) : Nat := word op o.s o.d o.a o.b 0 + fn * 2 ^ 24

/-- Encodes an R word with D, A. -/
def putR2 (op fn : Nat) (o : R2) : Nat := word op o.s o.d o.a 0 0 + fn * 2 ^ 24

/-- Encodes an R word with D, A, B, C. -/
def putR4 (op fn : Nat) (o : R4) : Nat := word op o.s o.d o.a o.b o.c + fn * 2 ^ 24

/-- Encodes an IALUI word. -/
def putImm (op fn : Nat) (o : ImmOp) : Nat := word op o.s o.d o.a 0 0 + fn * 2 ^ 40 + bit o.w * 2 ^ 32 + o.imm

/-- Encodes an LI word. -/
def putLi (op fn : Nat) (o : LiOp) : Nat := word op o.s o.d 0 0 0 + fn * 2 ^ 40 + o.imm

/-- Encodes a BITF word. -/
def putField (op fn : Nat) (o : FieldOp) : Nat := word op o.s o.d o.a 0 0 + fn * 2 ^ 40 + o.wm1 * 2 ^ 8 + o.pos

/-- Encodes a SKIP word. -/
def putSkip (op fn : Nat) (o : SkipOp) : Nat := word op o.s 0 o.a 0 0 + fn * 2 ^ 40 + o.n

/-- Encodes a CAPI word. -/
def putCapImm (op fn : Nat) (o : CapImmOp) : Nat := word op o.s o.d o.a 0 0 + fn * 2 ^ 40 + o.imm

/-- Encodes a V word. -/
def putVec (op fn : Nat) (o : VecOp) : Nat :=
  word op o.s o.d o.a o.b o.c + fn * 2 ^ 24 + o.ty * 2 ^ 20 + o.rnd * 2 ^ 18 + bit o.me * 2 ^ 17 + bit o.mz * 2 ^ 16
    + o.k * 2 ^ 10

/-- Encodes an M word. -/
def putMem (op : Nat) (o : MemOperand) : Nat :=
  word op o.s o.d o.a o.x 0 + o.sh * 2 ^ 35 + bit o.rx * 2 ^ 34 + o.ord * 2 ^ 32 + o.disp

/-- Encodes an A word. -/
def putAmo (fn : Nat) (o : AmoOp) : Nat :=
  word 101 o.s o.d o.a o.b o.c + fn * 2 ^ 24 + (if o.dbl then 3 else 2) * 2 ^ 22 + o.ord * 2 ^ 20

/-- Encodes an array operation. -/
def putMat (op fn : Nat) (o : MatOperand) : Nat :=
  word op o.s o.acc o.a o.b o.c + fn * 2 ^ 24 + o.swz * 2 ^ 21 + bit o.z * 2 ^ 20

/-- Encodes a selector. -/
def putSel (x : Sel) : Nat := x.reg * 2 ^ 6 + x.ofs * 2 ^ 2 + x.wc

/-- Encodes an E word: bits 6:1 of FN7 lie in field C and bit 0 in bit 31. -/
def putEng (id fn : Nat) (o : EngOp) : Nat :=
  word 126 o.s o.d o.a o.b 0 + fn * 2 ^ 31 + id * 2 ^ 26 + bit o.rel * 2 ^ 25

/-- The word of an instruction, from the encoding tables; the steps of other agents have no word. [Log 70: DESIGN CHOICE] -/
def encode (i : Instr) : Option Nat :=
  match i with
  | .add o => some (putR3 1 0 o)
  | .sub o => some (putR3 1 1 o)
  | .and o => some (putR3 1 2 o)
  | .or o => some (putR3 1 3 o)
  | .xor o => some (putR3 1 4 o)
  | .andn o => some (putR3 1 5 o)
  | .orn o => some (putR3 1 6 o)
  | .xnor o => some (putR3 1 7 o)
  | .shl o => some (putR3 1 8 o)
  | .shr o => some (putR3 1 9 o)
  | .sra o => some (putR3 1 10 o)
  | .rotl o => some (putR3 1 11 o)
  | .rotr o => some (putR3 1 12 o)
  | .min o => some (putR3 1 13 o)
  | .max o => some (putR3 1 14 o)
  | .minu o => some (putR3 1 15 o)
  | .maxu o => some (putR3 1 16 o)
  | .cmpeq o => some (putR3 1 17 o)
  | .cmpne o => some (putR3 1 18 o)
  | .cmplt o => some (putR3 1 19 o)
  | .cmpltu o => some (putR3 1 20 o)
  | .cmple o => some (putR3 1 21 o)
  | .cmpleu o => some (putR3 1 22 o)
  | .sel o => some (putR4 1 24 o)
  | .clz o => some (putR2 1 25 o)
  | .ctz o => some (putR2 1 26 o)
  | .popc o => some (putR2 1 27 o)
  | .bswap o => some (putR2 1 28 o)
  | .abs o => some (putR2 1 29 o)
  | .neg o => some (putR2 1 30 o)
  | .mul o => some (putR3 2 0 o)
  | .mulh o => some (putR3 2 1 o)
  | .mulhu o => some (putR3 2 2 o)
  | .div o => some (putR3 2 3 o)
  | .divu o => some (putR3 2 4 o)
  | .rem o => some (putR3 2 5 o)
  | .remu o => some (putR3 2 6 o)
  | .madd o => some (putR4 2 7 o)
  | .addi o => some (putImm 3 0 o)
  | .andi o => some (putImm 3 1 o)
  | .ori o => some (putImm 3 2 o)
  | .xori o => some (putImm 3 3 o)
  | .shli o => some (putImm 3 4 o)
  | .shri o => some (putImm 3 5 o)
  | .srai o => some (putImm 3 6 o)
  | .cmpeqi o => some (putImm 3 7 o)
  | .cmplti o => some (putImm 3 8 o)
  | .cmpltui o => some (putImm 3 9 o)
  | .mini o => some (putImm 3 10 o)
  | .maxi o => some (putImm 3 11 o)
  | .li o => some (putLi 4 0 o)
  | .liq1 o => some (putLi 4 1 o)
  | .liq2 o => some (putLi 4 2 o)
  | .liq3 o => some (putLi 4 3 o)
  | .ext o => some (putField 5 0 o)
  | .extS o => some (putField 5 1 o)
  | .ins o => some (putField 5 2 o)
  | .skipZ o => some (putSkip 6 0 o)
  | .skipNz o => some (putSkip 6 1 o)
  | .skipNeg o => some (putSkip 6 2 o)
  | .skipNneg o => some (putSkip 6 3 o)
  | .rank o => some (putR3 7 0 o)
  | .selb o => some (putR3 7 1 o)
  | .hmix o => some (putR4 8 0 o)
  | .mov o => some (putR2 9 0 o)
  | .cadd o => some (putR3 32 0 o)
  | .cbnd o => some (putR3 32 1 o)
  | .cbndX o => some (putR3 32 2 o)
  | .cperm o => some (putR3 32 3 o)
  | .cclr o => some (putR2 32 4 o)
  | .cgetAddr o => some (putR2 32 5 o)
  | .cgetBase o => some (putR2 32 6 o)
  | .cgetTop o => some (putR2 32 7 o)
  | .cgetPerm o => some (putR2 32 8 o)
  | .cgetTag o => some (putR2 32 9 o)
  | .csub o => some (putR3 32 10 o)
  | .ccmp o => some (putR3 32 11 o)
  | .cseal o => some (putR3 32 12 o)
  | .cunseal o => some (putR3 32 13 o)
  | .caddI o => some (putCapImm 33 0 o)
  | .cpermI o => some (putCapImm 33 1 o)
  | .cbndI o => some (putCapImm 33 2 o)
  | .vadd o => some (putVec 48 0 o)
  | .vsub o => some (putVec 48 1 o)
  | .vmul o => some (putVec 48 2 o)
  | .vmin o => some (putVec 48 3 o)
  | .vmax o => some (putVec 48 4 o)
  | .vabs o => some (putVec 48 5 o)
  | .vneg o => some (putVec 48 6 o)
  | .vdiv o => some (putVec 48 7 o)
  | .vsqrt o => some (putVec 48 8 o)
  | .vand o => some (putVec 48 9 o)
  | .vor o => some (putVec 48 10 o)
  | .vxor o => some (putVec 48 11 o)
  | .vshl o => some (putVec 48 12 o)
  | .vshr o => some (putVec 48 13 o)
  | .vsra o => some (putVec 48 14 o)
  | .vfma o => some (putVec 49 0 o)
  | .vfms o => some (putVec 49 1 o)
  | .vfnma o => some (putVec 49 2 o)
  | .vcmpEq o => some (putVec 50 0 o)
  | .vcmpNe o => some (putVec 50 1 o)
  | .vcmpLt o => some (putVec 50 2 o)
  | .vcmpLe o => some (putVec 50 3 o)
  | .vcmpGt o => some (putVec 50 4 o)
  | .vcmpGe o => some (putVec 50 5 o)
  | .vcmpUn o => some (putVec 50 6 o)
  | .vsel o => some (putVec 51 0 o)
  | .vredsum o => some (putVec 52 0 o)
  | .vredmax o => some (putVec 52 1 o)
  | .vredmin o => some (putVec 52 2 o)
  | .vredargmax o => some (putVec 52 3 o)
  | .vshuf o => some (putVec 53 0 o)
  | .vbcast o => some (putVec 53 1 o)
  | .vins o => some (putVec 53 2 o)
  | .vext o => some (putVec 53 3 o)
  | .vexp2 o => some (putVec 54 0 o)
  | .vlog2 o => some (putVec 54 1 o)
  | .vrcp o => some (putVec 54 2 o)
  | .vrsqrt o => some (putVec 54 3 o)
  | .vtanh o => some (putVec 54 4 o)
  | .vsig o => some (putVec 54 5 o)
  | .vgelu o => some (putVec 54 6 o)
  | .vcvt o => some (putVec 55 0 o)
  | .vcvtI o => some (putVec 55 1 o)
  | .smerge o => some (putVec 56 0 o)
  | .ldB o => some (putMem 80 o)
  | .ldH o => some (putMem 81 o)
  | .ldW o => some (putMem 82 o)
  | .ldD o => some (putMem 83 o)
  | .ldQ o => some (putMem 84 o)
  | .ldC o => some (putMem 85 o)
  | .stB o => some (putMem 86 o)
  | .stH o => some (putMem 87 o)
  | .stW o => some (putMem 88 o)
  | .stD o => some (putMem 89 o)
  | .stQ o => some (putMem 90 o)
  | .stC o => some (putMem 91 o)
  | .ldfe o => some (putMem 96 o)
  | .ldff o => some (putMem 97 o)
  | .stef o => some (putMem 98 o)
  | .stfill o => some (putMem 99 o)
  | .fectlRead o => some (putMem 100 o)
  | .fectlEmpty o => some (putMem 100 o)
  | .fectlFull o => some (putMem 100 o)
  | .amoAdd o => some (putAmo 0 o)
  | .amoAnd o => some (putAmo 1 o)
  | .amoOr o => some (putAmo 2 o)
  | .amoXor o => some (putAmo 3 o)
  | .amoMin o => some (putAmo 4 o)
  | .amoMax o => some (putAmo 5 o)
  | .amoMinu o => some (putAmo 6 o)
  | .amoMaxu o => some (putAmo 7 o)
  | .amoSwap o => some (putAmo 8 o)
  | .amoCas o => some (putAmo 9 o)
  | .amoFaddF32 o => some (putAmo 10 o)
  | .fenceRw o => some (word 104 o.s 0 0 0 0 + 0 * 2 ^ 24 + o.scope * 2 ^ 16)
  | .fenceX o => some (word 104 o.s 0 0 0 0 + 1 * 2 ^ 24 + o.scope * 2 ^ 16)
  | .fenceM o => some (word 104 o.s 0 0 0 0 + 2 * 2 ^ 24 + o.scope * 2 ^ 16)
  | .sbindIn o => some (word 105 o.s o.port o.a o.b 0)
  | .sbindOut o => some (word 105 o.s o.port o.a o.b 0 + 2 ^ 24)
  | .sunbind s port => some (word 105 s port 0 0 0 + 2 * 2 ^ 24)
  | .sstat s d port => some (word 105 s d port 0 0 + 3 * 2 ^ 24)
  | .rep o => some (word 106 o.s 0 o.a 0 0 + o.lenm1 * 2 ^ 32 + o.stagger * 2 ^ 35 + o.fix)
  | .mma o => some (putMat 112 0 o)
  | .mmq o => some (putMat 113 0 o)
  | .mml o => some (putMat 114 0 o)
  | .mmd o => some (putMat 115 0 o)
  | .mmdFull o => some (putMat 115 1 o)
  | .rinit s a b => some (word 115 s 0 a b 0 + 2 * 2 ^ 24)
  | .rinval s a => some (word 115 s 0 a 0 0 + 3 * 2 ^ 24)
  | .rstat s d a => some (word 115 s d a 0 0 + 4 * 2 ^ 24)
  | .maccSt o => some (word 116 o.s o.acc o.a o.b 0 + o.fmt * 2 ^ 16)
  | .maccZ s acc => some (word 116 s acc 0 0 0 + 2 ^ 24)
  | .mqfin s acc slot swz => some (word 116 s acc 0 0 slot + 2 * 2 ^ 24 + swz * 2 ^ 21)
  | .oclaim s res => some (word 117 s 0 0 0 0 + res * 2 ^ 16)
  | .orel s res => some (word 117 s 0 0 0 0 + 2 ^ 24 + res * 2 ^ 16)
  | .oload s slot a b => some (word 117 s 0 a b 0 + 2 * 2 ^ 24 + slot * 2 ^ 16)
  | .ostat s d res => some (word 117 s d 0 0 0 + 3 * 2 ^ 24 + res * 2 ^ 16)
  | .tdef s tile a b => some (word 118 s 0 a b 0 + tile * 2 ^ 16)
  | .tstate s d tile => some (word 118 s d 0 0 0 + 2 ^ 24 + tile * 2 ^ 16)
  | .tset s tile b => some (word 118 s 0 0 b 0 + 2 * 2 ^ 24 + tile * 2 ^ 16)
  | .tfree s tile => some (word 118 s 0 0 0 0 + 3 * 2 ^ 24 + tile * 2 ^ 16)
  | .endBlk o => some ((if o.s then 2 ^ 63 else 0) + 120 * 2 ^ 56 + o.table * 2 ^ 48 + putSel o.sel3 * 2 ^ 36 + putSel o.sel2 * 2 ^ 24
      + putSel o.sel1 * 2 ^ 12 + putSel o.sel0)
  | .matchKey s d a table => some (word 121 s d a 0 0 + table)
  | .tblWr s table a b c => some (word 122 s 0 a b c + table * 2 ^ 16)
  | .tblCommit s d table a => some (word 122 s d a 0 0 + 2 ^ 24 + table * 2 ^ 16)
  | .tblRd s d table a b => some (word 122 s d a b 0 + 2 * 2 ^ 24 + table * 2 ^ 16)
  | .tblSync s table a => some (word 122 s 0 a 0 0 + 3 * 2 ^ 24 + table * 2 ^ 16)
  | .spawn o => some (putR4 123 0 o)
  | .dec s a b => some (word 123 s 0 a b 0 + 2 ^ 24)
  | .tget o => some (putR2 123 2 o)
  | .tsetCnt s a b => some (word 123 s 0 a b 0 + 3 * 2 ^ 24)
  | .mfs s d spr => some (word 124 s d 0 0 0 + spr * 2 ^ 4)
  | .mts s spr a => some (word 124 s 0 a 0 0 + 2 ^ 24 + spr * 2 ^ 4)
  | .tlbi s a b => some (word 124 s 0 a b 0 + 2 * 2 ^ 24)
  | .tlbsync s => some (word 124 s 0 0 0 0 + 3 * 2 ^ 24)
  | .portwr s a b c => some (word 124 s 0 a b c + 4 * 2 ^ 24)
  | .portfail s a b => some (word 124 s 0 a b 0 + 5 * 2 ^ 24)
  | .diagSt s a b c => some (word 124 s 0 a b c + 6 * 2 ^ 24)
  | .trap s a => some (word 124 s 0 a 0 0 + 7 * 2 ^ 24)
  | .halt s => some (word 124 s 0 0 0 0 + 8 * 2 ^ 24)
  | .copyXfer o => some (putEng 0 0 o)
  | .copyFill o => some (putEng 0 1 o)
  | .copyRwrite o => some (putEng 0 2 o)
  | .copyRread o => some (putEng 0 3 o)
  | .copyRsend o => some (putEng 0 4 o)
  | .copyRemap o => some (putEng 0 5 o)
  | .copyStat o => some (putEng 0 16 o)
  | .distDeal o => some (putEng 1 0 o)
  | .distCfg o => some (putEng 1 1 o)
  | .distStat o => some (putEng 1 16 o)
  | .collAllreduce o => some (putEng 2 0 o)
  | .collReduce o => some (putEng 2 1 o)
  | .collBcast o => some (putEng 2 2 o)
  | .collAllgather o => some (putEng 2 3 o)
  | .collStat o => some (putEng 2 16 o)
  | .ctxSave o => some (putEng 3 0 o)
  | .ctxRestore o => some (putEng 3 1 o)
  | .ctxScrub o => some (putEng 3 2 o)
  | .ctxStat o => some (putEng 3 16 o)
  | .gateRun o => some (putEng 4 0 o)
  | .gateStat o => some (putEng 4 16 o)
  | .dispatchStat o => some (putEng 5 16 o)
  | .combineStat o => some (putEng 6 16 o)
  | .acceptLaunch _ _ => none
  | .createContinuation _ _ => none
  | .retirementReport _ => none
  | .successorDecrement _ => none
  | .takeRunListHead _ => none
  | .resultReturn _ _ => none
  | .waitListRecheck _ => none
  | .felimitTrap _ => none
  | .waitListEntryFreed _ => none
  | .matchCacheFill _ => none
  | .commitComplete _ => none
  | .sweepClose => none
  | .sequencerSend _ => none
  | .matrixOpComplete _ _ => none
  | .oloadComplete _ _ => none
  | .trapDelivery _ => none
  | .handlerEntryWrite _ => none
  | .pageWalkComplete _ => none
  | .retryEntryWrite _ => none
  | .tlbiComplete _ => none
  | .streamElementArrival _ _ => none
  | .sramRequest _ => none
  | .deviceStore _ => none
  | .parityDifference _ => none
  | .deviceRead _ => none
  | .reconstruction _ => none
  | .deviceAtomic _ => none
  | .fenceMarker _ _ _ => none
  | .markerAck _ _ _ => none
  | .parityResync _ => none
  | .engineKickAccept _ => none
  | .engineCommandComplete _ => none
  | .engineAccessFailed _ _ => none
  | .dispatchStage _ => none
  | .productSpawn _ => none
  | .combineStage _ => none
  | .rotationStart _ _ => none
  | .slotHandover _ => none
  | .clusterHandover _ _ => none
  | .queueWordStore _ _ _ _ _ => none
  | .poolWordStore _ _ _ _ _ => none
  | .cocoonWordStore _ _ _ _ _ => none
  | .pairWordStore _ _ _ _ => none
  | .controlWordWrite _ _ _ _ _ _ => none
  | .vfPostedWrite _ _ _ _ _ _ => none
  | .vfTaggedRead _ _ _ _ => none
  | .peerRequest _ _ _ _ _ _ => none
  | .functionLevelReset _ => none
  | .status _ => none
  | .attest _ _ => none
  | .idkey _ => none
  | .extend _ _ => none
  | .fwchunk _ _ _ _ _ => none
  | .setchip _ _ => none
  | .bindvf _ _ _ => none
  | .keyinstall _ _ => none
  | .keyerase _ _ => none
  | .addrmap _ _ _ _ => none
  | .qpset _ _ _ _ _ _ _ _ => none
  | .qpclear _ _ _ => none
  | .reset _ => none
  | .powerOnBoot _ _ => none
  | .monitorEvent => none
  | .monitorSample _ _ _ _ _ => none
  | .clockStepClimb _ => none
  | .linkKeyRenewal _ => none
  | .stackLoss _ => none
  | .planeLoss _ => none
  | .dieExclusion _ _ => none
  | .cocoonFencing _ _ _ => none
  | .discardReport _ => none
  | .pairedMessageCompare _ => none
  | .softError _ _ _ _ _ => none
  | .scalePortLinkChange _ _ => none
  | .managementWindowWrite _ _ _ => none

/-- Why a word is not an instruction (R151, R354). -/
inductive DecodeError where
  /-- The major opcode or the function value is reserved. -/
  | reserved
  /-- A field named `0` is nonzero (R6). -/
  | zeroField
  /-- A register or immediate field breaks a limit (R145, R147-R150, R55, R112, R131, R135, R225). -/
  | limit
  deriving DecidableEq, Repr

/-- The instruction of a word. A word whose fields do not encode back to it has a nonzero `0` field.
[Log 70: DESIGN CHOICE] -/
def decodeWord (w : Nat) : Except DecodeError Instr :=
  match decodeRaw w with
  | none => .error .reserved
  | some i =>
    if encode i ≠ some w then .error .zeroField
    else if i.wf then .ok i
    else .error .limit

/-- Eight bytes, lowest address first, as a word (R3, R143). -/
def wordOfBytes : List (BitVec 8) → Nat
  | [] => 0
  | b :: bs => b.toNat + 256 * wordOfBytes bs

/-- The instruction that begins a list of bytes, and the bytes after it. Fewer than eight bytes hold none. -/
def decodeBytes (bs : List (BitVec 8)) : Except DecodeError (Instr × List (BitVec 8)) :=
  if bs.length < 8 then .error .reserved
  else (decodeWord (wordOfBytes (bs.take 8))).map fun i => (i, bs.drop 8)

/-- The eight bytes of a word, lowest address first. -/
def bytesOfWord : Nat → Nat → List (BitVec 8)
  | 0, _ => []
  | n + 1, w => BitVec.ofNat 8 w :: bytesOfWord n (w / 256)

/-- The instruction that the decoder reads from a word whose bits are `w`, laid out as the hardware stores it. -/
def decodeTableWord (nbits w : Nat) : Option Instr :=
  match decodeBytes (bytesOfWord 8 (w % 2 ^ nbits)) with
  | .ok (i, _) => some i
  | .error _ => none

end Sys2Proof
end

