-- ==== Sys2Proof/Machine/State.lean ====
section
/-! DEFINITION. The state of one C960 part, as plain data, and its value after reset (18_bringup R314, R315). Sparse lists give
an unlisted key the value that the accessors of Machine/Sparse.lean and Machine/Ops.lean name. -/

namespace Sys2Proof.Machine

/-- Why the machine stops: nothing stops it. A part that has lost a second stack or its last plane (R379) goes on as one that answers the
status request only. -/
inductive Fault where
  deriving DecidableEq, Repr

/-- Why a step has no meaning. -/
inductive Refusal where
  /-- An arm of `exec` that has no meaning yet. Safe. -/
  | notModelled (mnemonic : String)
  deriving DecidableEq, Repr

/-- The trap causes (R345). -/
inductive Cause where
  | illegal | priv | captag | capbound | capperm | align | noncanon | access | felimit | swizzle | format | stream
  | skipend | nomatch | table | divzero | slot | reuse | engine | feature | soft | poison | repeat_
  deriving DecidableEq, Repr

/-- The classes of access (R125). -/
inductive Cls where
  | plain | relaxed | device | sc
  deriving DecidableEq, Repr

/-- What a parked thread waits for (R46), with what ends the wait. -/
inductive Wait where
  /-- switch marker: every outstanding result has returned (R50) -/
  | results
  /-- switch marker: the class limits let the next access issue (R125, R126) -/
  | access (c : Cls)
  /-- switch marker: request `rid` has been answered and its result returned (R133, R230) -/
  | reply (rid : Nat)
  /-- switch marker: the fence's wait is over (R136) -/
  | fence
  /-- switch marker: fewer than four `tlbi` are incomplete (R262) -/
  | tlbiRoom
  /-- switch marker: every `tlbi` of the thread is complete (R263) -/
  | tlbsync
  /-- switch marker: the popped element has arrived (R215) -/
  | pop (port : Nat)
  /-- switch marker: the output port has room (R215) -/
  | append (port : Nat)
  /-- full/empty: the word reaches the needed state (R52) -/
  | word (rid : Nat)
  /-- tile: no command is in flight on the entry (R85, R240) -/
  | tileIdle (n : Nat)
  /-- the walk of an access that has not yet issued (R352) -/
  | walk
  /-- retried access: nothing of the thread is on the retry ring (R264) -/
  | ring
  /-- matrix: the operation that the thread issued directly has completed (R114) -/
  | array
  /-- matrix: every earlier operation and load of the thread has completed (R108) -/
  | matrix
  /-- matrix: nothing of the thread that comes first is pending: `kind` 0 for an array operation on the resources of the mask, 1 for
  `mqfin` on a slot, 2 for whatever names a resource of the mask (R110, R115, R228, R237) -/
  | named (kind mask : Nat)
  /-- matrix: the core's sequencer is free (R223) -/
  | sequencer
  /-- claim: the resource is released to the thread (R108) -/
  | claim (n : Nat)
  /-- claim: the resources of the record's save area are free (R310) -/
  | restore
  /-- table fetch: the cluster knows the version of the table whose header stands at physical address `hdr`, virtual `va` (R62) -/
  | table (hdr va : Nat)
  /-- table fetch: the match cache holds a line of a version of the table: 0 the header, k + 1 line k of the bank in use; the line
  is `len` bytes at virtual address `va` (R62) -/
  | tableLine (hdr ver idx ten va len : Nat)
  /-- the accesses of the thread have been performed, its table writes apart; a task instruction also waits for the drained stores
  (R47, R53) -/
  | posted (stores : Bool)
  /-- switch marker: the elements that the output ports appended have been written (R127) -/
  | written
  /-- matrix: the earlier accesses of the thread to `len` bytes at an address have been performed (R121, R229) -/
  | bytes (ea len : Nat)
  /-- a cluster holds the requests of the thread's partition to `len` bytes at an address for a handover (R312) -/
  | held (ea len : Nat)
  deriving DecidableEq, Repr

/-- The state of a slot (R46). -/
inductive SlotStatus where
  | idle
  | ready
  | parked (w : Wait)
  | handover
  /-- a trap has been raised and waits to be delivered (R355) -/
  | trapping
  deriving DecidableEq, Repr

/-- A repetition (R220, R224): the repetition word, and the operands of its `rep`. -/
structure Rep where
  active   : Bool
  detached : Bool
  ofs      : Nat
  count    : Nat
  j        : Nat
  len      : Nat
  stagger  : Nat
  fix      : Nat
  deriving DecidableEq, Repr

/-- The state of a thread that a context image keeps (R43, R101, R224, R307, R310). Register 1-47 unlisted: zero, untagged. -/
structure Context where
  regs  : Sparse RegVal
  stat  : W64
  rnd   : W64
  felim : Nat
  rep   : Rep
  cls   : Nat
  /-- the save word: saving cluster and area (R310) -/
  save  : Option (Nat × Nat)
  deriving DecidableEq, Repr

/-- A variable-latency result that has not returned (R50): destination (0 discards), value, flags, and the class and number of the
access that it answers. One with no class and a number that is not 0 stands for the reply of that kick, which has not come. `after` is
there for a special function and an `smerge`: the number of the first access that issued later (R197). -/
structure Result where
  dst   : Nat
  val   : RegVal
  flags : Nat
  cls   : Option Cls
  rid   : Nat
  after : Option Nat
  deriving DecidableEq, Repr

/-- A combined translation (R80): partition, address space, first virtual byte, size, first physical and intermediate byte,
permissions (bit 0 R, 1 W, 2 X, 3 U), guard and range index. -/
structure TlbEntry where
  part : Nat
  asid : Nat
  va   : Nat
  size : Nat
  pa   : Nat
  ia   : Nat
  perm : Nat
  grd  : Bool
  ridx : Nat
  deriving DecidableEq, Repr

/-- A line of the gather buffer (R129): physical line number, the translations that its stores went through (R370), the written bytes by
offset, the granule tag bits, and the range index of each guarded store; of a `macc.st` 64 × (1 + its number)
is added, and it counts once its last line is performed (R79). -/
structure GatherLine where
  line  : Nat
  via   : List TlbEntry
  ten   : Nat
  bytes : Sparse (BitVec 8)
  tags  : Nat
  grd   : List Nat
  deriving DecidableEq, Repr

/-- Where a request goes: an SRAM byte offset of a physical cluster, a physical device address, a control window, or another
part. -/
inductive Target where
  | sram (cl ofs : Nat)
  | dev (pa : Nat)
  | ctl (cl ofs : Nat)
  | peer (chip : Nat)
  deriving DecidableEq, Repr

/-- An element or block that an output port writes (R214, R217): its number among the thread's accesses, its target, effective
address, length, value, the range index when its page is guarded (R79), and its translation (R263). -/
structure OutElem where
  id   : Nat
  tgt  : Target
  ea   : Nat
  len  : Nat
  data : Nat
  grd  : List Nat
  via  : Option TlbEntry
  deriving DecidableEq, Repr

/-- An element or block that an input port has fetched (R214): its number, its bytes and its poison mark; or the cause that its
access met (R215). -/
structure Fetched where
  data  : Nat
  psn   : Bool
  cause : Option Cause
  deriving DecidableEq, Repr

/-- A stream port (R211-R219). `dir`: 0 unbound, 1 input, 2 output. `pos` counts the elements or values popped or appended;
`part` holds the bytes of an input block that have come so far, with their poison marks (R202); `openV` holds the values of an input
block not yet popped or of an output block not yet closed, and `block` where the latter goes. -/
structure Port where
  dir     : Nat
  cap     : RegVal
  desc    : W128
  pos     : Nat
  fetched : List Fetched
  nextIn  : Nat
  part    : List (BitVec 8 × Bool)
  openV   : List (BitVec 32)
  block   : Option OutElem
  outQ    : List OutElem
  deriving DecidableEq, Repr

/-- The wait of a fence (R136, R137): kind (0 `rw`, 1 `x`, 2 `m`), scope, whether its drains are made and its markers sent, the
number of the first later request, markers not yet acknowledged at their base die, acknowledgements on their way, and, once the input
ports have discarded what they had fetched, each port with the number of elements that it fetches again. -/
structure FenceWait where
  kind    : Nat
  scope   : Nat
  sent    : Bool
  since   : Nat
  markers : List (Nat × Nat)
  acks    : List (Nat × Nat)
  refetch : Option (List (Nat × Nat))
  deriving DecidableEq, Repr

/-- A trap that a thread has raised (R344, R355, R357). -/
structure PendTrap where
  cause    : Cause
  ofs      : Nat
  deferred : Bool
  rv       : Bool
  j        : Nat
  info     : Nat
  p0       : W64
  deriving DecidableEq, Repr

/-- A barrel slot: the continuation it holds and the thread's state (R40, R45-R47). -/
structure Slot where
  status   : SlotStatus
  recOfs   : Nat
  ctxPa    : Nat
  blk      : Nat
  ofs      : Nat
  p0       : W64
  p1       : W64
  wid      : W64
  lact     : Nat
  prv      : Nat
  ten      : Nat
  lcl      : Nat
  lid      : Nat
  pair     : Bool
  ctx      : Context
  skip     : Nat
  mark     : Bool
  results  : List Result
  gather   : List GatherLine
  ports    : Sparse Port
  recheck  : Nat
  /-- the pinned table version: header, version, bank (R63) -/
  pin      : Option (Nat × Nat × Nat)
  fence    : Option FenceWait
  trap     : Option PendTrap
  deferred : Option PendTrap
  deriving DecidableEq, Repr

/-- What a request does at its target. -/
inductive MemOp where
  /-- a load of R203: kind 0 `b` … 4 `q`, 5 `c`, with LC held -/
  | ld (kind : Nat) (lc : Bool)
  /-- a store of `len` bytes; `tag` is the stored tag of `st.c` (R204) -/
  | st (val : Nat) (tag : Option Bool)
  /-- an atomic of R208 -/
  | amo (fn : Nat) (b c : Nat)
  /-- a full/empty access of R206: 0 `ldfe`, 1 `ldff`, 2 `stef`, 3 `stfill`, 4-6 `fectl` -/
  | fe (fn : Nat) (val : Nat)
  /-- `rank` from a word on: the index that remains, the bits counted, and whether a poisoned word was read (R168, R170) -/
  | rank (i cnt : Nat) (psn : Bool)
  /-- `selb` from a word on: the rank that remains, the bits passed, and whether a poisoned word was read (R169, R170) -/
  | selb (n base : Nat) (psn : Bool)
  | rstat
  | rinit (b : W128)
  | rinval
  | diag (val chk : Nat) (parity : Bool)
  | dec (n : Nat)
  | tget
  | tset (b : W64)
  | spawn (desc : W64) (p1 : W64) (succ : Option Nat)
  | tblWr (hdr : Nat) (b c : W128)
  | tblRd (hdr : Nat) (b : W64)
  | tblSync (hdr : Nat)
  | tblCommit (hdr : Nat)
  | mts (spr : Nat) (val : W64)
  /-- a read of a control-window word (R257, R296) -/
  | ctl
  deriving DecidableEq, Repr

/-- How far a request has come. -/
inductive Phase where
  /-- its translation is being walked (R352) -/
  | walk
  /-- its walk failed and its entry is not yet written (R359) -/
  | held
  /-- it stands in the retry ring at this slice offset (R360) -/
  | ring (ofs : Nat)
  /-- a stream element that `portwr` has completed without an access (R264) -/
  | done
  /-- it waits on the wait list (R52) -/
  | word
  /-- it waits for a wait-list entry (R52) -/
  | noEntry
  /-- it is on its way to its target -/
  | sent
  /-- a fenced cocoon has taken it off its wait list, and the NACK is on its way (R391) -/
  | nack
  deriving DecidableEq, Repr

/-- An access of a thread in flight: its offset and repetition word, its operands as taken at issue, the bytes of the thread's own gather buffer that a load merges
(R128), the range index of a guarded page that it stores to (R79), and, once its walk has failed, bits 2:0 `FC`, 3 `S2`, 4 `STW` (R360) the intermediate
address, and whether a `tlbi` keeps its walk from installing (R262), and when it failed. `thr` and `ten` are its thread and tenant; `pages`
holds the virtual and physical pages of the ranges `touch` of a table object. `kept`: its thread issues later words while a later page of its
bitmap is walked (R170). `pops` and `flags` are what its word took from input ports as it issued, each port with its position and the elements
popped, and the flags that this raised: they return where the word traps (R344). [Log 19: DEDUCED] -/
structure Request where
  id    : Nat
  slot  : Nat
  thr   : Nat
  ten   : Nat
  cls   : Cls
  op    : MemOp
  ea    : Nat
  len   : Nat
  tgt   : Target
  phase : Phase
  ofs   : Nat
  rep   : Rep
  ord   : Nat
  dst   : Nat
  fault : Nat
  ia    : Nat
  own   : Sparse (BitVec 8)
  otag  : Option Bool
  grd   : List Nat
  noTlb : Bool
  since : Nat
  pages : List (Nat × Nat)
  touch : List (Nat × Nat)
  kept  : Bool
  pops  : List (Nat × Nat × List Fetched)
  flags : Nat
  deriving DecidableEq, Repr

/-- A walk made for something other than a request: the thread of a slot, or an engine instance; `kind` and `size` as the retry
entry has them (R360), `num` the number of the operation in flight that asks for it, none for the thread's own word, `data` the store data
(R360), `got` a result that a `tlbi` overtook and that serves the waiting
access alone (R262). -/
structure WalkJob where
  id    : Nat
  owner : Nat
  isEng : Bool
  num   : Option Nat
  va    : Nat
  need  : Nat
  kind  : Nat
  size  : Nat
  phase : Phase
  fault : Nat
  ia    : Nat
  ofs   : Nat
  noTlb : Bool
  since : Nat
  data  : Nat
  got   : Option TlbEntry
  deriving DecidableEq, Repr

/-- A drained line on its way to its base die (R129, R91). `thr` names the thread by its record (`thrKey`): the thread may leave its
slot before the store is performed. -/
structure DevStore where
  id    : Nat
  die   : Nat
  slot  : Nat
  thr   : Nat
  line  : Nat
  ten   : Nat
  bytes : Sparse (BitVec 8)
  tags  : Nat
  grd   : List Nat
  deriving DecidableEq, Repr

/-- A parity difference on its way (R91): the store it belongs to, the physical address and the XOR of old and new bytes. -/
structure ParityDiff where
  id    : Nat
  slot  : Nat
  die   : Nat
  pa    : Nat
  bytes : Sparse (BitVec 8)
  poor  : Bool
  deriving DecidableEq, Repr

/-- Bytes with their granule tags, full/empty bits and syndromes. -/
structure Store where
  bytes : List Host.Cell
  tags  : Sparse Bool
  full  : Sparse Bool
  syn   : Sparse (BitVec 8)
  deriving DecidableEq, Repr

/-- A launch in flight at its accepting scheduler (R31, R39, R361). -/
structure Launch where
  used    : Bool
  queue   : Nat
  part    : Nat
  ten     : Nat
  cls     : Nat
  prv     : Nat
  pri     : Nat
  entry   : Nat
  paired  : Bool
  ldone   : RegVal
  lgen    : Nat
  lcode   : RegVal
  blocks  : Nat
  ltdir   : Nat
  shape   : Nat
  ext     : Nat
  lp0     : W64
  lp1     : W64
  seeds   : List (Nat × RegVal)
  next    : Option Nat
  live    : Nat
  ended   : Nat
  halted  : Bool
  faulted : Bool
  /-- a continuation of a paired launch was to be created at a home with `PV` 0 (R396) -/
  unpaired : Bool
  deriving DecidableEq, Repr

/-- A line of a match cache (R62): the table's header, the version it is tagged with, 0 for the header or k + 1 for line k of that
version's bank, the tenant that read it, its bytes as a number and its poison mark. -/
structure MatchLine where
  hdr  : Nat
  ver  : Nat
  idx  : Nat
  ten  : Nat
  data : Nat
  psn  : Bool
  deriving DecidableEq, Repr

/-- The launch packet that a scheduler has copied and is accepting (R30, R35): its queue, its 128 bytes as a number, the tags of
`LCODE`, `LSIMG` and `LDONE`, and whether `portfail` has ended a read that it needs. `qword` is the queue word as it stood when the
packet was copied. -/
structure Packet where
  queue  : Nat
  qword  : Nat
  data   : Nat
  tCode  : Bool
  tSimg  : Bool
  tDone  : Bool
  failed : Bool
  deriving DecidableEq, Repr

/-- The control words and agents of one cluster. `rechecks` holds the words whose full/empty state changed, each with the number of
the next request at that time; `lines` and `hdrLines` are the match cache's entry lines and table headers; `lastQ` is the queue that the scheduler served last (R30),
`heldFor` the partitions whose requests are held for a handover (R312, R313). -/
structure Cluster where
  owner    : Nat
  perm     : Nat
  trace    : Nat
  rotation : Nat
  visited  : List Nat
  heldSet  : List Nat
  saveBase : Nat
  saveUsed : List Nat
  recPool  : Nat
  ctxPool  : Nat
  wvWord   : Nat
  hand0    : Nat
  hand1    : Nat
  hand2    : Nat
  faultW   : Nat
  pairW    : Nat
  retryq   : Nat
  queues   : Sparse Nat
  maps     : Sparse (List Nat)
  run      : List Nat
  rechecks : List (Nat × Nat)
  launches : Sparse Launch
  usedRecs : List Nat
  usedCtx  : List Nat
  tlb      : List TlbEntry
  known    : Sparse (Nat × Nat)
  lines    : List MatchLine
  hdrLines : List MatchLine
  tiles    : Sparse Nat
  pats     : Sparse Nat
  heldFor  : List Nat
  packet   : Option Packet
  lastQ    : Nat
  deriving DecidableEq, Repr

/-- An operation in the array queue, with the operands taken when it issued (R102, R114, R118). -/
structure MatEntry where
  slot : Nat
  ofs  : Nat
  seq  : Bool
  rep  : Rep
  op   : Instr
  rnd  : Nat
  c0   : RegVal
  c1   : RegVal
  a    : RegVal
  b    : RegVal
  since : Nat
  spans : List (Nat × Nat)
  deriving DecidableEq, Repr

/-- An `oload` in progress (R109, R238): `left` holds the blocks that have not landed, `psn` whether one that has was poisoned. -/
structure OloadJob where
  slot : Nat
  ofs  : Nat
  seq  : Bool
  rep  : Rep
  res  : Nat
  cap  : RegVal
  desc : W128
  since : Nat
  left : List Nat
  psn  : Bool
  deriving DecidableEq, Repr

/-- The body that a sequencer serves (R223, R224): its words, the count of words of their block, and `since`, the number among the
thread's accesses of word 0 of iteration 0. -/
structure SeqBody where
  slot  : Nat
  rep   : Rep
  word  : Nat
  since : Nat
  words : List Nat
  block : Nat
  deriving DecidableEq, Repr

/-- A core: operand memory, accumulators, claims, array queue, sequencer, data and instruction TLB (R13, R80, R86, R108). Accumulator `a` holds element (i, c)
at key 4096 a + 64 i + c and row sum i at 4096 a + 2048 + i. -/
structure Core where
  hdrs    : Sparse W128
  opmem   : List Host.Cell
  opPsn   : List Nat
  acc     : Sparse (BitVec 32)
  accPsn  : List Nat
  accInt  : Sparse Bool
  holder  : Sparse Nat
  waiting : List (Nat × Nat)
  queue   : List MatEntry
  oloads  : List OloadJob
  seq     : Option SeqBody
  last    : Nat
  dtlb    : List TlbEntry
  itlb    : List TlbEntry
  deriving DecidableEq, Repr

/-- A kick (R254): `eng` is the engine instance, and `num` names the command that it became; 1 while it waits to be accepted. -/
structure Kick where
  fn   : Nat
  a    : RegVal
  b    : RegVal
  slot : Nat
  cl   : Nat
  part : Nat
  asid : Nat
  ten  : Nat
  cls  : Nat
  prv  : Nat
  lcl  : Nat
  lid  : Nat
  dst  : Nat
  rid  : Nat
  eng  : Nat
  num  : Nat
  deriving DecidableEq, Repr

/-- An accepted command: its kick, its number, its argument record (R272) and whether its tiles have taken it on (R85). -/
structure Cmd where
  kick   : Kick
  seq    : Nat
  asrc   : RegVal
  adone  : RegVal
  actl   : Nat
  ap0    : Nat
  ap1    : Nat
  entered : Bool
  /-- `copy.remap`: the page is copied and retired, and its translations are being dropped (R376) -/
  moved  : Bool
  /-- the pieces that the command has still to write, in order, each with its address (R275) -/
  todo   : List (Nat × List (BitVec 8 × Bool))
  /-- how it ends once they are written: status, count, and whether its source was poisoned -/
  fin    : Option (Nat × Nat × Bool)
  /-- the bytes of its source that have been read, while a translation of the next ones is walked (R385) -/
  got    : List (BitVec 8 × Bool)
  deriving DecidableEq, Repr

/-- An entry of an expert table (R281): receive buffer, virtual cluster, capacity and the product's `p1`. -/
structure Expert where
  buf  : RegVal
  home : Nat
  cap  : Nat
  p1   : Nat
  deriving DecidableEq, Repr

/-- A Swallowtail layer in progress (R281-R285): its configuration block as a number, and the experts in ascending order. Stage: 0
accepted, 1 its tokens ranked and placed, 2 dispatched, 3 every product spawned. `ops` counts the accesses of dispatch performed, then
the experts that have their product. A placement is (token, expert, rank, slot, weight). -/
structure Layer where
  cmd    : Cmd
  cfg    : Nat
  done   : RegVal
  caps   : List RegVal
  exps   : List Expert
  stage  : Nat
  placed : List (Nat × Nat × Nat × Nat × Nat)
  counts : List Nat
  lost   : List Nat
  ops    : Nat
  left   : Nat
  /-- the threads of its products that have retired: their keys, and the request number at which each ended (R53, R285) -/
  drain  : List (Nat × Nat)
  failed : Bool
  deriving DecidableEq, Repr

/-- An engine instance (R254-R256). Instance 2 c + i is copy (i = 0) or distributor (i = 1) of cluster c; 768 + 5 d + i is engine
i + 2 of die d. -/
structure Engine where
  kicks  : List Kick
  cmds   : List Cmd
  seq    : Nat
  done   : Nat
  layers : List Layer
  deriving DecidableEq, Repr

/-- A die: cocoon words, clock step, exclusion (R388, R321, R399). `hot` is the number of temperature thresholds that its last reading
reached, `rail` whether its rail was low, `calm` whether every reading stood inside its threshold by the margin of R322, `capStep` the
step that its ring oscillators hold it to. -/
structure Die where
  cocoons  : Sparse Nat
  step     : Nat
  capStep  : Nat
  hot      : Nat
  rail     : Bool
  calm     : Bool
  excluded : Bool
  deriving DecidableEq, Repr

/-- A trapped record that waits for its handler entry (R357). `after` is the thread, and the number of the first request after its trap:
its stores come first. -/
structure Trapped where
  cl   : Nat
  recOfs : Nat
  dw0  : Nat
  info : Nat
  after : Option (Nat × Nat)
  deriving DecidableEq, Repr

/-- The registers and tables of a partition (R259, R305, R356). -/
structure Partition where
  asid    : Nat
  s1root  : Nat
  s2root  : Nat
  trapq   : Nat
  cmap    : Nat
  tgrant  : Nat
  trapped : List Trapped
  vf      : Option Nat
  deriving DecidableEq, Repr

/-- A `tlbi` that is not complete (R262, R263). -/
structure Inval where
  slot : Nat
  part : Nat
  lo   : Nat
  hi   : Nat
  asid : Option Nat
  s2   : Bool
  since : Nat
  deriving DecidableEq, Repr

/-- A commit being published (R65): table header, slot, tenant, request, result register, announced version with its bank, and the
clusters that have still to apply it (R66). -/
structure Commit where
  hdr  : Nat
  slot : Nat
  ten  : Nat
  rid  : Nat
  dst  : Nat
  ver  : Nat
  act  : Nat
  todo : List Nat
  deriving DecidableEq, Repr

/-- A retirement report (R39, R268, R358): scheduler, launch, 0 retired, 1 halted, 2 ended by abort, 3 discarded. `after` is the
thread, and the number of the first request after its retirement: its stores come first. -/
structure Report where
  cl    : Nat
  lid   : Nat
  kind  : Nat
  after : Option (Nat × Nat)
  deriving DecidableEq, Repr

/-- A successor decrement on its way (R47): its partition, physical cluster, slice offset and virtual cluster of the record; `after` as
in a report. -/
structure Dec where
  part  : Nat
  cl    : Nat
  ofs   : Nat
  vc    : Nat
  after : Option (Nat × Nat)
  deriving DecidableEq, Repr

/-- A record whose successor is the combine stage of a layer (R284): its home and offset, the die of the gate engine and the number
of the layer's command. -/
structure Product where
  cl  : Nat
  ofs : Nat
  die : Nat
  seq : Nat
  deriving DecidableEq, Repr

/-- A pair of records in paired execution (R396-R398): home and offset of primary and secondary, the number of messages compared,
both running hashes, the messages of its word that each copy still waits to send, and whether the router has let all of them go. -/
structure Pair where
  pcl  : Nat
  pofs : Nat
  scl  : Nat
  sofs : Nat
  n    : Nat
  hp   : W64
  hs   : W64
  msgP : List (List W64)
  msgS : List (List W64)
  goP  : Bool
  goS  : Bool
  deriving DecidableEq, Repr

/-- A completion to a virtual function (R297): whether it answers a tagged read, and which; 0 successful, 1 unsupported request,
2 error; and the bytes read. -/
structure VfReply where
  vf     : Nat
  rd     : Bool
  tag    : Nat
  status : Nat
  val    : Nat
  deriving DecidableEq, Repr

/-- The answer to a request of another part (R301): chip, tenant, whether it was performed, and the value read. -/
structure PeerReply where
  chip : Nat
  ten  : Nat
  ok   : Bool
  val  : Nat
  deriving DecidableEq, Repr

/-- A granted request of another part that waits (R301): its source chip and tenant, its fields, and the access-control entry that
granted it. -/
structure PeerWait where
  chip  : Nat
  ten   : Nat
  kind  : Nat
  addr  : Nat
  len   : Nat
  data  : Nat
  entry : Nat
  deriving DecidableEq, Repr

/-- A queue pair of a scale-out port (R319). -/
structure QueuePair where
  qp     : Nat
  port   : Nat
  cls    : Nat
  ten    : Nat
  chip   : Nat
  peerQp : Nat
  psn    : Nat
  deriving DecidableEq, Repr

/-- An entry of the event ring (R320): `EV`, kind, number, doublewords 1 and 2. -/
structure EvEntry where
  ev   : Bool
  kind : Nat
  seq  : Nat
  d1   : Nat
  d2   : Nat
  deriving DecidableEq, Repr

/-- Hawkmoth and its management function (R314-R322, R402). Measurement registers as numbers of 256 bits. -/
structure Hawkmoth where
  m0       : BitVec 256
  m1       : BitVec 256
  m2       : BitVec 256
  m3       : BitVec 256
  booted   : Bool
  /-- the firmware image: its bytes and their number (R314) -/
  image    : Nat × Nat
  request  : List Host.Cell
  go       : Bool
  doorSeq  : Nat
  response : Nat
  respCode : Nat
  respLen  : Nat
  respSeq  : Nat
  respRst  : Nat
  ring     : Sparse EvEntry
  evHead   : Nat
  evHeld   : List (Nat × Nat × Nat)
  evSeq    : Nat
  irqs     : Nat
  fwBytes  : List (BitVec 8)
  addrMap  : Sparse (Nat × Nat)
  qps      : List QueuePair
  portUp   : List Nat
  linkKeys : Sparse Nat
  rrq      : Bool
  deriving DecidableEq, Repr

/-- The whole part. -/
structure State where
  /-- MODEL: the slot whose turn it is; slot number 128 × cluster + 16 × core + slot -/
  cur      : Nat
  /-- MODEL: the choices of which enabled move comes next; the first enabled move when empty -/
  sched    : List Nat
  /-- MODEL: steps that come from outside the part and have not happened -/
  inbox    : List Instr
  /-- MODEL: the counter of free values -/
  free     : Nat
  /-- MODEL: the number of the next request -/
  nextId   : Nat
  slots    : Sparse Slot
  cores    : Sparse Core
  clusters : Sparse Cluster
  dies     : Sparse Die
  parts    : Sparse Partition
  engines  : Sparse Engine
  /-- the context images whose lines the register caches hold, by physical address (R43, R47) -/
  contexts : Sparse Context
  /-- the images of `contexts` whose threads have left their slots, the first to leave first: core, physical address and
  tenant (R13) -/
  cached   : List (Nat × Nat × Nat)
  /-- the records whose successor is a combine stage (R284) -/
  products : List Product
  /-- what a port record of a save area has no room for (R279): the open output values past the 102nd and the open block of port `p`,
  key 8 × address ÷ 4096 + `p` -/
  openVals : Sparse (List (BitVec 32) × Option OutElem)
  sram     : Store
  dev      : Store
  lineKey  : Sparse Nat
  parity   : List Host.Cell
  parSyn   : Sparse (BitVec 8)
  stale    : List Nat
  rebuilds : List Nat
  net      : List Request
  walks    : List WalkJob
  stores   : List DevStore
  diffs    : List ParityDiff
  invals   : List Inval
  commits  : List Commit
  reports  : List Report
  /-- successor decrements on their way (R47) -/
  decs     : List Dec
  pairs    : List Pair
  /-- the records whose accepting scheduler was fenced, home and offset: their reports are dropped (R394) -/
  orphans  : List (Nat × Nat)
  sweep    : Nat
  chip     : Nat
  weights  : Nat
  planes   : List Nat
  /-- the number of the first request after the last loss of a plane (R382) -/
  rehash   : Nat
  lost     : List Nat
  retired  : List (Nat × Nat)
  pageErrs : Sparse Nat
  acl      : Sparse Nat
  keys     : Sparse Nat
  keySeq   : Nat
  stopped  : Bool
  partStep : Nat
  /-- the number of stack temperature thresholds that the last reading reached (R322) -/
  stackHot : Nat
  vfIrqs   : List (Nat × Nat)
  vfReply  : List VfReply
  peerOut  : List PeerReply
  /-- the requests of other parts that have arrived, are granted, and wait (R301) -/
  peerIn   : List PeerWait
  hawk     : Hawkmoth
  deriving DecidableEq, Repr

/-- No repetition. -/
def Rep.none : Rep := ⟨false, false, 0, 0, 0, 0, 0, 0⟩

/-- A new context image (R43): zero, with 4,096 in `FELIM`. -/
def Context.new : Context :=
  { regs := [], stat := 0, rnd := 0, felim := 4096, rep := Rep.none, cls := 0, save := none }

/-- An Idle slot (R315). [Log 5: DESIGN CHOICE] -/
def Slot.reset : Slot :=
  { status := .idle, recOfs := 0, ctxPa := 0, blk := 0, ofs := 0, p0 := 0, p1 := 0, wid := 0, lact := 0, prv := 0, ten := 0,
    lcl := 0, lid := 0, pair := false, ctx := Context.new, skip := 0, mark := false, results := [], gather := [], ports := [], recheck := 0, pin := none,
    fence := none, trap := none, deferred := none }

/-- A core after reset (R315). [Log 5, 6: DESIGN CHOICE] -/
def Core.reset : Core :=
  { hdrs := [], opmem := [], opPsn := [], acc := [], accPsn := [], accInt := [], holder := [], waiting := [], queue := [],
    oloads := [], seq := none, last := 15, dtlb := [], itlb := [] }

/-- A cluster after reset (R315). The own-cluster bit of the permission table is implied (R304).
[Log 6: DESIGN CHOICE; 65: DEDUCED] -/
def Cluster.reset : Cluster :=
  { owner := 0, perm := 0, trace := 0, rotation := 0, visited := [], heldSet := [], saveBase := 0, saveUsed := [],
    recPool := 0, ctxPool := 0, wvWord := 0, hand0 := 0, hand1 := 0, hand2 := 0, faultW := 0, pairW := 0, retryq := 0,
    queues := [], maps := [], run := [], rechecks := [], launches := [], usedRecs := [], usedCtx := [], tlb := [],
    known := [], lines := [], hdrLines := [], tiles := [], pats := [], heldFor := [], packet := none, lastQ := 15 }

/-- A die after reset. -/
def Die.reset : Die := { cocoons := [], step := 0, capStep := 0, hot := 0, rail := false, calm := false, excluded := false }

/-- A partition after reset. [Log 7: DESIGN CHOICE] -/
def Partition.reset : Partition :=
  { asid := 0, s1root := 0, s2root := 0, trapq := 0, cmap := 0, tgrant := 0, trapped := [], vf := none }

/-- An engine instance after reset (R315). -/
def Engine.reset : Engine := { kicks := [], cmds := [], seq := 0, done := 0, layers := [] }

/-- Bytes that all read as zero, every word empty and clean. [Log 69: DESIGN CHOICE] -/
def Store.reset : Store := { bytes := [], tags := [], full := [], syn := [] }

/-- Hawkmoth after reset: M0-M3 start at zero (R314). [Log 54: DESIGN CHOICE] -/
def Hawkmoth.reset : Hawkmoth :=
  { m0 := 0, m1 := 0, m2 := 0, m3 := 0, booted := true, image := (0, 0), request := [], go := false, doorSeq := 0, response := 0,
    respCode := 0, respLen := 0, respSeq := 0, respRst := 0, ring := [], evHead := 0, evHeld := [], evSeq := 0, irqs := 0,
    fwBytes := [], addrMap := [], qps := [], portUp := [], linkKeys := [], rrq := false }

/-- The part at the end of boot step 5 (R315): every cluster, core, slot and table at its reset value.
[Log 3: DESIGN CHOICE] -/
def State.reset : State :=
  { cur := 0, sched := [], inbox := [], free := 0, nextId := 0, slots := [], cores := [], clusters := [], dies := [],
    parts := [], engines := [], contexts := [], cached := [], products := [], openVals := [], sram := Store.reset, dev := Store.reset, lineKey := [], parity := [],
    parSyn := [], stale := [], rebuilds := [], net := [], walks := [], stores := [], diffs := [], invals := [],
    commits := [], reports := [], decs := [], pairs := [], orphans := [], sweep := 0, chip := 0x3FFFF, weights := 0x01010101,
    planes := [0, 1, 2, 3], rehash := 0, lost := [], retired := [], pageErrs := [], acl := [], keys := [], keySeq := 0, stopped := false,
    partStep := 0, stackHot := 0, vfIrqs := [], vfReply := [], peerOut := [], peerIn := [], hawk := Hawkmoth.reset }

end Sys2Proof.Machine
end

