-- ==== Sys2Proof/Machine/Sparse.lean ====
section
/-! DEFINITION. Sparse lists (tables and memories), numbers as bit fields, and bytes with their tags and syndromes
(05_memory R75, R81, R82; 26_faults_memory R371, R372). -/

namespace Sys2Proof.Machine

/-- The value at a key; `d` when it is not listed. -/
def look {α : Type} (d : α) : Sparse α → Nat → α
  | [], _ => d
  | (k, v) :: m, j => if j < k then d else if j = k then v else look d m j

/-- The value at a key, if it is listed. -/
def find {α : Type} : Sparse α → Nat → Option α
  | [], _ => none
  | (k, v) :: m, j => if j < k then none else if j = k then some v else find m j

/-- Lists a value at a key. -/
def ins {α : Type} : Sparse α → Nat → α → Sparse α
  | [], j, v => [(j, v)]
  | (k, w) :: m, j, v =>
    if j < k then (j, v) :: (k, w) :: m else if j = k then (k, v) :: m else (k, w) :: ins m j v

/-- Removes a key. -/
def del {α : Type} : Sparse α → Nat → Sparse α
  | [], _ => []
  | (k, w) :: m, j => if j < k then (k, w) :: m else if j = k then m else (k, w) :: del m j

/-- Writes a value and keeps the canonical form: an entry equal to the unlisted value `d` is removed. -/
def put {α : Type} [DecidableEq α] (d : α) (m : Sparse α) (j : Nat) (v : α) : Sparse α :=
  if v = d then del m j else ins m j v

/-- The entries from key `a` upward. -/
def dropBelow {α : Type} (a : Nat) : Sparse α → Sparse α
  | [] => []
  | (k, v) :: m => if k < a then dropBelow a m else (k, v) :: m

/-- The values at `n` keys from `a` upward, in one pass. -/
def rangeOf {α : Type} (d : α) : Nat → Nat → Sparse α → List α
  | 0, _, _ => []
  | n + 1, a, m =>
    match dropBelow a m with
    | (k, v) :: r => if k = a then v :: rangeOf d n (a + 1) r else d :: rangeOf d n (a + 1) ((k, v) :: r)
    | [] => d :: rangeOf d n (a + 1) []

/-- Values as entries from key `a` upward, in canonical form. -/
def listed {α : Type} [DecidableEq α] (d : α) : Nat → List α → Sparse α
  | _, [] => []
  | a, v :: vs => if v = d then listed d (a + 1) vs else (a, v) :: listed d (a + 1) vs

/-- Writes values at consecutive keys from `a` upward, in one pass. -/
def setRange {α : Type} [DecidableEq α] (d : α) (m : Sparse α) (a : Nat) (vs : List α) : Sparse α :=
  m.filter (fun kv => decide (kv.1 < a)) ++ listed d a vs ++ m.filter fun kv => decide (a + vs.length ≤ kv.1)

/-- `n` pieces of `k` items of a list. -/
def chunks {α : Type} (k : Nat) : Nat → List α → List (List α)
  | 0, _ => []
  | n + 1, l => l.take k :: chunks k n (l.drop k)

/-- Keys strictly rising, the first above `lo`. -/
def rising {α : Type} : Nat → Sparse α → Bool
  | _, [] => true
  | lo, (k, _) :: m => decide (lo ≤ k) && rising (k + 1) m

/-- The canonical form of a memory: keys strictly rising and no entry equal to the unlisted value. -/
def canonical {α : Type} [DecidableEq α] (d : α) (m : Sparse α) : Bool :=
  rising 0 m && m.all fun kv => kv.2 != d

/-- `x` with the `n` bits from `lo` upward replaced by `v`. -/
def setFld (x lo n v : Nat) : Nat := x - fld x lo n * 2 ^ lo + v % 2 ^ n * 2 ^ lo

/-- Bit `i` of a number. -/
def bitAt (x i : Nat) : Bool := x / 2 ^ i % 2 == 1

/-- A number of `n` bits read as two's complement. -/
def sext (n x : Nat) : Int := if x % 2 ^ n < 2 ^ (n - 1) then (x % 2 ^ n : Nat) else (x % 2 ^ n : Nat) - (2 ^ n : Nat)

/-- An integer's low `n` bits. -/
def low (n : Nat) (x : Int) : Nat := (x % (2 ^ n : Nat)).toNat

/-- The bytes of a number, lowest first. -/
def bytesOf : Nat → Nat → List (BitVec 8)
  | 0, _ => []
  | n + 1, v => BitVec.ofNat 8 v :: bytesOf n (v / 256)

/-- A list of bytes as a number, lowest first (R3). -/
def ofBytes : List (BitVec 8) → Nat
  | [] => 0
  | b :: bs => b.toNat + 256 * ofBytes bs

/-- The number whose `n` bytes from address `a` upward stand in the memory (R3). -/
def rdN (m : List Host.Cell) (a n : Nat) : Nat := ofBytes (rangeOf 0 n a m)

/-- Writes the low `n` bytes of a number from address `a` upward (R3). -/
def wrN (m : List Host.Cell) (a n v : Nat) : List Host.Cell := setRange 0 m a (bytesOf n v)

/-- Writes the listed bytes, each at `base` plus its key. -/
def wrListed (m : List Host.Cell) (base : Nat) : Sparse (BitVec 8) → List Host.Cell
  | [] => m
  | (k, b) :: bs => wrListed (put 0 m (base + k) b) base bs

/-- What a syndrome means (R371). -/
inductive SynKind where
  | clean
  | fix (bit : Nat)
  | poison
  | bad
  deriving DecidableEq, Repr

/-- The meaning of a syndrome (R371). [Log 10: DESIGN CHOICE] -/
def synKind (s : BitVec 8) : SynKind :=
  if s = 0 then .clean
  else if s = 0xFF then .poison
  else match Config.flipOf s with
    | some k => .fix k
    | none => .bad

/-- Word `w` of a store after a read of it: a single-bit error is corrected and written back (R371). -/
def Store.settle (st : Store) (w : Nat) : Store :=
  match synKind (look 0 st.syn w) with
  | .fix k =>
    { st with
      bytes := if k < 64 then wrN st.bytes (8 * w) 8 (rdN st.bytes (8 * w) 8 ^^^ 2 ^ k) else st.bytes
      syn := put 0 st.syn w 0 }
  | _ => st

/-- The numbers of the words of 8 bytes that `n` bytes at `a` touch. -/
def wordsOf (a n : Nat) : List Nat := if n = 0 then [] else List.range' (a / 8) ((a + n - 1) / 8 + 1 - a / 8)

/-- The numbers of the granules of 16 bytes that `n` bytes at `a` touch. -/
def granulesOf (a n : Nat) : List Nat := if n = 0 then [] else List.range' (a / 16) ((a + n - 1) / 16 + 1 - a / 16)

/-- Settles the words of a range. -/
def Store.settleAll (st : Store) (a n : Nat) : Store := (wordsOf a n).foldl Store.settle st

/-- Whether some word of the range, once settled, has bits that cannot be used: poison or uncorrectable (R371). -/
def Store.poisoned (st : Store) (a n : Nat) : Bool := (wordsOf a n).any fun w => look 0 st.syn w != 0

/-- Whether some word of the range is uncorrectable and not poison (R371). -/
def Store.uncorrectable (st : Store) (a n : Nat) : Bool :=
  (wordsOf a n).any fun w => synKind (look 0 st.syn w) == .bad

/-- The syndrome of word `w` after a write of bytes `a` to `a + n - 1` (R372): a whole word gets fresh check bits, a part leaves
poison. -/
def synAfter (st : Store) (a n w : Nat) : BitVec 8 :=
  if a ≤ 8 * w ∧ 8 * w + 8 ≤ a + n then 0
  else if look 0 st.syn w = 0 then 0 else 0xFF

/-- Writes `n` bytes: tags of the granules touched are cleared (R75) and check bits are made afresh (R372). -/
def Store.write (st : Store) (a n v : Nat) : Store :=
  let st := st.settleAll a n
  { st with
    bytes := wrN st.bytes a n v
    tags := (granulesOf a n).foldl (fun t g => put false t g false) st.tags
    syn := (wordsOf a n).foldl (fun t w => put 0 t w (synAfter st a n w)) st.syn }

/-- Writes one granule with a tag (R75). -/
def Store.writeTagged (st : Store) (a v : Nat) (tag : Bool) : Store :=
  let st := st.write a 16 v
  { st with tags := put false st.tags (a / 16) tag }

/-- Sets the full/empty bit of the word that holds `a` (R82). -/
def Store.setFull (st : Store) (a : Nat) (f : Bool) : Store := { st with full := put false st.full (a / 8) f }

/-- The full/empty bit of the word that holds `a` (R82). -/
def Store.isFull (st : Store) (a : Nat) : Bool := look false st.full (a / 8)

/-- The tag of the granule that holds `a` (R75). -/
def Store.tagAt (st : Store) (a : Nat) : Bool := look false st.tags (a / 16)

/-- Reads `n` bytes as a number. -/
def Store.read (st : Store) (a n : Nat) : Nat := rdN st.bytes a n

/-- Reads a granule as a register value. -/
def Store.readCap (st : Store) (a : Nat) : RegVal :=
  { bits := BitVec.ofNat 128 (rdN st.bytes a 16), tag := st.tagAt a, psn := st.poisoned a 16 }

/-- Makes every word of a range poison (R372). -/
def Store.makePoison (st : Store) (a n : Nat) : Store :=
  { st with syn := (wordsOf a n).foldl (fun t w => put 0 t w 0xFF) st.syn }

/-- Bytes, tags, bits and syndromes of a range back to zero, empty and clean (R279, R391). -/
def Store.scrub (st : Store) (a n : Nat) : Store :=
  { bytes := st.bytes.filter fun c => !(decide (a ≤ c.1) && decide (c.1 < a + n))
    tags := st.tags.filter fun c => !(decide (a ≤ 16 * c.1) && decide (16 * c.1 < a + n))
    full := st.full.filter fun c => !(decide (a ≤ 8 * c.1) && decide (8 * c.1 < a + n))
    syn := st.syn.filter fun c => !(decide (a ≤ 8 * c.1) && decide (8 * c.1 < a + n)) }

/-- The canonical form of a store: every list of it. -/
def Store.wf (st : Store) : Bool :=
  canonical 0 st.bytes && canonical false st.tags && canonical false st.full && canonical 0 st.syn

end Sys2Proof.Machine
end

