-- ==== Sys2Proof/Machine/Float.lean ====
section
/-! DEFINITION. Numbers and rounding (06_numbers R94-R107, 11_insn_vector R184-R189, R199). A finite value is an exact dyadic
m × 2^e; the sticky mark says that the true value lies strictly between m and m + 1 units, which quotients, roots and special
functions need and which m then holds enough bits to round in every mode. -/

namespace Sys2Proof.Machine

/-- Flag bits of STAT (R101). -/
def flNV : Nat := 1
/-- division by zero -/
def flDZ : Nat := 2
/-- overflow -/
def flOF : Nat := 4
/-- underflow -/
def flUF : Nat := 8
/-- inexact -/
def flNX : Nat := 16

/-- A float format: sign bit, exponent and mantissa widths, and whether it is a plain format (R97, R100). -/
structure FloatFmt where
  sgn   : Bool
  ebits : Nat
  mbits : Nat
  plain : Bool
  deriving DecidableEq, Repr

/-- FP32 (R100). -/
def fp32 : FloatFmt := ⟨true, 8, 23, true⟩
/-- BF16 (R100). -/
def bf16 : FloatFmt := ⟨true, 8, 7, true⟩
/-- FP16 (R100). -/
def fp16 : FloatFmt := ⟨true, 5, 10, true⟩

/-- The narrow-float format of a code 0b0Seeemmm (R96). -/
def narrowFmt (code : Nat) : FloatFmt := ⟨bitAt code 6, fld code 3 3, fld code 0 3, false⟩

/-- The exponent bias (R97). -/
def FloatFmt.bias (f : FloatFmt) : Nat := 2 ^ (f.ebits - 1) - 1

/-- Whether a narrow format has NaN (R97). -/
def FloatFmt.hasNaN (f : FloatFmt) : Bool :=
  f.plain || ((if f.sgn then 1 else 0) + f.ebits + f.mbits == 8 && decide (4 ≤ f.ebits))

/-- The width in bits. -/
def FloatFmt.width (f : FloatFmt) : Nat := (if f.sgn then 1 else 0) + f.ebits + f.mbits

/-- An exact value. -/
inductive Num where
  | nan (signalling : Bool)
  | inf (neg : Bool)
  | fin (neg : Bool) (m : Nat) (e : Int) (sticky : Bool)
  deriving DecidableEq, Repr

/-- A signed zero. -/
def Num.zero (neg : Bool) : Num := .fin neg 0 0 false

/-- The value of an integer. -/
def Num.ofInt (x : Int) : Num := .fin (decide (x < 0)) x.natAbs 0 false

/-- Whether the value is a NaN. -/
def Num.isNaN : Num → Bool
  | .nan _ => true
  | _ => false

/-- Whether the value is a signalling NaN. -/
def Num.isSig : Num → Bool
  | .nan s => s
  | _ => false

/-- The value of a code (R97, R100). -/
def decodeFloat (f : FloatFmt) (code : Nat) : Num :=
  let neg := f.sgn && bitAt code (f.ebits + f.mbits)
  let ef := fld code f.mbits f.ebits
  let fr := fld code 0 f.mbits
  if ef = 2 ^ f.ebits - 1 ∧ f.plain then
    if fr = 0 then .inf neg else .nan (!bitAt fr (f.mbits - 1))
  else if f.hasNaN ∧ ef = 2 ^ f.ebits - 1 ∧ fr = 2 ^ f.mbits - 1 then .nan false
  else if ef = 0 then .fin neg fr (1 - (f.bias : Int) - f.mbits) false
  else .fin neg (2 ^ f.mbits + fr) ((ef : Int) - f.bias - f.mbits) false

/-- The largest finite value: significand and exponent of its unit (R97). -/
def FloatFmt.maxFin (f : FloatFmt) : Nat × Int :=
  if f.plain then (2 ^ (f.mbits + 1) - 1, (2 ^ f.ebits - 2 : Nat) - (f.bias : Int) - f.mbits)
  else if f.hasNaN then
    if f.mbits = 0 then (1, (2 ^ f.ebits - 2 : Nat) - (f.bias : Int))
    else (2 ^ (f.mbits + 1) - 2, (2 ^ f.ebits - 1 : Nat) - (f.bias : Int) - f.mbits)
  else (2 ^ (f.mbits + 1) - 1, (2 ^ f.ebits - 1 : Nat) - (f.bias : Int) - f.mbits)

/-- The code of the largest finite value (R97). -/
def FloatFmt.maxFinCode (f : FloatFmt) : Nat :=
  if f.plain then 2 ^ (f.ebits + f.mbits) - 2 ^ f.mbits - 1
  else if f.hasNaN then 2 ^ (f.ebits + f.mbits) - 2
  else 2 ^ (f.ebits + f.mbits) - 1

/-- The code of +∞ of a plain format. -/
def FloatFmt.infCode (f : FloatFmt) : Nat := (2 ^ f.ebits - 1) * 2 ^ f.mbits

/-- The canonical NaN of a plain format (R100), or the NaN pattern with sign 0 of a narrow one (R104). -/
def FloatFmt.nanCode (f : FloatFmt) : Nat :=
  if f.plain then f.infCode + 2 ^ (f.mbits - 1) else 2 ^ (f.ebits + f.mbits) - 1

/-- The sign bit of a negative code. -/
def FloatFmt.signCode (f : FloatFmt) (neg : Bool) : Nat := if neg && f.sgn then 2 ^ (f.ebits + f.mbits) else 0

/-- Whether the kept significand moves up (R103), `odd` where its code is: `c` compares the part cut off with half a unit (0 nothing cut off,
1 below half, 2 half, 3 above). Mode: 0 RNE, 1 RTZ, 2 toward −∞, 3 toward +∞, 4 ties away; round to odd is made apart. -/
def roundsUp (mode : Nat) (neg odd : Bool) (c : Nat) : Bool :=
  match mode with
  | 0 => c == 3 || (c == 2 && odd)
  | 2 => neg && c != 0
  | 3 => !neg && c != 0
  | 4 => decide (2 ≤ c)
  | _ => false

/-- Cuts `sh` bits off a significand: what stays, and the comparison of what is cut off with half a unit. -/
def cutBits (m sh : Nat) (sticky : Bool) : Nat × Nat :=
  let t := m / 2 ^ sh
  let r := m % 2 ^ sh
  if sh = 0 then (t, if sticky then 1 else 0)
  else if r < 2 ^ (sh - 1) then (t, if r = 0 ∧ !sticky then 0 else 1)
  else (t, if r = 2 ^ (sh - 1) ∧ !sticky then 2 else 3)

/-- Rounds a cut significand, whose code is `odd` or even, under a mode (R103): the new significand and whether it is inexact. -/
def roundSig (mode : Nat) (neg odd : Bool) (t c : Nat) : Nat × Bool :=
  if c = 0 then (t, false)
  else if mode = 5 then (if odd then t else t + 1, true)
  else (if roundsUp mode neg odd c then t + 1 else t, true)

/-- The code of the significand `t` with unit 2^q, which a format represents. -/
def packFloat (f : FloatFmt) (t : Nat) (q : Int) : Nat :=
  let (t, q) := if 2 ^ (f.mbits + 1) ≤ t then (t / 2, q + 1) else (t, q)
  if t < 2 ^ f.mbits then t
  else (q + f.mbits + f.bias).toNat * 2 ^ f.mbits + (t - 2 ^ f.mbits)

/-- Rounds m × 2^e to the significand width of a format, the exponent unbounded above (R103): significand, exponent of its
unit, inexact. -/
def roundTo (f : FloatFmt) (mode : Nat) (neg : Bool) (m : Nat) (e : Int) (sticky : Bool) : Nat × Int × Bool :=
  let top : Int := (Nat.log2 m : Int) + e
  let q : Int := max (top - f.mbits) (1 - (f.bias : Int) - f.mbits)
  if q ≤ e then
    let t := m * 2 ^ (e - q).toNat
    let (t, x) := roundSig mode neg (packFloat f t q % 2 == 1) t (if sticky then 1 else 0)
    (t, q, x)
  else
    let (t, c) := cutBits m (q - e).toNat sticky
    let (t, x) := roundSig mode neg (packFloat f t q % 2 == 1) t c
    (t, q, x)

/-- m1 × 2^e1 ≤ m2 × 2^e2. -/
def leDyadic (m1 : Nat) (e1 : Int) (m2 : Nat) (e2 : Int) : Bool :=
  if e1 ≤ e2 then decide (m1 ≤ m2 * 2 ^ (e2 - e1).toNat) else decide (m1 * 2 ^ (e1 - e2).toNat ≤ m2)

/-- The IEEE 754 overflow result of a mode is an infinity (R104); round to odd gives ±MaxFin. -/
def overflowsToInf (mode : Nat) (neg : Bool) : Bool :=
  match mode with
  | 0 => true | 2 => neg | 3 => !neg | 4 => true | _ => false

/-- A finite value in a float format (R103, R104): code and flags. -/
def roundFinite (f : FloatFmt) (mode : Nat) (sat neg : Bool) (m : Nat) (e : Int) (sticky : Bool) : Nat × Nat :=
  if m = 0 ∧ !sticky then (f.signCode neg, 0)
  else
    let (t, q, x) := roundTo f mode neg m e sticky
    let (mt, mq) := f.maxFin
    if leDyadic t q mt mq then
      let tiny := !leDyadic 1 (1 - (f.bias : Int)) m e
      (f.signCode neg + packFloat f t q, if x then flNX ||| (if tiny then flUF else 0) else 0)
    else
      (f.signCode neg + (if f.plain && !sat && overflowsToInf mode neg then f.infCode else f.maxFinCode), flOF ||| flNX)

/-- A conversion to a float format (R104): code and flags. -/
def toFloat (f : FloatFmt) (mode : Nat) (sat : Bool) (x : Num) : Nat × Nat :=
  match x with
  | .nan sig =>
    if f.plain then (f.nanCode, if sig then flNV else 0)
    else if f.hasNaN then (f.nanCode, 0)
    else (0, flNV)
  | .inf neg =>
    if neg && !f.sgn then (0, flOF ||| flNX)
    else if f.plain && !sat then (f.signCode neg + f.infCode, 0)
    else (f.signCode neg + f.maxFinCode, flOF)
  | .fin neg m e st =>
    if neg && !f.sgn then
      if m = 0 ∧ !st then (0, 0) else (0, flOF ||| flNX)
    else roundFinite f mode sat neg m e st

/-- The result of an arithmetic function (R184): infinities stay, whatever SAT holds. -/
def arith (f : FloatFmt) (mode : Nat) (sat : Bool) (r : Num × Nat) : Nat × Nat :=
  match r.1 with
  | .nan _ => (f.nanCode, r.2)
  | .inf neg => (f.signCode neg + f.infCode, r.2)
  | .fin neg m e st => let (c, fl) := roundFinite f mode sat neg m e st; (c, fl ||| r.2)

/-- A value rounded to an integer under a mode (R105): the integer and whether it differs. -/
def roundInt (mode : Nat) (neg : Bool) (m : Nat) (e : Int) (sticky : Bool) : Int × Bool :=
  let (t, x) :=
    if 0 ≤ e then (m * 2 ^ e.toNat, sticky)
    else
      let (t, c) := cutBits m (-e).toNat sticky
      roundSig mode neg (t % 2 == 1) t c
  (if neg then -(t : Int) else t, x)

/-- A conversion to an integer of `w` bits (R105): the low `w` bits and flags. -/
def toInt (w : Nat) (signed : Bool) (mode : Nat) (x : Num) : Nat × Nat :=
  let lo : Int := if signed then -(2 ^ (w - 1) : Nat) else 0
  let hi : Int := if signed then (2 ^ (w - 1) : Nat) - 1 else (2 ^ w : Nat) - 1
  match x with
  | .nan _ => (0, flNV)
  | .inf neg => (low w (if neg then lo else hi), flNV)
  | .fin neg m e st =>
    let (v, inexact) := roundInt mode neg m e st
    if v < lo then (low w lo, flNV)
    else if hi < v then (low w hi, flNV)
    else (low w v, if inexact then flNX else 0)

/-- NaN handling of an operation of two operands: NV for a signalling NaN (R184). -/
def nanFlags (a b : Num) : Nat := if a.isSig || b.isSig then flNV else 0

/-- The exact sum (R184, R189): an exact zero takes the sign that IEEE 754 gives it. -/
def addNum (mode : Nat) (a b : Num) : Num × Nat :=
  match a, b with
  | .fin na ma ea sa, .fin nb mb eb sb =>
    let e := min ea eb
    let x : Int := (if na then -1 else 1) * (ma * 2 ^ (ea - e).toNat : Nat)
    let y : Int := (if nb then -1 else 1) * (mb * 2 ^ (eb - e).toNat : Nat)
    if x + y = 0 then
      (.fin (if na = nb then na else mode == 2) 0 0 false, 0)
    else (.fin (decide (x + y < 0)) (x + y).natAbs e (sa || sb), 0)
  | .inf na, .inf nb => if na = nb then (.inf na, 0) else (.nan false, flNV)
  | .inf na, .fin .. => (.inf na, 0)
  | .fin .., .inf nb => (.inf nb, 0)
  | a, b => (.nan false, nanFlags a b)

/-- The value with its sign turned. -/
def Num.negate : Num → Num
  | .nan s => .nan s
  | .inf n => .inf (!n)
  | .fin n m e s => .fin (!n) m e s

/-- The exact product (R184). -/
def mulNum (a b : Num) : Num × Nat :=
  match a, b with
  | .fin na ma ea _, .fin nb mb eb _ => (.fin (na != nb) (ma * mb) (ea + eb) false, 0)
  | .inf na, .inf nb => (.inf (na != nb), 0)
  | .inf na, .fin nb mb _ _ => if mb = 0 then (.nan false, flNV) else (.inf (na != nb), 0)
  | .fin na ma _ _, .inf nb => if ma = 0 then (.nan false, flNV) else (.inf (na != nb), 0)
  | a, b => (.nan false, nanFlags a b)

/-- a × b + c, exact (R189): 0 × ∞ gives NaN and NV even when c is a NaN. -/
def fmaNum (mode : Nat) (a b c : Num) : Num × Nat :=
  let (p, fp) := mulNum a b
  match p with
  | .nan _ => (.nan false, fp ||| (if c.isSig then flNV else 0))
  | p => addNum mode p c

/-- The quotient, cut to at least 80 significant bits (R184, R186). -/
def divNum (a b : Num) : Num × Nat :=
  match a, b with
  | .fin na ma ea _, .fin nb mb eb _ =>
    if mb = 0 then (if ma = 0 then (.nan false, flNV) else (.inf (na != nb), flDZ))
    else if ma = 0 then (.zero (na != nb), 0)
    else
      let k := 80 + Nat.log2 mb
      let n := ma * 2 ^ k
      (.fin (na != nb) (n / mb) (ea - eb - k) (n % mb != 0), 0)
  | .inf _, .inf _ => (.nan false, flNV)
  | .inf na, .fin nb _ _ _ => (.inf (na != nb), 0)
  | .fin na _ _ _, .inf nb => (.zero (na != nb), 0)
  | a, b => (.nan false, nanFlags a b)

/-- The integer square root, one result bit for each step, from bit `k` down. -/
def isqrtFrom (n : Nat) : Nat → Nat → Nat
  | 0, r => if (r + 1) * (r + 1) ≤ n then r + 1 else r
  | k + 1, r => isqrtFrom n k (if (r + 2 ^ (k + 1)) * (r + 2 ^ (k + 1)) ≤ n then r + 2 ^ (k + 1) else r)

/-- The integer square root. -/
def isqrt (n : Nat) : Nat := isqrtFrom n (Nat.log2 n / 2 + 1) 0

/-- The square root, cut to at least 80 significant bits (R186). -/
def sqrtNum (a : Num) : Num × Nat :=
  match a with
  | .nan s => (.nan false, if s then flNV else 0)
  | .inf neg => if neg then (.nan false, flNV) else (.inf false, 0)
  | .fin neg m e _ =>
    if m = 0 then (.zero neg, 0)
    else if neg then (.nan false, flNV)
    else
      let (m, e) := if e % 2 = 0 then (m, e) else (2 * m, e - 1)
      let n := m * 2 ^ 160
      let r := isqrt n
      (.fin false r (e / 2 - 80) (r * r != n), 0)

/-- 1 ÷ √x, cut to at least 80 significant bits (R196). [Log 15: DESIGN CHOICE] -/
def rsqrtNum (a : Num) : Num × Nat :=
  match a with
  | .nan s => (.nan false, if s then flNV else 0)
  | .inf neg => if neg then (.nan false, flNV) else (.zero false, 0)
  | .fin neg m e _ =>
    if m = 0 then (.inf neg, flDZ)
    else if neg then (.nan false, flNV)
    else
      let (m, e) := if e % 2 = 0 then (m, e) else (2 * m, e - 1)
      let k := 2 * (Nat.log2 m + 90)
      let n := 2 ^ (2 * k) / m
      let r := isqrt n
      (.fin false r (-(e / 2) - k) (r * r * m != 2 ^ (2 * k)), 0)

/-- The order of two values that are not NaN, −0 below +0 (R187): a below b. -/
def ltNum (a b : Num) : Bool :=
  match a, b with
  | .inf na, .inf nb => na && !nb
  | .inf na, _ => na
  | _, .inf nb => !nb
  | .fin na ma ea _, .fin nb mb eb _ =>
    if na != nb then na
    else if na then !leDyadic ma ea mb eb
    else !leDyadic mb eb ma ea
  | _, _ => false

/-- Equality of two values that are not NaN, −0 equal to +0 (R190). -/
def eqNum (a b : Num) : Bool :=
  match a, b with
  | .inf na, .inf nb => na == nb
  | .fin na ma ea _, .fin nb mb eb _ =>
    (ma == 0 && mb == 0) || (na == nb && leDyadic ma ea mb eb && leDyadic mb eb ma ea)
  | _, _ => false

/-- Whether a value is a zero. -/
def Num.isZero : Num → Bool
  | .fin _ m _ s => m == 0 && !s
  | _ => false

/-- a below b, −0 equal to +0 (R190). -/
def ltVal (a b : Num) : Bool := ltNum a b && !eqNum a b

/-- FP32 sum of two codes, RNE, without SAT (R107, R209): code and flags. -/
def addF32 (a b : Nat) : Nat × Nat := arith fp32 0 false (addNum 0 (decodeFloat fp32 a) (decodeFloat fp32 b))

/-- FP32 product of two codes, RNE. -/
def mulF32 (a b : Nat) : Nat × Nat := arith fp32 0 false (mulNum (decodeFloat fp32 a) (decodeFloat fp32 b))

/-- FP32 fused multiply-add of codes, RNE. -/
def fmaF32 (a b c : Nat) : Nat × Nat :=
  arith fp32 0 false (fmaNum 0 (decodeFloat fp32 a) (decodeFloat fp32 b) (decodeFloat fp32 c))

end Sys2Proof.Machine
end

