-- ==== Sys2Proof/Machine/Blocks.lean ====
section
/-! DEFINITION. Described blocks and format codes (06_numbers R94-R99, R104-R106). A block is a number of 512 bits. -/

namespace Sys2Proof.Machine

/-- Whether a format byte names a block format that can be decoded (R95, R96). -/
def blockFormat (f : Nat) : Bool := narrowFloat f || narrowInt f || f == 0xC4

/-- The element width of a block format (R96). -/
def elemBits (f : Nat) : Nat :=
  if f = 0xC4 then 4 else if narrowInt f then f % 8 + 1 else f / 64 % 2 + f / 8 % 8 + f % 8

/-- The elements of a block of a width (R94). -/
def elemsOf (w : Nat) : Nat := 496 / w

/-- `FMT` of a block. -/
def blockFmt (b : Nat) : Nat := fld b 0 8

/-- `SCL` of a block. -/
def blockScl (b : Nat) : Nat := fld b 8 8

/-- A malformed block (R95). -/
def malformed (b : Nat) : Bool := !blockFormat (blockFmt b) || blockScl b == 255

/-- The code of element `k` (R94). -/
def elemCode (b k : Nat) : Nat := let w := elemBits (blockFmt b); fld b (16 + w * k) w

/-- The integer value of a narrow-integer code (R98). -/
def intCode (f code : Nat) : Int := if bitAt f 5 then sext (elemBits f) code else (code : Int)

/-- A value times a power of two. -/
def Num.scale (x : Num) (k : Int) : Num :=
  match x with
  | .fin n m e s => .fin n m (e + k) s
  | x => x

/-- The value of a code of a format, without the block scale (R97-R99). -/
def codeValue (f code : Nat) (book : Nat) : Num :=
  if f = 0xC4 then decodeFloat bf16 (fld book (16 * code) 16)
  else if narrowInt f then Num.ofInt (intCode f code)
  else decodeFloat (narrowFmt f) code

/-- The value of element `k` of a block (R95). -/
def elemValue (b k book : Nat) : Num := (codeValue (blockFmt b) (elemCode b k) book).scale ((blockScl b : Int) - 127)

/-- The largest finite value of a block format: significand and exponent of its unit (R97, R106). -/
def formatMax (f : Nat) : Nat × Int :=
  if narrowInt f then (if bitAt f 5 then 2 ^ (elemBits f - 1) - 1 else 2 ^ elemBits f - 1, 0) else (narrowFmt f).maxFin

/-- The scale of an encoded block (R106). -/
def encodeScale (f : Nat) (xs : List Num) : Nat :=
  let big := xs.foldl (fun (acc : Nat × Int) x =>
    match x with
    | .fin _ m e _ => if leDyadic m e acc.1 acc.2 then acc else (m, e)
    | _ => acc) (0, 0)
  if big.1 = 0 then 127
  else
    let (mt, mq) := formatMax f
    let c0 : Int := (Nat.log2 big.1 : Int) + big.2 - ((Nat.log2 mt : Int) + mq)
    let c := if leDyadic big.1 big.2 mt (mq + c0) then c0 else c0 + 1
    (min 254 (max 0 (127 + c))).toNat

/-- One element encoded (R104, R105): code and flags. -/
def encodeElem (f mode : Nat) (sat : Bool) (x : Num) : Nat × Nat :=
  if narrowInt f then toInt (elemBits f) (bitAt f 5) mode x else toFloat (narrowFmt f) mode sat x

/-- `EncodeBlock` (R106): the block and the flags. -/
def encodeBlock (f mode : Nat) (sat : Bool) (xs : List Num) : Nat × Nat :=
  let scl := encodeScale f xs
  let w := elemBits f
  let r := xs.foldl (fun (acc : Nat × Nat × Nat) x =>
    let (k, b, fl) := acc
    let (c, g) := encodeElem f mode sat (x.scale (127 - (scl : Int)))
    (k + 1, b + c % 2 ^ w * 2 ^ (16 + w * k), fl ||| g)) (0, f + 256 * scl, 0)
  (r.2.1, r.2.2)

/-- A value as an FP32 lane, a narrow NaN giving the canonical one without NV (R104, R216): code and flags. -/
def toF32 (mode : Nat) (sat : Bool) (x : Num) : Nat × Nat := toFloat fp32 mode sat x

end Sys2Proof.Machine
end

