-- ==== Sys2Proof/Machine/Caps.lean ====
section
/-! DEFINITION. Capabilities and 72-bit addresses (05_memory R69-R74, 10_insn_integer R174-R179, 03_execution R41). -/

namespace Sys2Proof

/-- Untagged zero. -/
def RegVal.zero : RegVal := ⟨0, false, false⟩

/-- An untagged 64-bit value (R156). -/
def RegVal.ofInt (x : W64) : RegVal := ⟨x.setWidth 128, false, false⟩

/-- An untagged number, cut at 128 bits. -/
def RegVal.ofNat (x : Nat) : RegVal := ⟨BitVec.ofNat 128 x, false, false⟩

/-- Bits 63:0 of a register (R155). -/
def RegVal.int (v : RegVal) : W64 := v.bits.setWidth 64

/-- `ADDR` (R72). -/
def RegVal.addr (v : RegVal) : Nat := fld v.bits.toNat 0 72
/-- `E` (R72). -/
def RegVal.exp (v : RegVal) : Nat := fld v.bits.toNat 72 6
/-- `BM` (R72). -/
def RegVal.bm (v : RegVal) : Nat := fld v.bits.toNat 78 16
/-- `TM` (R72). -/
def RegVal.tm (v : RegVal) : Nat := fld v.bits.toNat 94 16
/-- `PERM` (R72): bit 0 R, 1 W, 2 X, 3 FE, 4 LC, 5 SC, 6 ENG, 7 TBL, 8 GLB, 9 SYS, 10 DIAG. -/
def RegVal.perm (v : RegVal) : Nat := fld v.bits.toNat 110 12
/-- `OTYPE` (R72). -/
def RegVal.otype (v : RegVal) : Nat := fld v.bits.toNat 122 6

/-- Replaces the `n` bits from `lo` upward. -/
def RegVal.set (v : RegVal) (lo n x : Nat) : RegVal := { v with bits := BitVec.ofNat 128 (Machine.setFld v.bits.toNat lo n x) }

end Sys2Proof

namespace Sys2Proof.Machine

/-- The bounds of a capability, base and top; none when it has no valid bounds (R73). -/
def capBounds (v : RegVal) : Option (Nat × Nat) :=
  let e := v.exp
  let w := e + 16
  let win := v.addr / 2 ^ w * 2 ^ w
  let low := v.bm * 2 ^ e
  let base : Int := if v.addr % 2 ^ w < low then (win + low : Int) - (2 ^ w : Nat) else win + low
  let bw : Int := base - low
  let top : Int := bw + (v.tm * 2 ^ e : Nat) + (if v.tm < v.bm then (2 ^ w : Nat) else 0)
  if 56 < e ∨ base < 0 ∨ (2 ^ 72 : Nat) < top then none else some (base.toNat, top.toNat)

/-- A capability that is tagged and unsealed (10_insn_integer, before R173). -/
def usable (v : RegVal) : Bool := v.tag && v.otype == 0

/-- The permission masks of R72. -/
def permR : Nat := 1
/-- W -/
def permW : Nat := 2
/-- X -/
def permX : Nat := 4
/-- FE -/
def permFE : Nat := 8
/-- LC -/
def permLC : Nat := 16
/-- SC -/
def permSC : Nat := 32
/-- ENG -/
def permENG : Nat := 64
/-- TBL -/
def permTBL : Nat := 128
/-- GLB -/
def permGLB : Nat := 256
/-- SYS -/
def permSYS : Nat := 512
/-- DIAG -/
def permDIAG : Nat := 1024

/-- Every permission of the mask is held. -/
def hasPerm (v : RegVal) (mask : Nat) : Bool := v.perm &&& mask == mask

/-- Whether an address lies in the partitioned global space (R69). -/
def isGlobal (a : Nat) : Bool := bitAt a 71

/-- What an address names (R69, R70). -/
inductive Place where
  | dev (va : Nat)
  | sram (chip vc ofs : Nat)
  | exported (chip num ofs : Nat)
  | ctl (chip vc ofs : Nat)
  /-- non-canonical -/
  | bad
  deriving DecidableEq, Repr

/-- Decodes the `len` bytes at an address; a byte outside the space makes it non-canonical (R69, R70, R369).
[Log 34: DEDUCED] -/
def placeOf (a len : Nat) : Place :=
  if isGlobal a then
    let chip := fld a 53 18
    match fld a 51 2 with
    | 0 => if fld a 21 20 = 0 ∧ fld a 0 21 + len ≤ 2 ^ 21 then .sram chip (fld a 41 10) (fld a 0 21) else .bad
    | 1 => .exported chip (fld a 45 6) (fld a 0 45)
    | 2 => if fld a 16 25 = 0 ∧ fld a 0 16 + len ≤ 2 ^ 16 then .ctl chip (fld a 41 10) (fld a 0 16) else .bad
    | _ => .bad
  else if a + len ≤ 2 ^ 57 then .dev a
  else .bad

/-- Steps 1 to 6 of a memory check (R74, R347), in order: the first cause that holds. `align` 1 asks for none. -/
def capCheck (c : RegVal) (ea len mask align : Nat) : Option Cause :=
  if !c.tag then some .captag
  else if c.otype ≠ 0 then some .capperm
  else
    match capBounds c with
    | none => some .capbound
    | some (b, t) =>
      if ea < b ∨ t < ea + len then some .capbound
      else if !hasPerm c (mask ||| (if isGlobal ea then permGLB else 0)) then some .capperm
      else if placeOf ea len = .bad then some .noncanon
      else if ea % align ≠ 0 then some .align
      else none

/-- The global SRAM address of a byte of a virtual cluster of this part (R70). -/
def sramAddr (vc ofs : Nat) : Nat := 2 ^ 71 + 0x3FFFF * 2 ^ 53 + vc * 2 ^ 41 + ofs

/-- The bits of a capability (R72). -/
def capBits (otype perm tm bm e addr : Nat) : W128 :=
  BitVec.ofNat 128 (otype * 2 ^ 122 + perm % 2 ^ 12 * 2 ^ 110 + tm % 2 ^ 16 * 2 ^ 94 + bm % 2 ^ 16 * 2 ^ 78 + e * 2 ^ 72 + addr)

/-- The continuation capability of the record at slice offset `ofs` of virtual cluster `vc`; untagged when no entry of the map
names the home (R41). -/
def contCap (vc : Option Nat) (ofs : Nat) : RegVal :=
  let a := sramAddr (vc.getD 0) ofs
  ⟨capBits 1 0 (a + 64) a 0 a, vc.isSome, false⟩

/-- An address change keeps the tag only when the bounds stay (R175). -/
def capMove (v : RegVal) (na : Nat) : RegVal :=
  let d := v.set 0 72 na
  { d with tag := usable v && (capBounds d).isSome && capBounds d == capBounds v }

/-- `x` rounded down to a multiple of 2^e. -/
def roundDown (x e : Nat) : Nat := x / 2 ^ e * 2 ^ e

/-- `x` rounded up to a multiple of 2^e. -/
def roundUp (x e : Nat) : Nat := (x + 2 ^ e - 1) / 2 ^ e * 2 ^ e

/-- The least exponent whose mantissas hold the region (R176). -/
def boundsExp (b t : Nat) : Nat :=
  ((List.range 57).find? fun e => roundUp t e - roundDown b e < 2 ^ (e + 16)).getD 56

/-- Narrows a capability to the region that starts at its address (R176). -/
def setBounds (v : RegVal) (len : Nat) (exact : Bool) : RegVal :=
  let b := v.addr
  let t := b + len
  let e := boundsExp b t
  let b1 := roundDown b e
  let t1 := roundUp t e
  let d := ((v.set 72 6 e).set 78 16 (b1 / 2 ^ e)).set 94 16 (t1 / 2 ^ e)
  let inside := match capBounds v with
    | some (vb, vt) => decide (vb ≤ b1 ∧ t1 ≤ vt)
    | none => false
  { d with tag := usable v && decide (t1 ≤ 2 ^ 72) && inside && !(exact && (b1 ≠ b || t1 ≠ t)) }

/-- A capability's permissions masked (R177); bit 121 stays 0. -/
def maskPerms (v : RegVal) (m : Nat) : RegVal :=
  { v.set 110 12 (v.perm &&& (m % 2 ^ 11)) with tag := usable v }

/-- `ccmp` (R178). -/
def capCompare (a b : RegVal) : Nat :=
  let within := match capBounds a, capBounds b with
    | some (ab, at_), some (bb, bt) => a.tag && b.tag && decide (bb ≤ ab ∧ at_ ≤ bt)
    | _, _ => false
  bit (a.bits == b.bits && a.tag == b.tag) + 2 * bit (a.addr == b.addr) + 4 * bit (decide (a.addr < b.addr)) + 8 * bit within

end Sys2Proof.Machine
end

