-- ==== Sys2Proof/Machine/Parts.lean ====
section
/-! DEFINITION. The parts of the machine and how they name one another: slots, cores, clusters, dies, partitions, the cluster
map, permission tables, words of global SRAM, fault rings and the remote-store trace (03_execution R52, 05_memory R70, R82,
08_consistency R140, 17_host R303-R305, 25_faults_execution R362). -/

namespace Sys2Proof.Machine

/-- Slot `g`. -/
def State.slot (s : State) (g : Nat) : Slot := look Slot.reset s.slots g

/-- Replaces slot `g`. -/
def State.setSlot (s : State) (g : Nat) (x : Slot) : State := { s with slots := ins s.slots g x }

/-- Core `c`, numbered 8 × cluster + core (R132). -/
def State.core (s : State) (c : Nat) : Core := look Core.reset s.cores c

/-- Replaces core `c`. -/
def State.setCore (s : State) (c : Nat) (x : Core) : State := { s with cores := ins s.cores c x }

/-- Physical cluster `cl`. -/
def State.cluster (s : State) (cl : Nat) : Cluster := look Cluster.reset s.clusters cl

/-- Replaces physical cluster `cl`. -/
def State.setCluster (s : State) (cl : Nat) (x : Cluster) : State := { s with clusters := ins s.clusters cl x }

/-- Compute die `d`. -/
def State.die (s : State) (d : Nat) : Die := look Die.reset s.dies d

/-- Replaces die `d`. -/
def State.setDie (s : State) (d : Nat) (x : Die) : State := { s with dies := ins s.dies d x }

/-- Partition `p`. -/
def State.part (s : State) (p : Nat) : Partition := look Partition.reset s.parts p

/-- Replaces partition `p`. -/
def State.setPart (s : State) (p : Nat) (x : Partition) : State := { s with parts := ins s.parts p x }

/-- Engine instance `e`. -/
def State.engine (s : State) (e : Nat) : Engine := look Engine.reset s.engines e

/-- Replaces engine instance `e`. -/
def State.setEngine (s : State) (e : Nat) (x : Engine) : State := { s with engines := ins s.engines e x }

/-- The launch with index `lid` at the scheduler of cluster `cl`, if it is in flight (R31). -/
def State.launch (s : State) (cl lid : Nat) : Option Launch :=
  match find (s.cluster cl).launches lid with
  | some l => if l.used then some l else none
  | none => none

/-- Replaces the launch with index `lid` of cluster `cl`. -/
def State.setLaunch (s : State) (cl lid : Nat) (l : Launch) : State :=
  s.setCluster cl { s.cluster cl with launches := ins (s.cluster cl).launches lid l }

/-- The cluster of a slot. [Log 4: DESIGN CHOICE] -/
def clusterOf (g : Nat) : Nat := g / 128

/-- The core of a slot. [Log 4: DESIGN CHOICE] -/
def coreOf (g : Nat) : Nat := g / 16

/-- Whether a request of a partition from cluster `src` is held as it arrives at cluster `cl`: a handover has moved the partition out,
or its image is not loaded yet (R312, R313). [Log 45: DEDUCED] -/
def heldAt (s : State) (part src cl : Nat) : Bool :=
  let c := look Cluster.reset s.clusters cl
  src != cl && (c.heldFor.contains part || (bitAt c.hand0 63 && bitAt c.hand0 16 && fld c.hand0 0 8 == part))

/-- A cluster number that no cluster has: where a request of a link comes from. -/
def noCluster : Nat := 384

/-- The die of a cluster: 96 clusters a die, eight rows of twelve (R388). -/
def dieOf (cl : Nat) : Nat := cl / 96

/-- `HWID` of a slot (R260). -/
def hwid (g : Nat) : Nat := dieOf (clusterOf g) * 2 ^ 16 + g

/-- The partition that owns a cluster (R303). -/
def ownerOf (s : State) (cl : Nat) : Nat := fld (s.cluster cl).owner 0 8

/-- `OV` of the owner word (R303). [Log 37: DEDUCED] -/
def owned (s : State) (cl : Nat) : Bool := bitAt (s.cluster cl).owner 63

/-- The partition for which a slot's thread acts (R303). -/
def partOf (s : State) (g : Nat) : Nat := ownerOf s (clusterOf g)

/-- The physical cluster that a cluster's copy of the map gives for a virtual cluster of a partition (R305).
[Log 37: DEDUCED] -/
def vcMap (s : State) (cl part vc : Nat) : Option Nat :=
  match (look [] (s.cluster cl).maps part)[vc]? with
  | some e => if bitAt e 15 ∧ fld e 0 9 < 384 then some (fld e 0 9) else none
  | none => none

/-- The cluster whose copy of the map serves what comes over a link, for a partition (R297, R301): the first that has one.
[Log 48: DEDUCED] -/
def linkCopy (s : State) (part : Nat) : Nat :=
  ((s.clusters.find? fun kc => (find kc.2.maps part).isSome).map (·.1)).getD 0

/-- The lowest virtual cluster whose valid entry names a physical cluster (R41). -/
def vcOf (s : State) (cl part p : Nat) : Option Nat :=
  (look [] (s.cluster cl).maps part).findIdx? fun e => bitAt e 15 && fld e 0 9 == p

/-- Whether the permission table of `cl` allows messages to cluster `p` (R304). [Log 65: DEDUCED] -/
def allowed (s : State) (cl p : Nat) : Bool := cl == p || bitAt (s.cluster cl).perm p

/-- The physical cluster of a virtual cluster that `cl` may send to. -/
def reach (s : State) (cl part vc : Nat) : Option Nat :=
  match vcMap s cl part vc with
  | some p => if allowed s cl p then some p else none
  | none => none

/-- Whether a chip number names this part (R70). [Log 34: DEDUCED] -/
def isThisChip (s : State) (chip : Nat) : Bool := chip == 0x3FFFF || chip == s.chip

/-- The cocoon words of a die that cover a cluster (R388). -/
def inCocoon (w cl : Nat) : Bool :=
  let i := cl % 96
  fld w 8 4 ≤ i % 12 && i % 12 ≤ fld w 12 4 && fld w 0 3 ≤ i / 12 && i / 12 ≤ fld w 4 3

/-- The armed cocoon word that covers a cluster (R388). -/
def cocoonOf (s : State) (cl : Nat) : Option Nat :=
  ((s.die (dieOf cl)).cocoons.find? fun kw => bitAt kw.2 63 && inCocoon kw.2 cl).map (·.1)

/-- The cocoon word that covers a cluster and is fencing or fenced (R391). -/
def fencedBy (s : State) (cl : Nat) : Option Nat :=
  ((s.die (dieOf cl)).cocoons.find? fun kw => fld kw.2 61 2 != 0 && inCocoon kw.2 cl).map (·.1)

/-- Whether a cluster answers every request with a NACK: a cocoon that holds it is fencing or fenced, armed or not, or its die is excluded
(R391, R399). [Log 24: DESIGN CHOICE] -/
def nacked (s : State) (cl : Nat) : Bool := (s.die (dieOf cl)).excluded || (fencedBy s cl).isSome

/-- `FAUX` of a report that a fenced cocoon answered: the die and the cocoon word (R362). -/
def nackAux (s : State) (cl : Nat) : Nat := dieOf cl + 2 ^ 8 * ((fencedBy s cl).getD 0)

/-- The key of a byte of a slice in the store of global SRAM. -/
def sramKey (cl ofs : Nat) : Nat := cl * 2 ^ 21 + ofs % 2 ^ 21

/-- `n` bytes of a slice, single-bit errors corrected (R371). -/
def sramRead (s : State) (cl ofs n : Nat) : Nat := (s.sram.settleAll (sramKey cl ofs) n).read (sramKey cl ofs) n

/-- Stores `n` bytes to a slice (R75, R372). -/
def sramWrite (s : State) (cl ofs n v : Nat) : State := { s with sram := s.sram.write (sramKey cl ofs) n v }

/-- Stores a granule with its tag. -/
def sramWriteCap (s : State) (cl ofs : Nat) (v : RegVal) : State :=
  { s with sram := s.sram.writeTagged (sramKey cl ofs) v.bits.toNat v.tag }

/-- Whether the word of a slice is full (R82). -/
def sramFull (s : State) (cl ofs : Nat) : Bool := s.sram.isFull (sramKey cl ofs)

/-- Sets a word full or empty; a change re-checks its waiters (R52, R82). -/
def setWordFull (s : State) (cl ofs : Nat) (f : Bool) : State :=
  if sramFull s cl ofs = f then s
  else
    let c := s.cluster cl
    { s.setCluster cl { c with rechecks := c.rechecks ++ [(ofs / 8 * 8, s.nextId)] } with
      sram := s.sram.setFull (sramKey cl ofs) f }

/-- A word written and set full as one access. -/
def fillWord (s : State) (cl ofs v : Nat) : State := setWordFull (sramWrite s cl ofs 8 v) cl ofs true

/-- The ring size that a size code gives: 2^(code + 4) entries, larger codes act as `top` (R356, R359, R362, R140). -/
def ringSize (code top : Nat) : Nat := 2 ^ ((if top < code then top else code) + 4)

/-- Writes an entry to the fault ring of a cluster (R362). [Log 31: DEDUCED; 67: DESIGN CHOICE] -/
def faultEntry (s : State) (cl fsrc fcode ten fseq addr aux : Nat) : State :=
  let w := (s.cluster cl).faultW
  let head := fld w 21 15
  let ofs := fld w 5 16 * 32 + 32 * head
  if !bitAt w 63 || sramFull s cl ofs then s.setCluster cl { s.cluster cl with faultW := setFld w 62 1 1 }
  else
    let s := sramWrite (sramWrite (sramWrite s cl (ofs + 8) 8 (addr % 2 ^ 64)) cl (ofs + 16) 8 (aux % 2 ^ 64)) cl (ofs + 24) 8 0
    let s := fillWord s cl ofs (fsrc * 2 ^ 56 + fcode * 2 ^ 48 + ten % 2 ^ 12 * 2 ^ 36 + fseq % 2 ^ 32 * 2 ^ 4)
    s.setCluster cl { s.cluster cl with faultW := setFld w 21 15 ((head + 1) % ringSize (fld w 40 4) 8) }

/-- Slot offset of queue word `w` and bytes of its slots (R298). -/
def slotArray (w : Nat) : Nat × Nat := (128 * fld w 7 14, 128 * 2 ^ fld w 59 4)

/-- The enabled queue of a cluster whose slot array a write meets (R300). [Log 49: DEDUCED] -/
def queueHit (s : State) (cl ofs n : Nat) : Option Nat :=
  (List.range 16).find? fun q =>
    let w := look 0 (s.cluster cl).queues q
    bitAt w 63 && decide (ofs < (slotArray w).1 + (slotArray w).2 ∧ (slotArray w).1 < ofs + n)

/-- The queue that a write by a thread or an engine of a partition meets and may not write (R300). [Log 49: DEDUCED] -/
def foreignQueue (s : State) (part cl ofs n : Nat) : Option Nat := if ownerOf s cl = part then none else queueHit s cl ofs n

/-- A write to a slot of queue `q` is dropped and reported (R300, R362). `src` is the virtual function or the chip.
[Log 49: DEDUCED] -/
def dropQueueWrite (s : State) (cl q addr src : Nat) : State :=
  let w := look 0 (s.cluster cl).queues q
  faultEntry s cl 0x01 0x21 (fld w 42 12) (q * 2 ^ 28 + fld w 120 8) addr src

/-- An event that Hawkmoth reports to host firmware (R320): kind, doublewords 1 and 2. -/
def monitorEvent (s : State) (kind d1 d2 : Nat) : State :=
  { s with hawk := { s.hawk with evHeld := s.hawk.evHeld ++ [(kind, d1 % 2 ^ 64, d2 % 2 ^ 64)] } }

/-- Logs a store that arrives from another cluster (R140). `core` 0xFFF and `slot` the engine id for an engine.
[Log 31: DEDUCED] -/
def traceStore (s : State) (cl ofs core slot chip : Nat) : State :=
  let w := (s.cluster cl).trace
  if !bitAt w 63 then s
  else
    let n := ringSize (fld w 40 4) 11
    let head := fld w 21 15
    let at_ := fld w 4 17 * 16 + 16 * head
    let s := sramWrite s cl at_ 8 (s.sweep % 2 ^ 32 * 2 ^ 32 + core * 2 ^ 18 + chip)
    let s := sramWrite s cl (at_ + 8) 8 (slot * 2 ^ 21 + ofs % 2 ^ 21)
    let w := setFld w 21 15 ((head + 1) % n)
    s.setCluster cl { s.cluster cl with trace := if head + 1 = n then setFld w 62 1 1 else w }

/-- Logs a store of slot `g` when it comes from another cluster. -/
def traceFrom (s : State) (g cl ofs : Nat) : State :=
  if clusterOf g = cl then s else traceStore s cl ofs (coreOf g) (g % 16) s.chip

/-- The number of the next request, used. -/
def State.bump (s : State) : State := { s with nextId := s.nextId + 1 }

/-- The value of register 1-47 in a context. -/
def Context.reg (c : Context) (r : Nat) : RegVal := look RegVal.zero c.regs r

/-- A thread's name in the memory system: its record, since the thread may leave its slot while its stores are on their way. -/
def thrKey (cl ofs : Nat) : Nat := cl * 2 ^ 21 + ofs % 2 ^ 21

/-- The thread of slot `g`. -/
def thrOf (s : State) (g : Nat) : Nat := thrKey (clusterOf g) (s.slot g).recOfs

/-- Whether the drained stores that a thread made before a number have been performed (R39, R53). -/
def storesDone (s : State) (after : Option (Nat × Nat)) : Bool :=
  match after with
  | none => true
  | some (t, n) => !(s.stores.any fun d => d.thr == t && decide (d.id < n))

/-- The address, in the lines of a gather buffer, where exported device memory of other parts begins (R125, R129); what stands below is
physical device memory. -/
def exportLine : Nat := 2 ^ 80

/-- Changes slot `g`. -/
def State.onSlot (s : State) (g : Nat) (f : Slot → Slot) : State := s.setSlot g (f (s.slot g))

/-- Changes core `c`. -/
def State.onCore (s : State) (c : Nat) (f : Core → Core) : State := s.setCore c (f (s.core c))

/-- Changes cluster `cl`. -/
def State.onCluster (s : State) (cl : Nat) (f : Cluster → Cluster) : State := s.setCluster cl (f (s.cluster cl))

/-- Writes register `d` of slot `g`; a destination of `gz` discards (R156). -/
def writeReg (s : State) (g d : Nat) (v : RegVal) : State :=
  if 1 ≤ d ∧ d ≤ 47 then s.onSlot g fun x => { x with ctx := { x.ctx with regs := ins x.ctx.regs d v } } else s

/-- ORs flags into `STAT` (R102). -/
def orFlags (s : State) (g fl : Nat) : State :=
  s.onSlot g fun x => { x with ctx := { x.ctx with stat := x.ctx.stat ||| BitVec.ofNat 64 (fl % 32) } }

/-- `cc` of slot `g` (R41). -/
def ccOf (s : State) (g : Nat) : RegVal :=
  contCap (vcOf s (clusterOf g) (partOf s g) (clusterOf g)) (s.slot g).recOfs

/-- A register that is not a stream port (R145, R155). -/
def readReg (s : State) (g r : Nat) : RegVal :=
  if r = 0 then RegVal.zero
  else if r ≤ 47 then (s.slot g).ctx.reg r
  else if r = 56 then RegVal.ofInt (s.slot g).p0
  else if r = 57 then RegVal.ofInt (s.slot g).p1
  else if r = 58 then RegVal.ofInt (s.slot g).wid
  else if r = 59 then ccOf s g
  else RegVal.zero

/-- The code of a trap cause (R345). -/
def Cause.code : Cause → Nat
  | .illegal => 0x01 | .priv => 0x02 | .captag => 0x03 | .capbound => 0x04 | .capperm => 0x05 | .align => 0x06
  | .noncanon => 0x07 | .access => 0x08 | .felimit => 0x09 | .swizzle => 0x0A | .format => 0x0B | .stream => 0x0C
  | .skipend => 0x0D | .nomatch => 0x0E | .table => 0x0F | .divzero => 0x10 | .slot => 0x11 | .reuse => 0x12
  | .engine => 0x13 | .feature => 0x14 | .soft => 0x15 | .poison => 0x16 | .repeat_ => 0x17

/-- The cause that `portfail` names; a value that names none gives ACCESS (R265). -/
def causeOf (n : Nat) : Cause :=
  (#[Cause.access, .illegal, .priv, .captag, .capbound, .capperm, .align, .noncanon, .access, .felimit, .swizzle, .format,
    .stream, .skipend, .nomatch, .table, .divzero, .slot, .reuse, .engine, .feature, .soft, .poison, .repeat_].toList).getD n .access

/-- Whether a port carries traffic (R302, R316, R319): the chip number is set, the port is up, and a scale-up port, 0-35, has
agreed a key; the scale-out ports follow as 36-43. -/
def portLive (s : State) (p : Nat) : Bool :=
  s.chip != 0x3FFFF && s.hawk.portUp.contains p && (decide (36 ≤ p) || (find s.hawk.linkKeys p).isSome)

/-- Whether this part reaches another part of its load-store domain (R71, R302). -/
def reachesChip (s : State) (chip : Nat) : Bool := Config.inDomain chip && (List.range 36).any (portLive s)

end Sys2Proof.Machine
end

