-- ==== Sys2Proof/Machine/Dram.lean ====
section
/-! DEFINITION. Device memory at its base dies: stripes, planes, parity, keys, check bits, reconstruction and retired pages
(05_memory R89-R93; 18_bringup R316; 26_faults_memory R371-R381). What memory stores of a line that a tenant wrote is its ciphertext, which the check bits and the parity cover. -/

namespace Sys2Proof.Machine

/-- Bytes of device memory (R89). -/
def devLimit : Nat := 720 * 2 ^ 30

/-- The stripe of an address (R89). -/
def stripeOf (pa : Nat) : Nat := pa / 7680

/-- The data position in the stripe (R89). -/
def unitOf (pa : Nat) : Nat := pa / 512 % 15

/-- The stack of the stripe's parity unit (R89). -/
def parityStack (pa : Nat) : Nat := stripeOf pa % 16

/-- The stack of the address's data unit (R89). -/
def dataStack (pa : Nat) : Nat := (stripeOf pa % 16 + 1 + unitOf pa) % 16

/-- The address within the stack (R89). -/
def localAddr (pa : Nat) : Nat := stripeOf pa * 512 + pa % 512

/-- The plane that a request to an address takes (R90). -/
def planeOf (s : State) (pa : Nat) : Nat :=
  s.planes.getD ((fld pa 8 16 ^^^ fld pa 24 16) % s.planes.length) 0

/-- The stacks that answer (R377). -/
def liveStacks (s : State) : List Nat := (List.range 16).filter fun k => !s.lost.contains k

/-- The address that serves a byte once its page is retired (R376). -/
def forwardPa (s : State) (pa : Nat) : Nat :=
  match s.retired.find? fun r => r.1 == pa / 4096 with
  | some r => r.2 * 4096 + pa % 4096
  | none => pa

/-- A stored byte, with a single-bit error of its word corrected (R371). -/
def correctedByte (m : List Host.Cell) (syn : Sparse (BitVec 8)) (a : Nat) : BitVec 8 :=
  match synKind (look 0 syn (a / 8)) with
  | .fix k => if k / 8 = a % 8 then look 0 m a ^^^ BitVec.ofNat 8 (2 ^ (k % 8)) else look 0 m a
  | _ => look 0 m a

/-- The byte at data position `j` of a stripe. -/
def unitByte (s : State) (stripe j off : Nat) : BitVec 8 := correctedByte s.dev.bytes s.dev.syn (stripe * 7680 + j * 512 + off)

/-- A byte of the parity unit once every difference on its way to it is applied (R91). [Log 36: DESIGN CHOICE] -/
def parityByte (s : State) (pa : Nat) : BitVec 8 :=
  s.diffs.foldl (fun x d =>
    if stripeOf d.pa = stripeOf pa ∧ localAddr d.pa ≤ localAddr pa ∧ !d.poor then
      x ^^^ (find d.bytes (localAddr pa - localAddr d.pa)).getD 0
    else x) (correctedByte s.parity s.parSyn (localAddr pa))

/-- A byte of a unit as the other units of its stripe and the parity unit give it (R373). A difference on its way, whose data is
written, is applied first. -/
def rebuiltByte (s : State) (pa : Nat) : BitVec 8 :=
  (List.range 15).foldl
    (fun x j => if j = unitOf pa then x else x ^^^ unitByte s (stripeOf pa) j (pa % 512)) (parityByte s pa)

/-- The stored byte at an address, rebuilt when its stack is lost (R378). -/
def storedByte (s : State) (pa : Nat) : BitVec 8 :=
  if s.lost.contains (dataStack pa) then rebuiltByte s pa else look 0 s.dev.bytes pa

/-- A byte of a 16-byte block (R3). -/
def blockByte (v : W128) (i : Nat) : BitVec 8 := v.extractLsb' (8 * i) 8

/-- The stored 16-byte block that holds an address. [Log 11: DESIGN CHOICE] -/
def storedBlock (s : State) (pa : Nat) : W128 :=
  BitVec.ofNat 128 (ofBytes ((List.range 16).map fun i => storedByte s (pa / 16 * 16 + i)))

/-- The byte that a read under a tenant's key returns: its block deciphered under that key (R93, R316). A line that no tenant wrote is stored
as it is. [Log 8, 11: DESIGN CHOICE] -/
def keyedByte (s : State) (ten pa : Nat) : BitVec 8 :=
  if look 0 s.lineKey (pa / 64) = 0 then storedByte s pa
  else blockByte ((Config.cipher (look 0 s.keys ten) (pa / 16)).symm (storedBlock s pa)) (pa % 16)

/-- The tenant number of what acts for no tenant. -/
def noTenant : Nat := 4096

/-- The tenant under whose key a physical line is written; `noTenant` where there is none. [Log 48: DEDUCED] -/
def keyHolder (s : State) (line : Nat) : Nat :=
  let k := look 0 s.lineKey line
  match s.keys.find? fun kt => kt.2 == k && k != 0 with
  | some kt => kt.1
  | none => noTenant

/-- A byte as a read returns it that carries no tenant, such as a page walk's (R93, R316). [Log 48: DEDUCED] -/
def plainByte (s : State) (pa : Nat) : BitVec 8 := keyedByte s (keyHolder s (pa / 64)) pa

/-- `n` bytes from a physical address upward, under a tenant's key. [Log 69: DESIGN CHOICE] -/
def devBytes (s : State) (ten pa : Nat) : Nat → List (BitVec 8)
  | 0 => []
  | n + 1 => keyedByte s ten (forwardPa s pa) :: devBytes s ten (pa + 1) n

/-- `n` bytes of device memory as a number. -/
def devRead (s : State) (ten pa n : Nat) : Nat := ofBytes (devBytes s ten pa n)

/-- Whether a word can be rebuilt (R374): every other unit and the parity unit readable at its offset. -/
def canRebuild (s : State) (w : Nat) : Bool :=
  let pa := 8 * w
  !s.stale.contains (stripeOf pa) && !s.lost.contains (parityStack pa)
    && synKind (look 0 s.parSyn (localAddr pa / 8)) != .bad
    && (List.range 15).all fun j =>
      j == unitOf pa ||
        (let q := stripeOf pa * 7680 + j * 512 + pa % 512
         !s.lost.contains (dataStack q) && synKind (look 0 s.dev.syn (q / 8)) != .bad)

/-- Counts an error at the base die that holds a word, for the part of its page that this die holds; the third is reported to host firmware
(R375). [Log 72: DEDUCED] -/
def countError (s : State) (w : Nat) : State :=
  let page := 8 * w / 4096
  let k := 16 * page + dataStack (8 * w)
  let n := look 0 s.pageErrs k + 1
  let s := { s with pageErrs := ins s.pageErrs k n }
  if n = 3 then monitorEvent s 2 (page * 4096) 3 else s

/-- The first intermediate address that a stage-2 table maps to the page of a physical address (R374): depth first over the
valid entries; `lvl` counts the levels below. -/
def reverseWalk (s : State) (table ia pa : Nat) : Nat → Option Nat
  | 0 => none
  | lvl + 1 =>
    (List.range 512).findSome? fun i =>
      let e := ofBytes ((List.range 8).map fun j => plainByte s (table + 8 * i + j))
      let size := 2 ^ (12 + 9 * lvl)
      let base := ia + i * size
      if !bitAt e 0 then none
      else if bitAt e 1 then reverseWalk s (fld e 12 40 * 4096) base pa lvl
      else if fld e 12 40 * 4096 ≤ pa ∧ pa < fld e 12 40 * 4096 + size then some (base + (pa - fld e 12 40 * 4096))
      else none

/-- The partition whose stage 2 maps a physical address, and the intermediate address (R374). -/
def mappedBy (s : State) (pa : Nat) : Option (Nat × Nat) :=
  s.parts.findSome? fun kp =>
    (reverseWalk s (fld kp.2.s2root 12 28 * 4096) 0 pa 5).map fun ia => (kp.1, ia)

/-- Reports a lost line: to host firmware, and in the fault ring of virtual cluster 0 of the partition that maps it (R374). -/
def reportLost (s : State) (pa : Nat) : State :=
  match mappedBy s pa with
  | some (p, ia) =>
    let s := monitorEvent s 3 pa ia
    match (List.range 384).findSome? fun cl => if owned s cl && ownerOf s cl == p then vcMap s cl p 0 else none with
    | some cl => faultEntry s cl 0x03 0x40 0 0 ia pa
    | none => s
  | none => monitorEvent s 3 pa 0

/-- Words of device memory made poison, and each of their lines reported lost, once (R374). [Log 72: DEDUCED] -/
def loseWords (s : State) (ws : List Nat) : State :=
  (ws.map (· / 8)).eraseDups.foldl (fun s l => reportLost s (64 * l))
    { s with dev := { s.dev with syn := ws.foldl (fun t w => put 0 t w 0xFF) s.dev.syn } }

/-- A single-bit error of a word corrected in place and counted (R371, R375). -/
def correctWord (s : State) (w : Nat) : State :=
  match synKind (look 0 s.dev.syn w) with
  | .fix _ => countError { s with dev := s.dev.settle w } w
  | _ => s

/-- A word of a parity unit read: a single-bit error is corrected in place (R371). -/
def correctParity (s : State) (k : Nat) : State :=
  match synKind (look 0 s.parSyn k) with
  | .fix i =>
    { s with
      parity := if i < 64 then wrN s.parity (8 * k) 8 (rdN s.parity (8 * k) 8 ^^^ 2 ^ i) else s.parity
      parSyn := put 0 s.parSyn k 0 }
  | _ => s

/-- What a reconstruction reads for a word: the words at its offset in the units of its stripe that have not been lost, and the parity
word (R373). -/
def correctRow (s : State) (w : Nat) : State :=
  let s := (((List.range 15).map fun j => w / 960 * 960 + j * 64 + w % 64).filter fun v => !s.lost.contains (dataStack (8 * v))).foldl correctWord s
  correctParity s (localAddr (8 * w) / 8)

/-- A word written back as its stripe rebuilds it, with fresh check bits (R373); an uncorrectable one counts as an error (R375). -/
def rebuildWord (s : State) (w : Nat) : State :=
  let bad := synKind (look 0 s.dev.syn w) == .bad
  let s := { s with dev := { s.dev with
    bytes := wrN s.dev.bytes (8 * w) 8 (ofBytes ((List.range 8).map fun i => rebuiltByte s (8 * w + i)))
    syn := put 0 s.dev.syn w 0 } }
  if bad then countError s w else s

/-- The words of the data unit of 512 bytes that holds a word (R89). -/
def unitWords (w : Nat) : List Nat := (List.range 64).map (w / 64 * 64 + ·)

/-- The reconstruction of the data unit that holds a word (R373): what can be rebuilt of it is written back, unless its stack is lost;
uncorrectable words that cannot, and all that cannot of a lost unit, become poison and their lines are lost (R374). Poison stays
(R371). [Log 72: DEDUCED] -/
def rebuildUnit (s : State) (w : Nat) : State :=
  let gone := s.lost.contains (dataStack (8 * w))
  let s := (unitWords w).foldl correctRow s
  let able := (unitWords w).filter fun v => synKind (look 0 s.dev.syn v) != .poison && canRebuild s v
  let lost := (unitWords w).filter fun v =>
    !canRebuild s v && (if gone then look 0 s.dev.syn v != 0xFF else synKind (look 0 s.dev.syn v) == .bad)
  loseWords (if gone then s else able.foldl rebuildWord s) lost

/-- The word of device memory as a read leaves it (R371, R373): corrected; or its unit is rebuilt, as that of every word of a lost stack
is. [Log 72: DEDUCED] -/
def settleWord (s : State) (w : Nat) : State :=
  if s.lost.contains (dataStack (8 * w)) then rebuildUnit s w
  else match synKind (look 0 s.dev.syn w) with
    | .fix _ => correctWord s w
    | .bad => rebuildUnit s w
    | _ => s

/-- Settles the words of `n` bytes at a physical address. -/
def devSettle (s : State) (pa n : Nat) : State := (wordsOf pa n).foldl (fun s w => settleWord s (forwardPa s (8 * w) / 8)) s

/-- Whether a settled word reads poisoned (R371, R374). -/
def wordPoisoned (s : State) (w : Nat) : Bool :=
  if s.lost.contains (dataStack (8 * w)) then look 0 s.dev.syn w == 0xFF || !canRebuild s w else look 0 s.dev.syn w != 0

/-- Whether a read of `n` settled bytes returns poisoned data (R371, R379, R381). -/
def devPoisoned (s : State) (pa n : Nat) : Bool := s.stopped || (wordsOf pa n).any fun w => wordPoisoned s (forwardPa s (8 * w) / 8)

/-- The bytes of a number at offsets from `o` upward. -/
def bytesAt (o n v : Nat) : Sparse (BitVec 8) := (bytesOf n v).zipIdx.map fun bi => (o + bi.2, bi.1)

/-- Bytes split into the 64-byte lines that hold them: line number and bytes by offset. -/
def linesOf (pa : Nat) (bs : List (BitVec 8)) : List (Nat × Sparse (BitVec 8)) :=
  (bs.foldl (fun (acc : Nat × List (Nat × Sparse (BitVec 8))) b =>
    let (a, ls) := acc
    (a + 1, match ls with
      | (l, m) :: rest => if l = a / 64 then (l, m ++ [(a % 64, b)]) :: rest else (a / 64, [(a % 64, b)]) :: ls
      | [] => [(a / 64, [(a % 64, b)])])) (pa, [])).2.reverse

/-- The key under which a store of a tenant is written (R93, R316): of a tenant whose key is destroyed, one that nobody holds.
[Log 8: DESIGN CHOICE] -/
def writeKey (s : State) (ten : Nat) : Nat :=
  if ten = noTenant then 0 else if look 0 s.keys ten = 0 then s.keySeq + 1 else look 0 s.keys ten

/-- A line's plain bytes as they are stored under a key (R93). [Log 11: DESIGN CHOICE] -/
def sealLine (key line : Nat) (plain : Nat → BitVec 8) (i : Nat) : BitVec 8 :=
  if key = 0 then plain i
  else blockByte (Config.cipher key (4 * line + i / 16)
    (BitVec.ofNat 128 (ofBytes ((List.range 16).map fun j => plain (i / 16 * 16 + j))))) (i % 16)

/-- What a store of listed bytes writes of its line (R93): the whole line, its other bytes as the accessing key reads them.
[Log 11: DESIGN CHOICE] -/
def sealedBytes (s : State) (ten line : Nat) (bs : Sparse (BitVec 8)) : Sparse (BitVec 8) :=
  if look 0 s.lineKey line = 0 ∧ writeKey s ten = 0 then bs
  else (List.range 64).map fun i =>
    (i, sealLine (writeKey s ten) line (fun j => (find bs j).getD (keyedByte s ten (64 * line + j))) i)

/-- The syndrome of a word after a store of listed bytes (R372). -/
def synStored (st : Store) (line : Nat) (bs : Sparse (BitVec 8)) (i : Nat) : BitVec 8 :=
  let old := look 0 st.syn (8 * line + i)
  let n := ((List.range 8).filter fun j => (find bs (8 * i + j)).isSome).length
  if n = 8 then 0 else if n = 0 then old else if old = 0 then 0 else 0xFF

/-- A parity stack applies a difference to its unit, whose words get fresh check bits (R91); one with an uncorrectable syndrome, or an
uncorrectable parity word, makes the unit stale (R381). [Log 36: DESIGN CHOICE] -/
def applyDiff (s : State) (d : ParityDiff) : State :=
  let a := localAddr d.pa
  if d.poor || d.bytes.any fun kb => synKind (look 0 s.parSyn ((a + kb.1) / 8)) == .bad then
    { s with stale := if s.stale.contains (stripeOf d.pa) then s.stale else s.stale ++ [stripeOf d.pa] }
  else
    let s := d.bytes.foldl (fun s kb => correctParity s ((a + kb.1) / 8)) s
    { s with parity := d.bytes.foldl (fun m kb => put 0 m (a + kb.1) (look 0 m (a + kb.1) ^^^ kb.2)) s.parity }

/-- Stored bytes of a line written at their data stack (R91, R378): the new state, and the parity difference where one is to be sent. The
difference of a lost unit is applied at its parity stack at once. -/
def putStored (s : State) (id slot die pa : Nat) (bs : Sparse (BitVec 8)) : State × Option ParityDiff :=
  let d : ParityDiff :=
    { id := id, slot := slot, die := die, pa := pa, bytes := bs.map fun kb => (kb.1, kb.2 ^^^ storedByte s (pa + kb.1)), poor := false }
  let t := { s with dev := { s.dev with bytes := wrListed s.dev.bytes pa bs } }
  if s.lost.contains (parityStack pa) then (t, none)
  else if s.lost.contains (dataStack pa) then (applyDiff s d, none)
  else (t, some d)

/-- A base die performs a store to one line (R91, R93, R378). -/
def writeLine (s : State) (id slot die ten line : Nat) (bs : Sparse (BitVec 8)) (tags : Nat) : State × Option ParityDiff :=
  let line := forwardPa s (64 * line) / 64
  let s := (List.range 8).foldl (fun s i => settleWord s (8 * line + i)) s
  let stored := sealedBytes s ten line bs
  let key := writeKey s ten
  putStored { s with
    dev := { s.dev with
      tags := (List.range 4).foldl (fun t i =>
        if bs.any fun kb => kb.1 / 16 == i then put false t (4 * line + i) (bitAt tags i) else t) s.dev.tags
      syn := (List.range 8).foldl (fun t i => put 0 t (8 * line + i) (synStored s.dev line bs i)) s.dev.syn }
    lineKey := if look 0 s.lineKey line = key then s.lineKey else put 0 s.lineKey line key
    keySeq := max s.keySeq key } id slot die (64 * line) stored

/-- A store performed, whose parity difference leaves (R91). [Log 28: DEDUCED; 36: DESIGN CHOICE] -/
def performLine (s : State) (id slot die ten line : Nat) (bs : Sparse (BitVec 8)) (tags : Nat) : State :=
  let r := writeLine s id slot die ten line bs tags
  { r.1 with diffs := r.1.diffs ++ r.2.toList }

/-- A write whose parity difference is applied at once: one of an engine, of an array operation or of a record (R130, R139). -/
def settled (r : State × Option ParityDiff) : State :=
  match r.2 with
  | some d => applyDiff r.1 d
  | none => r.1

/-- Writes bytes at a physical address, line by line in ascending order, each store performed and completed at once (R130, R139).
`tag` marks the granules that keep a tag. -/
def devWrite (s : State) (ten pa : Nat) (bs : List (BitVec 8)) (tag : Bool) : State :=
  (linesOf pa bs).foldl (fun s lm => settled (writeLine s 0 s.cur 0 ten lm.1 lm.2 (if tag then 0xF else 0))) s

/-- Bytes and check bits written as they are, past the cipher (R266): into the data unit, or into the parity unit of the same local
address. -/
def diagLine (s : State) (id slot die pa v : Nat) (syn : BitVec 8) (par : Bool) : State :=
  if par then { s with parity := wrN s.parity (localAddr pa) 8 v, parSyn := put 0 s.parSyn (localAddr pa / 8) syn }
  else
    let r := putStored s id slot die (pa / 64 * 64) (bytesAt (pa % 64) 8 v)
    { r.1 with
      dev := { r.1.dev with syn := put 0 r.1.dev.syn (pa / 8) syn, tags := put false r.1.dev.tags (pa / 16) false }
      diffs := r.1.diffs ++ r.2.toList }

end Sys2Proof.Machine
end

