-- ==== Sys2Proof/Machine/Translate.lean ====
section
/-! DEFINITION. Two-stage translation and the TLBs (05_memory R76-R80, 26_faults_memory R368). A TLB entry covers one translation: the
smaller of the stage-1 and stage-2 sizes, a span of stage 1 counting as one (R78). -/

namespace Sys2Proof.Machine

/-- A failed walk: bits 2:0 `FC`, bit 3 `S2`, bit 4 `STW` (R360, R368), and the intermediate address. -/
structure WalkFault where
  code : Nat
  ia   : Nat
  deriving DecidableEq, Repr

/-- A table entry at a physical address, as a read gives it: corrected, or rebuilt; none when it cannot be read (R368). -/
def tableWord (s : State) (pa : Nat) : Option Nat :=
  if devLimit ≤ pa then none
  else
    let w := forwardPa s pa / 8
    let s := settleWord s w
    if devPoisoned s (8 * w) 8 then none else some (ofBytes ((List.range 8).map fun i => plainByte s (8 * w + i)))

/-- The kinds of access, as bits of a need: 1 R, 2 W, 4 X (R77). -/
def grants (entry need : Nat) : Bool := (entry / 16 % 8) &&& need == need

/-- Stage 2 below a table (R76, R77): output address, size of the leaf and its entry; or `FC`. `n` levels remain.
[Log 82: DESIGN CHOICE] -/
def stage2From (s : State) (table ia need : Nat) : Nat → Nat ⊕ (Nat × Nat × Nat)
  | 0 => .inl 2
  | n + 1 =>
    if devLimit ≤ table then .inl 2
    else
      match tableWord s (table + 8 * fld ia (12 + 9 * n) 9) with
      | none => .inl 2
      | some e =>
        if !bitAt e 0 then .inl 0
        else if bitAt e 1 then (if n = 0 then .inl 2 else stage2From s (fld e 12 40 * 4096) ia need n)
        else
          let size := 2 ^ (12 + 9 * n)
          let oa := fld e 12 40 * 4096
          if 3 ≤ n ∨ oa % size ≠ 0 ∨ fld e 53 11 ≠ 0 then .inl 2
          else if !grants e need then .inl 1
          else if devLimit ≤ oa + ia % size then .inl 2
          else .inr (oa + ia % size, size, e)

/-- Stage 2 of a partition (R76). -/
def stage2 (s : State) (part ia need : Nat) : Nat ⊕ (Nat × Nat × Nat) :=
  stage2From s (fld (s.part part).s2root 12 28 * 4096) ia need 5

/-- The physical addresses of the table entries that a stage-2 walk reads. -/
def stage2Reads (s : State) (table ia : Nat) : Nat → List Nat
  | 0 => []
  | n + 1 =>
    let pa := table + 8 * fld ia (12 + 9 * n) 9
    if devLimit ≤ table then []
    else
      pa :: match tableWord s pa with
        | some e => if bitAt e 0 && bitAt e 1 then stage2Reads s (fld e 12 40 * 4096) ia n else []
        | none => []

/-- The size of a combined translation (R78, R80): the span of a stage-1 leaf of size `size` at `va`, where it lies in one stage-2 leaf
of size `size2`; else the smaller leaf. -/
def combinedSize (size span size2 va ia : Nat) : Nat :=
  let wide := size * 2 ^ span
  let first := ia - va % wide
  if va % wide ≤ ia ∧ first / size2 = (first + wide - 1) / size2 then wide else min size size2

/-- Stage 1 below a table at an intermediate address, and stage 2 of what it yields (R76-R78). [Log 82: DESIGN CHOICE] -/
def stage1From (s : State) (part asid table va need : Nat) (user : Bool) : Nat → WalkFault ⊕ TlbEntry
  | 0 => .inl ⟨2, 0⟩
  | n + 1 =>
    let ea := table + 8 * fld va (12 + 9 * n) 9
    match stage2 s part ea 1 with
    | .inl fc => .inl ⟨fc + 8 + 16, ea⟩
    | .inr (epa, _, _) =>
      match tableWord s epa with
      | none => .inl ⟨2, 0⟩
      | some e =>
        if !bitAt e 0 then .inl ⟨0, 0⟩
        else if bitAt e 1 then
          (if n = 0 then .inl ⟨2, 0⟩ else stage1From s part asid (fld e 12 40 * 4096) va need user n)
        else
          let size := 2 ^ (12 + 9 * n)
          let oa := fld e 12 40 * 4096
          if 3 ≤ n ∨ oa % size ≠ 0 ∨ (if n ≤ 1 then 9 else 4) < fld e 60 4 then .inl ⟨2, 0⟩
          else if !grants e need || (user && !bitAt e 7) then .inl ⟨1, 0⟩
          else
            let ia := oa + va % size
            match stage2 s part ia need with
            | .inl fc => .inl ⟨fc + 8, ia⟩
            | .inr (pa, size2, e2) =>
              let m := combinedSize size (fld e 60 4) size2 va ia
              .inr { part := part, asid := asid, va := va / m * m, size := m, pa := pa - va % m,
                     ia := ia - va % m,
                     perm := (e / 16 % 8 &&& (e2 / 16 % 8)) + (if bitAt e 7 then 8 else 0), grd := bitAt e 59, ridx := fld e 53 6 }

/-- A whole walk for an address space (R76). -/
def walkTables (s : State) (part asid va need : Nat) (user : Bool) : WalkFault ⊕ TlbEntry :=
  stage1From s part asid (fld (s.part part).s1root 12 45 * 4096) va need user 5

/-- The table entries that stage 2 reads for an intermediate address. -/
def reads2Of (s : State) (part ia : Nat) : List Nat := stage2Reads s (fld (s.part part).s2root 12 28 * 4096) ia 5

/-- Table entries read: each corrected or rebuilt where it has to be, and the errors counted (R368, R371, R373). -/
def settleEntries (s : State) (pas : List Nat) : State := pas.foldl (fun s pa => settleWord s (forwardPa s pa / 8)) s

/-- The entries of a stage-2 walk read. -/
def settleStage2 (s : State) (part ia : Nat) : State := settleEntries s (reads2Of s part ia)

/-- The entries of a whole walk read. -/
def settleTables (s : State) (part va : Nat) : State :=
  let reads2 := reads2Of s part
  settleEntries s (reads1 reads2 (fld (s.part part).s1root 12 45 * 4096) 5)
where
  /-- The entries read below a stage-1 table, those of stage 2 among them. -/
  reads1 (reads2 : Nat → List Nat) (table : Nat) : Nat → List Nat
    | 0 => []
    | n + 1 =>
      let ea := table + 8 * fld va (12 + 9 * n) 9
      reads2 ea ++ match stage2 s part ea 1 with
        | .inl _ => []
        | .inr (epa, _, _) =>
          epa :: match tableWord s epa with
            | none => []
            | some e =>
              if !bitAt e 0 then []
              else if bitAt e 1 then reads1 reads2 (fld e 12 40 * 4096) n
              else reads2 (fld e 12 40 * 4096 + va % 2 ^ (12 + 9 * n))

/-- The entries that serve an access: those of the core's data or instruction TLB, then those of the cluster's (R80). -/
def tlbsFor (s : State) (cl : Nat) (core : Option Nat) (need : Nat) : List TlbEntry :=
  (match core with
    | some k => if need = 4 then (s.core k).itlb else (s.core k).dtlb
    | none => []) ++ (s.cluster cl).tlb

/-- Whether a translation permits an access (R77, R80). -/
def TlbEntry.serves (e : TlbEntry) (part asid va need : Nat) (user : Bool) : Bool :=
  e.part == part && e.asid == asid && decide (e.va ≤ va ∧ va < e.va + e.size)
    && e.perm &&& need == need && (!user || bitAt e.perm 3)

/-- The TLB entry that permits the access; where none does, the tables are walked (R80). [Log 35: DESIGN CHOICE] -/
def tlbHit (s : State) (cl : Nat) (core : Option Nat) (part asid va need : Nat) (user : Bool) : Option TlbEntry :=
  (tlbsFor s cl core need).find? fun e => e.serves part asid va need user

/-- The physical address that an entry gives. -/
def TlbEntry.at (e : TlbEntry) (va : Nat) : Nat := e.pa + (va - e.va)

/-- A translation joins a TLB of `n` entries: the one that joined first leaves a full one (R80). [Log 35: DESIGN CHOICE] -/
def joinTlb (n : Nat) (l : List TlbEntry) (e : TlbEntry) : List TlbEntry :=
  if l.contains e then l else let l := l ++ [e]; l.drop (l.length - n)

/-- A translation installed in the cluster's TLB, and in the data or instruction TLB of the core that asked for it (R12, R13, R80); no
entry that is held changes. [Log 35: DESIGN CHOICE] -/
def installTlb (s : State) (cl : Nat) (core : Option Nat) (need : Nat) (e : TlbEntry) : State :=
  let s := s.onCluster cl fun c => { c with tlb := joinTlb 8192 c.tlb e }
  match core with
  | none => s
  | some k =>
    if need = 4 then s.onCore k fun c => { c with itlb := joinTlb 256 c.itlb e }
    else s.onCore k fun c => { c with dtlb := joinTlb 1024 c.dtlb e }

/-- The ASID of a partition (R259). -/
def asidOf (s : State) (part : Nat) : Nat := fld (s.part part).asid 0 16

/-- Adds 1 to a weight version word for each guarded store, through the table that the cluster's word names (R79, R306).
[Log 80: DESIGN CHOICE] -/
def countGuarded (s : State) (cl part : Nat) (ridx : List Nat) : State :=
  let w := (s.cluster cl).wvWord
  if !bitAt w 63 then s
  else
    match reach s cl part (fld w 41 9) with
    | none => s
    | some p => ridx.foldl (fun s r =>
        let ofs := fld w 9 12 * 512 + 8 * r
        sramWrite s p ofs 8 ((sramRead s p ofs 8 + 1) % 2 ^ 64)) s

end Sys2Proof.Machine
end

