-- ==== Sys2Proof/Machine/Sched.lean ====
section
/-! DEFINITION. Continuation records, run lists, record pools and launch accounting (03_execution R38-R47, R54; 17_host R298,
R306; 25_faults_execution R361). -/

namespace Sys2Proof.Machine

/-- Doubleword `k` of the record at an offset of a slice (R40). [Log 84: DESIGN CHOICE] -/
def recDw (s : State) (cl ofs k : Nat) : Nat := sramRead s cl (ofs + 8 * k) 8

/-! ## Context images (R43) -/

/-- The repetition word (R224). -/
def Rep.word (r : Rep) : Nat :=
  (if r.active then 2 ^ 63 else 0) + fld r.ofs 0 12 * 2 ^ 32 + (r.count - 1) % 2 ^ 16 * 2 ^ 16 + r.j % 2 ^ 16

/-- The save word (R310). -/
def saveWord : Option (Nat × Nat) → Nat
  | some (cl, k) => 2 ^ 63 + cl % 2 ^ 9 * 2 ^ 40 + k % 2 ^ 6
  | none => 0

/-- The lines of a context image that are not at zero: registers 1-47 as they are listed, and the reserved numbers 60-63, which hold
`STAT` and `RND`; `FELIM` and the repetition word; the class and the save word; and the rest of the repetition. -/
def Context.lines (c : Context) : Sparse RegVal :=
  c.regs ++
    [(60, RegVal.ofNat (c.stat.toNat + c.rnd.toNat * 2 ^ 64)), (61, RegVal.ofNat (c.felim % 2 ^ 32 + c.rep.word * 2 ^ 64)),
     (62, RegVal.ofNat (c.cls % 2 ^ 64 + saveWord c.save * 2 ^ 64)),
     (63, RegVal.ofNat (c.rep.len % 2 ^ 8 + c.rep.stagger % 2 ^ 8 * 2 ^ 8 + (if c.rep.detached then 2 ^ 16 else 0) + c.rep.fix % 2 ^ 64 * 2 ^ 64))]

/-- Register lines written to the image at a physical address, with their tags and poison marks, under a tenant's key (R43, R93). -/
def writeLines (s : State) (ten pa : Nat) (ls : Sparse RegVal) : State :=
  ls.foldl (fun s rv =>
    let a := pa + 16 * rv.1
    let s := devWrite s ten a (bytesOf 16 rv.2.bits.toNat) rv.2.tag
    if rv.2.psn then { s with dev := s.dev.makePoison (forwardPa s a) 16 } else s) s

/-- A new image: 1 KiB of zeros, and the lines of a new context (R43). [Log 33: DESIGN CHOICE] -/
def allocImage (s : State) (ten pa : Nat) (c : Context) : State :=
  writeLines (devWrite s ten pa (List.replicate 1024 0) false) ten pa c.lines

/-- Line `r` of an image in device memory, its words settled. -/
def imageLine (s : State) (ten pa r : Nat) : RegVal :=
  let a := pa + 16 * r
  ⟨BitVec.ofNat 128 (devRead s ten a 16), look false s.dev.tags (forwardPa s a / 16), devPoisoned s a 16⟩

/-- The context that the image at a physical address holds (R43, R45). [Log 33: DESIGN CHOICE] -/
def readImage (s : State) (ten pa : Nat) : Context × State :=
  let s := devSettle s (forwardPa s pa) 1024
  let dw := fun (r k : Nat) => fld (imageLine s ten pa r).bits.toNat (64 * k) 64
  let w := dw 61 1
  let v := dw 62 1
  let regs := (List.range' 1 47).filterMap fun r => let x := imageLine s ten pa r; if x = RegVal.zero then none else some (r, x)
  ({ regs := regs, stat := BitVec.ofNat 64 (dw 60 0), rnd := BitVec.ofNat 64 (dw 60 1), felim := fld (dw 61 0) 0 32
     rep := if bitAt w 63 then
         { active := true, detached := bitAt (dw 63 0) 16, ofs := fld w 32 12, count := fld w 16 16 + 1, j := fld w 0 16
           len := fld (dw 63 0) 0 8, stagger := fld (dw 63 0) 8 8, fix := dw 63 1 }
       else Rep.none
     cls := dw 62 0, save := if bitAt v 63 then some (fld v 40 9, fld v 0 6) else none }, s)

/-- Slots of a core that hold a thread. -/
def busySlots (s : State) (core : Nat) : Nat := ((List.range 16).filter fun i => (s.slot (16 * core + i)).status != .idle).length

/-- An image leaves the register cache: its lines are written back (R43, R47). -/
def evictImage (s : State) (pa ten : Nat) : State :=
  let s := { s with cached := s.cached.filter fun (m : Nat × Nat × Nat) => m.2.1 != pa }
  match find s.contexts pa with
  | some c => writeLines { s with contexts := del s.contexts pa } ten pa c.lines
  | none => s

/-- A core's register cache holds 64 images, those of its busy slots among them; the image of the thread that left first leaves
(R13). [Log 33: DESIGN CHOICE] -/
def trimCache (s : State) (core : Nat) : State :=
  let mine := s.cached.filter fun m => m.1 == core
  (mine.take (mine.length + busySlots s core - 64)).foldl (fun s m => evictImage s m.2.1 m.2.2) s

/-- The context of an image: as a register cache holds it, else read from device memory (R45). -/
def contextAt (s : State) (ten pa : Nat) : Context × State :=
  match find s.contexts pa with
  | some c => (c, { s with cached := s.cached.filter fun (m : Nat × Nat × Nat) => m.2.1 != pa })
  | none => readImage s ten pa

/-- An image is freed (R43, R47). -/
def dropImage (s : State) (pa : Nat) : State :=
  { s with contexts := del s.contexts pa, cached := s.cached.filter fun (m : Nat × Nat × Nat) => m.2.1 != pa }

/-! ## Records (R40) -/

/-- Doubleword `k` of a record as the part writes it: its `0` fields are zero (R6, R40). -/
def recZero (k w : Nat) : Nat :=
  match k with
  | 0 => setFld w 50 6 0
  | 1 => setFld w 47 17 0
  | _ => w

/-- Replaces the `n` bits from `lo` of doubleword `k` of a record. -/
def setRec (s : State) (cl ofs k lo n v : Nat) : State :=
  sramWrite s cl (ofs + 8 * k) 8 (recZero k (setFld (recDw s cl ofs k) lo n v))

/-- `STATE` of a record (R40). -/
def recState (s : State) (cl ofs : Nat) : Nat := fld (recDw s cl ofs 0) 40 4

/-- `PRIO` of a record (R40). -/
def recPrio (s : State) (cl ofs : Nat) : Nat := fld (recDw s cl ofs 0) 44 4

/-- `CNT` of a record (R40). -/
def recCnt (s : State) (cl ofs : Nat) : Nat := fld (recDw s cl ofs 1) 0 16

/-- The context image of a record (R40). -/
def recCtx (s : State) (cl ofs : Nat) : Nat := fld (recDw s cl ofs 5) 10 30 * 1024

/-- Writes `NV` and `NOFS` of every record of a run list (R40). -/
def linkRun (s : State) (cl : Nat) : List Nat → State
  | [] => s
  | [o] => sramWrite s cl (o + 56) 8 0
  | o :: n :: rest => linkRun (sramWrite s cl (o + 56) 8 (2 ^ 63 + n)) cl (n :: rest)

/-- Sets the run list of a cluster (R44). -/
def setRun (s : State) (cl : Nat) (run : List Nat) : State := linkRun (s.onCluster cl fun c => { c with run := run }) cl run

/-- A record joins the tail of its priority (R44). -/
def runTail (s : State) (cl ofs : Nat) : State :=
  let s := setRec s cl ofs 0 40 4 1
  let p := recPrio s cl ofs
  let (hi, lo) := (s.cluster cl).run.span fun o => decide (p ≤ recPrio s cl o)
  setRun s cl (hi ++ ofs :: lo)

/-- `Decrement` (R54, R251). -/
def decrement (s : State) (cl ofs n : Nat) : State :=
  if n = 0 ∨ recState s cl ofs = 0 then s
  else if recCnt s cl ofs = 0 then setRec s cl ofs 1 45 1 1
  else
    let c := recCnt s cl ofs - n
    let s := setRec s cl ofs 1 0 16 c
    if c = 0 ∧ recState s cl ofs = 3 then runTail s cl ofs else s

/-- The first of `n` items at `base`, `step` apart, that is not in use. [Log 9: DESIGN CHOICE] -/
def firstFree (used : List Nat) (base step : Nat) : Nat → Option Nat
  | 0 => none
  | n + 1 => if used.contains base then firstFree used (base + step) step n else some base

/-- The lowest free record of a cluster's pool (R38, R306). [Log 9: DESIGN CHOICE] -/
def freeRecord (c : Cluster) : Option Nat :=
  if bitAt c.recPool 63 then firstFree c.usedRecs (64 * fld c.recPool 6 15) 64 (fld c.recPool 32 15 + 1) else none

/-- The lowest free context image of a cluster's pool (R38, R306). [Log 9: DESIGN CHOICE] -/
def freeImage (c : Cluster) : Option Nat :=
  if bitAt c.ctxPool 63 then firstFree c.usedCtx (1024 * fld c.ctxPool 10 30) 1024 (fld c.ctxPool 40 23 + 1) else none

/-- What a new record holds (R38, R54). -/
structure NewRec where
  blk  : Nat
  prv  : Nat
  prio : Nat
  cnt  : Nat
  ten  : Nat
  lcl  : Nat
  lid  : Nat
  pair : Bool
  wid  : W64
  p0   : W64
  p1   : W64
  succ : Option (Nat × Nat)
  cls  : Nat
  regs : Sparse RegVal
  deriving DecidableEq, Repr

/-- Builds a record and its image at a home and enqueues it (R38, R43, R54); none while a pool of an owned cluster is empty. -/
def newRecord (s : State) (home : Nat) (r : NewRec) : Option (Nat × State) :=
  match freeRecord (s.cluster home), freeImage (s.cluster home) with
  | some ofs, some pa =>
    let s := s.onCluster home fun c => { c with usedRecs := ofs :: c.usedRecs, usedCtx := pa :: c.usedCtx }
    let s := allocImage s r.ten pa { Context.new with cls := r.cls, regs := r.regs }
    let w := fun (s : State) (k v : Nat) => sramWrite s home (ofs + 8 * k) 8 v
    let s := w s 0 (r.prv * 2 ^ 48 + r.prio * 2 ^ 44 + 3 * 2 ^ 40 + r.blk)
    let s := w s 1 ((if r.pair then 2 ^ 46 else 0) + r.lcl * 2 ^ 36 + r.lid * 2 ^ 28 + r.ten * 2 ^ 16 + r.cnt)
    let s := w (w (w s 2 r.wid.toNat) 3 r.p0.toNat) 4 r.p1.toNat
    let s := w s 5 pa
    let s := w s 6 (match r.succ with | some (vc, o) => 2 ^ 63 + vc * 2 ^ 40 + o | none => 0)
    let s := w s 7 0
    some (ofs, if r.cnt = 0 then runTail s home ofs else s)
  | _, _ => none

/-- Whether a home cannot take a continuation of a paired launch: its pair word has `PV` 0 (R396). [Log 58: DEDUCED] -/
def noPair (s : State) (home : Nat) (pair : Bool) : Bool := pair && !bitAt (s.cluster home).pairW 63

/-- A launch that has met a home with `PV` 0 (R396). -/
def markUnpaired (s : State) (cl lid : Nat) : State :=
  match s.launch cl lid with
  | some l => s.setLaunch cl lid { l with unpaired := true }
  | none => s

/-- A continuation created at a home: of a paired launch twice, with the secondary at the home's partner (R396); none while a pool is
empty. -/
def newConts (s : State) (home : Nat) (r : NewRec) : Option (Nat × State) :=
  let w := (s.cluster home).pairW
  if !r.pair then newRecord s home r
  else if !bitAt w 63 then none
  else
    match newRecord s home r with
    | none => none
    | some (o, s) =>
      match newRecord s (fld w 0 9) r with
      | none => none
      | some (o2, s) =>
        some (o, { s with pairs := s.pairs ++
          [{ pcl := home, pofs := o, scl := fld w 0 9, sofs := o2, n := 0, hp := 0, hs := 0, msgP := [], msgS := [], goP := false, goS := false }] })

/-- Frees a record and its image (R47); where it stood in the run list, the records beside it are linked (R40). -/
def freeRec (s : State) (cl ofs : Nat) : State :=
  let pa := recCtx s cl ofs
  let s := setRec s cl ofs 0 40 4 0
  let s := dropImage { s with orphans := s.orphans.filter (· != (cl, ofs)) } pa
  let s := s.onCluster cl fun c => { c with usedRecs := c.usedRecs.filter (· != ofs), usedCtx := c.usedCtx.filter (· != pa) }
  let run := (s.cluster cl).run
  if run.contains ofs then setRun s cl (run.filter (· != ofs)) else s

/-- A product of a layer is no longer live (R284, R285), if the record is one; `bad` where it was discarded (R400). Its thread's stores drain
before combine. [Log 44: DESIGN CHOICE; 71: DEDUCED] -/
def productGone (s : State) (cl ofs : Nat) (bad : Bool) : State :=
  match s.products.find? fun p => p.cl == cl && p.ofs == ofs with
  | none => s
  | some p =>
    let e := 768 + 5 * p.die + 2
    let x := s.engine e
    State.setEngine { s with products := s.products.erase p } e
      { x with layers := x.layers.map fun (l : Layer) =>
          if l.cmd.seq = p.seq then
            { l with left := l.left - 1, failed := l.failed || bad, drain := l.drain ++ [(thrKey cl ofs, s.nextId)] }
          else l }

/-- Retires a record (R47): frees it, decrements its successor when asked, and reports to the accepting scheduler. A product of a
layer has retired whichever way it ended, and combine waits for that alone (R285). The messages follow the thread's stores (R39, R53). One that cannot
be delivered is dropped with `FCODE` 0x23; one into a fenced cocoon, or to a scheduler that was fenced, is dropped (R394). `src` is the
`HWID`. [Log 71: DEDUCED; 78: DESIGN CHOICE] -/
def retireRec (s : State) (cl ofs src kind : Nat) (dec : Bool) : State :=
  let part := ownerOf s cl
  let w1 := recDw s cl ofs 1
  let w6 := recDw s cl ofs 6
  let after := some (thrKey cl ofs, s.nextId)
  let orphan := s.orphans.contains (cl, ofs)
  let s := freeRec s cl ofs
  let s :=
    if s.products.any fun p => p.cl == cl && p.ofs == ofs then productGone s cl ofs false
    else if dec && bitAt w6 63 then
      match reach s cl part (fld w6 40 10) with
      | some p => if nacked s p then s
        else { s with decs := s.decs ++ [{ part := part, cl := p, ofs := fld w6 0 21, vc := fld w6 40 10, after := after }] }
      | none => faultEntry s cl 0x02 0x23 (fld w1 16 12) src (sramAddr (fld w6 40 10) (fld w6 0 21)) 0
    else s
  let lcl := fld w1 36 9
  if orphan then s
  else
  match vcOf s cl part lcl with
  | some v =>
    if !allowed s cl lcl then faultEntry s cl 0x02 0x23 (fld w1 16 12) src (sramAddr v 0) 0
    else if nacked s lcl then s
    else { s with reports := s.reports ++ [{ cl := lcl, lid := fld w1 28 8, kind := kind, after := after }] }
  | none => faultEntry s cl 0x02 0x23 (fld w1 16 12) src (sramAddr 0 0) 0

/-- Ends a trapped continuation: the abort form of R358. -/
def abortRec (s : State) (cl ofs src : Nat) : State := retireRec s cl ofs src 2 false

/-- A generation-checked fill (R39, R280): `some (true, s)` when it was made, `some (false, s)` when the generation differs, none
when the access fails; of a word of another part's slice the generation is a free value. `eng` is the identifier of the engine that makes it, whose writes to other clusters are logged (R140).
[Log 16: DESIGN CHOICE; 31: DEDUCED] -/
def genFill (s : State) (cl part : Nat) (eng : Option Nat) (c : RegVal) (gen status count : Nat) : Option (Bool × State) :=
  match placeOf c.addr 8 with
  | .sram chip vc ofs =>
    if !isThisChip s chip then
      if !reachesChip s chip then none
      else some (fld (Config.peerData s.free) 48 16 == gen, { s with free := s.free + 1 })
    else
      match reach s cl part vc with
      | some p =>
        if nacked s p then none
        else
          let w := sramRead s p ofs 8
          if fld w 48 16 ≠ gen then some (false, s)
          else
            let t := fillWord s p ofs (gen * 2 ^ 48 + status * 2 ^ 40 + count % 2 ^ 40)
            match eng with
            | some id => some (true, if p = cl then t else traceStore t p ofs 0xFFF id s.chip)
            | none => some (true, t)
      | none => none
  | _ => none

/-- Whether the cluster of a completion word holds requests (R312, R313). -/
def fillHeld (s : State) (cl part : Nat) (c : RegVal) : Bool :=
  match placeOf c.addr 8 with
  | .sram chip vc _ => isThisChip s chip && (reach s cl part vc).any (heldAt s part cl)
  | _ => false

/-- The scheduler fills a completion word (R39, R361) and sends the interrupt that a queue word `q` asks for (R298).
[Log 31: DEDUCED] -/
def fillCompletion (s : State) (cl queue q part ten : Nat) (ldone : RegVal) (gen code count : Nat) : State :=
  match genFill s cl part none ldone gen code count with
  | some (true, s) =>
    if bitAt q 56 then { s with vfIrqs := s.vfIrqs ++ [(fld q 112 6, queue)] } else s
  | some (false, s) =>
    let found := match placeOf ldone.addr 8 with
      | .sram _ vc ofs => (match vcMap s cl part vc with | some p => sramRead s p ofs 8 | none => 0)
      | _ => 0
    faultEntry s cl 0x00 0x10 ten 0 ldone.addr found
  | none => faultEntry s cl 0x00 0x11 ten 0 ldone.addr Cause.access.code

/-- A launch whose live count is zero and whose creations are all sent completes (R39, R361); as UNPAIRED where a continuation was to be created
at a home with `PV` 0 (R396). -/
def completeLaunch (s : State) (cl lid : Nat) : State :=
  match s.launch cl lid with
  | none => s
  | some l =>
    if l.live ≠ 0 ∨ l.next ≠ none then s
    else
      let code := if l.unpaired then 7 else if l.faulted then 3 else if l.halted then 2 else 0
      let s := s.setLaunch cl lid { l with used := false }
      fillCompletion s cl l.queue (look 0 (s.cluster cl).queues l.queue) l.part l.ten l.ldone l.lgen code (if l.unpaired then 0 else l.ended)

/-! ## Pins (R62, R63) -/

/-- Whether a search of a cluster pins a version of a table (R63). -/
def pinnedBy (s : State) (cl hdr ver : Nat) : Bool :=
  s.slots.any fun gx => clusterOf gx.1 == cl && match gx.2.pin with
    | some p => p.1 == hdr && p.2.1 == ver
    | none => false

/-- The lines of a table that are tagged with another version than the known one are dropped once no search pins it (R63). -/
def dropOldLines (s : State) (cl hdr : Nat) : State :=
  let keep := fun (l : MatchLine) => l.hdr != hdr || pinnedBy s cl hdr l.ver ||
    match find (s.cluster cl).known hdr with
    | some v => v.1 == l.ver
    | none => false
  s.onCluster cl fun c => { c with lines := c.lines.filter keep, hdrLines := c.hdrLines.filter keep }

/-- The search of slot `g` is over (R63, R244). -/
def unpin (s : State) (g : Nat) : State :=
  match (s.slot g).pin with
  | none => s
  | some p => dropOldLines (s.onSlot g fun x => { x with pin := none }) (clusterOf g) p.1

/-- A report arrives at its scheduler (R39, R268, R358, R394). -/
def takeReport (s : State) (r : Report) : State :=
  match s.launch r.cl r.lid with
  | none => s
  | some l =>
    completeLaunch (s.setLaunch r.cl r.lid
      { l with
        live := l.live - 1
        ended := if r.kind = 3 then l.ended else l.ended + 1
        halted := l.halted || r.kind == 1
        faulted := l.faulted || r.kind == 2 || r.kind == 3 }) r.cl r.lid

end Sys2Proof.Machine
end

