-- ==== Sys2Proof/Machine/Contain.lean ====
section
/-! DEFINITION. Discarding work, fencing cocoons and excluding dies (28_faults_containment R388-R402). -/

namespace Sys2Proof.Machine

/-- A slot number that no slot has: what a discarded thread's commit or invalidation names. -/
def noSlot : Nat := 49152

/-- What the memory system holds for a thread: its requests, and its drained stores that are not performed (R401). -/
def dropAccesses (s : State) (thr : Nat) : State :=
  { s with net := s.net.filter fun r => r.thr != thr, stores := s.stores.filter fun d => d.thr != thr }

/-- Everything of slot `g` that its core, its cluster and the memory system hold for it, dropped. -/
def dropSlotWork (s : State) (g : Nat) : State :=
  let s := dropAccesses (unpin s g) (thrOf s g)
  let s := { s with
    walks := s.walks.filter fun w => w.isEng || w.owner != g
    commits := s.commits.map fun (c : Commit) => if c.slot = g then { c with slot := noSlot } else c
    invals := s.invals.map fun (v : Inval) => if v.slot = g then { v with slot := noSlot } else v }
  s.onCore (coreOf g) fun c =>
    { c with
      holder := c.holder.filter fun h => h.2 != g
      waiting := c.waiting.filter fun w => w.2 != g
      queue := c.queue.filter fun e => e.slot != g
      oloads := c.oloads.filter fun o => o.slot != g
      seq := match c.seq with | some b => if b.slot = g then none else some b | none => none }

/-- Whether the record at an offset of a cluster is the secondary of a pair (R396). -/
def isSecondary (s : State) (cl ofs : Nat) : Bool := s.pairs.any fun p => p.scl == cl && p.sofs == ofs

/-- A discard report on its way to the scheduler that accepted a record's launch (R394); the copies of a pair are one continuation. -/
def discardReportFor (s : State) (cl ofs : Nat) : State :=
  let w := recDw s cl ofs 1
  if isSecondary s cl ofs || s.orphans.contains (cl, ofs) then s
  else if nacked s (fld w 36 9) then s
  else { s with reports := s.reports ++ [{ cl := fld w 36 9, lid := fld w 28 8, kind := 3, after := none }] }

/-- The slot that runs the record at an offset of a cluster. -/
def runnerOf (s : State) (cl ofs : Nat) : Option Nat :=
  (s.slots.find? fun gx => clusterOf gx.1 == cl && gx.2.status != .idle && gx.2.recOfs == ofs).map (·.1)

/-- The handler entry of a record is not written any more. -/
def dropTrapped (s : State) (p : Nat → Nat → Bool) : State :=
  { s with parts := s.parts.map fun kp =>
      (kp.1, ({ kp.2 with trapped := kp.2.trapped.filter fun (t : Trapped) => !p t.cl t.recOfs } : Partition)) }

/-- Discards a continuation (R394, R399, R403): no write-back, its unperformed accesses dropped, its image freed, a report when asked.
[Log 60: DEDUCED] -/
def discardRec (s : State) (cl ofs : Nat) (report : Bool) : State :=
  let s := productGone (if report then discardReportFor s cl ofs else s) cl ofs true
  let s := match runnerOf s cl ofs with
    | some g => (dropSlotWork s g).setSlot g Slot.reset
    | none => s
  freeRec (dropTrapped (dropAccesses s (thrKey cl ofs)) fun c o => c == cl && o == ofs) cl ofs

/-- A full/empty access of another cluster's thread that stands on the wait list of a cluster leaves it for a NACK (R391, R392). -/
def offWaitList (s : State) (cl : Nat) : State :=
  { s with net := s.net.map fun r =>
      let here := match r.tgt with | .sram c _ => c == cl | _ => false
      if here && (r.phase == .word || r.phase == .noEntry) then { r with phase := .nack } else r }

/-- A cluster after fencing and scrubbing (R391, R392): owner, permissions and queue words stay, with `QEN` 0.
[Log 60: DEDUCED] -/
def resetCluster (s : State) (cl : Nat) : State :=
  let c := s.cluster cl
  let gs := s.slots.filterMap fun gx => if clusterOf gx.1 = cl then some gx.1 else none
  let s := offWaitList (gs.foldl dropSlotWork s) cl
  let s := c.usedRecs.foldl (fun s o => dropAccesses s (thrKey cl o)) s
  let s := dropTrapped s fun c _ => c == cl
  let s := { s with
    orphans := s.orphans.filter fun p => p.1 != cl
    slots := s.slots.filter fun gx => clusterOf gx.1 != cl
    cores := s.cores.filter fun cx => cx.1 / 8 != cl
    engines := s.engines.filter fun ex => !(ex.1 == 2 * cl || ex.1 == 2 * cl + 1)
    walks := s.walks.filter fun w => !(w.isEng && (w.owner == 2 * cl || w.owner == 2 * cl + 1))
    decs := s.decs.filter fun d => d.cl != cl
    contexts := c.usedCtx.foldl (fun m pa => del m pa) s.contexts
    cached := s.cached.filter fun (m : Nat × Nat × Nat) => !c.usedCtx.contains m.2.1
    sram := s.sram.scrub (sramKey cl 0) (2 ^ 21) }
  s.setCluster cl { Cluster.reset with owner := c.owner, perm := c.perm, queues := c.queues.map fun q => (q.1, setFld q.2 63 1 0) }

/-- The fencing logic ends the launches that a cluster inside accepted (R394). [Log 60: DEDUCED] -/
def endLaunches (s : State) (cl : Nat) : State :=
  (s.cluster cl).launches.foldl (fun s kl =>
    if kl.2.used then fillCompletion s cl kl.2.queue (look 0 (s.cluster cl).queues kl.2.queue) kl.2.part kl.2.ten kl.2.ldone kl.2.lgen 3 kl.2.ended else s) s

/-- The continuations outside a set of clusters whose accepting scheduler lies inside run on, and their reports are dropped, those on
their way included (R394). -/
def orphanOf (s : State) (cls : List Nat) : State :=
  let out := s.clusters.flatMap fun kc => if cls.contains kc.1 then [] else
    (kc.2.usedRecs.filter fun o => cls.contains (fld (recDw s kc.1 o 1) 36 9)).map fun o => (kc.1, o)
  { s with
    orphans := out ++ s.orphans.filter fun p => !out.contains p
    reports := s.reports.filter fun r => !cls.contains r.cl }

/-- Discards every continuation of a set of clusters, ends their launches and resets them. [Log 60: DEDUCED] -/
def fenceClusters (s : State) (cls : List Nat) : State :=
  let s := cls.foldl (fun s cl => (s.cluster cl).usedRecs.foldl (fun s o => productGone (discardReportFor s cl o) cl o true) s) s
  let s := orphanOf (cls.foldl endLaunches s) cls
  cls.foldl resetCluster s

/-- The clusters of a cocoon (R388). -/
def cocoonClusters (die w : Nat) : List Nat := (List.range' (96 * die) 96).filter fun cl => inCocoon w cl

/-- Fences a cocoon that is armed and open (R391). `cause` 1 poison, 2 paired mismatch (R320). [Log 60: DEDUCED] -/
def fenceCocoon (s : State) (die n cause : Nat) : State :=
  let d := s.die die
  let w := look 0 d.cocoons n
  if !bitAt w 63 || fld w 61 2 ≠ 0 then s
  else
    let w1 := setFld (setFld w 40 8 (fld w 40 8 + 1)) 61 2 1
    let s := s.setDie die { d with cocoons := ins d.cocoons n w1 }
    let s := fenceClusters s (cocoonClusters die w)
    let d := s.die die
    monitorEvent (s.setDie die { d with cocoons := ins d.cocoons n (setFld w1 61 2 2) }) 7 (die + n * 2 ^ 8) cause

/-- The status word (R402). -/
def statusWord (s : State) : Nat :=
  (if s.hawk.rrq then 2 ^ 63 else 0)
    + (List.range 4).foldl (fun a d => a + (if (s.die d).excluded then 2 ^ (56 + d) else 0)) 0
    + s.lost.foldl (fun a k => a + 2 ^ (40 + k)) 0
    + s.planes.foldl (fun a p => a + 2 ^ (36 + p)) 0
    + s.partStep % 8 * 2 ^ 16 + s.retired.length % 2 ^ 11

/-- Reports a change of the status word (R402). -/
def statusChanged (old new : State) : State :=
  if statusWord old = statusWord new then new else monitorEvent new 11 (statusWord new) 0

/-- Whether a layer of a gate engine has a token placed with an expert on a die, or runs on that die (R400). -/
def layerOnDie (s : State) (die e : Nat) (l : Layer) : Bool :=
  (e - 768) / 5 == die || l.placed.any fun p =>
    match vcMap s l.cmd.kick.cl l.cmd.kick.part ((l.exps.map Expert.home).getD p.2.1 0) with
    | some cl => dieOf cl == die
    | none => false

/-- Marks the layers of an engine that lose a die (R400). -/
def failLayers (s : State) (die : Nat) (ex : Nat × Engine) : Nat × Engine :=
  let mark := fun (l : Layer) => { l with failed := l.failed || layerOnDie s die ex.1 l }
  (ex.1, { ex.2 with layers := ex.2.layers.map mark })

/-- The layers of a gate engine on a lost die: the gate's fill of `GDONE` comes once the surviving products have retired (R400), by the map of
a cluster that is left. Everything else of the engines of that die is gone. -/
def keepLayers (s : State) (ex : Nat × Engine) : Nat × Engine :=
  let keep := fun (l : Layer) =>
    { l with failed := true, cmd := { l.cmd with kick := { l.cmd.kick with cl := linkCopy s l.cmd.kick.part } } }
  (ex.1, { ex.2 with kicks := [], cmds := [], layers := ex.2.layers.map keep })

/-- Excludes a compute die from service (R399). [Log 60: DEDUCED] -/
def excludeDie (s : State) (die cause : Nat) : State :=
  if (s.die die).excluded then s
  else
    let old := s
    let cls := List.range' (96 * die) 96
    let hurt := cls.flatMap fun cl => (s.cluster cl).usedRecs.map fun o => (fld (recDw s cl o 1) 36 9, fld (recDw s cl o 1) 28 8)
    let s := s.setDie die { s.die die with excluded := true }
    let s := fenceClusters s cls
    let here := fun (e : Nat) => decide (768 + 5 * die ≤ e ∧ e < 773 + 5 * die)
    let s := { s with
      engines := s.engines.map fun (ex : Nat × Engine) => if here ex.1 then keepLayers s ex else failLayers s die ex
      walks := s.walks.filter fun w => !(w.isEng && here w.owner) }
    let s := hurt.foldl (fun s h => match s.launch h.1 h.2 with
      | some l => s.setLaunch h.1 h.2 { l with faulted := true, next := none }
      | none => s) s
    let others := s.clusters.flatMap fun kc =>
      if dieOf kc.1 = die then [] else (kc.2.usedRecs.map fun o => (kc.1, o)).filter fun co =>
        let w := recDw s co.1 co.2 1
        dieOf (fld w 36 9) == die || hurt.contains (fld w 36 9, fld w 28 8)
    let s := others.foldl (fun s co => discardRec s co.1 co.2 true) s
    let s := { s with hawk := { s.hawk with rrq := true } }
    statusChanged old (monitorEvent s 6 die cause)

end Sys2Proof.Machine
end

