-- ==== Sys2Proof/Machine/Ops.lean ====
section
/-! DEFINITION. The shared operations of a thread: the gather buffer, output ports, claims and save areas, taking a trap and
returning from one, and how a word issues, parks or traps (03_execution R46-R51, 07_matrix R108, 08_consistency R125-R137,
12_insn_memory R217-R219, 17_host R310, 24_exceptions_insn R344-R352, 25_faults_execution R355-R358). -/

namespace Sys2Proof.Machine

/-- What an operation of a thread comes to: it goes on, it meets a trap cause with its `INFO`, or it waits and the word issues
again. -/
inductive Res (α : Type) where
  | ok (a : α) (s : State)
  | trap (c : Cause) (info : Nat)
  | wait (w : Wait) (s : State)

/-- One operation after another. -/
def Res.bind {α β : Type} (r : Res α) (f : α → State → Res β) : Res β :=
  match r with
  | .ok a s => f a s
  | .trap c i => .trap c i
  | .wait w s => .wait w s

/-- A check: the cause when it fails. -/
def check (b : Bool) (c : Cause) (s : State) : Res Unit := if b then .ok () s else .trap c 0

/-! ## The gather buffer -/

/-- A line is sent as one posted store (R129). -/
def drainLine (s : State) (g : Nat) (l : GatherLine) : State :=
  { s.bump with stores := s.stores ++ [{ id := s.nextId, die := dieOf (clusterOf g), slot := g, thr := thrOf s g, line := l.line,
                                         ten := l.ten, bytes := l.bytes, tags := l.tags, grd := l.grd }] }

/-- Drains the lines of slot `g` that satisfy `p`, oldest first (R129). -/
def drainWhere (s : State) (g : Nat) (p : GatherLine → Bool) : State :=
  let ls := (s.slot g).gather
  let s := (ls.filter p).foldl (fun s l => drainLine s g l) s
  s.onSlot g fun x => { x with gather := ls.filter fun l => !p l }

/-- Drains the whole buffer. -/
def drainAll (s : State) (g : Nat) : State := drainWhere s g fun _ => true

/-- Overwrites listed bytes. -/
def overwrite (m bs : Sparse (BitVec 8)) : Sparse (BitVec 8) := bs.foldl (fun m kb => ins m kb.1 kb.2) m

/-- The tag bits of a line after a store to listed bytes: the stored tag for `st.c`, otherwise cleared (R129). -/
def lineTags (old : Nat) (bs : Sparse (BitVec 8)) (tag : Bool) : Nat :=
  (List.range 4).foldl (fun t i => if bs.any fun kb => kb.1 / 16 == i then setFld t i 1 (if tag then 1 else 0) else t) old

/-- Whether the translation of an entry overlaps the range of an invalidation (R262). -/
def Inval.covers (v : Inval) (e : TlbEntry) : Bool :=
  e.part == v.part && (v.asid.all fun a => a == e.asid) &&
    (if v.s2 then decide (e.ia < v.hi ∧ v.lo < e.ia + e.size) else decide (e.va < v.hi ∧ v.lo < e.va + e.size))

/-- A store to device memory enters the gather buffer, through a translation (R129); a fifth line drains the oldest, a full line drains, and
so does one that is stored through a translation that a `tlbi` not yet complete concerns (R263, R370). -/
def gatherPut (s : State) (g pa : Nat) (e : Option TlbEntry) (bs : Sparse (BitVec 8)) (tag : Bool) (grd : List Nat) : State :=
  let x := s.slot g
  let line := pa / 64
  let s :=
    if x.gather.any fun l => l.line == line then
      s.setSlot g { x with gather := x.gather.map fun l =>
        if l.line = line then
          { l with bytes := overwrite l.bytes bs, tags := lineTags l.tags bs tag
                   grd := l.grd ++ grd.filter fun r => decide (r < 64) || !l.grd.contains r
                   via := l.via ++ e.toList.filter fun t => !l.via.contains t }
        else l }
    else
      let s := match x.gather with
        | l :: _ :: _ :: _ :: _ => drainWhere s g fun k => k.line == l.line
        | _ => s
      s.onSlot g fun x => { x with gather := x.gather ++
        [{ line := line, via := e.toList, ten := x.ten, bytes := overwrite [] bs, tags := lineTags 0 bs tag,
           grd := grd }] }
  drainWhere s g fun l => l.line == line && (l.bytes.length == 64 || e.any fun t => s.invals.any fun v => v.covers t)

/-- The bytes that the thread's own buffer holds of an access, by offset in the access, and the tag bit of its granule (R128). -/
def gatherView (s : State) (g pa n : Nat) : Sparse (BitVec 8) × Option Bool :=
  match (s.slot g).gather.find? fun l => l.line == pa / 64 with
  | none => ([], none)
  | some l =>
    let o := pa % 64
    let bs := l.bytes.filterMap fun kb => if o ≤ kb.1 ∧ kb.1 < o + n then some (kb.1 - o, kb.2) else none
    (bs, if l.bytes.any fun kb => kb.1 / 16 == o / 16 then some (bitAt l.tags (o / 16)) else none)

/-- Bytes with listed ones laid over them. -/
def overlay (bs : List (BitVec 8)) (own : Sparse (BitVec 8)) : List (BitVec 8) :=
  bs.zipIdx.map fun bi => (find own bi.2).getD bi.1

/-- `n` bytes of device memory as slot `g` sees them now: its own buffer over its drained stores over memory (R128). -/
def devSeen (s : State) (g pa : Nat) : Nat → List (BitVec 8)
  | 0 => []
  | n + 1 =>
    let own := match (s.slot g).gather.find? fun l => l.line == pa / 64 with
      | some l => find l.bytes (pa % 64)
      | none => none
    let posted := (s.stores.filter fun d => d.thr == thrOf s g && d.line == pa / 64).foldl
      (fun acc d => match find d.bytes (pa % 64) with | some b => some b | none => acc) none
    (own <|> posted).getD (keyedByte s (s.slot g).ten (forwardPa s pa)) :: devSeen s g (pa + 1) n

/-! ## Output ports -/

/-- `MODE` of `RND` of slot `g` (R101). -/
def rndMode (s : State) (g : Nat) : Nat := fld (s.slot g).ctx.rnd.toNat 0 3

/-- `SAT` of `RND` of slot `g` (R101). -/
def rndSat (s : State) (g : Nat) : Bool := bitAt (s.slot g).ctx.rnd.toNat 3

/-- Port `p` (48-55) of a slot. -/
def Slot.port (x : Slot) (p : Nat) : Port :=
  look { dir := 0, cap := RegVal.zero, desc := 0, pos := 0, fetched := [], nextIn := 0, part := [], openV := [], block := none, outQ := [] }
    x.ports p

/-- Replaces port `p` of slot `g`. -/
def setPort (s : State) (g p : Nat) (q : Port) : State := s.onSlot g fun x => { x with ports := ins x.ports p q }

/-- An element of an output port is written at its target (R214): a device element enters the gather buffer; one that a fenced cocoon
answers is dropped and reported (R393). -/
def writeElem (s : State) (g : Nat) (e : OutElem) : State :=
  match e.tgt with
  | .sram cl ofs =>
    if nacked s cl then faultEntry s (clusterOf g) 0x02 0x50 (s.slot g).ten (hwid g) e.ea (nackAux s cl)
    else
      match foreignQueue s (partOf s g) cl ofs e.len with
      | some q => dropQueueWrite s cl q e.ea s.chip
      | none => traceFrom (sramWrite s cl ofs e.len e.data) g cl ofs
  | .dev pa => gatherPut s g pa e.via (bytesAt (pa % 64) e.len e.data) false e.grd
  | .peer _ =>
    match placeOf e.ea 1 with
    | .exported .. => gatherPut s g (exportLine + e.ea) none (bytesAt (e.ea % 64) e.len e.data) false []
    | _ => s
  | _ => s

/-- Whether the target of an element of slot `g` does not take it (R300, R393). -/
def elemRefused (s : State) (g : Nat) (e : OutElem) : Bool :=
  match e.tgt with
  | .sram cl ofs => nacked s cl || (foreignQueue s (partOf s g) cl ofs e.len).isSome
  | _ => false

/-- A target `n` bytes further on. -/
def Target.plus (t : Target) (n : Nat) : Target :=
  match t with
  | .sram cl ofs => .sram cl (ofs + n)
  | .dev pa => .dev (pa + n)
  | .ctl cl ofs => .ctl cl (ofs + n)
  | .peer chip => .peer chip

/-- The first 16-byte access of a block that an output port writes (R202); its store counts once, with the last one (R79). -/
def OutElem.first (e : OutElem) : OutElem := { e with len := 16, data := e.data % 2 ^ 128, grd := [] }

/-- What is left of a block after its first 16-byte access. -/
def OutElem.rest (e : OutElem) : OutElem :=
  { e with tgt := e.tgt.plus 16, ea := e.ea + 16, len := e.len - 16, data := e.data / 2 ^ 128 }

/-- An output port makes an access for element `e`, the `k`-th that it has still to write (R202, R214): the whole element, or the next 16
bytes of a block. A block that is refused is dropped whole. -/
def writeNext (s : State) (g p k : Nat) (e : OutElem) : State :=
  let q := (s.slot g).port p
  if e.len ≤ 16 || elemRefused s g e then writeElem (setPort s g p { q with outQ := q.outQ.eraseIdx k }) g e
  else writeElem (setPort s g p { q with outQ := q.outQ.set k e.rest }) g e.first

/-- Appends an element to those that an output port has still to write, under the next number of the thread's accesses (R214).
[Log 63: DEDUCED] -/
def putElem (s : State) (g p : Nat) (e : OutElem) : State :=
  let q := (s.slot g).port p
  setPort s.bump g p { q with outQ := q.outQ ++ [{ e with id := s.nextId }] }

/-- Closes the open block of an output port: missing values are +0, and the flags join `STAT` (R106, R217).
[Log 63: DEDUCED] -/
def closeBlock (s : State) (g p : Nat) : State :=
  let q := (s.slot g).port p
  match q.block with
  | none => s
  | some e =>
    let f := fld q.desc.toNat 16 8
    let n := elemsOf (elemBits f)
    let xs := (q.openV ++ List.replicate (n - q.openV.length) (0 : BitVec 32)).map fun v => decodeFloat fp32 v.toNat
    let (b, fl) := encodeBlock f (rndMode s g) (rndSat s g) xs
    let s := setPort (orFlags s g fl) g p { q with openV := [], block := none }
    putElem s g p { e with data := b }

/-- Unbinds a port (R219): unpopped elements are discarded, an open block is closed, appended elements go on being written. -/
def unbindPort (s : State) (g p : Nat) : State :=
  let s := closeBlock s g p
  let q := (s.slot g).port p
  setPort s g p { q with dir := 0, fetched := [], part := [], openV := [], pos := 0, nextIn := 0 }

/-- The appended elements of every port of slot `g` are written, port by port (R214). -/
def writePorts (s : State) (g : Nat) : State :=
  ((s.slot g).ports.map (·.1)).foldl (fun s p =>
    let q := (s.slot g).port p
    q.outQ.foldl (fun s e => writeElem s g e) (setPort s g p { q with outQ := [] })) s

/-- Every open output block is closed. -/
def closeBlocks (s : State) (g : Nat) : State := ((s.slot g).ports.map (·.1)).foldl (fun s p => closeBlock s g p) s

/-- Every output port writes its appended elements, then every port is unbound (R219, R244). [Log 63: DEDUCED] -/
def flushPorts (s : State) (g : Nat) : State :=
  (writePorts (closeBlocks s g) g).onSlot g fun x => { x with ports := [] }

/-! ## Claims -/

/-- The resources that slot `g` holds (R108). -/
def heldBy (s : State) (g : Nat) : List Nat :=
  (s.core (coreOf g)).holder.filterMap fun h => if h.2 = g then some h.1 else none

/-- Grants a resource: a slot's header becomes zero, an accumulator +0 in FP32 mode (R108). -/
def grantRes (c : Core) (n g : Nat) : Core :=
  let c := { c with holder := ins c.holder n g }
  if n < 16 then { c with hdrs := del c.hdrs n }
  else
    let a := n - 16
    { c with
      acc := c.acc.filter fun e => e.1 / 4096 != a
      accPsn := c.accPsn.filter fun k => k / 4096 != a
      accInt := del c.accInt a }

/-- Releases a resource; the first thread that waits for it receives it (R108). -/
def releaseRes (c : Core) (n : Nat) : Core :=
  let c := { c with holder := del c.holder n }
  match c.waiting.find? fun w => w.1 == n with
  | some w => grantRes { c with waiting := c.waiting.erase w } n w.2
  | none => c

/-- Releases every claim of slot `g`. -/
def releaseAll (s : State) (g : Nat) : State :=
  (heldBy s g).foldl (fun s n => s.onCore (coreOf g) fun c => releaseRes c n) s

/-- The bytes of an accumulator: its elements, then its row sums (R108). -/
def accBytes (c : Core) (a : Nat) : List (BitVec 8) := (rangeOf 0 2080 (4096 * a) c.acc).flatMap fun v => bytesOf 4 v.toNat

/-- Sets an accumulator from its bytes. -/
def setAccBytes (c : Core) (a : Nat) (bs : List (BitVec 8)) : Core :=
  { c with acc := setRange 0 c.acc (4096 * a) ((chunks 4 2080 bs).map fun w => BitVec.ofNat 32 (ofBytes w)) }

/-- The bytes of operand slot `n`. -/
def opBytes (c : Core) (n len : Nat) : List (BitVec 8) := rangeOf 0 len (16384 * n) c.opmem

/-- The ports of slot `g` that are bound. -/
def boundPorts (s : State) (g : Nat) : List Nat :=
  (s.slot g).ports.filterMap fun p => if p.2.dir = 0 then none else some p.1

/-- Whether slot `g` holds claims or bound ports (R309, R355). -/
def holdsAny (s : State) (g : Nat) : Bool := !(heldBy s g).isEmpty || !(boundPorts s g).isEmpty

/-- A byte with the poison mark of its word. -/
abbrev MByte := BitVec 8 × Bool

/-- Bytes that are not poisoned. -/
def cleanBytes (bs : List (BitVec 8)) : List MByte := bs.map fun b => (b, false)

/-- Makes the words of a slice or of device memory that hold marked bytes poison (R372). [Log 12: DESIGN CHOICE] -/
def poisonAt (st : Store) (a : Nat) (xs : List MByte) : Store :=
  xs.zipIdx.foldl (fun st xi => if xi.1.2 then st.makePoison (a + xi.2) 1 else st) st

/-- Makes the words of device memory that hold marked bytes poison, page by page (R372, R376). -/
def poisonPages (s : State) (pa : Nat) (xs : List MByte) : State :=
  { s with dev := xs.zipIdx.foldl (fun (st : Store) xi => if xi.1.2 then st.makePoison (forwardPa s (pa + xi.2)) 1 else st) s.dev }

/-- The bytes of operand slot `n` as they are saved, with the poison that a soft error left (R395). -/
def opSaved (c : Core) (n : Nat) : List MByte :=
  (opBytes c n 16384).zipIdx.map fun bi => (bi.1, c.opPsn.contains (2048 * n + bi.2 / 8))

/-- The bytes of an accumulator as they are saved, with the poison that a soft error left (R395). -/
def accSaved (c : Core) (a : Nat) : List MByte :=
  (accBytes c a).zipIdx.map fun bi => (bi.1, c.accPsn.any fun k => k / 4096 == a && k % 4096 % 2080 / 2 == bi.2 / 8)

/-- The open output values of a port record, FP32 words lowest first: six in the record, the next 96 at 0x400 + 0x180 × the port, the
rest in `State.openVals` (R279). [Log 33: DESIGN CHOICE] -/
def openPieces (q : Port) (i : Nat) : List MByte × Nat × List MByte :=
  let bs := fun (vs : List (BitVec 32)) => cleanBytes (vs.flatMap fun v => bytesOf 4 v.toNat)
  (bs (q.openV.take 6), 0x400 + 0x180 * i, bs ((q.openV.drop 6).take 96))

/-- The bytes of a save area for slot `g`, in pieces, each with the tag of its first granule (R279): only the resources held. -/
def savePieces (s : State) (g : Nat) : List (Nat × List MByte × Bool) :=
  let c := s.core (coreOf g)
  let held := heldBy s g
  let ports := boundPorts s g
  let mask := held.foldl (fun m n => m + 2 ^ n) 0 + ports.foldl (fun m p => m + 2 ^ (24 + (p - 48))) 0
  let modes := held.foldl (fun m n => if 16 ≤ n ∧ look false c.accInt (n - 16) then m + 2 ^ (n - 16) else m) 0
  let num := fun (n v : Nat) => cleanBytes (bytesOf n v)
  [(0, num 8 mask, false), (0x140, num 8 modes, false)]
    ++ (held.filter (· < 16)).flatMap (fun n =>
        [(0x40 + 16 * n, num 16 (look 0 c.hdrs n).toNat, false), (0x1000 + 16384 * n, opSaved c n, false)])
    ++ (held.filter (16 ≤ ·)).map (fun n => (0x41000 + 8320 * (n - 16), accSaved c (n - 16), false))
    ++ ports.flatMap fun p =>
        let q := (s.slot g).port p
        let v := openPieces q (p - 48)
        [(0x200 + 64 * (p - 48), num 16 q.cap.bits.toNat ++ num 16 q.desc.toNat
            ++ num 8 (q.pos % 2 ^ 32 + 2 ^ 32 * q.dir + 2 ^ 40 * q.openV.length) ++ v.1, q.cap.tag),
         (v.2.1, v.2.2, false)]

/-- The size of a save area (R279). -/
def saveSize : Nat := 0x51400

/-- The free save area of a cluster with the lowest number (R310). [Log 9: DESIGN CHOICE] -/
def freeArea (c : Cluster) : Option Nat :=
  if bitAt c.saveBase 63 then (List.range 64).find? fun k => !c.saveUsed.contains k else none

/-- The physical address of save area `k` of a cluster (R310). -/
def areaPa (c : Cluster) (k : Nat) : Nat := fld c.saveBase 12 28 * 4096 + 0x52000 * k

/-- The context engine saves the resources of slot `g` to a physical save area and releases them (R279, R310); none when the
memory system refuses the writes (R365). -/
def saveTo (s : State) (g pa : Nat) : Option State :=
  if devLimit < pa + saveSize ∨ s.stopped then none
  else
    let ports := boundPorts s g
    let s' := (savePieces s g).foldl (fun s p => savedPiece s (s.slot g).ten (pa + p.1) p.2.1 p.2.2) s
    let s' := ports.foldl (fun s' p => { s' with
      openVals := ins s'.openVals (8 * (pa / 4096) + (p - 48)) (((s.slot g).port p).openV.drop 102, ((s.slot g).port p).block) }) s'
    let s' := s'.onSlot g fun x => { x with ports := x.ports.filter fun p => p.2.dir = 0 }
    some (releaseAll s' g)
where
  /-- A piece written past the gather buffer, its poison with it. -/
  savedPiece (s : State) (ten pa : Nat) (xs : List MByte) (tag : Bool) : State :=
    let s := devWrite s ten pa (xs.map (·.1)) false
    let s := if tag then { s with dev := { s.dev with tags := put false s.dev.tags (forwardPa s pa / 16) true } } else s
    poisonPages s pa xs

/-- The resources of a save area's mask (R279). -/
def areaRes (s : State) (g pa : Nat) : List Nat :=
  let mask := devRead s (s.slot g).ten pa 8
  (List.range 24).filter (bitAt mask)

/-- Claims the resources of a save area as R108 states (R310): those that are free are granted, and for each that another thread holds the
thread waits in the order of arrival. -/
def claimArea (s : State) (g pa : Nat) : State :=
  (areaRes s g pa).foldl (fun s n => s.onCore (coreOf g) fun c =>
    match find c.holder n with
    | none => grantRes c n g
    | some h => if h = g || c.waiting.contains (n, g) then c else { c with waiting := c.waiting ++ [(n, g)] }) s

/-- A save area restored into slot `g` (R279): `rd` reads bytes at an offset, `tag` the tag of the granule there, and `key` names the
area's open output values. -/
def restoreArea (s : State) (g : Nat) (rd : Nat → Nat → List (BitVec 8)) (tag : Nat → Bool) (key : Nat) : State :=
  let mask := ofBytes (rd 0 8)
  let modes := ofBytes (rd 0x140 8)
  let s := (List.range 24).foldl (fun s n =>
    if !bitAt mask n then s
    else s.onCore (coreOf g) fun c =>
      let c := grantRes c n g
      if n < 16 then
        { c with
          hdrs := put 0 c.hdrs n (BitVec.ofNat 128 (ofBytes (rd (0x40 + 16 * n) 16)))
          opmem := setRange 0 c.opmem (16384 * n) (rd (0x1000 + 16384 * n) 16384)
          opPsn := c.opPsn.filter fun k => k / 2048 != n }
      else { setAccBytes c (n - 16) (rd (0x41000 + 8320 * (n - 16)) 8320) with
             accInt := if bitAt modes (n - 16) then ins c.accInt (n - 16) true else c.accInt }) s
  (List.range 8).foldl (fun s i =>
    if !bitAt mask (24 + i) then s
    else
      let o := 0x200 + 64 * i
      let pos := ofBytes (rd (o + 32) 8)
      let desc := ofBytes (rd (o + 16) 16)
      let per := if bitAt desc 8 then elemsOf (elemBits (fld desc 16 8)) else 1
      let kept := look ([], none) s.openVals (8 * key + i)
      let n := fld pos 40 8
      let vals := (chunks 4 n (rd (o + 40) 24 ++ rd (0x400 + 0x180 * i) 384)).map fun w => BitVec.ofNat 32 (ofBytes w)
      setPort s g (48 + i)
        { (s.slot g).port (48 + i) with
          dir := fld pos 32 2, pos := pos % 2 ^ 32, nextIn := pos % 2 ^ 32 / per, fetched := [], part := []
          cap := ⟨BitVec.ofNat 128 (ofBytes (rd o 16)), tag o, false⟩, desc := BitVec.ofNat 128 desc
          openV := vals.take (n - kept.1.length) ++ kept.1, block := if n = 0 then none else kept.2 }) s

/-- The context engine restores a save area into slot `g` (R310). -/
def restoreFrom (s : State) (g pa : Nat) : State :=
  restoreArea s g (fun o n => devBytes s (s.slot g).ten (pa + o) n) (fun o => look false s.dev.tags (forwardPa s (pa + o) / 16)) (pa / 4096)

/-! ## Traps -/

/-- A table write, which its thread does not wait for when it leaves its slot: it may be held for a commit that itself waits for the
thread's search (R65, R66). -/
def MemOp.lasting : MemOp → Bool
  | .tblWr .. => true
  | .tblSync _ => true
  | _ => false

/-- Whether slot `g` has no outstanding result, access, appended element, matrix operation or `oload`, and no body of its with the
sequencer (R309, R355 step 1). [Log 66: DEDUCED] -/
def quiet (s : State) (g : Nat) : Bool :=
  let c := s.core (coreOf g)
  (s.slot g).results.isEmpty && !(s.net.any fun r => r.slot == g && !r.op.lasting) && !(s.commits.any fun c => c.slot == g)
    && ((s.slot g).ports.all fun p => p.2.outQ.isEmpty)
    && !(c.queue.any fun e => e.slot == g) && !(c.oloads.any fun o => o.slot == g)
    && (match c.seq with | some b => b.slot != g | none => true)

/-- The register lines of a slot's thread stay in the register cache when it leaves (R47). -/
def keepImage (s : State) (g : Nat) : State :=
  let x := s.slot g
  { s with
    contexts := ins s.contexts x.ctxPa x.ctx
    cached := (s.cached.filter fun (m : Nat × Nat × Nat) => m.2.1 != x.ctxPa) ++ [(coreOf g, x.ctxPa, x.ten)] }

/-- Writes back the record of slot `g` with a state and a cause; its register lines stay in the register cache (R47, R355). -/
def writeBack (s : State) (g cause st blk ofs : Nat) (p0 : W64) : State :=
  let x := s.slot g
  let cl := clusterOf g
  let w := recDw s cl x.recOfs 0
  let w := setFld (setFld (setFld (setFld (setFld (recZero 0 w) 56 8 cause) 40 4 st) 36 4 x.lact) 24 12 ofs) 0 24 blk
  keepImage (sramWrite (sramWrite s cl x.recOfs 8 w) cl (x.recOfs + 24) 8 p0.toNat) g

/-- The results of walks that wait for an access of slot `g`, and what `portwr` has completed for it, are given up. -/
def dropGot (s : State) (g : Nat) : State := { s with walks := s.walks.filter fun w => w.isEng || w.owner != g || w.phase != .done }

/-- The slot becomes Idle (R47). Elements that unbound ports still write are written first. -/
def idleSlot (s : State) (g : Nat) : State :=
  (dropGot (drainAll (writePorts s g) g) g).setSlot g Slot.reset

/-- Whether the handler queue of a partition can take entries, as a cluster's map stands (R357). -/
def trapQueue (s : State) (cl part : Nat) : Option Nat :=
  let q := (s.part part).trapq
  if bitAt q 63 then vcMap s cl part (fld q 49 10) else none

/-- A save-area write fails: it is reported in the cluster's fault ring and to host firmware (R365). -/
def saveFailed (s : State) (g pa : Nat) : State :=
  monitorEvent (faultEntry s (clusterOf g) 0x13 0x30 (s.slot g).ten 0 pa (hwid g)) 8 (hwid g) pa

/-- Whether a visit or a trap has claims or ports of slot `g` to save and no save area that takes them (R310, R365).
[Log 45: DEDUCED] -/
def cannotSave (s : State) (g : Nat) : Bool :=
  let c := s.cluster (clusterOf g)
  holdsAny s g && match freeArea c with
    | some k => decide (devLimit < areaPa c k + saveSize) || s.stopped
    | none => true

/-- Whether an output port of slot `g` holds an open block. -/
def openBlocks (s : State) (g : Nat) : Bool := (s.slot g).ports.any fun p => p.2.block.isSome

/-- Saves the claims and ports of slot `g` in a free area, or releases them (R310, R355 step 3, R365); the mark says that they were
released. -/
def saveOrRelease (s : State) (g : Nat) : State × Bool :=
  if !holdsAny s g then (s, false)
  else
    let cl := clusterOf g
    let c := s.cluster cl
    match freeArea c with
    | some k =>
      match saveTo s g (areaPa c k) with
      | some s =>
        ((s.onSlot g fun x => { x with ctx := { x.ctx with save := some (cl, k) } }).onCluster cl fun c =>
          { c with saveUsed := k :: c.saveUsed }, false)
      | none => (releaseAll (flushPorts (saveFailed s g (areaPa c k)) g) g, true)
    | none => (releaseAll (flushPorts s g) g, true)

/-- TAKING A TRAP, once nothing of the thread is outstanding (R355 steps 2 to 5): where nothing can be saved, open blocks are closed and
written first (R202, R219); then the gather buffer drains, claims and ports are saved or released, the record receives `CAUSE`, `STATE` 4, `BLK`, `OFS`, `LACT` and `P0`, the thread's search is unpinned, and the
record waits for its handler entry. Without a handler queue the continuation ends as by the abort form of R358 (R357).
[Log 23: DEDUCED] -/
def deliverTrap (s : State) (g : Nat) : State :=
  match (s.slot g).trap with
  | none => s
  | some t =>
    if cannotSave s g && openBlocks s g then closeBlocks s g
    else
    let cl := clusterOf g
    let part := partOf s g
    let (s, lost) := saveOrRelease (drainAll s g) g
    let s := drainAll s g
    let x := s.slot g
    let s := unpin (writeBack s g t.cause.code 4 x.blk t.ofs t.p0) g
    let s := idleSlot s g
    match trapQueue s cl part with
    | none => abortRec s cl x.recOfs (hwid g)
    | some _ =>
      let b := fun (c : Bool) (i : Nat) => if c then 2 ^ i else 0
      let dw0 := t.cause.code * 2 ^ 56 + b t.deferred 55 + b t.rv 54 + b (x.status == .handover) 53 + b lost 52
        + t.j % 2 ^ 16 * 2 ^ 36 + t.ofs % 2 ^ 12 * 2 ^ 24 + x.blk % 2 ^ 24
      s.setPart part { s.part part with trapped := (s.part part).trapped ++
        [{ cl := cl, recOfs := x.recOfs, dw0 := dw0, info := t.info, after := some (thrKey cl x.recOfs, s.nextId) }] }

/-- Whether the operation of slot `g` with a number among its accesses is under way: in the array's queue, or an `oload`. -/
def opLive (s : State) (g n : Nat) : Bool :=
  let c := s.core (coreOf g)
  (c.queue.any fun e => e.slot == g && e.since == n) || c.oloads.any fun o => o.slot == g && o.since == n

/-- Slot `g` raises a trap: delivered at once when nothing is outstanding, else when that has returned (R355 step 1). The
sequencer discards what it has not sent. In an armed cocoon POISON fences the cocoon instead (R390). [Log 23: DEDUCED] -/
def raise (s : State) (g : Nat) (t : PendTrap) : State :=
  match (if t.cause = .poison then cocoonOf s (clusterOf g) else none) with
  | some n => fenceCocoon s (dieOf (clusterOf g)) n 1
  | none =>
    let s := s.onCore (coreOf g) fun c =>
      { c with
        waiting := c.waiting.filter fun w => w.2 != g
        seq := match c.seq with | some b => if b.slot = g then none else some b | none => none }
    let s := { s with walks := s.walks.filter fun w => w.isEng || w.owner != g || w.num.any (opLive s g) }
    let s := s.onSlot g fun x =>
      { x with status := if x.status = .handover then .handover else .trapping, trap := some t, deferred := none, skip := 0,
               mark := false, fence := none }
    if quiet s g then deliverTrap s g else s

/-- The trap of the word at the slot's offset, with a cause and its `INFO` (R344, R357). [Log 23: DEDUCED] -/
def trapHere (s : State) (g : Nat) (c : Cause) (info : Nat) : State :=
  let x := s.slot g
  raise s g { cause := c, ofs := x.ofs, deferred := false, rv := x.ctx.rep.active, j := x.ctx.rep.j, info := info % 2 ^ 64,
              p0 := x.p0 }

/-- A software trap, whose record receives the given `P0` (R61, R267, R357). -/
def trapSoft (s : State) (g : Nat) (p0 : W64) : State :=
  let x := s.slot g
  raise s g { cause := .soft, ofs := x.ofs, deferred := false, rv := x.ctx.rep.active, j := x.ctx.rep.j, info := p0.toNat, p0 := p0 }

/-- A deferred trap is kept until the thread's next issue (R224, R349); the first one stays. `rep` is the repetition in which its word
issued, if one was active; `info` as the handler entry has it (R357). -/
def deferTrap (s : State) (g : Nat) (c : Cause) (ofs : Nat) (rep : Option Rep) (info : Nat) : State :=
  s.onSlot g fun x =>
    if x.deferred.isSome then x
    else
      { x with
        ctx := match rep with | some r => { x.ctx with rep := r } | none => x.ctx
        deferred := some { cause := c, ofs := ofs, deferred := true, rv := rep.isSome, j := (rep.map (·.j)).getD 0,
                           info := info % 2 ^ 64, p0 := x.p0 } }

/-- An operation that the sequencer sent or was to send fails (R224): nothing more of the body is sent, and the thread traps at its
next issue. -/
def seqFail (s : State) (g : Nat) (c : Cause) (ofs : Nat) (rep : Rep) (info : Nat) : State :=
  let s := s.onCore (coreOf g) fun k => match k.seq with
    | some b => if b.slot = g then { k with seq := none } else k
    | none => k
  deferTrap s g c ofs (some rep) info

/-- RETURNING FROM A TRAP: a handler resumes a trapped record (R358). -/
def resumeRec (s : State) (cl ofs cnt : Nat) : State :=
  let s := setRec (setRec s cl ofs 0 56 8 0) cl ofs 1 0 16 cnt
  if cnt = 0 then runTail s cl ofs else setRec s cl ofs 0 40 4 3

/-! ## Issue -/

/-- The offset, skip count and repetition word after a word has issued (R167, R222). -/
def nextWord (x : Slot) : Slot :=
  let r := x.ctx.rep
  if r.active && !r.detached && decide (x.ofs = r.ofs + r.len) then
    if r.j + 1 < r.count then { x with ofs := r.ofs + 1, ctx := { x.ctx with rep := { r with j := r.j + 1 } } }
    else { x with ofs := x.ofs + 1, ctx := { x.ctx with rep := Rep.none } }
  else { x with ofs := x.ofs + 1 }

/-- Whether an access returns a variable-latency result (R50). -/
def MemOp.returns : MemOp → Bool
  | .ld .. => true
  | .amo .. => true
  | .fe fn _ => fn == 0 || fn == 1 || fn == 4
  | .rank .. => true
  | .selb .. => true
  | .rstat => true
  | .tget => true
  | .spawn .. => true
  | .tblRd .. => true
  | .tblCommit _ => true
  | _ => false

/-- Whether a variable-latency result of slot `g` has not returned (R50). [Log 66: DEDUCED] -/
def owesResult (s : State) (g : Nat) : Bool :=
  !(s.slot g).results.isEmpty || (s.net.any fun r => r.slot == g && r.op.returns) || s.commits.any fun c => c.slot == g

/-- The slot after its word has issued: the next word; it stays parked where the word parked it, and a switch marker parks it
while results are outstanding, `owes` (R50, R153). -/
def afterIssue (mark owes : Bool) (x : Slot) : Slot :=
  let y := nextWord x
  match y.status with
  | .parked _ => { y with mark := mark }
  | _ =>
    if mark && owes then { y with status := .parked .results, mark := false }
    else { y with status := .ready, mark := false }

/-- What the word at the offset of slot `s.cur` does: it completes, traps (R344) or parks and issues again.
[Log 18: DEDUCED] -/
def issue (mark : Bool) (s : State) (r : Res Unit) : Host.Outcome State Fault Refusal :=
  match r with
  | .ok _ t => .next (t.onSlot s.cur (afterIssue mark (owesResult t s.cur)))
  | .trap c info => .next (trapHere s s.cur c info)
  | .wait w t => .next (t.onSlot s.cur fun x => { x with status := .parked w, mark := false })

/-- As `issue`, for a word that itself leaves the slot where its thread goes on. -/
def issueOwn (s : State) (r : Res Unit) : Host.Outcome State Fault Refusal :=
  match r with
  | .ok _ t => .next t
  | .trap c info => .next (trapHere s s.cur c info)
  | .wait w t => .next (t.onSlot s.cur fun x => { x with status := .parked w, mark := false })

/-- Parks the slot behind the word that now issues. -/
def parkAfter (s : State) (w : Wait) : State := s.onSlot s.cur fun x => { x with status := .parked w }

/-- A variable-latency result that will return (R50). [Log 66: DEDUCED] -/
def pushResult (s : State) (g : Nat) (r : Result) : State :=
  if noSlot ≤ g then s else s.onSlot g fun x => { x with results := x.results ++ [r] }

end Sys2Proof.Machine
end

