-- ==== Sys2Proof/Machine/Control.lean ====
section
/-! DEFINITION. The control window of a cluster: what each word reads as and what a store to it does (14_insn_control R256, R257;
17_host R296-R312; 25_faults_execution R362; 28_faults_containment R388, R389, R396). -/

namespace Sys2Proof.Machine

/-- The instance of engine `id` that serves a cluster (R252). [Log 4: DESIGN CHOICE] -/
def engineOf (cl id : Nat) : Nat := if id < 2 then 2 * cl + id else 768 + 5 * dieOf cl + (id - 2)

/-- Whether the fault ring of a cluster holds a full entry from engine `id` (R362). -/
def faultFrom (s : State) (cl id : Nat) : Bool :=
  let w := (s.cluster cl).faultW
  bitAt w 63 && (List.range (ringSize (fld w 40 4) 8)).any fun i =>
    let o := fld w 5 16 * 32 + 32 * i
    sramFull s cl o && fld (sramRead s cl o 8) 56 8 == 0x10 + id

/-- The layers of the gate engine that serves a cluster. -/
def layersFor (s : State) (cl : Nat) : List Layer := (s.engine (engineOf cl 4)).layers

/-- The `stat` reply of engine `id` as seen from a cluster (R256). The gate engine runs one layer at a time, the oldest (R281): that one
alone can stand at dispatch or combine. -/
def statReply (s : State) (cl id : Nat) : Nat :=
  let e := s.engine (engineOf cl id)
  let (qd, busy) :=
    if id = 4 then ((layersFor s cl).length, !(layersFor s cl).isEmpty)
    else if id = 5 then
      match layersFor s cl with
      | l :: _ => if !l.failed && l.stage == 1 then (1, true) else (0, false)
      | [] => (0, false)
    else if id = 6 then
      match layersFor s cl with
      | l :: _ => if !l.failed && l.stage == 3 && l.left == 0 then (1, true) else (0, false)
      | [] => (0, false)
    else (e.cmds.length, !e.cmds.isEmpty)
  e.done % 2 ^ 16 * 2 ^ 32 + (if faultFrom s cl id then 2 ^ 17 else 0) + (if busy then 2 ^ 16 else 0) + qd % 2 ^ 16

/-- The held-set word (R308). -/
def heldWord (c : Cluster) : Nat := c.heldSet.zipIdx.foldl (fun a ti => a + (2 ^ 15 + ti.1 % 2 ^ 12) * 2 ^ (16 * ti.2)) 0

/-- The slots of a cluster that run a tenant. -/
def runsTenant (s : State) (cl ten : Nat) : Bool :=
  s.slots.any fun gx => clusterOf gx.1 == cl && gx.2.status != .idle && gx.2.ten == ten

/-- Whether the rotation of a cluster goes on: some slot is not visited or runs `ROUT` (R309). -/
def rotating (s : State) (cl : Nat) : Bool :=
  let c := s.cluster cl
  bitAt c.rotation 63 && ((s.slots.any fun gx => clusterOf gx.1 == cl && gx.2.status != .idle && !c.visited.contains gx.1)
    || (bitAt c.rotation 25 && runsTenant s cl (fld c.rotation 12 12)))

/-- A rotation that has ended stays ended: `RGO` is cleared before a slot that was not visited takes a thread (R308, R309). -/
def endRotation (s : State) (cl : Nat) : State :=
  if rotating s cl then s else s.onCluster cl fun c => { c with rotation := setFld c.rotation 63 1 0 }

/-- The aligned doubleword of a control window (R296). -/
def ctlWord (s : State) (cl ofs : Nat) : Nat :=
  let c := s.cluster cl
  if 0x100 ≤ ofs ∧ ofs < 0x2C0 then (if ofs % 64 = 0 then statReply s cl ((ofs - 0x100) / 64) else 0)
  else if ofs = 0x300 then c.trace
  else if 0x400 ≤ ofs ∧ ofs < 0x430 then fld (c.perm ||| 2 ^ cl) (8 * (ofs - 0x400)) 64
  else if ofs = 0x440 then c.owner
  else if ofs = 0x480 then s.weights
  else if ofs = 0x500 then setFld c.rotation 63 1 (if rotating s cl then 1 else 0)
  else if ofs = 0x508 then heldWord c
  else if ofs = 0x510 then c.saveBase
  else if ofs = 0x518 then c.recPool
  else if ofs = 0x520 then c.ctxPool
  else if ofs = 0x528 then c.wvWord
  else if ofs = 0x540 then c.hand0
  else if ofs = 0x548 then c.hand1
  else if ofs = 0x550 then c.hand2
  else if ofs = 0x600 then c.faultW
  else if 0x700 ≤ ofs ∧ ofs < 0x740 then look 0 (s.die (dieOf cl)).cocoons ((ofs - 0x700) / 8)
  else if ofs = 0x740 then c.pairW
  else if 0x1000 ≤ ofs ∧ ofs < 0x1100 then fld (look 0 c.queues ((ofs - 0x1000) / 16)) (8 * (ofs % 16)) 64
  else if 0x8000 ≤ ofs then look 0 s.acl ((ofs - 0x8000) / 8)
  else 0

/-- A naturally aligned load of `n` bytes of a control window (R296). -/
def ctlRead (s : State) (cl ofs n : Nat) : Nat :=
  if n = 16 then ctlWord s cl ofs + ctlWord s cl (ofs + 8) * 2 ^ 64 else fld (ctlWord s cl (ofs / 8 * 8)) (8 * (ofs % 8)) (8 * n)

/-- A value with only the bits of a mask kept (R6). -/
def masked (v : Nat) (fields : List (Nat × Nat)) : Nat := fields.foldl (fun a ln => a + fld v ln.1 ln.2 * 2 ^ ln.1) 0

/-- A store to a queue word (R298, R299). -/
def storeQueueWord (s : State) (cl q val prv : Nat) : Option State :=
  let c := s.cluster cl
  let old := look 0 c.queues q
  let new := masked val [(63, 1), (59, 4), (57, 2), (56, 1), (54, 2), (42, 12), (34, 8), (7, 14), (112, 6), (111, 1), (110, 1)]
  let free := fun (x : Nat) => masked x [(59, 4), (57, 2), (54, 2), (42, 12), (34, 8), (7, 14), (112, 6)]
  let en := bitAt new 63
  if en && (fld new 59 4 = 0 || 8 < fld new 59 4) then none
  else if prv < fld new 57 2 || fld new 57 2 = 3 then none
  else if fld new 34 8 ≠ ownerOf s cl then none
  else if bitAt old 63 && free new ≠ free old then none
  else
    let head := if en && !bitAt old 63 then 0 else fld old 120 8
    some (s.setCluster cl { c with queues := ins c.queues q (new + head * 2 ^ 120) })

/-- A store to the record pool word or the context pool word (R306). -/
def storePoolWord (s : State) (cl ofs val : Nat) : Option State :=
  let c := s.cluster cl
  let busy := !c.usedRecs.isEmpty || !c.usedCtx.isEmpty
  if ofs = 0x518 then
    let w := masked val [(63, 1), (32, 15), (6, 15)]
    if busy || 2 ^ 15 < fld w 6 15 + fld w 32 15 + 1 then none
    else some (s.setCluster cl { c with recPool := w, usedRecs := [], usedCtx := [] })
  else
    let w := masked val [(63, 1), (40, 23), (10, 30)]
    if busy || devLimit < 1024 * (fld w 10 30 + fld w 40 23 + 1) then none
    else some (s.setCluster cl { c with ctxPool := w, usedRecs := [], usedCtx := [] })

/-- Whether two cocoon words cover a common cluster. -/
def cocoonsMeet (a b : Nat) : Bool := (List.range 96).any fun i => inCocoon a i && inCocoon b i

/-- A store to a cocoon word (R389). An armed word is also guarded by the partition that it names. -/
def storeCocoonWord (s : State) (cl n val prv part : Nat) : Option State :=
  let die := dieOf cl
  let d := s.die die
  let old := look 0 d.cocoons n
  let new := masked val [(63, 1), (48, 8), (12, 4), (8, 4), (4, 3), (0, 3)]
  let mine := decide (2 ≤ prv) || (prv == 1 && part == fld new 48 8 && (!bitAt old 63 || part == fld old 48 8))
  let rect := fun (w : Nat) => masked w [(48, 8), (12, 4), (8, 4), (4, 3), (0, 3)]
  let bad := decide (fld new 12 4 < fld new 8 4) || decide (fld new 4 3 < fld new 0 3) || decide (11 < fld new 12 4)
    || (cocoonClusters die new).any (fun c => !owned s c || ownerOf s c != fld new 48 8)
    || (d.cocoons.any fun kw => kw.1 != n && bitAt kw.2 63 && cocoonsMeet kw.2 new)
    || fld old 61 2 == 1 || (fld old 61 2 == 2 && rect old != rect new)
  if !mine || bad then none
  else
    let cst := if fld old 61 2 = 2 && !bitAt new 63 then 2 else 0
    some (s.setDie die { d with cocoons := ins d.cocoons n (new + fld old 40 8 * 2 ^ 40 + cst * 2 ^ 61) })

/-- A store to the pair word (R396). -/
def storePairWord (s : State) (cl val : Nat) : Option State :=
  let w := masked val [(63, 1), (0, 9)]
  let p := fld w 0 9
  let dist := fun (a b : Nat) => a - b + (b - a)
  let ok := decide (p < 384) && dieOf p == dieOf cl && owned s p && ownerOf s p == ownerOf s cl
    && (decide (2 ≤ dist (p % 96 % 12) (cl % 96 % 12)) || decide (2 ≤ dist (p % 96 / 12) (cl % 96 / 12)))
    && (cocoonOf s p).isSome && (cocoonOf s cl).isSome
  if bitAt w 63 && !ok then none else some (s.onCluster cl fun c => { c with pairW := w })

/-- A store to the rotation word (R308). [Log 45: DEDUCED] -/
def storeRotation (s : State) (cl val : Nat) : Option State :=
  let c := s.cluster cl
  let w := masked val [(63, 1), (25, 1), (24, 1), (12, 12), (0, 12)]
  if rotating s cl then none
  else if !bitAt w 63 then some (s.setCluster cl { c with rotation := w })
  else
    let held := if bitAt w 24 then c.heldSet.filter (· != fld w 0 12) else c.heldSet
    let held := if bitAt w 25 && !held.contains (fld w 12 12) then held ++ [fld w 12 12] else held
    if 4 < held.length then none else some (s.setCluster cl { c with rotation := w, heldSet := held, visited := [] })

/-- A store to handover doubleword 0 (R311, R312): one with `HGO` = 1 is refused while the cluster's scheduler holds an accepted
launch of `HOUT`; else the handover begins. -/
def storeHandover (s : State) (cl val : Nat) : State :=
  let c := s.cluster cl
  let w := masked val [(63, 1), (17, 1), (16, 1), (8, 8), (0, 8)]
  if bitAt c.hand0 63 then s
  else if !bitAt w 63 then s.setCluster cl { c with hand0 := w }
  else if bitAt w 17 && c.launches.any fun kl => kl.2.used && kl.2.part == fld w 8 8 then
    s.setCluster cl { c with hand0 := setFld w 63 1 0 + 2 ^ 61 }
  else (endRotation s cl).onCluster cl fun c => { c with hand0 := w, visited := [] }

/-- Which threads may store a word of the window (R296): 2 host firmware, 1 supervisor of the owning partition. -/
def ctlAllowed (s : State) (cl least prv part : Nat) : Bool :=
  decide (2 ≤ prv) || (least == 1 && prv == 1 && part == ownerOf s cl)

/-- A store of `size` bytes to a control window at privilege `prv` by partition `part` (R296); none where it traps ACCESS. -/
def ctlStore (s : State) (cl ofs size val prv part : Nat) : Option State :=
  let c := s.cluster cl
  let need := fun (least : Nat) (t : Option State) => if ctlAllowed s cl least prv part then t else none
  let put := fun (least : Nat) (x : Cluster) => need least (some (s.setCluster cl x))
  if 0x1000 ≤ ofs ∧ ofs < 0x1100 then
    if size = 16 ∧ ofs % 16 = 0 then need 1 (storeQueueWord s cl ((ofs - 0x1000) / 16) val prv) else none
  else if size ≠ 8 ∨ ofs % 8 ≠ 0 then none
  else if ofs = 0x300 then put 1 { c with trace := masked val [(63, 1), (62, 1), (40, 4), (21, 15), (4, 17)] }
  else if 0x400 ≤ ofs ∧ ofs < 0x430 then put 2 { c with perm := setFld c.perm (8 * (ofs - 0x400)) 64 val }
  else if ofs = 0x440 then
    if (cocoonOf s cl).isSome then none else put 2 { c with owner := masked val [(63, 1), (54, 2), (0, 8)] }
  else if ofs = 0x480 then need 2 (some { s with weights := val % 2 ^ 32 })
  else if ofs = 0x500 then need 1 (storeRotation s cl val)
  else if ofs = 0x510 then put 1 { c with saveBase := masked val [(63, 1), (12, 28)] }
  else if ofs = 0x518 ∨ ofs = 0x520 then need 1 (storePoolWord s cl ofs val)
  else if ofs = 0x528 then put 1 { c with wvWord := masked val [(63, 1), (41, 9), (9, 12)] }
  else if ofs = 0x540 then need 2 (some (storeHandover s cl val))
  else if ofs = 0x548 then put 2 { c with hand1 := val % 2 ^ 64 }
  else if ofs = 0x550 then put 2 { c with hand2 := val % 2 ^ 64 }
  else if ofs = 0x600 then
    put 1 { c with faultW := masked val [(63, 1), (40, 4), (5, 16)] + masked c.faultW [(21, 15)]
                             + (if bitAt c.faultW 62 && bitAt val 62 then 2 ^ 62 else 0) }
  else if 0x700 ≤ ofs ∧ ofs < 0x740 then storeCocoonWord s cl ((ofs - 0x700) / 8) val prv part
  else if ofs = 0x740 then need 1 (storePairWord s cl val)
  else if 0x8000 ≤ ofs ∧ ofs < 0x10000 then
    need 2 (some { s with acl := ins s.acl ((ofs - 0x8000) / 8) (val % 2 ^ 64 / 2 * 2) })
  else none

end Sys2Proof.Machine
end

