-- ==== Sys2Proof/Machine/Access.lean ====
section
/-! DEFINITION. How a thread's access leaves its core: classes and their limits, fences, finding the target, walks and the retry
ring (08_consistency R125-R137; 24_exceptions_insn R347, R352; 25_faults_execution R359, R360). -/

namespace Sys2Proof.Machine

/-- Accesses of a class that slot `g` has outstanding (R125). -/
def outstanding (s : State) (g : Nat) (c : Cls) : Nat :=
  (s.net.filter fun r => r.slot == g && r.cls == c).length + ((s.slot g).results.filter fun r => r.cls == some c).length

/-- Whether an operation of the array queue is a `macc.st`. -/
def isMaccSt : Instr → Bool
  | .maccSt _ => true
  | _ => false

/-- Whether an operation of the array queue is an `mmd` or `mmd.full`. -/
def isMmd : Instr → Bool
  | .mmd _ => true
  | .mmdFull _ => true
  | _ => false

/-- Relaxed accesses of slot `g` that are not requests: `oload`, `macc.st` and stream output (R125). -/
def relaxedWork (s : State) (g : Nat) : Nat :=
  let c := s.core (coreOf g)
  (c.oloads.filter fun o => o.slot == g).length + (c.queue.filter fun e => e.slot == g && isMaccSt e.op).length
    + (s.slot g).ports.foldl (fun n p => n + p.2.outQ.length) 0

/-- Whether a plain or sequentially consistent access, or an acquire, of slot `g` holds back its later accesses (R126, R131,
R133). -/
def heldBack (s : State) (g : Nat) : Bool :=
  (s.net.any fun r => r.slot == g && (r.cls == .plain || r.cls == .sc || r.ord == 1))
    || (s.slot g).results.any fun r => r.cls == some .plain || r.cls == some .sc

/-- Whether an acquire of slot `g` is not performed: no later access, kick or matrix operation is performed before it (R131). -/
def acquiring (s : State) (g : Nat) : Bool := s.net.any fun r => r.slot == g && r.ord == 1

/-- Whether one more access of a class stays within the thread's limit (R125). -/
def classRoom (s : State) (g : Nat) (c : Cls) : Bool :=
  match c with
  | .relaxed => decide (outstanding s g .relaxed + relaxedWork s g < 8)
  | .device => decide (outstanding s g .device < 16)
  | _ => true

/-- Whether an access of a class may issue (R125, R126). -/
def hasRoom (s : State) (g : Nat) (c : Cls) : Bool := !heldBack s g && classRoom s g c

/-- Waits until an access of a class may issue. -/
def room (c : Cls) (s : State) : Res Unit := if hasRoom s s.cur c then .ok () s else .wait (.access c) s

/-! ## Targets -/

/-- Where the bytes of an access are, or that their translation must be walked. -/
inductive Loc where
  | at_ (t : Target) (e : Option TlbEntry)
  | miss

/-- Whether a tenant holds a memory key (R316). [Log 8: DESIGN CHOICE] -/
def hasKey (s : State) (ten : Nat) : Bool := look 0 s.keys ten != 0

/-- On whose behalf bytes are accessed: cluster, core, partition, address space, tenant, whether user leaves are needed, the slot, whether
its thread itself accesses them and sees its gather buffer, the engine with the command, and the number of the thread's operation, none for
its own word. -/
structure Sender where
  cl   : Nat
  core : Option Nat
  part : Nat
  asid : Nat
  ten  : Nat
  user : Bool
  slot : Option Nat
  own  : Bool
  eng  : Option (Nat × Nat)
  num  : Option Nat
  deriving DecidableEq, Repr

/-- The thread of slot `g`. -/
def threadSender (s : State) (g : Nat) : Sender :=
  let x := s.slot g
  { cl := clusterOf g, core := some (coreOf g), part := partOf s g, asid := asidOf s (partOf s g), ten := x.ten, user := x.prv == 0
    slot := some g, own := true, eng := none, num := none }

/-- The thread of slot `g` for its operation with a number among its accesses. -/
def opSender (s : State) (g n : Nat) : Sender := { threadSender s g with num := some n }

/-- The slot whose gather buffer a read sees (R128). -/
def Sender.seen (b : Sender) : Option Nat := if b.own then b.slot else none

/-- The result of a walk that a `tlbi` overtook, for the access that waits for it (R262). -/
def heldWalk (s : State) (b : Sender) (va need : Nat) : Option TlbEntry :=
  s.walks.findSome? fun w =>
    let mine := match b.eng with
      | some (e, n) => w.isEng && w.owner == e && w.ofs == n
      | none => !w.isEng && b.slot == some w.owner && w.num == b.num
    if mine then w.got.filter fun e => e.serves b.part b.asid va need b.user else none

/-- The access at an address that `portwr` has completed for a thread, and the value that a load receives (R264).
[Log 32: DEDUCED] -/
def supplied (s : State) (b : Sender) (ea : Nat) : Option Nat :=
  if !b.own then none
  else (s.walks.find? fun w => !w.isEng && b.slot == some w.owner && w.num == b.num && w.phase == .done && w.got.isNone && w.va == ea).map (·.data)

/-- The target of `len` bytes for a sender (R347 steps 7 and 8, R369); none where it traps ACCESS. [Log 27: DEDUCED] -/
def locateFor (s : State) (b : Sender) (ea len need : Nat) : Option Loc :=
  match placeOf ea len with
  | .dev va =>
    if !hasKey s b.ten then none
    else
      match tlbHit s b.cl b.core b.part b.asid va need b.user <|> heldWalk s b va need with
      | some e => some (.at_ (.dev (e.at va)) (some e))
      | none => some .miss
  | .sram chip vc ofs =>
    if isThisChip s chip then (reach s b.cl b.part vc).map fun p => .at_ (.sram p ofs) none
    else if reachesChip s chip then some (.at_ (.peer chip) none)
    else none
  | .exported chip num ofs =>
    if isThisChip s chip ∨ Config.peerExportLen chip num < ofs + len then none
    else if reachesChip s chip then some (.at_ (.peer chip) none)
    else none
  | .ctl chip vc ofs => if isThisChip s chip then (reach s b.cl b.part vc).map fun p => .at_ (.ctl p ofs) none else none
  | .bad => none

/-- The target of an access of the thread of slot `g`. [Log 27, 34: DEDUCED] -/
def locate (s : State) (g ea len need : Nat) : Option Loc := locateFor s (threadSender s g) ea len need

/-- A range cut where `step` divides the address: at most `n` pieces. -/
def cutAt (step : Nat) : Nat → Nat → Nat → List (Nat × Nat)
  | 0, _, _ => []
  | n + 1, a, len =>
    if len = 0 then []
    else
      let k := min len (step - a % step)
      (a, k) :: cutAt step n (a + k) (len - k)

/-- A range in pieces that do not cross a multiple of `step`. -/
def piecesOf (step a len : Nat) : List (Nat × Nat) := cutAt step (len / step + 2) a len

/-- Whether a range of a sender meets a cluster where its requests are held (R312, R313). -/
def rangeHeld (s : State) (b : Sender) (sp : Nat × Nat) : Bool :=
  (piecesOf (2 ^ 21) sp.1 sp.2).any fun p =>
    match locateFor s b p.1 p.2 1 with
    | some (.at_ (.sram c _) _) => heldAt s b.part b.cl c
    | some (.at_ (.ctl c _) _) => heldAt s b.part b.cl c
    | _ => false

/-- Whether two byte ranges of one target meet. -/
def Target.meets (t : Target) (n : Nat) (u : Target) (m : Nat) : Bool :=
  match t, u with
  | .sram c o, .sram d p => c == d && decide (o < p + m ∧ p < o + n)
  | .ctl c o, .ctl d p => c == d && decide (o < p + m ∧ p < o + n)
  | .dev a, .dev b => decide (a < b + m ∧ b < a + n)
  | .peer a, .peer b => a == b
  | _, _ => false

/-! ## Operations that access ranges -/

/-- Blocks that an `oload` reads (R109). -/
def oloadBlocks (desc : W128) : Nat := (fld desc.toNat 8 2 + 1) * (fld desc.toNat 10 8 + 1)

/-- Block `i` that an `oload` reads. -/
def OloadJob.block (j : OloadJob) (i : Nat) : Nat × Nat := (j.cap.addr + 64 * i, 64)

/-- Whether a range of addresses of a sender meets `n` bytes of a target. -/
def spanMeets (s : State) (b : Sender) (sp : Nat × Nat) (t : Target) (n : Nat) : Bool :=
  (piecesOf 64 sp.1 sp.2).any fun p =>
    match locateFor s b p.1 p.2 1 with
    | some (.at_ u _) => u.meets p.2 t n
    | _ => false

/-- Whether an operation of the array or an `oload` that the thread issued before number `id` has still to access bytes of a target
(R125, R127, R128). -/
def jobBehind (s : State) (g id : Nat) (t : Target) (n : Nat) : Bool :=
  let c := s.core (coreOf g)
  (c.oloads.any fun j => j.slot == g && decide (j.since < id) && j.left.any fun i => spanMeets s (opSender s g j.since) (j.block i) t n)
    || c.queue.any fun e => e.slot == g && decide (e.since < id) && e.spans.any fun sp => spanMeets s (opSender s g e.since) sp t n

/-- Whether a drained line goes to another part. -/
def toPeer (line : Nat) : Bool := decide (exportLine / 64 ≤ line)

/-- Whether a drained line holds bytes of a target. -/
def lineMeets (line : Nat) (t : Target) (n : Nat) : Bool :=
  match t with
  | .peer _ => toPeer line
  | t => (Target.dev (64 * line)).meets 64 t n

/-- Whether an element that the thread appended before number `id` has still to be written to bytes of a target (R127, R214). -/
def elemBehind (s : State) (g id : Nat) (t : Target) (n : Nat) : Bool :=
  (s.slot g).ports.any fun p => p.2.outQ.any fun e => decide (e.id < id) && e.tgt.meets e.len t n

/-- Whether a request reads a bitmap, word by word (R170). -/
def isBitmap : MemOp → Bool
  | .rank .. => true
  | .selb .. => true
  | _ => false

/-- The bytes that a request accesses as one: its own, but for a bitmap those up to the end of an aligned word of 8 bytes (R170). -/
def Request.reach (r : Request) : Nat := if isBitmap r.op then min r.len (8 - r.ea % 8) else r.len

/-- Whether a target is device memory, of this part or exported by another. -/
def Target.isDevice (t : Target) (ea : Nat) : Bool :=
  match t with
  | .dev _ => true
  | .peer _ => (match placeOf ea 1 with | .exported .. => true | _ => false)
  | _ => false

/-- Whether cluster `p` may come to answer cluster `cl` with a NACK while a request is on its way: a cocoon that holds it alone may be armed
and fenced, and its partition reset or moved (R367, R391, R399, R403). [Log 24: DESIGN CHOICE] -/
def mayNack (cl p : Nat) : Bool := cl != p

/-- A plain access just sent whose target may answer with a NACK, a precise trap, parks its thread until the reply (R126, R393).
[Log 24: DESIGN CHOICE] -/
def awaitReply (s : State) : State :=
  let open_ := fun (r : Request) => r.id + 1 == s.nextId && r.slot == s.cur && r.cls == .plain && match r.tgt with
    | .sram p _ => mayNack (clusterOf s.cur) p
    | .ctl p _ => mayNack (clusterOf s.cur) p
    | _ => false
  if s.net.any open_ then parkAfter s (.reply (s.nextId - 1)) else s

/-- Whether an address lies in device memory for its class: device virtual space or exported device memory (R125). -/
def devClass (ea : Nat) : Bool :=
  match placeOf ea 1 with
  | .dev _ => true
  | .exported .. => true
  | _ => false

/-- The class of an access (R125, R131). -/
def clsOf (ea ord : Nat) (rx : Bool) : Cls := if ord = 3 then .sc else if devClass ea then .device else if rx then .relaxed else .plain

/-- Whether an address names another part (R134). -/
def otherPart (s : State) (ea : Nat) : Bool :=
  match placeOf ea 1 with
  | .sram chip _ _ => !isThisChip s chip
  | .exported chip _ _ => !isThisChip s chip
  | .ctl chip _ _ => !isThisChip s chip
  | _ => false

/-- Asks for a walk on behalf of the thread of slot `g`, or of its operation with a number, once for each page; `data` is what a store
writes (R360). -/
def askWalk (s : State) (g : Nat) (num : Option Nat) (va need kind size ofs data : Nat) : State :=
  if s.walks.any fun w => !w.isEng && w.owner == g && w.num == num && w.va / 4096 == va / 4096 && w.need == need && w.phase != .done then s
  else
    { s.bump with walks := s.walks ++
      [{ id := s.nextId, owner := g, isEng := false, num := num, va := va, need := need, kind := kind, size := size, phase := .walk, fault := 0
         ia := 0, ofs := ofs, noTlb := false, since := 0, data := data, got := none }] }

/-- Finds the target of a part of an operation that issues again after a walk (R167, R221, R352); ACCESS traps. -/
def findAt (s : State) (ea len need kind size : Nat) : Res (Target × Option TlbEntry) :=
  match locate s s.cur ea len need with
  | none => .trap .access ea
  | some (.at_ t e) => .ok (t, e) s
  | some .miss => .wait .walk (askWalk s s.cur none ea need kind size (s.slot s.cur).ofs 0)

/-- A request leaves for its target. -/
def sendReq (s : State) (r : Request) : State := { s.bump with net := s.net ++ [{ r with id := s.nextId }] }

/-- A request of slot `g` with no target yet. [Log 19: DEDUCED] -/
def newReq (s : State) (g : Nat) (cls : Cls) (op : MemOp) (ea len : Nat) (ord dst : Nat) : Request :=
  { id := 0, slot := g, thr := thrOf s g, ten := (s.slot g).ten, cls := cls, op := op, ea := ea, len := len, tgt := .dev 0, phase := .walk, ofs := (s.slot g).ofs, rep := (s.slot g).ctx.rep, ord := ord,
    dst := dst, fault := 0, ia := 0, own := [], otag := none, grd := [], noTlb := false, since := 0, pages := [], touch := [], kept := false, pops := [], flags := 0 }

/-- Whether an operation is a load that merges the thread's own gather buffer (R128). -/
def isLoadOp : MemOp → Bool
  | .ld .. => true
  | .rstat => true
  | .rank .. => true
  | .selb .. => true
  | _ => false

/-- The bytes of a range that the gather buffer of slot `g` holds, by offset in the range (R128). -/
def ownView (s : State) (g ea len : Nat) : Sparse (BitVec 8) :=
  (if (s.slot g).gather.isEmpty then [] else piecesOf 64 ea len).flatMap fun p =>
    let at_ := fun (a : Nat) => (gatherView s g a p.2).1.map fun kb => (p.1 - ea + kb.1, kb.2)
    match locate s g p.1 p.2 1 with
    | some (.at_ (.dev pa) _) => at_ pa
    | some (.at_ (.peer _) _) => at_ (exportLine + p.1)
    | _ => []

/-- A request whose target is known goes on (R128, R129): a plain device store enters the gather buffer, a load takes what its
thread's buffer holds, and every other access first drains the lines that it touches. [Log 19, 27: DEDUCED] -/
def dispatchReq (s : State) (r : Request) (t : Target) (e : Option TlbEntry) : State :=
  let touch := fun (s : State) (pa : Nat) => drainWhere s r.slot fun l => decide (l.line * 64 < pa + r.len ∧ pa < l.line * 64 + 64)
  let buffered := fun (pa : Nat) =>
    match r.op with
    | .st v tag =>
      let grd := match e with | some e => if e.grd then [e.ridx] else [] | none => []
      if r.cls = .sc then sendReq (touch s pa) { r with tgt := t, phase := .sent, grd := grd }
      else
        let s := gatherPut s r.slot pa e (bytesAt (pa % 64) r.len v) (tag == some true) grd
        if r.ord = 0 then s else touch s pa
    | .diag .. => sendReq s { r with tgt := t, phase := .sent }
    | op =>
      if isLoadOp op && r.ord == 0 then
        sendReq s { r with tgt := t, phase := .sent, own := ownView s r.slot r.ea r.len, otag := (gatherView s r.slot pa r.len).2 }
      else sendReq (touch s pa) { r with tgt := t, phase := .sent }
  match t with
  | .dev pa => buffered pa
  | .peer _ => if t.isDevice r.ea then buffered (exportLine + r.ea) else sendReq s { r with tgt := t, phase := .sent }
  | _ => sendReq s { r with tgt := t, phase := .sent }

/-- An access of the issuing thread, its checks passed: found, or parked behind its walk (R352). -/
def issueReq (s : State) (r : Request) (need : Nat) : Res Unit :=
  match locate s r.slot r.ea r.reach need with
  | none => .trap .access r.ea
  | some (.at_ t e) => .ok () (dispatchReq s r t e)
  | some .miss => .ok () (parkAfter (sendReq s { r with phase := .walk }) .walk)

/-! ## The retry ring -/

/-- The state of a thread that an access on the retry ring stops (R46, R352). -/
def parkRing (s : State) (g : Nat) : State :=
  s.onSlot g fun x =>
    match x.status with
    | .parked _ => { x with status := .parked .ring }
    | _ => x

/-- What a word of slot `g` took from its input ports as it issued goes back: each port's position and elements, and the flags that this
raised (R344). -/
def undoPops (s : State) (g : Nat) (pops : List (Nat × Nat × List Fetched)) (flags : Nat) : State :=
  s.onSlot g fun x =>
    let ports := pops.foldl (fun m p =>
      match find m p.1 with
      | some q => ins m p.1 { q with pos := p.2.1, fetched := p.2.2 ++ q.fetched }
      | none => m) x.ports
    { x with ports := ports, ctx := { x.ctx with stat := x.ctx.stat &&& ~~~(BitVec.ofNat 64 flags) } }

/-- The request of a word whose sources are `fs`, with what it takes from input ports (R155). -/
def Request.withPops (r : Request) (s t : State) (fs : List Nat) : Request :=
  let ports := (fs.filter fun p => decide (48 ≤ p ∧ p ≤ 55)).eraseDups
  { r with
    pops := ports.map fun p =>
      let q := (s.slot r.slot).port p
      (p, q.pos, q.fetched.take (q.fetched.length - ((t.slot r.slot).port p).fetched.length))
    flags := ((t.slot r.slot).ctx.stat &&& ~~~(s.slot r.slot).ctx.stat).toNat }

/-- The thread's own word at an offset traps precisely, in a repetition (R344). -/
def failOwn (s : State) (g : Nat) (c : Cause) (ofs : Nat) (rep : Rep) (info : Nat) : State :=
  let s := s.onSlot g fun x => { x with ctx := { x.ctx with rep := rep } }
  raise s g { cause := c, ofs := ofs, deferred := false, rv := rep.active, j := rep.j, info := info, p0 := (s.slot g).p0 }

/-- An access made for the operation of slot `g` with a number, none for the word at its offset, has failed for good (R224, R265, R393): the
operation ends. A word of the sequencer, and an operation that its thread does not wait for, fail deferred; any other precisely. -/
def failThread (s : State) (g : Nat) (c : Cause) (ofs : Nat) (num : Option Nat) (info : Nat) : State :=
  let k := s.core (coreOf g)
  let late := fun (s : State) (seq : Bool) (ofs : Nat) (rep : Rep) =>
    if seq then seqFail s g c ofs rep info else deferTrap s g c ofs (if rep.active then some rep else none) info
  match num with
  | none => failOwn s g c ofs (s.slot g).ctx.rep info
  | some n =>
    match k.queue.find? fun e => e.slot == g && e.since == n with
    | some e =>
      let s := s.setCore (coreOf g) { k with queue := k.queue.erase e }
      if (s.slot g).status = .parked .array ∧ !e.seq ∧ !e.rep.active then failOwn s g c e.ofs e.rep info else late s e.seq e.ofs e.rep
    | none =>
      match k.oloads.find? fun o => o.slot == g && o.since == n with
      | some o => late (s.setCore (coreOf g) { k with oloads := k.oloads.erase o }) o.seq o.ofs o.rep
      | none =>
        match k.seq with
        | some b => if b.slot = g then seqFail s g c ofs b.rep info else s
        | none => s

/-- The access of a request fails for good on the retry ring: what its word popped stays popped (R265, R349).
[Log 23: DEDUCED] -/
def failParked (s : State) (r : Request) (c : Cause) (info : Nat) : State :=
  failOwn { s with net := s.net.filter fun q => q.id != r.id } r.slot c r.ofs r.rep info

/-- The access of a request fails with a cause, in the iteration in which its word issued, and pops nothing (R224, R344).
[Log 23: DEDUCED] -/
def failReq (s : State) (r : Request) (c : Cause) (info : Nat) : State := failParked (undoPops s r.slot r.pops r.flags) r c info

/-- The kind of an access in a retry entry (R360). -/
def reqKind : MemOp → Nat
  | .st .. => 1
  | .rinit _ => 1
  | .rinval => 1
  | .diag .. => 1
  | .amo .. => 2
  | .tblWr .. => 3
  | .tblRd .. => 3
  | .tblSync .. => 3
  | .tblCommit .. => 3
  | _ => 0

/-- The permission that a request needs of its page. -/
def reqNeed : MemOp → Nat
  | .st .. => 2
  | .rinit _ => 2
  | .diag .. => 2
  | .amo .. => 3
  | .rinval => 3
  | .tblWr .. => 3
  | .tblSync _ => 3
  | .tblCommit _ => 3
  | _ => 1

/-- log2 of the size of an access, at most 6 (R360). -/
def sizeLog (n : Nat) : Nat := min 6 (Nat.log2 n)

/-- The recorded data, ordering and function of an access (R360). -/
def reqData : MemOp → Nat × Nat
  | .st v _ => (v, 0)
  | .amo fn b _ => (b, fn)
  | .diag v _ _ => (v, 0)
  | _ => (0, 0)

/-- Doubleword 0 of a retry entry without `EV` (R360). -/
def ringDw0 (en : Bool) (kind size fault ten src dreg ofs : Nat) : Nat :=
  (if en then 2 ^ 62 else 0) + kind % 4 * 2 ^ 60 + size % 8 * 2 ^ 57 + fld fault 3 1 * 2 ^ 56 + fld fault 4 1 * 2 ^ 55
    + fld fault 0 3 * 2 ^ 52 + ten % 2 ^ 12 * 2 ^ 36 + src % 2 ^ 18 * 2 ^ 18 + dreg % 2 ^ 6 * 2 ^ 12 + ofs % 2 ^ 12

/-- Writes one entry at `RHEAD` of the retry ring of a cluster (R359, R360): the slice offset, or none while the ring is not valid
or the entry there is. [Log 31: DEDUCED] -/
def ringWrite (s : State) (cl dw0 va part asid ia data dw6 : Nat) : Option (Nat × State) :=
  let q := (s.cluster cl).retryq
  let head := fld q 21 15
  let ofs := fld q 6 15 * 64 + 64 * head
  if !bitAt q 63 || bitAt (sramRead s cl ofs 8) 63 then none
  else
    let w := fun (s : State) (k v : Nat) => sramWrite s cl (ofs + 8 * k) 8 (v % 2 ^ 64)
    let s := w (w s 1 (va % 2 ^ 57)) 2 (part * 2 ^ 16 + asid)
    let s := w (w (w (w (w s 3 ia) 4 data) 5 (data / 2 ^ 64)) 6 dw6) 7 0
    let s := fillWord s cl ofs (2 ^ 63 + dw0)
    some (ofs % 2 ^ 21, s.onCluster cl fun c => { c with retryq := setFld c.retryq 21 15 ((head + 1) % ringSize (fld q 59 4) 8) })

/-- Whether the retry ring of a cluster is valid (R359). -/
def ringValid (s : State) (cl : Nat) : Bool := bitAt (s.cluster cl).retryq 63

end Sys2Proof.Machine
end

