-- ==== Sys2Proof/Machine/Operands.lean ====
section
/-! DEFINITION. Reading source registers and writing destinations, stream ports included (09_encoding R145, 10_insn_integer R155,
R156; 12_insn_memory R201, R211-R218; 24_exceptions_insn R346, R351). A word first looks at its sources without changing
anything; pops and results take effect together when it issues. -/

namespace Sys2Proof.Machine

/-- `COUNT` of a stream descriptor (R211). -/
def Port.count (q : Port) : Nat := fld q.desc.toNat 32 32

/-- `BM` of a stream descriptor (R211). -/
def Port.blockMode (q : Port) : Bool := bitAt q.desc.toNat 8

/-- `BFMT` of a stream descriptor (R211). -/
def Port.fmt (q : Port) : Nat := fld q.desc.toNat 16 8

/-- Element size in bytes; 64 in block mode (R211). -/
def Port.size (q : Port) : Nat := if q.blockMode then 64 else 2 ^ fld q.desc.toNat 0 3

/-- Values of a block (R94). -/
def Port.perBlock (q : Port) : Nat := elemsOf (elemBits q.fmt)

/-- The address of element or block `k` (R213). -/
def Port.addrOf (q : Port) (k : Nat) : Nat :=
  (((q.cap.addr : Int) + sext 32 (fld q.desc.toNat 64 32) * k) % (2 ^ 72 : Nat)).toNat

/-- The address of the element or block that was fetched last; nothing is fetched past one whose access fails (R215). -/
def Port.failedAddr (q : Port) : Nat := q.addrOf (q.nextIn - 1)

/-- Elements or blocks of the stream. -/
def Port.total (q : Port) : Nat := if q.blockMode then (q.count + q.perBlock - 1) / q.perBlock else q.count

/-- An element as the popped register value (R214). -/
def Port.plainValue (q : Port) (v : Nat) : RegVal :=
  let n := 2 ^ fld q.desc.toNat 0 3
  if n = 16 then RegVal.ofNat v
  else if bitAt q.desc.toNat 3 then RegVal.ofNat (low 64 (sext (8 * n) v))
  else RegVal.ofNat v

/-- What looking at an input port gives. -/
inductive Peek where
  | val (v : RegVal) (flags : Nat)
  | stop (c : Cause)
  | absent
  deriving DecidableEq, Repr

/-- Value number `v` of a block-mode input port, if its block is fetched (R216). -/
def blockValue (q : Port) (mode : Nat) (sat : Bool) (v : Nat) : Peek :=
  if q.count ≤ v then .val RegVal.zero 0
  else
    match q.fetched[v / q.perBlock - (q.nextIn - q.fetched.length)]? with
    | none => .absent
    | some f =>
      match f.cause with
      | some c => .stop c
      | none =>
        if f.psn then .stop .poison
        else if blockFmt f.data ≠ q.fmt ∨ blockScl f.data = 255 then .stop .format
        else
          let (c, fl) := toF32 mode sat (elemValue f.data (v % q.perBlock) 0)
          .val (RegVal.ofNat c) fl

/-- Joins four lanes of a block-mode pop (R216). -/
def joinLanes : List Peek → Nat → Nat → Nat → Peek
  | [], _, acc, fl => .val (RegVal.ofNat acc) fl
  | .val v g :: ps, i, acc, fl => joinLanes ps (i + 1) (acc + v.bits.toNat * 2 ^ (32 * i)) (fl ||| g)
  | p :: _, _, _, _ => p

/-- The `k`-th value that one instruction would pop from an input port (R155, R214, R216, R218). -/
def peekPort (s : State) (g p k : Nat) : Peek :=
  let q := (s.slot g).port p
  if q.dir ≠ 1 then .stop .stream
  else if q.blockMode then
    if q.count ≤ q.pos + 4 * k then .stop .stream
    else joinLanes ((List.range 4).map fun i => blockValue q (rndMode s g) (rndSat s g) (q.pos + 4 * k + i)) 0 0 0
  else if q.count ≤ q.pos + k then .stop .stream
  else
    match q.fetched[k]? with
    | none => .absent
    | some f =>
      match f.cause with
      | some c => .stop c
      | none => if f.psn then .stop .poison else .val (q.plainValue f.data) 0

/-- The input ports among register fields, in field order, each with how often it stood before (R155). -/
def portUses : List Nat → List (Nat × Nat)
  | fs => fs.zipIdx.filterMap fun ri => if 48 ≤ ri.1 ∧ ri.1 ≤ 55 then some (ri.1, (fs.take ri.2).count ri.1) else none

/-- The value of source field `i` of a list of register fields; a port gives the element that the field pops. -/
def fieldVal (s : State) (g : Nat) (fs : List Nat) (i : Nat) : RegVal :=
  let r := fs.getD i 0
  if 48 ≤ r ∧ r ≤ 55 then
    match peekPort s g r ((fs.take i).count r) with
    | .val v _ => v
    | _ => RegVal.zero
  else readReg s g r

/-- Whether an output port may be named as a destination: bound for output and not complete (R218). -/
def outputOpen (q : Port) : Bool := q.dir == 2 && decide (q.pos < q.count)

/-- STREAM, then POISON, of source fields and of a destination that is a port (R346); then an element whose access failed gives
its cause (R215) and one not yet fetched makes the word wait. `d` is 0 where the word has no destination that may be a port. -/
def checkSrc (s : State) (g : Nat) (fs : List Nat) (d : Nat) : Res Unit :=
  let peeks := (portUses fs).map fun pk => (pk.1, peekPort s g pk.1 pk.2)
  let isStop := fun (c : Cause) (pk : Nat × Peek) => pk.2 == .stop c
  if peeks.any (isStop .stream) then .trap .stream 0
  else if 48 ≤ d ∧ d ≤ 55 ∧ !outputOpen ((s.slot g).port d) then .trap .stream 0
  else if (fs.any fun r => decide (1 ≤ r ∧ r ≤ 47) && ((s.slot g).ctx.reg r).psn) || peeks.any (isStop .poison) then
    .trap .poison 0
  else
    match peeks.findSome? fun pk => match pk.2 with | .stop c => some (pk.1, c) | _ => none with
    | some (p, c) => .trap c (if c = .format then 0 else ((s.slot g).port p).failedAddr)
    | none =>
      match peeks.find? fun pk => pk.2 == .absent with
      | some pk => .wait (.pop pk.1) s
      | none => .ok () s

/-- Pops one element, or four values in block mode, of an input port (R214, R216). -/
def popPort (s : State) (g p : Nat) : State :=
  let q := (s.slot g).port p
  if q.blockMode then
    let s := match peekPort s g p 0 with
      | .val _ fl => orFlags s g fl
      | _ => s
    let pos := q.pos + 4
    let first := q.nextIn - q.fetched.length
    setPort s g p { q with pos := pos, fetched := q.fetched.drop (pos / q.perBlock - first) }
  else setPort s g p { q with pos := q.pos + 1, fetched := q.fetched.drop 1 }

/-- Pops the elements of the source fields of an issued word, in field order (R155). -/
def popAll (s : State) (g : Nat) (fs : List Nat) : State := (portUses fs).foldl (fun s pk => popPort s g pk.1) s

/-- The target of an element of an output port, once it passes the checks of R74 (R215, R217); one that `portwr` has completed goes
nowhere (R264). -/
def placeElem (s : State) (q : Port) (k : Nat) : Res OutElem :=
  let ea := q.addrOf k
  match capCheck q.cap ea q.size permW q.size with
  | some c => .trap c ea
  | none =>
    match s.walks.find? fun w => !w.isEng && w.owner == s.cur && w.num.isNone && w.va == ea && w.phase == .done && w.got.isNone with
    | some w => .ok { id := 0, tgt := .peer 0, ea := ea, len := q.size, data := 0, grd := [], via := none } { s with walks := s.walks.erase w }
    | none =>
    (findAt s ea q.size 2 1 (sizeLog q.size)).bind fun te s =>
      match te.1 with
      | .ctl .. => .trap .access ea
      | t => .ok { id := 0, tgt := t, ea := ea, len := q.size, data := 0,
                   grd := match te.2 with | some e => if e.grd then [e.ridx] else [] | none => []
                   via := te.2 } s

/-- The place of a block that an append begins: its whole 64 bytes pass the checks of R74 (R217); while its page is not translated
its target is not yet known. -/
def beginBlock (s : State) (q : Port) (k : Nat) : Res OutElem :=
  let ea := q.addrOf k
  let at_ := fun (t : Target) => Res.ok (α := OutElem) { id := 0, tgt := t, ea := ea, len := q.size, data := 0, grd := [], via := none } s
  match capCheck q.cap ea q.size permW q.size with
  | some c => .trap c ea
  | none =>
    match locate s s.cur ea q.size 2 with
    | none => .trap .access ea
    | some (.at_ (.ctl ..) _) => .trap .access ea
    | some (.at_ t _) => at_ t
    | some .miss => at_ (.peer 0)

/-- The open block of an output port finds its target before the word that closes it issues (R217, R352). -/
def placeBlock (s : State) (p : Nat) : Res Unit :=
  let q := (s.slot s.cur).port p
  match q.block with
  | none => .ok () s
  | some _ => (placeElem s q ((q.pos - 1) / q.perBlock)).bind fun e s => .ok () (setPort s s.cur p { q with block := some e })

/-- Whether value `v` of a block-mode output port closes its block. -/
def closesBlock (q : Port) (v : Nat) : Bool := (v + 1) % q.perBlock == 0 || v + 1 == q.count

/-- Whether an append can issue now: its element or the blocks that it begins pass their checks, and the port has room (R215,
R217). Answers what the append needs: the element, or the places of the blocks that it begins and then of those that it closes. -/
def checkAppend (s : State) (d : Nat) : Res (List OutElem) :=
  let q := (s.slot s.cur).port d
  if heldBack s s.cur then .wait (.access .relaxed) s
  else if 8 ≤ q.outQ.length then .wait (.append d) s
  else if !classRoom s s.cur .relaxed then .wait (.access .relaxed) s
  else if !q.blockMode then (placeElem s q q.pos).bind fun e s => .ok [e] s
  else
    let e := q.perBlock
    let last := min (q.pos + 3) (q.count - 1)
    let vs := List.range' q.pos (last + 1 - q.pos)
    let begun := (vs.filter fun v => v % e = 0).foldl (fun (r : Res (List OutElem)) v => r.bind fun l s =>
      (beginBlock s q (v / e)).bind fun x s => .ok (l ++ [x]) s) (.ok [] s)
    (vs.filter (closesBlock q)).foldl (fun (r : Res (List OutElem)) v => r.bind fun l s =>
      (placeElem s q (v / e)).bind fun x s => .ok (l ++ [x]) s) begun

/-- One value of a block-mode append (R217). -/
def appendValue (s : State) (g d : Nat) (v : BitVec 32) (places : List OutElem) : State :=
  let q := (s.slot g).port d
  if q.count ≤ q.pos then setPort s g d { q with pos := q.pos + 1 }
  else
    let here := fun (e : OutElem) => e.ea == q.addrOf (q.pos / q.perBlock)
    let q' := { q with pos := q.pos + 1, openV := q.openV ++ [v] }
    if closesBlock q q.pos then closeBlock (setPort s g d { q' with block := places.reverse.find? here }) g d
    else setPort s g d { q' with block := q.block <|> places.find? here }

/-- Appends a value to an output port (R214, R217). -/
def appendPort (s : State) (g d : Nat) (v : RegVal) (places : List OutElem) : State :=
  let q := (s.slot g).port d
  if q.blockMode then
    (List.range 4).foldl (fun s i => appendValue s g d (BitVec.ofNat 32 (fld v.bits.toNat (32 * i) 32)) places) s
  else
    match places with
    | e :: _ =>
      let s := setPort s g d { q with pos := q.pos + 1 }
      putElem s g d { e with data := v.bits.toNat % 2 ^ (8 * q.size) }
    | [] => s

/-- Writes a result: to a register, or appended to an output port (R156). `places` is what `checkAppend` answered. -/
def putResult (s : State) (d : Nat) (v : RegVal) (places : List OutElem) : State :=
  if 48 ≤ d ∧ d ≤ 55 then appendPort s s.cur d v places else writeReg s s.cur d v

/-- Checks a destination that may be a port. -/
def checkDst (s : State) (d : Nat) : Res (List OutElem) := if 48 ≤ d ∧ d ≤ 55 then checkAppend s d else .ok [] s

/-- A walk that an append waits for records the value appended (R360). -/
def withData {α : Type} (v : RegVal) (r : Res α) : Res α :=
  match r with
  | .wait w s =>
    let here := fun (j : WalkJob) => !j.isEng && j.owner == s.cur && j.num.isNone && j.kind == 1 && j.ofs == (s.slot s.cur).ofs
    .wait w { s with walks := s.walks.map fun j => if here j then { j with data := v.bits.toNat } else j }
  | r => r

/-- A word that computes a result from source registers: sources and destination are checked, the value is computed from the
sources, and flags and further causes come from `f`. -/
def compute (s : State) (fs : List Nat) (d : Nat) (f : List RegVal → Cause ⊕ (RegVal × Nat)) : Res Unit :=
  (checkSrc s s.cur fs d).bind fun _ s =>
    match f ((List.range fs.length).map (fieldVal s s.cur fs)) with
    | .inl c => .trap c 0
    | .inr (v, fl) =>
      (withData v (checkDst s d)).bind fun places s =>
        .ok () (putResult (orFlags (popAll s s.cur fs) s.cur fl) d v places)

/-- A word whose result never traps and raises no flag. -/
def computeVal (s : State) (fs : List Nat) (d : Nat) (f : List RegVal → RegVal) : Res Unit :=
  compute s fs d fun vs => .inr (f vs, 0)

end Sys2Proof.Machine
end

