-- ==== Sys2Proof/Machine/Issue.lean ====
section
/-! DEFINITION. A slot's turn: which waits are over, fetching a word, the fields of a repeated body, and what comes before a word's
own meaning (03_execution R35, R46-R52; 09_encoding R151-R153; 10_insn_integer R167; 12_insn_memory R220-R224;
24_exceptions_insn R349). -/

namespace Sys2Proof.Machine

/-! ## Fetching words -/

/-- `LCODE` of the launch of slot `g` (R32). -/
def codeCap (s : State) (g : Nat) : RegVal :=
  match s.launch (s.slot g).lcl (s.slot g).lid with
  | some l => l.lcode
  | none => RegVal.zero

/-- The doubleword at an offset of the code object of the thread whose turn it is, read through `LCODE`, whose bounds and X
permission are checked (R35). -/
def codeDw (s : State) (ofs : Nat) : Res Nat :=
  let c := codeCap s s.cur
  let ea := c.addr + ofs
  match capCheck c ea 8 permX 8 with
  | some cause => .trap cause ea
  | none =>
    if rangeHeld s (threadSender s s.cur) (ea, 8) then .wait (.held ea 8) s
    else
    (findAt s ea 8 4 3 3).bind fun te s =>
      match te.1 with
      | .sram cl o =>
        if nacked s cl then .trap .access ea
        else
          let s := { s with sram := s.sram.settleAll (sramKey cl o) 8 }
          if s.sram.poisoned (sramKey cl o) 8 then .trap .poison 0 else .ok (sramRead s cl o 8) s
      | .dev pa =>
        let s := devSettle s (forwardPa s pa) 8
        if devPoisoned s pa 8 then .trap .poison 0 else .ok (devRead s (s.slot s.cur).ten pa 8) s
      | .ctl cl o => .ok (ctlRead s cl o 8) s
      | .peer _ => .ok (Config.peerData s.free % 2 ^ 64) { s with free := s.free + 1 }

/-- Byte offset and instruction count of the block that the thread runs (R35). -/
def blockDesc (s : State) : Res (Nat × Nat) :=
  (codeDw s (8 * (1 + (s.slot s.cur).blk))).bind fun d s => .ok (fld d 0 32, fld d 32 13) s

/-- Word `k` of a block (R35). -/
def codeWord (s : State) (d : Nat × Nat) (k : Nat) : Res Nat := codeDw s (d.1 + 8 * k)

/-- Words `k` to `k + n - 1` of a block. -/
def codeWords (s : State) (d : Nat × Nat) (k : Nat) : Nat → Res (List Nat)
  | 0 => .ok [] s
  | n + 1 => (codeWord s d k).bind fun w s => (codeWords s d (k + 1) n).bind fun ws s => .ok (w :: ws) s

/-- The major opcode of a word (R143). -/
def opOf (w : Nat) : Nat := fld w 56 7

/-- Whether a word is `end` (R243). -/
def isEndWord (w : Nat) : Bool := opOf w == 0x78

/-! ## Repeated bodies -/

/-- Whether a word may not stand in the body of a `rep` (R221). -/
def bodyForbidden (w : Nat) : Bool :=
  let op := opOf w
  let fn := fld w 24 8
  [0x06, 0x68, 0x69, 0x6A, 0x76, 0x78, 0x79, 0x7A, 0x7B, 0x7C, 0x7E].contains op
    || (op == 0x75 && (fn == 0 || fn == 1 || fn == 3)) || (op == 0x73 && (fn == 2 || fn == 3 || fn == 4))

/-- Whether a word is one that a sequencer sends (R223). -/
def bodyDetached (w : Nat) : Bool :=
  let op := opOf w
  let fn := fld w 24 8
  ((op == 0x70 || op == 0x71 || op == 0x72) && fn == 0) || (op == 0x73 && (fn == 0 || fn == 1))
    || (op == 0x74 && (fn == 0 || fn == 1 || fn == 2)) || (op == 0x75 && fn == 2)

/-- Whether a word that a sequencer sends accesses memory (R125, R126). -/
def bodyAccess (w : Nat) : Bool :=
  let op := opOf w
  op == 0x73 || (op == 0x74 && fld w 24 8 == 0) || op == 0x75

/-- A register field of a word with a number added (R222). -/
def stagReg (lo delta : Nat) (w : Nat) : Option Nat :=
  let v := fld w lo 6
  if 1 ≤ v ∧ v ≤ 47 then (if v + delta ≤ 47 then some (setFld w lo 6 (v + delta)) else none) else some w

/-- A number field of a word with a number added (R222). -/
def stagNum (lo n hi delta : Nat) (w : Nat) : Option Nat :=
  if fld w lo n + delta ≤ hi then some (setFld w lo n (fld w lo n + delta)) else none

/-- How the fields D, A, B, C of a word stagger (R222). -/
def stagFields (w delta : Nat) : List (Nat → Option Nat) :=
  let reg := fun lo => stagReg lo delta
  let slot := fun lo => stagNum lo 6 15 delta
  let acc := stagNum 50 6 7 delta
  let op := opOf w
  if op = 0x03 ∨ op = 0x04 ∨ op = 0x05 ∨ op = 0x21 then [reg 50, reg 44, some, some]
  else if op = 0x37 ∨ (0x50 ≤ op ∧ op ≤ 0x64) then [reg 50, reg 44, reg 38, some]
  else if op = 0x70 ∨ op = 0x71 then [acc, slot 44, slot 38, some]
  else if op = 0x72 ∨ op = 0x73 then [acc, slot 44, slot 38, reg 32]
  else if op = 0x74 then
    match fld w 24 8 with
    | 0 => [acc, reg 44, reg 38, some]
    | 2 => [acc, some, some, slot 32]
    | _ => [acc, some, some, some]
  else if op = 0x75 then [stagNum 16 8 15 delta, reg 44, reg 38, some]
  else [reg 50, reg 44, reg 38, reg 32]

/-- Body word `i` as it issues in iteration `j` (R222); none where a number leaves its range. -/
def restagger (r : Rep) (j i w : Nat) : Option Nat :=
  (stagFields w (j * r.stagger)).zipIdx.foldl
    (fun acc fi => if bitAt r.fix (4 * i + fi.2) then acc else acc.bind fi.1) (some w)

/-- Whether every word of a body keeps its numbers in range in iteration `j` (R222). -/
def staggerFits (r : Rep) (j : Nat) (ws : List Nat) : Bool := ws.zipIdx.all fun wi => (restagger r j wi.2 wi.1).isSome

/-! ## Waits -/

/-- Whether a walk, a held fault or a retry entry of the thread's own stands (R352). -/
def walking (s : State) (g : Nat) : Bool :=
  (s.walks.any fun w => !w.isEng && w.owner == g && w.num.isNone && w.ofs == (s.slot g).ofs && w.phase != .done)
    || s.net.any fun r => r.slot == g && (match r.phase with | .walk => true | .held => true | .ring _ => true | _ => false)

/-- Whether a command names tile `n` as destination or source (R272). -/
def Cmd.names (c : Cmd) (n : Nat) : Bool :=
  (bitAt c.actl 31 && fld c.actl 32 8 == n) || (bitAt c.actl 30 && fld c.actl 21 8 == n)

/-- Whether an accepted command of a cluster names tile `n` (R240). -/
def tileInFlight (s : State) (cl n : Nat) : Bool :=
  ((s.engine (2 * cl)).cmds.any fun c => c.names n) || (s.engine (2 * cl + 1)).cmds.any fun c => c.names n

/-- The resources that an operation of the array names: slots 0-15, accumulators 16-23 (R86). -/
def opNames : Instr → List Nat
  | .mma o => [16 + o.acc, o.a, o.b]
  | .mmq o => [16 + o.acc, o.a, o.b]
  | .mml o => [16 + o.acc, o.a, o.b]
  | .mmd o => [16 + o.acc, o.a, o.b]
  | .mmdFull o => [16 + o.acc, o.a, o.b]
  | .maccSt o => [16 + o.acc]
  | .maccZ _ a => [16 + a]
  | .mqfin _ a n _ => [16 + a, n]
  | _ => []

/-- The slot that an `oload` fills. -/
def opLoads : Instr → Option Nat
  | .oload _ n _ _ => some n
  | _ => none

/-- The accumulator of an operation. -/
def opAcc (i : Instr) : Nat := (opNames i).headD 16 - 16

/-- Whether an operation is `mqfin`, `macc.st` or `macc.z`. -/
def isAccOp : Instr → Bool
  | .maccSt _ => true
  | .maccZ .. => true
  | .mqfin .. => true
  | _ => false

/-- The words of a body that the sequencer has still to send, each as it will issue; a number that is staggered leaves its range within
48 iterations, and without stagger every iteration is the same (R222, R224). -/
def leftOps (b : SeqBody) : List Instr :=
  (List.range' b.rep.j (min (b.rep.count - b.rep.j) 48)).flatMap fun j =>
    let first := if j = b.rep.j then b.word else 0
    (List.range' first (b.rep.len - first)).filterMap fun i =>
      (restagger b.rep j i (b.words.getD i 0)).bind fun w => match decodeWord w with | .ok i => some i | .error _ => none

/-- The number of the word that a sequencer sends next, among the thread's accesses. -/
def SeqBody.num (b : SeqBody) : Nat := b.since + b.rep.j * b.rep.len + b.word

/-- The operations of slot `g` that the core's sequencer has still to send. -/
def unsentOps (s : State) (g : Nat) : List Instr :=
  match (s.core (coreOf g)).seq with
  | none => []
  | some b => if b.slot = g then leftOps b else []

/-- Whether some operation of slot `g` that is not yet sent satisfies a test. -/
def anyUnsent (s : State) (g : Nat) (p : Instr → Bool) : Bool := (unsentOps s g).any p

/-- Whether an operation of the array accesses memory. -/
def opAccesses (i : Instr) : Bool := isMaccSt i || isMmd i || (opLoads i).isSome

/-- Whether an operation with a memory access that comes before number `id` has not been sent: its addresses are not known before
it is, so that it counts for every target. [Log 73: DESIGN CHOICE] -/
def bodyBehind (s : State) (g id : Nat) : Bool :=
  (match (s.core (coreOf g)).seq with | some b => b.slot == g && decide (b.num < id) | none => false) && anyUnsent s g opAccesses

/-- The bytes of a table object that an operation on it touches: physical address and length of each part that lies in one page (R58,
R65). -/
def Request.objParts (r : Request) : List (Nat × Nat) :=
  (r.touch.flatMap fun t => piecesOf 4096 t.1 t.2).filterMap fun p =>
    (find r.pages (p.1 / 4096)).map fun q => (4096 * q + p.1 % 4096, p.2)

/-- Whether a request reaches bytes of a target: its own, the rest of its bitmap, or those of its table object (R65, R170). -/
def reqMeets (s : State) (q : Request) (t : Target) (n : Nat) : Bool :=
  q.tgt.meets q.len t n || match t with
    | .dev _ => (isBitmap q.op && spanMeets s (threadSender s q.slot) (q.ea, q.len) t n)
        || q.objParts.any fun p => (Target.dev p.1).meets p.2 t n
    | _ => false

/-- Whether a request of a thread before number `id` to bytes of a target has still to be performed. A table write may outlive the
thread's stay in a slot, so that it counts by its thread. -/
def reqBehind (s : State) (thr id : Nat) (t : Target) (n : Nat) : Bool :=
  s.net.any fun q => q.thr == thr && decide (q.id < id) && q.phase == .sent && reqMeets s q t n

/-- Whether an earlier access of the thread than number `id` to bytes of a target has still to be performed (R125, R127, R128, R141),
drained stores and operations not yet sent apart: a request, an appended element, or an operation of the array that was sent. -/
def accBehind (s : State) (g id : Nat) (t : Target) (n : Nat) : Bool :=
  reqBehind s (thrOf s g) id t n || elemBehind s g id t n || jobBehind s g id t n

/-- As `accBehind`, with the operations not yet sent and the drained stores (R129). -/
def ownBehind (s : State) (g id : Nat) (t : Target) (n : Nat) : Bool :=
  accBehind s g id t n || bodyBehind s g id
    || s.stores.any fun d => d.thr == thrOf s g && decide (d.id < id) && lineMeets d.line t n

/-- Whether an operation of the array, with its sender and its number among the thread's accesses, still waits for an earlier access to bytes
of its ranges, or for an operation not yet sent that accesses memory. Stores that come later do not enter the gather buffer before it is done, so every drained store to its bytes is an earlier
one. [Log 62: DEDUCED] -/
def spansBehind (s : State) (b : Sender) (g id : Nat) (spans : List (Nat × Nat)) : Bool :=
  (!spans.isEmpty && bodyBehind s g id) || spans.any fun sp => (piecesOf 64 sp.1 sp.2).any fun p =>
    match locateFor s b p.1 p.2 1 with
    | some (.at_ t _) => accBehind s g id t p.2 || s.stores.any fun d => d.thr == thrOf s g && lineMeets d.line t p.2
    | _ => false

/-- Whether an operation of the array that the thread issued before number `id` has still to write bytes of a target, or one that
accesses memory has still to be sent. -/
def writeBehind (s : State) (g id : Nat) (t : Target) (n : Nat) : Bool :=
  bodyBehind s g id || (s.core (coreOf g)).queue.any fun e =>
    e.slot == g && decide (e.since < id) && e.spans.any fun sp => spanMeets s (opSender s g e.since) sp t n

/-- What has still to enter the gather buffer for bytes of a device target, as a wait: an element that the thread appended, or what an
operation of the array writes (R127-R130). [Log 62: DEDUCED] -/
def feedWait (s : State) (g : Nat) (t : Target) (n : Nat) : Option Wait :=
  if elemBehind s g s.nextId t n then some .written else if writeBehind s g s.nextId t n then some .matrix else none

/-- What has still to enter the gather buffer for any bytes of device memory. [Log 62: DEDUCED] -/
def anyFeed (s : State) (g : Nat) : Option Wait :=
  if (s.slot g).ports.any fun k => k.2.outQ.any fun e => e.tgt.isDevice e.ea then some .written
  else if bodyBehind s g s.nextId || ((s.core (coreOf g)).queue.any fun e => e.slot == g && !e.spans.isEmpty) then some .matrix
  else none

/-- Goes on, or waits. -/
def orWait (w : Option Wait) (s : State) : Res Unit := match w with | some w => .wait w s | none => .ok () s

/-- Before an access drains the lines of a translated range, what its thread issued earlier has entered them (R129, R130).
[Log 62: DEDUCED] -/
def fed (s : State) (g ea len : Nat) : Res Unit :=
  orWait ((piecesOf 64 ea len).findSome? fun p =>
    match locate s g p.1 p.2 1 with
    | some (.at_ t _) => if t.isDevice p.1 then feedWait s g t p.2 else none
    | _ => none) s

/-- A device access of the thread sees what its gather buffer holds as it issues: what the thread issued earlier for its bytes has
entered the buffer, and while its page is not translated, or where it reads a bitmap, what it issued for any bytes. A store enters the
buffer only after every earlier operation of the array or `oload` on its bytes (R127-R129). [Log 62: DEDUCED] -/
def storeRoom (s : State) (r : Request) : Res Unit :=
  match locate s r.slot r.ea r.reach 1 with
  | some (.at_ t _) =>
    if !t.isDevice r.ea then .ok () s
    else if isBitmap r.op then orWait (anyFeed s r.slot) s
    else
      (orWait (feedWait s r.slot t r.len) s).bind fun _ s =>
        if !isLoadOp r.op && jobBehind s r.slot s.nextId t r.len then .wait .matrix s else .ok () s
  | some .miss => orWait (anyFeed s r.slot) s
  | none => .ok () s

/-- Whether something of slot `g` that comes first is pending (R110, R115, R228, R237): `oload`s into slots of the mask, and, by
kind, 0 the operations on accumulators alone that name an accumulator of the mask; 1 nothing else; 2 every operation that names a
resource of the mask. -/
def namedBusy (s : State) (g kind mask : Nat) : Bool :=
  let c := s.core (coreOf g)
  let loads := fun (i : Instr) => match opLoads i with | some n => bitAt mask n | none => false
  let sent := fun (i : Instr) => match kind with
    | 0 => isAccOp i && bitAt mask (16 + opAcc i)
    | 1 => false
    | _ => (opNames i).any (bitAt mask)
  (c.oloads.any fun o => o.slot == g && bitAt mask o.res) || (c.queue.any fun e => e.slot == g && sent e.op)
    || anyUnsent s g fun i => loads i || sent i

/-! ## Fences (R136, R137) -/

/-- Whether a matrix operation or `oload` of slot `g` is not complete, sent or not (R108, R136). -/
def matrixBusy (s : State) (g : Nat) : Bool :=
  let c := s.core (coreOf g)
  (c.queue.any fun e => e.slot == g) || (c.oloads.any fun o => o.slot == g)
    || (match c.seq with | some b => b.slot == g | none => false)

/-- The markers of a device fence: one for every live base die on every live plane (R137, R380). -/
def fenceMarkers (s : State) : List (Nat × Nat) := s.planes.flatMap fun p => (liveStacks s).map fun k => (p, k)

/-- Whether a fence reaches further than its thread, so that the gather buffer drains (R129, R136). -/
def FenceWait.wide (f : FenceWait) : Bool := f.kind == 1 || (f.kind == 0 && decide (1 ≤ f.scope))

/-- What a fence waits for before the gather buffer drains (R136): loads, atomics and relaxed accesses, sent by the sequencer or not,
appended elements among them; for kind `x` also kicks and replies; for kind `m` the matrix operations. -/
def fenceFirst (s : State) (g : Nat) (f : FenceWait) : Bool :=
  let x := s.slot g
  let c := s.core (coreOf g)
  let loads := !(s.net.any fun r => r.slot == g) && (x.results.all fun r => r.cls == none)
    && !(c.oloads.any fun o => o.slot == g) && !(c.queue.any fun e => e.slot == g && opAccesses e.op) && !anyUnsent s g opAccesses
    && x.ports.all fun p => p.2.outQ.isEmpty
  let kicks := x.results.isEmpty && s.engines.all fun e => !(e.2.kicks.any fun k => k.slot == g)
  if f.kind = 2 then !matrixBusy s g else loads && (f.kind == 0 || kicks)

/-- What a fence then waits for: the acknowledgements of its markers, and, at scopes `domain` and `system`, the stores to other
parts (R136, R137). -/
def fenceDrained (s : State) (g : Nat) (f : FenceWait) : Bool :=
  f.markers.isEmpty && f.acks.isEmpty
    && (decide (f.scope < 5) || !(s.stores.any fun d => d.thr == thrOf s g && decide (d.id < f.since) && toPeer d.line))

/-- Whether the input ports have fetched again what a fence made them discard (R136). -/
def refetched (x : Slot) (l : List (Nat × Nat)) : Bool :=
  l.all fun p => let q := x.port p.1; q.dir != 1 || decide (p.2 ≤ q.nextIn) || q.fetched.any fun e => e.cause.isSome

/-- Whether a fence can go on (R136). -/
def fenceOver (s : State) (g : Nat) : Bool :=
  match (s.slot g).fence with
  | none => true
  | some f =>
    match f.refetch with
    | some l => refetched (s.slot g) l
    | none => if f.sent then fenceDrained s g f else fenceFirst s g f

/-- The gather buffer drains and the markers leave (R129, R137). -/
def sendMarkers (s : State) (g : Nat) (f : FenceWait) : State :=
  let s := drainAll s g
  s.onSlot g fun x => { x with fence := some { f with sent := true, since := s.nextId, markers := fenceMarkers s } }

/-- Every input port discards what it has fetched and not popped, and is to fetch it again (R136). -/
def refetch (s : State) (g : Nat) (f : FenceWait) : State :=
  s.onSlot g fun x =>
    let ports := x.ports.filterMap fun p => if p.2.fetched.isEmpty then none else some (p.1, p.2.nextIn)
    { x with
      fence := some { f with refetch := some ports }
      ports := x.ports.map fun p => (p.1, { p.2 with fetched := [], part := [], nextIn := p.2.nextIn - p.2.fetched.length }) }

/-- A fence of slot `g` goes as far as it can: its first wait, its drain, and the refetch of kind `x` (R136). -/
def advanceFence (s : State) (g : Nat) : State :=
  let s := match (s.slot g).fence with
    | some f => if !f.sent && f.wide && fenceFirst s g f then sendMarkers s g f else s
    | none => s
  match (s.slot g).fence with
  | some f => if f.sent && f.kind == 1 && f.refetch.isNone && fenceDrained s g f then refetch s g f else s
  | none => s

/-- Whether nothing more is to be waited for by a fence (R136). -/
def fenceDone (s : State) (g : Nat) : Bool :=
  match (s.slot g).fence with
  | none => true
  | some f => fenceOver s g && (!f.wide || (f.sent && (f.kind == 0 || f.refetch.isSome)))

/-- Waits for a fence (R136): it begins when the word first issues, and the word goes on when its wait is over. -/
def withFence (kind scope : Nat) (s : State) : Res Unit :=
  let s := match (s.slot s.cur).fence with
    | none =>
      let f : FenceWait := { kind := kind, scope := scope, sent := false, since := s.nextId, markers := [], acks := [], refetch := none }
      s.onSlot s.cur fun x => { x with fence := some f }
    | some _ => s
  let s := advanceFence s s.cur
  if fenceDone s s.cur then .ok () (s.onSlot s.cur fun x => { x with fence := none }) else .wait .fence s

/-! ## Waits that are over -/

/-- Whether a wait is over (R46). [Log 18: DEDUCED] -/
def waitOver (s : State) (g : Nat) (w : Wait) : Bool :=
  let x := s.slot g
  let c := s.core (coreOf g)
  match w with
  | .results => !owesResult s g
  | .access k => hasRoom s g k
  | .reply rid =>
    !(s.net.any fun r => r.id == rid) && !(s.commits.any fun c => c.rid == rid) && !(x.results.any fun r => r.cls.isSome && r.rid == rid)
  | .fence => fenceOver s g
  | .tlbiRoom => decide ((s.invals.filter fun v => v.slot == g).length < 4)
  | .tlbsync => !(s.invals.any fun v => v.slot == g)
  | .pop p => peekPort s g p 0 != .absent
  | .append p => decide ((x.port p).outQ.length < 8)
  | .word rid => !(s.net.any fun r => r.id == rid)
  | .tileIdle n => !tileInFlight s (clusterOf g) n
  | .walk => !walking s g
  | .ring => !walking s g
  | .array => !(c.queue.any fun e => e.slot == g && !e.rep.active)
  | .matrix => !matrixBusy s g
  | .named k m => !namedBusy s g k m
  | .sequencer => c.seq.isNone
  | .claim n => find c.holder n == some g
  | .posted stores => !(s.net.any fun r => r.slot == g && !r.op.lasting) && !(stores && s.stores.any fun d => d.thr == thrOf s g)
  | .written => x.ports.all fun p => p.2.outQ.isEmpty
  | .bytes ea len => !spansBehind s (threadSender s g) g s.nextId [(ea, len)]
  | .restore => !(c.waiting.any fun w => w.2 == g)
  | .held ea len => !rangeHeld s (threadSender s g) (ea, len)
  | .table hdr _ => (find (s.cluster (clusterOf g)).known hdr).isSome
  | .tableLine hdr ver idx ten _ _ =>
    let c := s.cluster (clusterOf g)
    (if idx = 0 then c.hdrLines else c.lines).any fun l => l.hdr == hdr && l.ver == ver && l.idx == idx && l.ten == ten

/-- Whether a full/empty access of slot `g` waits for its word or for a wait-list entry, which parks the thread (R52). -/
def onWaitList (s : State) (g : Nat) : Bool := s.net.any fun r => r.slot == g && (r.phase == .word || r.phase == .noEntry)

/-- Whether slot `g` can take a turn (R46, R48, R50). [Log 22: DEDUCED] -/
def canIssue (s : State) (g : Nat) : Bool :=
  let x := s.slot g
  match x.status with
  | .ready => !onWaitList s g
  | .parked w => waitOver s g w && (!x.mark || !owesResult s g) && !onWaitList s g
  | _ => false

/-! ## The turn -/

/-- The save area of a record is restored into its slot before the first issue (R310, R366): done, or waiting for claims in the order of
arrival (R108), or ENGINE. -/
def restoreSlot (s : State) (g : Nat) : State :=
  match (s.slot g).ctx.save with
  | none => s.onSlot g fun x => { x with status := .ready }
  | some (_, k) =>
    let cl := clusterOf g
    let c := s.cluster cl
    let pa := areaPa c k
    let s := if devLimit < pa + saveSize then s else devSettle s pa saveSize
    if !bitAt c.saveBase 63 || !c.saveUsed.contains k || decide (devLimit < pa + saveSize) || devPoisoned s pa saveSize then
      let x := s.slot g
      raise s g { cause := .engine, ofs := x.ofs, deferred := false, rv := x.ctx.rep.active, j := x.ctx.rep.j, info := pa, p0 := x.p0 }
    else if (areaRes s g pa).any fun n => !(s.core (coreOf g)).holder.contains (n, g) then
      (claimArea s g pa).onSlot g fun x => { x with status := .parked .restore }
    else
      let s := restoreFrom s g pa
      let s := s.onSlot g fun x => { x with status := .ready, ctx := { x.ctx with save := none } }
      s.onCluster cl fun c => { c with saveUsed := c.saveUsed.filter (· != k) }

/-- The sequencer takes a body, whose words are `ws` in a block of `n`, and whose operations have the next numbers among the thread's
accesses (R223). -/
def startBody (s : State) (g : Nat) (r : Rep) (word : Nat) (ws : List Nat) (n : Nat) : State :=
  let s' := s.onCore (coreOf g) fun c =>
    { c with seq := some { slot := g, rep := r, word := word, since := s.nextId, words := ws, block := n } }
  { s' with nextId := s.nextId + r.count * r.len }

/-- What a turn comes to before a word's own meaning: a new state, or a word to run. -/
inductive Turn where
  | done (s : State)
  | run (i : Instr) (s : State)

/-- The word that a slot has fetched at its offset, in a block of a count (R151, R152, R222). [Log 18: DEDUCED] -/
def turnWord (s : State) (d : Nat × Nat) (w : Nat) : Res Instr :=
  let x := s.slot s.cur
  let r := x.ctx.rep
  let go := fun (w : Nat) (s : State) =>
    if d.2 ≤ x.ofs + 1 ∧ !isEndWord w then Res.trap Cause.illegal 0
    else
      match decodeWord w with
      | .ok i => .ok i s
      | .error _ => .trap .illegal 0
  if r.active && !r.detached && decide (r.ofs < x.ofs ∧ x.ofs ≤ r.ofs + r.len) then
    let i := x.ofs - r.ofs - 1
    let fits : Res Bool :=
      if i = 0 then (codeWords s d (r.ofs + 1) r.len).bind fun ws s => .ok (staggerFits r r.j ws) s else .ok true s
    fits.bind fun ok s =>
      match restagger r r.j i w with
      | some w => if ok then go w s else .trap .repeat_ 0
      | none => .trap .repeat_ 0
  else go w s

/-- The turn of the slot `s.cur` (R48): a restore, a deferred trap, a word turned into a no-op, a detached body resumed, or the
word at the slot's offset. A thread that has passed its block's last word, which was skipped or belongs to a body, traps there.
[Log 18: DEDUCED] -/
def turn (s : State) : Turn :=
  let g := s.cur
  let x := s.slot g
  match x.status with
  | .parked .restore => .done (restoreSlot s g)
  | _ =>
    let unsent := fun (n : Nat) => match (s.core (coreOf g)).seq with | some b => b.slot == g && b.num == n | none => false
    let kept := fun (w : WalkJob) => w.isEng || w.owner != g || w.phase != .done || match w.num with
      | none => w.ofs == x.ofs
      | some n => opLive s g n || unsent n
    let s := { s with walks := s.walks.filter kept }
    let s := s.onSlot g fun x => { x with status := .ready, mark := false, ofs := min x.ofs 4095 }
    let x := s.slot g
    let r := x.ctx.rep
    match x.deferred with
    | some t => .done (raise s g { t with p0 := x.p0 })
    | none =>
      if 0 < x.skip then .done (s.onSlot g fun x => { x with skip := x.skip - 1, ofs := x.ofs + 1 })
      else if r.active && r.detached && decide (r.ofs < x.ofs ∧ x.ofs ≤ r.ofs + r.len) then
        match (s.core (coreOf g)).seq with
        | some _ => .done (parkAfter s .sequencer)
        | none =>
          let body := fun (d : Nat × Nat) (s : State) => (codeWords s d (r.ofs + 1) r.len).bind fun ws s => .ok (ws, d.2) s
          .done <| match (blockDesc s).bind body with
            | .ok b s =>
              let s := startBody s g r (x.ofs - r.ofs - 1) b.1 b.2
              s.onSlot g fun x => { x with ofs := r.ofs + r.len + 1, ctx := { x.ctx with rep := Rep.none } }
            | .trap c info => trapHere s g c info
            | .wait w s => parkAfter s w
      else
        let word := fun (d : Nat × Nat) (s : State) =>
          let s := if d.2 ≤ x.ofs then s.onSlot g fun x => { x with ofs := d.2 - 1 } else s
          (codeWord s d (s.slot g).ofs).bind fun w s => turnWord s d w
        match (blockDesc s).bind word with
        | .ok i s => .run i s
        | .trap c info => .done (trapHere (match blockDesc s with
            | .ok d _ => if d.2 ≤ x.ofs then s.onSlot g fun x => { x with ofs := d.2 - 1 } else s
            | _ => s) g c info)
        | .wait w s => .done (parkAfter s w)

end Sys2Proof.Machine
end

