-- ==== Sys2Proof/Machine/Bulk.lean ====
section
/-! DEFINITION. Ranges of memory that an operation of the array, an `oload` or an engine reads and writes in pieces
(07_matrix R109, R123; 13_insn_matrix R236, R238; 15_engines R271, R275, R407; 26_faults_memory R372). -/

namespace Sys2Proof.Machine

/-- What a range comes to. -/
inductive Span (α : Type) where
  | ok (a : α)
  /-- a translation is not held -/
  | miss (va : Nat)
  /-- an access fails -/
  | fail

/-- One piece read (R128, R371); a thread may read control windows (R296). One that `portwr` has completed is not read (R264). -/
def readPiece (s : State) (b : Sender) (ea len : Nat) : Span (List MByte) × State :=
  match locateFor s b ea len 1 with
  | none => (.fail, s)
  | some .miss =>
    match supplied s b ea with
    | some v => (.ok (cleanBytes (bytesOf len v)), s)
    | none => (.miss ea, s)
  | some (.at_ (.sram p o) _) =>
    if nacked s p then (.fail, s)
    else
      let s := { s with sram := s.sram.settleAll (sramKey p o) len }
      (.ok ((rangeOf 0 len (sramKey p o) s.sram.bytes).zipIdx.map fun bi =>
        (bi.1, look 0 s.sram.syn ((sramKey p o + bi.2) / 8) != 0)), s)
  | some (.at_ (.dev pa) _) =>
    let s := devSettle s (forwardPa s pa) len
    let bs := match b.seen with
      | some g => devSeen s g pa len
      | none => devBytes s b.ten pa len
    (.ok (bs.zipIdx.map fun bi => (bi.1, devPoisoned s (pa + bi.2) 1)), s)
  | some (.at_ (.ctl cl o) _) =>
    if b.seen.isNone || nacked s cl then (.fail, s)
    else (.ok (cleanBytes ((List.range len).map fun i => BitVec.ofNat 8 (ctlRead s cl (o + i) 1))), s)
  | some (.at_ (.peer _) _) =>
    let own := match b.seen with
      | some g => (gatherView s g (exportLine + ea) len).1
      | none => []
    (.ok ((overlay (bytesOf len (Config.peerData s.free)) own).map fun x => (x, false)), { s with free := s.free + 1 })

/-- Pieces read in order. -/
def readPieces (s : State) (b : Sender) : List (Nat × Nat) → Span (List MByte) × State
  | [] => (.ok [], s)
  | (ea, len) :: ps =>
    match readPiece s b ea len with
    | (.ok xs, s) =>
      match readPieces s b ps with
      | (.ok ys, s) => (.ok (xs ++ ys), s)
      | r => r
    | r => r

/-- Pieces read in order as far as they are translated: the bytes read, and how the first piece that is not read ends. -/
def readMost (s : State) (b : Sender) : List (Nat × Nat) → List MByte × Span Unit × State
  | [] => ([], .ok (), s)
  | (ea, len) :: ps =>
    match readPiece s b ea len with
    | (.ok xs, s) => let r := readMost s b ps; (xs ++ r.1, r.2)
    | (.miss va, s) => ([], .miss va, s)
    | (.fail, s) => ([], .fail, s)

/-- A range read. [Log 20: DESIGN CHOICE] -/
def readSpan (s : State) (b : Sender) (ea len : Nat) : Span (List MByte) × State := readPieces s b (piecesOf 64 ea len)

/-- Bytes of a read as a number. -/
def numOf (xs : List MByte) : Nat := ofBytes (xs.map (·.1))

/-- Whether a read returned poisoned data. -/
def anyPsn (xs : List MByte) : Bool := xs.any (·.2)

/-- Whether every piece of a range is translated for an access of a need; the first that is not. -/
def missing (s : State) (b : Sender) (need : Nat) (ps : List (Nat × Nat)) : Option Nat :=
  ps.findSome? fun p =>
    match locateFor s b p.1 p.2 need with
    | some .miss => if (supplied s b p.1).isSome then none else some p.1
    | _ => none

/-- One piece written past the gather buffer, and the weight version that its page guards (R75, R79, R130, R140). `src`: core number and
slot, or 0xFFF and engine id. A write of an engine that serves a die comes from the cluster that kicked it.
[Log 31: DEDUCED; 79: DESIGN CHOICE] -/
def writeOnly (s : State) (b : Sender) (src : Nat × Nat) (ea : Nat) (xs : List MByte) : Option (State × Option Nat) :=
  let n := xs.length
  match locateFor s b ea n 2 with
  | some (.at_ (.sram p o) _) =>
    if nacked s p then none
    else
      match foreignQueue s b.part p o n with
      | some q => some (dropQueueWrite s p q ea s.chip, none)
      | none =>
        let s := sramWrite s p o n (numOf xs)
        let s := { s with sram := poisonAt s.sram (sramKey p o) xs }
        some (if p = b.cl then s else traceStore s p o src.1 src.2 s.chip, none)
  | some (.at_ (.dev pa) e) =>
    let s := devWrite s b.ten pa (xs.map (·.1)) false
    let s := { s with dev := poisonAt s.dev (forwardPa s pa) xs }
    some (s, e.bind fun e => if e.grd then some e.ridx else none)
  | some (.at_ (.peer _) _) => some (s, none)
  | some .miss => if (supplied s b ea).isSome then some (s, none) else none
  | _ => none

/-- One piece written, which counts as one guarded store; a piece of an `mmd` record does too (R79).
[Log 79, 80: DESIGN CHOICE] -/
def writePiece (s : State) (b : Sender) (src : Nat × Nat) (ea : Nat) (xs : List MByte) : Option State :=
  (writeOnly s b src ea xs).map fun r => match r.2 with
    | some k => countGuarded r.1 b.cl b.part [k]
    | none => r.1

/-- A range written in ascending pieces of 64 bytes; a piece that fails ends it after the pieces before it (R275, R407).
[Log 20: DESIGN CHOICE] -/
def writeRange (s : State) (b : Sender) (src : Nat × Nat) (ea : Nat) (xs : List MByte) : Bool × State :=
  ((piecesOf 64 ea xs.length).foldl (fun (acc : Bool × State × List MByte) p =>
    if !acc.1 then acc
    else
      match writePiece acc.2.1 b src p.1 (acc.2.2.take p.2) with
      | some s => (true, s, acc.2.2.drop p.2)
      | none => (false, acc.2.1, [])) (true, s, xs)) |> fun r => (r.1, r.2.1)

end Sys2Proof.Machine
end

