-- ==== Sys2Proof/Machine/Array.lean ====
section
/-! DEFINITION. What the multiply-accumulate array computes (06_numbers R107; 07_matrix R111-R124; 13_insn_matrix R226-R236). -/

namespace Sys2Proof.Machine

/-! ## Slot headers (R86) -/

/-- `FULL` -/
def hdrFull (h : W128) : Bool := bitAt h.toNat 63
/-- `SWZ` -/
def hdrSwz (h : W128) : Nat := fld h.toNat 60 3
/-- `FMT` -/
def hdrFmt (h : W128) : Nat := fld h.toNat 52 8
/-- Blocks per row or column. -/
def hdrBlks (h : W128) : Nat := fld h.toNat 50 2 + 1
/-- `NVEC` -/
def hdrVec (h : W128) : Nat := fld h.toNat 42 8
/-- `SVA` -/
def hdrSva (h : W128) : Nat := fld h.toNat 71 57

/-- Header of slot `n`. -/
def Core.hdr (c : Core) (n : Nat) : W128 := look 0 c.hdrs n

/-- A header with its fields (R86). -/
def makeHdr (sva : Nat) (full : Bool) (swz fmt nblk nvec : Nat) : W128 :=
  BitVec.ofNat 128 (sva % 2 ^ 57 * 2 ^ 71 + (if full then 2 ^ 63 else 0) + swz % 8 * 2 ^ 60 + fmt % 256 * 2 ^ 52 + nblk % 4 * 2 ^ 50
    + nvec % 256 * 2 ^ 42)

/-- Whether slot `g` holds resource `n` (R108). -/
def Core.claims (c : Core) (g n : Nat) : Bool := find c.holder n == some g

/-- Blocks `i` to `i + m - 1` of slot `n` as numbers. -/
def Core.blocks (c : Core) (n i m : Nat) : List Nat :=
  (chunks 64 m (rangeOf 0 (64 * m) (16384 * n + 64 * i) c.opmem)).map ofBytes

/-- Writes block `i` of slot `n`; its poison marks become those of the bytes. -/
def Core.setBlock (c : Core) (n i : Nat) (xs : List MByte) : Core :=
  let w := 2048 * n + 8 * i
  let bad := (List.range 8).filterMap fun j => if ((xs.drop (8 * j)).take 8).any (·.2) then some (w + j) else none
  { c with
    opmem := setRange 0 c.opmem (16384 * n + 64 * i) (xs.map (·.1))
    opPsn := (c.opPsn.filter fun k => !(decide (w ≤ k) && decide (k < w + 8))) ++ bad }

/-- Whether a word of slot `n` is poison (R395). -/
def Core.slotPsn (c : Core) (n : Nat) : Bool := c.opPsn.any fun k => k / 2048 == n

/-- Whether a word of accumulator `a` is poison (R395). -/
def Core.accBad (c : Core) (a : Nat) : Bool := c.accPsn.any fun k => k / 4096 == a

/-! ## Operand pairings (R111) -/

/-- Bytes of a value of a plain format; 0 for another. -/
def plainSize (f : Nat) : Nat := match f with | 1 => 4 | 2 => 2 | 3 => 2 | _ => 0

/-- Values that a row or column of a slot supplies; 0 where the format gives no element count (R111, R229). -/
def slotK (h : W128) : Nat :=
  let f := hdrFmt h
  if plainSize f ≠ 0 then hdrBlks h * 64 / plainSize f else if blockFormat f then hdrBlks h * elemsOf (elemBits f) else 0

/-- The form of an array operation (R226). -/
inductive MatForm where
  | mma | mmq | mml
  deriving DecidableEq, Repr

/-- The pairing of an A and a B slot: INT32 mode and K; none traps FORMAT (R111, R116, R118). -/
def pairing (form : MatForm) (ha hb : W128) : Option (Bool × Nat) :=
  let fa := hdrFmt ha
  let fb := hdrFmt hb
  let k := slotK hb
  let okA : Bool := plainSize fa ≠ 0 || (blockFormat fa && fa != 0xC4)
  let okB : Bool := match form with
    | .mma => plainSize fb ≠ 0 || (blockFormat fb && fb != 0xC4)
    | .mmq => narrowInt fb
    | .mml => fb == 0xC4
  let ea := elemsOf (elemBits fa)
  let eb := elemsOf (elemBits fb)
  let supply : Bool :=
    if plainSize fa ≠ 0 then decide (k ≤ slotK ha)
    else slotK ha == k && (plainSize fb ≠ 0 || ea % eb == 0 || eb % ea == 0)
  if hdrVec ha = 31 ∧ hdrVec hb = 63 ∧ okA ∧ okB ∧ supply then some (narrowInt fa && narrowInt fb, k) else none

/-- Whether every block of a described slot carries the slot's format, is well formed, and has scale 127 where that is needed
(R107, R111, R116). -/
def blocksOk (c : Core) (n : Nat) (unit : Bool) : Bool :=
  let h := c.hdr n
  plainSize (hdrFmt h) ≠ 0 || (c.blocks n 0 (hdrBlks h * (hdrVec h + 1))).all fun b =>
    blockFmt b == hdrFmt h && blockScl b != 255 && (!unit || blockScl b == 127)

/-- The checks of FORMAT of an array operation: INT32 mode and K. -/
def matShape (c : Core) (form : MatForm) (a b : Nat) : Option (Bool × Nat) :=
  match pairing form (c.hdr a) (c.hdr b) with
  | none => none
  | some (int, k) => if blocksOk c a int && blocksOk c b (int || form == .mmq) then some (int, k) else none

/-! ## Values -/

/-- The first `k` elements of row or column `i` of slot `n` (R95, R111, R118). -/
def slotVals (c : Core) (n k book i : Nat) : List Num :=
  let h := c.hdr n
  let f := hdrFmt h
  let z := plainSize f
  let m := hdrBlks h
  if z ≠ 0 then
    let fmt := if f = 1 then fp32 else if f = 2 then bf16 else fp16
    (chunks z k (rangeOf 0 (64 * m) (16384 * n + 64 * m * i) c.opmem)).map fun bs => decodeFloat fmt (ofBytes bs)
  else
    let e := elemsOf (elemBits f)
    ((c.blocks n (m * i) m).flatMap fun b => (List.range e).map fun j => elemValue b j book).take k

/-- The integer codes of the first `k` elements of row or column `i` of a narrow-integer slot (R107). -/
def slotCodes (c : Core) (n k i : Nat) : List Int :=
  let h := c.hdr n
  let e := elemsOf (elemBits (hdrFmt h))
  ((c.blocks n (hdrBlks h * i) (hdrBlks h)).flatMap fun b => (List.range e).map fun j => intCode (hdrFmt h) (elemCode b j)).take k

/-- The rows or the columns of a slot as values. -/
def slotTable (c : Core) (n vec k book : Nat) : List (List Num) := (List.range vec).map (slotVals c n k book)

/-- The rows or the columns of a slot as codes. -/
def codeTable (c : Core) (n vec k : Nat) : List (List Int) := (List.range vec).map (slotCodes c n k)

/-! ## Accumulating (R107, R113) -/

/-- One FP32 addition rounded to nearest even. -/
def accF (x : BitVec 32) (p : Num) : BitVec 32 × Nat :=
  let (v, f) := arith fp32 0 false (addNum 0 (decodeFloat fp32 x.toNat) p)
  (BitVec.ofNat 32 v, f)

/-- An exact product; a NaN operand, or ∞ × 0, gives NaN and NV. -/
def prodF (a b : Num) : Num × Nat := if a.isNaN || b.isNaN then (.nan false, flNV) else mulNum a b

/-- The value that a row sum takes of an element. -/
def sumF (a : Num) : Num × Nat := if a.isNaN then (.nan false, flNV) else (a, 0)

/-- Terms added one at a time. -/
def accAll (x : BitVec 32) (ps : List (Num × Nat)) : BitVec 32 × Nat :=
  ps.foldl (fun (acc : BitVec 32 × Nat) p =>
    let (v, f) := accF acc.1 p.1
    (v, acc.2 ||| f ||| p.2)) (x, 0)

/-- Integer terms added one at a time, wrapping, with OF for each wrap. -/
def accInts (x : BitVec 32) (ps : List Int) : BitVec 32 × Nat :=
  ps.foldl (fun (acc : BitVec 32 × Nat) p =>
    let v := acc.1.toInt + p
    (BitVec.ofInt 32 v, if v < -(2 ^ 31 : Nat) ∨ (2 ^ 31 : Nat) ≤ v then acc.2 ||| flOF else acc.2)) (x, 0)

/-- Row `i` of accumulator `a`: its 64 elements. -/
def Core.accRow (k : Core) (a i : Nat) : List (BitVec 32) := rangeOf 0 64 (4096 * a + 64 * i) k.acc

/-- The contents of an accumulator: 32 rows of 64 elements, and the row sums. -/
structure AccVal where
  rows : List (List (BitVec 32))
  sums : List (BitVec 32)
  deriving DecidableEq, Repr

/-- The contents of accumulator `a`. -/
def Core.accVal (k : Core) (a : Nat) : AccVal :=
  { rows := chunks 64 32 (rangeOf 0 2048 (4096 * a) k.acc), sums := rangeOf 0 32 (4096 * a + 2048) k.acc }

/-- Zero. -/
def AccVal.zero : AccVal := { rows := List.replicate 32 (List.replicate 64 0), sums := List.replicate 32 0 }

/-- Writes an accumulator, its mode and its poison marks. -/
def Core.setAcc (k : Core) (a : Nat) (int : Bool) (v : AccVal) : Core :=
  { k with
    acc := setRange 0 k.acc (4096 * a) (v.rows.flatten ++ v.sums)
    accInt := if int then ins k.accInt a true else del k.accInt a
    accPsn := k.accPsn.filter fun j => j / 4096 != a }

/-- Results with their flags: the results, and the flags ORed. -/
def withFlags {α : Type} (xs : List (α × Nat)) : List α × Nat := (xs.map (·.1), xs.foldl (fun f x => f ||| x.2) 0)

/-- A table of results with their flags. -/
def tableFlags {α : Type} (xs : List (List (α × Nat))) : List (List α) × Nat := withFlags (xs.map withFlags)

/-- Accumulator contents from results with their flags. -/
def AccVal.ofResults (el : List (List (BitVec 32 × Nat))) (sm : List (BitVec 32 × Nat)) : AccVal × Nat :=
  ({ rows := (tableFlags el).1, sums := (withFlags sm).1 }, (tableFlags el).2 ||| (withFlags sm).2)

/-- Every row against every column: `f old row col`. -/
def eachPair {α β : Type} (f : BitVec 32 → α → α → β) (rows cols : List α) (old : List (List (BitVec 32))) : List (List β) :=
  List.zipWith (fun r o => List.zipWith (fun c x => f x r c) cols o) rows old

/-- `MatOp` without its checks (R113): the new contents and the flags. -/
def matMul (c : Core) (int : Bool) (k a b book : Nat) (old : AccVal) : AccVal × Nat :=
  if int then
    let rows := codeTable c a 32 k
    AccVal.ofResults (eachPair (fun x r col => accInts x (List.zipWith (· * ·) r col)) rows (codeTable c b 64 k) old.rows)
      (List.zipWith accInts old.sums rows)
  else
    let rows := slotTable c a 32 k 0
    AccVal.ofResults (eachPair (fun x r col => accAll x (List.zipWith prodF r col)) rows (slotTable c b 64 k book) old.rows)
      (List.zipWith (fun x r => accAll x (r.map sumF)) old.sums rows)

/-- `mqfin` (R117, R232): the new contents and the flags. -/
def mqfinVal (c : Core) (a n : Nat) : AccVal × Nat :=
  let int := look false c.accInt a
  let num := fun (x : BitVec 32) => if int then Num.ofInt x.toInt else decodeFloat fp32 x.toNat
  let scales := (chunks 2 64 (opBytes c n 128)).map fun bs => decodeFloat bf16 (ofBytes bs)
  let zeros := (rangeOf 0 64 (16384 * n + 128) c.opmem).map fun b => Num.ofInt (sext 8 b.toNat)
  let old := c.accVal a
  let one := fun (sum x : BitVec 32) (sz : Num × Num) =>
    let (zp, f1) := mulNum sz.2 (num sum)
    let (t, f2) := arith fp32 0 false (addNum 0 (num x) zp.negate)
    let (r, f3) := arith fp32 0 false (mulNum sz.1 (decodeFloat fp32 t))
    (BitVec.ofNat 32 r, f1 ||| f2 ||| f3)
  let sm := fun (x : BitVec 32) =>
    if int then
      let (v, f) := toFloat fp32 0 false (Num.ofInt x.toInt)
      (BitVec.ofNat 32 v, f)
    else (x, 0)
  AccVal.ofResults (List.zipWith (fun row sum => List.zipWith (one sum) row (scales.zip zeros)) old.rows old.sums) (old.sums.map sm)

/-! ## Storing rows (R234-R236) -/

/-- Bytes of a stored row (R234). -/
def rowBytes (f : Nat) : Nat :=
  if f = 1 ∨ f = 4 then 256 else if f = 2 ∨ f = 3 then 128
  else let e := elemsOf (elemBits f); 64 * ((64 + e - 1) / e)

/-- A row of accumulator `a` in format `f` under `RND` (R236): its bytes and the flags. -/
def storedRow (c : Core) (a f rnd i : Nat) : List (BitVec 8) × Nat :=
  let int := look false c.accInt a
  let mode := fld rnd 0 3
  let sat := bitAt rnd 3
  let row := c.accRow a i
  let num := fun (x : BitVec 32) => if int then Num.ofInt x.toInt else decodeFloat fp32 x.toNat
  let each := fun (n : Nat) (conv : BitVec 32 → Nat × Nat) =>
    let r := withFlags (row.map conv)
    (r.1.flatMap (bytesOf n), r.2)
  match f with
  | 1 => each 4 fun x => if int then toFloat fp32 mode sat (num x) else (x.toNat, 0)
  | 2 => each 2 fun x => toFloat bf16 mode sat (num x)
  | 3 => each 2 fun x => toFloat fp16 mode sat (num x)
  | 4 => each 4 fun x => if int then (x.toNat, 0) else toInt 32 true mode (num x)
  | f =>
    let e := elemsOf (elemBits f)
    let n := (64 + e - 1) / e
    let xs := row.map num ++ List.replicate (e * n - 64) (Num.zero false)
    let r := withFlags ((chunks e n xs).map (encodeBlock f mode sat))
    (r.1.flatMap (bytesOf 64), r.2)

/-! ## Delta reuse (R119-R123) -/

/-- Bytes of a record of K (R119). -/
def recordSize (k : Nat) : Nat := 0x20C0 + 128 * k

/-- `n` FP32 words from a byte offset of a record. -/
def recWords (rec : List MByte) (o n : Nat) : List (BitVec 32) :=
  (chunks 4 n (rec.drop o)).map fun bs => BitVec.ofNat 32 (numOf bs)

/-- The contents of the accumulator that a record holds (R119). -/
def recAcc (rec : List MByte) : AccVal := { rows := chunks 64 32 (recWords rec 0x40 2048), sums := recWords rec 0x2040 32 }

/-- The reconstructed A of a record of K (R119). -/
def recA (rec : List MByte) (k : Nat) : List (List (BitVec 32)) := chunks k 32 (recWords rec 0x20C0 (32 * k))

/-- The least e with m ≤ 7 × 2^e, for a value that is not zero (R123). -/
def deltaExp (m : Nat) (e : Int) : Int :=
  let t : Int := (Nat.log2 m : Int) + e
  if leDyadic m e 7 (t - 2) then t - 2 else t - 1

/-- The finite magnitude of a value. -/
def Num.mag : Num → Nat × Int
  | .fin _ m e _ => (m, e)
  | _ => (0, 0)

/-- The exponent and the quantised differences of a row (R123). -/
def quantRow (d : List Num) : Int × List Int :=
  let big := d.foldl (fun (acc : Nat × Int) x => if leDyadic x.mag.1 x.mag.2 acc.1 acc.2 then acc else x.mag) (0, 0)
  if big.1 = 0 then (0, d.map fun _ => 0)
  else
    let e := deltaExp big.1 big.2
    (e, d.map fun x =>
      match x with
      | .fin neg m q _ => max (-7) (min 7 (roundInt 0 neg m (q - e) false).1)
      | _ => 0)

/-- What an `mmd` leaves: accumulator, reconstructed A by rows, whether the full path ran, and flags. -/
structure MmdVal where
  acc   : AccVal
  recon : List (List (BitVec 32))
  full  : Bool
  flags : Nat
  deriving DecidableEq, Repr

/-- The full path of R123. -/
def mmdFullVal (c : Core) (k a b : Nat) : MmdVal :=
  let (v, fl) := matMul c false k a b 0 AccVal.zero
  let (r, f2) := tableFlags ((slotTable c a 32 k 0).map fun row => row.map fun x =>
    let (w, f) := toFloat fp32 0 false x
    (BitVec.ofNat 32 w, f))
  { acc := v, recon := r, full := true, flags := fl ||| f2 }

/-- The delta path of R123, with the differences by rows. -/
def mmdDeltaVal (c : Core) (k b : Nat) (rec : List MByte) (d : List (List Num)) : MmdVal :=
  let terms := d.map fun row =>
    let q := quantRow row
    q.2.map fun (x : Int) => if x = 0 then none else some ((Num.ofInt x).scale q.1)
  let term := fun (t : Option Num) => t.getD (Num.zero false)
  let (rc, f1) := tableFlags (List.zipWith (fun ts old => List.zipWith (fun t x => accF x (term t)) ts old) terms (recA rec k))
  let mul := fun (ts : List (Option Num)) (col : List Num) =>
    (ts.zip col).filterMap fun tx => tx.1.map fun t => prodF t tx.2
  let old := recAcc rec
  let cols := slotTable c b 64 k 0
  let (v, f2) := AccVal.ofResults
    (List.zipWith (fun ts o => List.zipWith (fun col x => accAll x (mul ts col)) cols o) terms old.rows)
    (List.zipWith (fun x ts => accAll x (ts.filterMap fun t => t.map fun t => (t, 0))) old.sums terms)
  { acc := v, recon := rc, full := false, flags := f1 ||| f2 }

/-- Doubleword `i` of a record. -/
def recWord (rec : List MByte) (i : Nat) : Nat := numOf ((rec.drop (8 * i)).take 8)

/-- `mmd` after its checks (R123): `rec` holds the record, `v` the weight version. -/
def mmdVal (c : Core) (force : Bool) (k a b v : Nat) (rec : List MByte) : MmdVal :=
  let dw := recWord rec
  let d := List.zipWith (fun row old => List.zipWith (fun x (y : BitVec 32) => (addNum 0 x (decodeFloat fp32 y.toNat).negate).1) row old)
    (slotTable c a 32 k 0) (recA rec k)
  let old := force || !bitAt (dw 0) 63 || dw 2 != v || fld (dw 3) 0 57 != hdrSva (c.hdr b) || decide (fld (dw 0) 0 8 ≤ fld (dw 1) 0 8)
  let odd := d.any fun r => r.any fun x => match x with | .fin .. => false | _ => true
  let nz := d.foldl (fun n r => n + (r.filter fun x => !x.isZero).length) 0
  if old || odd || decide (fld (dw 0) 12 5 * 32 * k < nz * 16) then mmdFullVal c k a b else mmdDeltaVal c k b rec d

/-- Doubleword 0 of a record header with its `0` fields zero (R6, R120). -/
def headerDw0 (w : Nat) : Nat := setFld (setFld w 17 2 0) 8 4 0

/-- The bytes of a record after an `mmd` (R119, R120, R123); the header's `0` fields are written as zero (R6). -/
def mmdRecord (c : Core) (b v : Nat) (rec : List MByte) (r : MmdVal) : List (BitVec 8) :=
  let dw := recWord rec
  let n := if r.full then 1 else fld (dw 1) 0 8 + 1
  let wver := if r.full then v else dw 2
  let wsrc := if r.full then hdrSva (c.hdr b) else fld (dw 3) 0 57
  let words := fun (ws : List (BitVec 32)) => ws.flatMap fun w => bytesOf 4 w.toNat
  bytesOf 8 (setFld (headerDw0 (dw 0)) 63 1 1) ++ bytesOf 8 (n % 2 ^ 8) ++ bytesOf 8 wver ++ bytesOf 8 wsrc
    ++ List.replicate 32 0 ++ words r.acc.rows.flatten ++ words r.acc.sums ++ words r.recon.flatten

end Sys2Proof.Machine
end

