-- ==== Sys2Proof/Machine/Matrix.lean ====
section
/-! DEFINITION. Matrix, accumulator and operand instructions, the sequencer and the array's completions (07_matrix R108-R123;
12_insn_memory R223, R224; 13_insn_matrix R226-R239). -/

namespace Sys2Proof.Machine

/-! ## Checks -/

/-- The resource mask of some resources. -/
def maskOf (rs : List Nat) : Nat := rs.foldl (fun m r => m ||| 2 ^ r) 0

/-- Waits in the matrix state while something that comes first is pending; `kind` as `namedBusy` has it (R110, R115, R228, R233,
R237). [Log 74: DESIGN CHOICE] -/
def idleFor (s : State) (g kind mask : Nat) : Res Unit :=
  if namedBusy s g kind mask then .wait (.named kind mask) s else .ok () s

/-- SLOT for the accumulator, then for each slot unclaimed before not `FULL`; SWIZZLE in slot order (R113, R348); POISON for operand
memory that a soft error spoiled (R395). [Log 85: DESIGN CHOICE] -/
def slotChecks (c : Core) (g acc : Nat) (keepsAcc : Bool) (slots : List Nat) (swz : Nat) : Option Cause :=
  if !c.claims g (16 + acc) then some .slot
  else if slots.any fun n => !c.claims g n || !hdrFull (c.hdr n) then some .slot
  else if slots.any fun n => hdrSwz (c.hdr n) != swz then some .swizzle
  else if (slots.any c.slotPsn) || (keepsAcc && c.accBad acc) then some .poison
  else none

/-- A failed check as a trap. -/
def orTrap (c : Option Cause) (s : State) : Res Unit := match c with | some c => .trap c 0 | none => .ok () s

/-- The mode that an operation of the array leaves in its accumulator (R111, R231, R232). -/
def modeAfter (c : Core) (op : Instr) (mode : Bool) : Bool :=
  let shape := fun (form : MatForm) (o : MatOperand) => if o.z then ((pairing form (c.hdr o.a) (c.hdr o.b)).map (·.1)).getD mode else mode
  match op with
  | .mma o => shape .mma o
  | .mmq o => shape .mmq o
  | .mml o => shape .mml o
  | .mmd _ => false
  | .mmdFull _ => false
  | .maccZ .. => false
  | .mqfin .. => false
  | _ => mode

/-- The group of an operation of the array (R115). -/
def opGroup : Instr → Nat
  | .mma _ => 0x70
  | .mmq _ => 0x71
  | .mml _ => 0x72
  | .mmd _ => 0x73
  | .mmdFull _ => 0x73
  | _ => 0x74

/-- K of an operation of the array (R111). -/
def opK (c : Core) (i : Instr) : Nat :=
  match opNames i with
  | [_, _, b] => slotK (c.hdr b)
  | _ => 0

/-- Whether the sequencer sent an operation: of a detached body, or the word of an inline body (R223). -/
def MatEntry.sent (e : MatEntry) : Bool := e.rep.active

/-- Whether R115 orders two operations of one thread. -/
def opOrdered (c : Core) (e f : MatEntry) : Bool :=
  if opAcc e.op == opAcc f.op && (isAccOp e.op || isAccOp f.op) then true
  else if e.sent && f.sent then opGroup e.op == opGroup f.op && opK c e.op == opK c f.op && opAcc e.op == opAcc f.op
  else !e.sent && !f.sent

/-- Whether R115 puts an operation before another of its thread. -/
def opBefore (c : Core) (e f : MatEntry) : Bool := e.slot == f.slot && decide (e.since < f.since) && opOrdered c e f

/-- The mode that an accumulator will hold for a new operation: that of the earlier ones that R115 orders before it (R224, R228). -/
def modeFor (c : Core) (f : MatEntry) : Bool :=
  c.queue.foldl (fun m e => if opAcc e.op == opAcc f.op && opBefore c e f then modeAfter c e.op m else m)
    (look false c.accInt (opAcc f.op))

/-- The checks of `mma`, `mmq` and `mml` (R228, R348). [Log 85: DESIGN CHOICE] -/
def matChecks (c : Core) (form : MatForm) (o : MatOperand) (e : MatEntry) : Option Cause :=
  match slotChecks c e.slot o.acc (!o.z) [o.a, o.b] o.swz with
  | some x => some x
  | none =>
    match matShape c form o.a o.b with
    | none => some .format
    | some (int, _) => if !o.z && int != modeFor c e then some .format else none

/-! ## Putting an operation in the queue -/

/-- Drains the gather-buffer lines that a range touches (R129, R130). [Log 62: DEDUCED] -/
def drainRange (s : State) (b : Sender) (g ea len : Nat) : State :=
  (piecesOf 64 ea len).foldl (fun s p =>
    match locateFor s b p.1 p.2 1 with
    | some (.at_ (.dev pa) _) => drainWhere s g fun l => l.line == pa / 64
    | some (.at_ (.peer _) _) => drainWhere s g fun l => l.line == (exportLine + p.1) / 64
    | _ => s) s

/-- Waits for the walks of a range before the word of a sender issues (R228, R352); `data` is what a store writes, by address. -/
def walkedFor (s : State) (b : Sender) (g ea len need kind : Nat) (data : Nat → Nat) : Res Unit :=
  match missing s b need (piecesOf 64 ea len) with
  | some va => .wait .walk (askWalk s g b.num va need kind 6 (s.slot g).ofs (data va))
  | none => .ok () s

/-- As `walkedFor`, for the thread's own word. -/
def walked (s : State) (g ea len need kind : Nat) : Res Unit := walkedFor s (threadSender s g) g ea len need kind fun _ => 0

/-- An entry of the array queue for a word of the thread. [Log 87: DESIGN CHOICE] -/
def newEntry (s : State) (g : Nat) (op : Instr) (c0 c1 a b : RegVal) : MatEntry :=
  let x := s.slot g
  { slot := g, ofs := x.ofs, seq := false, rep := x.ctx.rep, op := op, rnd := x.ctx.rnd.toNat, c0 := c0, c1 := c1, a := a, b := b,
    since := s.nextId, spans := [] }

/-- `STRIDE` of a `macc.st` descriptor (R235). -/
def strideOf (b : RegVal) : Int := sext 32 (fld b.bits.toNat 0 32)

/-- The rows that a `macc.st` stores, with their addresses (R236). -/
def storedRows (a b : RegVal) : List (Nat × Nat) :=
  let r0 := fld b.bits.toNat 32 5
  (List.range (fld b.bits.toNat 40 5 + 1)).map fun i => (r0 + i, (((a.addr : Int) + strideOf b * i) % (2 ^ 72 : Nat)).toNat)

/-- The memory that an operation of the array accesses: the record of `mmd`, the rows of `macc.st` (R123, R236). -/
def spansOf (c : Core) (e : MatEntry) : List (Nat × Nat) :=
  let record := fun (o : MatOperand) => [(e.c0.addr, recordSize (slotK (c.hdr o.b)))]
  match e.op with
  | .mmd o => record o
  | .mmdFull o => record o
  | .maccSt o => (storedRows e.a e.b).map fun r => (r.2, rowBytes o.fmt)
  | _ => []

/-- A walk of the thread's own word that `portwr` has completed goes with the operation that the word becomes. -/
def adoptWalks (s : State) (g ofs n : Nat) : State :=
  { s with walks := s.walks.map fun w =>
      if !w.isEng && w.owner == g && w.num.isNone && w.ofs == ofs && w.phase == .done then { w with num := some n } else w }

/-- An operation waits for the array (R114). One that a sequencer sends takes an entry of the queue, of which there are four; one that a
thread issues directly stands in line until an entry is free, and its thread does not wait for that (R223, R233). One of a detached body
has its number already. [Log 74: DESIGN CHOICE] -/
def enqueueOp (s : State) (e : MatEntry) : State :=
  let k := s.core (coreOf e.slot)
  let e := { e with since := if e.seq then e.since else s.nextId, spans := spansOf k e }
  (adoptWalks s e.slot e.ofs e.since).bump.setCore (coreOf e.slot) { k with queue := k.queue ++ [e] }

/-- Whether the word stands in an inline body, which sends its matrix words without parking (R223). -/
def inBody (s : State) (g : Nat) : Bool := (s.slot g).ctx.rep.active

/-- A direct array operation joins the queue and parks its thread until it completes (R114, R228). -/
def runDirect (s : State) (e : MatEntry) : Res Unit :=
  let t := enqueueOp s e
  .ok () (if inBody s e.slot then t else parkAfter t .array)

/-- `mma` and `mmq`. -/
def startMat (s : State) (form : MatForm) (op : Instr) (o : MatOperand) : Res Unit :=
  (idleFor s s.cur 0 (maskOf [16 + o.acc, o.a, o.b])).bind fun _ s =>
    let e := newEntry s s.cur op RegVal.zero RegVal.zero RegVal.zero RegVal.zero
    (orTrap (matChecks (s.core (coreOf s.cur)) form o e) s).bind fun _ s => runDirect s e

/-! ## The array operations -/

/-- `mma` (R226). -/
def execMma (o : MatOperand) (s : State) : Host.Outcome State Fault Refusal := issue o.s s (startMat s .mma (.mma o) o)

/-- `mmq` (R226). -/
def execMmq (o : MatOperand) (s : State) : Host.Outcome State Fault Refusal := issue o.s s (startMat s .mmq (.mmq o) o)

/-- `mml` (R226): the codebook is the pair gC, gC+1, which the array reads (R118). -/
def execMml (o : MatOperand) (s : State) : Host.Outcome State Fault Refusal :=
  issue o.s s <|
    (checkSrc s s.cur [o.c, o.c + 1] 0).bind fun _ s => startMat s .mml (.mml o) o

/-- What the header of a record gives a check: POISON, then REUSE for `TEN` and, with a K, `KLEN` (R121, R123, R229). -/
def recordCheck (s : State) (b : Sender) (ea : Nat) (k : Option Nat) : Option Cause × State :=
  match readSpan s b ea 64 with
  | (.ok xs, s) =>
    let h := ofBytes ((xs.take 8).map (·.1))
    if anyPsn xs then (some .poison, s)
    else if fld h 51 12 ≠ b.ten then (some .reuse, s)
    else
      match k with
      | some k => (if fld h 25 10 = k then none else some .reuse, s)
      | none => (none, s)
  | (.miss _, s) => (none, s)
  | (.fail, s) => (some .access, s)

/-- Whether a range reaches a control window, which takes no access of an operation of the array (R296). -/
def reachesWindow (s : State) (b : Sender) (ea len need : Nat) : Bool :=
  match locateFor s b ea len need with
  | some (.at_ (.ctl ..) _) => true
  | none => true
  | _ => false

/-- On whose behalf an operation accesses memory as it is checked: the thread's own word, or the sequencer's under its number. -/
def MatEntry.sender (s : State) (e : MatEntry) : Sender := if e.seq then opSender s e.slot e.since else threadSender s e.slot

/-- The checks of `mmd` that follow its slots: the record capability, its target, the record's header, which waits for the thread's earlier
accesses to it (R121), FORMAT (R123, R229, R348). -/
def mmdChecks (s : State) (o : MatOperand) (e : MatEntry) : Res Unit :=
  let c := s.core (coreOf e.slot)
  let b := e.sender s
  let k := slotK (c.hdr o.b)
  let len := if k = 0 then 64 else recordSize k
  let ea := e.c0.addr
  match slotChecks c e.slot o.acc false [o.a, o.b] o.swz with
  | some x => .trap x 0
  | none =>
    match capCheck e.c0 ea len (permR ||| permW) 64 with
    | some x => .trap x ea
    | none =>
      if reachesWindow s b ea len 3 then .trap .access ea
      else
      (walkedFor s b e.slot ea len 3 1 fun _ => 0).bind fun _ s =>
        if rangeHeld s b (ea, 64) then .wait (.held ea 64) s else
        let s := drainRange s b e.slot ea len
        if spansBehind s b e.slot (if e.seq then e.since else s.nextId) [(ea, 64)] then .wait (.bytes ea 64) s
        else
          match recordCheck s b ea (if k = 0 then none else some k) with
          | (some x, _) => .trap x (if x = .access then ea else 0)
          | (none, s) =>
            match matShape c .mma o.a o.b with
            | some (false, _) => .ok () s
            | _ => .trap .format 0

/-- `mmd` and `mmd.full` (R229). -/
def startMmd (s : State) (op : Instr) (o : MatOperand) : Res Unit :=
  (checkSrc s s.cur [o.c, o.c + 1] 0).bind fun _ s =>
    (idleFor s s.cur 0 (maskOf [16 + o.acc, o.a, o.b])).bind fun _ s =>
      (room (if devClass (readReg s s.cur o.c).addr then .device else .relaxed) s).bind fun _ s =>
        let e := newEntry s s.cur op (readReg s s.cur o.c) (readReg s s.cur (o.c + 1)) RegVal.zero RegVal.zero
        (mmdChecks s o e).bind fun _ s => runDirect s e

/-- `mmd` (R123, R229). -/
def execMmd (o : MatOperand) (s : State) : Host.Outcome State Fault Refusal := issue o.s s (startMmd s (.mmd o) o)

/-- `mmd.full` (R123, R229). -/
def execMmdFull (o : MatOperand) (s : State) : Host.Outcome State Fault Refusal := issue o.s s (startMmd s (.mmdFull o) o)

/-! ## Record instructions (R121, R230) -/

/-- A request of the thread's own that parks it until its reply (R230). -/
def parkedReq (s : State) (r : Request) (need : Nat) : Res Unit :=
  let rid := s.nextId
  (issueReq s r need).bind fun _ s =>
    match (s.slot s.cur).status with
    | .parked _ => .ok () s
    | _ => .ok () (parkAfter s (.reply rid))

/-- The class of a record access (R121). -/
def recordCls (ea : Nat) : Cls := if devClass ea then .device else .relaxed

/-- `rinit` (R121). [Log 46: DEDUCED] -/
def execRinit (m : Bool) (a b : Nat) (s : State) : Host.Outcome State Fault Refusal :=
  issue m s <|
    (checkSrc s s.cur [a, b] 0).bind fun _ s =>
      let c := fieldVal s s.cur [a, b] 0
      let v := fieldVal s s.cur [a, b] 1
      let n := v.bits.toNat
      let k := fld n 0 10
      if k = 0 ∨ 992 < k ∨ 16 < fld n 10 5 ∨ fld n 16 8 = 0 then .trap .reuse 0
      else
        match capCheck c c.addr (recordSize k) permW 64 with
        | some x => .trap x c.addr
        | none =>
          (room (recordCls c.addr) s).bind fun _ s =>
            (walkedFor s (threadSender s s.cur) s.cur c.addr 64 2 1 fun _ => n).bind fun _ s => (fed s s.cur c.addr 64).bind fun _ s =>
              let t := drainRange (popAll s s.cur [a, b]) (threadSender s s.cur) s.cur c.addr 64
              parkedReq t ((newReq t s.cur (recordCls c.addr) (.rinit v.bits) c.addr 64 0 0).withPops s t [a, b]) 2

/-- `rinval` (R121, R230): `TEN` is checked where the header stands. [Log 46: DEDUCED] -/
def execRinval (m : Bool) (a : Nat) (s : State) : Host.Outcome State Fault Refusal :=
  issue m s <|
    (checkSrc s s.cur [a] 0).bind fun _ s =>
      let c := fieldVal s s.cur [a] 0
      match capCheck c c.addr 64 (permR ||| permW) 64 with
      | some x => .trap x c.addr
      | none =>
        (room (recordCls c.addr) s).bind fun _ s =>
          (walked s s.cur c.addr 64 3 1).bind fun _ s => (fed s s.cur c.addr 64).bind fun _ s =>
            let t := drainRange (popAll s s.cur [a]) (threadSender s s.cur) s.cur c.addr 64
            parkedReq t ((newReq t s.cur (recordCls c.addr) .rinval c.addr 64 0 0).withPops s t [a]) 3

/-- `rstat` (R121, R230): one load, whose reply the thread waits for because its `TEN` is a check (R344).
[Log 46: DEDUCED] -/
def execRstat (m : Bool) (d a : Nat) (s : State) : Host.Outcome State Fault Refusal :=
  issue m s <|
    (checkSrc s s.cur [a] 0).bind fun _ s =>
      let c := fieldVal s s.cur [a] 0
      match capCheck c c.addr 16 permR 16 with
      | some x => .trap x c.addr
      | none =>
        (room (recordCls c.addr) s).bind fun _ s =>
          let r := newReq s s.cur (recordCls c.addr) .rstat c.addr 16 0 d
          (storeRoom s r).bind fun _ s => parkedReq (popAll s s.cur [a]) (r.withPops s (popAll s s.cur [a]) [a]) 1

/-! ## Accumulator instructions (R231-R236) -/

/-- Whether a store of bytes at an address traps ACCESS (R296, R347 steps 7 and 8). -/
def storeRefused (s : State) (b : Sender) (ea len : Nat) : Bool :=
  match locateFor s b ea len 2 with
  | none => true
  | some (.at_ (.ctl ..) _) => true
  | _ => false

/-- The first failed check of the rows, all checks of a row before those of the next (R236, R348). -/
def rowChecks (s : State) (b : Sender) (a : RegVal) (f : Nat) (rows : List (Nat × Nat)) : Option (Cause × Nat) :=
  rows.findSome? fun r =>
    match capCheck a r.2 (rowBytes f) permW 1 with
    | some c => some (c, r.2)
    | none => if (piecesOf 64 r.2 (rowBytes f)).any fun p => storeRefused s b p.1 p.2 then some (.access, r.2) else none

/-- The bytes of a row from an address on, as a retry entry records them (R360): what the accumulator holds now. -/
def rowData (c : Core) (acc f rnd : Nat) (row : Nat × Nat) (va : Nat) : Nat := ofBytes ((storedRow c acc f rnd row.1).1.drop (va - row.2)) % 2 ^ 128

/-- The checks of `macc.st` once its sources are read (R236, R348). -/
def maccStChecks (s : State) (b : Sender) (g acc f : Nat) (a d : RegVal) : Res Unit :=
  let n := d.bits.toNat
  let al : Nat := if f ≤ 4 then 16 else 64
  let c := s.core (coreOf g)
  if !c.claims g (16 + acc) then .trap .slot 0
  else if f = 0xC4 ∨ fld n 45 83 ≠ 0 ∨ fld n 37 3 ≠ 0 ∨ 32 < fld n 32 5 + fld n 40 5 + 1 then .trap .format 0
  else if a.addr % al ≠ 0 ∨ strideOf d % al ≠ 0 then .trap .align a.addr
  else
    match rowChecks s b a f (storedRows a d) with
    | some (c, ea) => .trap c ea
    | none =>
      if c.accBad acc then .trap .poison 0
      else
        (storedRows a d).foldl (fun (r : Res Unit) row => r.bind fun _ s =>
          walkedFor s b g row.2 (rowBytes f) 2 1 (rowData c acc f (s.slot g).ctx.rnd.toNat row)) (.ok () s)

/-- `macc.st` (R236). [Log 74: DESIGN CHOICE] -/
def execMaccSt (o : MaccStOp) (s : State) : Host.Outcome State Fault Refusal :=
  issue o.s s <|
    (checkSrc s s.cur [o.a, o.b] 0).bind fun _ s =>
      (room .relaxed s).bind fun _ s =>
        let a := fieldVal s s.cur [o.a, o.b] 0
        let b := fieldVal s s.cur [o.a, o.b] 1
        (maccStChecks s (threadSender s s.cur) s.cur o.acc o.fmt a b).bind fun _ s =>
          .ok () (popAll (enqueueOp s (newEntry s s.cur (.maccSt o) RegVal.zero RegVal.zero a b)) s.cur [o.a, o.b])

/-- `macc.z` (R231). [Log 74: DESIGN CHOICE] -/
def execMaccZ (m : Bool) (acc : Nat) (s : State) : Host.Outcome State Fault Refusal :=
  issue m s <|
    if !(s.core (coreOf s.cur)).claims s.cur (16 + acc) then .trap .slot 0
    else .ok () (enqueueOp s (newEntry s s.cur (.maccZ m acc) RegVal.zero RegVal.zero RegVal.zero RegVal.zero))

/-- The checks of `mqfin` (R117, R232, R348). -/
def mqfinChecks (c : Core) (g acc n swz : Nat) : Option Cause :=
  match slotChecks c g acc true [n] swz with
  | some x => some x
  | none => if hdrFmt (c.hdr n) ≠ 0 ∨ hdrVec (c.hdr n) < 2 then some .format else none

/-- `mqfin` (R117, R232). [Log 74: DESIGN CHOICE] -/
def execMqfin (m : Bool) (acc slot swz : Nat) (s : State) : Host.Outcome State Fault Refusal :=
  issue m s <|
    (idleFor s s.cur 1 (2 ^ slot)).bind fun _ s =>
      (orTrap (mqfinChecks (s.core (coreOf s.cur)) s.cur acc slot swz) s).bind fun _ s =>
        .ok () (enqueueOp s (newEntry s s.cur (.mqfin m acc slot swz) RegVal.zero RegVal.zero RegVal.zero RegVal.zero))

/-! ## Claims, loads and status (R237-R239) -/

/-- `oclaim` (R108, R237). -/
def execOclaim (m : Bool) (res : Nat) (s : State) : Host.Outcome State Fault Refusal :=
  issue m s <|
    let k := s.core (coreOf s.cur)
    match find k.holder res with
    | none => .ok () (s.setCore (coreOf s.cur) (grantRes k res s.cur))
    | some g =>
      if g = s.cur then .ok () s
      else if k.waiting.contains (res, s.cur) then .wait (.claim res) s
      else .wait (.claim res) (s.setCore (coreOf s.cur) { k with waiting := k.waiting ++ [(res, s.cur)] })

/-- `orel` (R108, R237). -/
def execOrel (m : Bool) (res : Nat) (s : State) : Host.Outcome State Fault Refusal :=
  issue m s <|
    (idleFor s s.cur 2 (2 ^ res)).bind fun _ s =>
      let k := s.core (coreOf s.cur)
      if k.claims s.cur res then .ok () (s.setCore (coreOf s.cur) (releaseRes k res)) else .ok () s

/-- The checks of `oload` (R238, R348). -/
def oloadChecks (s : State) (b : Sender) (g res : Nat) (cap : RegVal) (desc : W128) : Res Unit :=
  let n := desc.toNat
  let len := 64 * oloadBlocks desc
  if !(s.core (coreOf g)).claims g res ∨ 256 < oloadBlocks desc then .trap .slot 0
  else if fld n 121 7 ≠ 0 ∨ fld n 21 43 ≠ 0 then .trap .format 0
  else if cap.addr % 64 ≠ 0 then .trap .align cap.addr
  else
    match capCheck cap cap.addr len permR 1 with
    | some c => .trap c cap.addr
    | none =>
      if (piecesOf 64 cap.addr len).any fun p => (locateFor s b p.1 p.2 1).isNone then .trap .access cap.addr
      else walkedFor s b g cap.addr len 1 0 fun _ => 0

/-- An `oload` begins: `FULL` becomes 0 (R109). One of a detached body has its number already. -/
def startOload (s : State) (j : OloadJob) : State :=
  let n := if j.seq then j.since else s.nextId
  (adoptWalks s j.slot j.ofs n).bump.onCore (coreOf j.slot) fun c =>
    { c with
      hdrs := put 0 c.hdrs j.res (BitVec.ofNat 128 (setFld (c.hdr j.res).toNat 63 1 0))
      oloads := c.oloads ++ [{ j with since := n, left := List.range (oloadBlocks j.desc) }] }

/-- `oload` (R109, R238). -/
def execOload (m : Bool) (slot a b : Nat) (s : State) : Host.Outcome State Fault Refusal :=
  issue m s <|
    (checkSrc s s.cur [a, b] 0).bind fun _ s =>
      (idleFor s s.cur 2 (2 ^ slot)).bind fun _ s =>
        (room .relaxed s).bind fun _ s =>
          let cap := readReg s s.cur a
          let desc := (readReg s s.cur b).bits
          (oloadChecks s (threadSender s s.cur) s.cur slot cap desc).bind fun _ s =>
            let x := s.slot s.cur
            .ok () (startOload s
              { slot := s.cur, ofs := x.ofs, seq := false, rep := x.ctx.rep, res := slot, cap := cap, desc := desc, since := 0
                left := [], psn := false })

/-- What `ostat` writes (R239). -/
def ostatVal (s : State) (g res : Nat) : RegVal :=
  let c := s.core (coreOf g)
  let pend := if namedBusy s g 2 (2 ^ res) then 2 else 0
  if !c.claims g res then RegVal.zero
  else if res < 16 then RegVal.ofNat ((c.hdr res).toNat / 2 ^ 42 * 2 ^ 42 + pend + 1)
  else RegVal.ofNat ((if look false c.accInt (res - 16) then 4 else 0) + pend + 1)

/-- `ostat` (R239). -/
def execOstat (m : Bool) (d res : Nat) (s : State) : Host.Outcome State Fault Refusal :=
  issue m s (.ok () (writeReg s s.cur d (ostatVal s s.cur res)))

/-! ## The sequencer (R223, R224) -/

/-- The checks and the entry of an operation that the sequencer sends, or the `oload` that it starts.
[Log 87: DESIGN CHOICE] -/
def sendOp (s : State) (b : SeqBody) (i : Instr) : Res Unit :=
  let g := b.slot
  let ofs := b.rep.ofs + 1 + b.word
  let e := { newEntry s g i RegVal.zero RegVal.zero RegVal.zero RegVal.zero with ofs := ofs, seq := true, rep := b.rep, since := b.num }
  let c := s.core (coreOf g)
  let src := fun (fs : List Nat) (f : State → Res Unit) => (checkSrc s g fs 0).bind fun _ s => f s
  let at_ := fun (s : State) (e : MatEntry) => Res.ok () (enqueueOp s e)
  let mat := fun (form : MatForm) (o : MatOperand) => (orTrap (matChecks c form o e) s).bind fun _ s => at_ s e
  match i with
  | .mma o => mat .mma o
  | .mmq o => mat .mmq o
  | .mml o => src [o.c, o.c + 1] fun s => (orTrap (matChecks c .mml o e) s).bind fun _ s => at_ s e
  | .mmd o => src [o.c, o.c + 1] fun s =>
      let e := { e with c0 := readReg s g o.c, c1 := readReg s g (o.c + 1) }
      (mmdChecks s o e).bind fun _ s => at_ s e
  | .mmdFull o => src [o.c, o.c + 1] fun s =>
      let e := { e with c0 := readReg s g o.c, c1 := readReg s g (o.c + 1) }
      (mmdChecks s o e).bind fun _ s => at_ s e
  | .maccSt o => src [o.a, o.b] fun s =>
      let a := fieldVal s g [o.a, o.b] 0
      let d := fieldVal s g [o.a, o.b] 1
      (maccStChecks s (opSender s g b.num) g o.acc o.fmt a d).bind fun _ s =>
        (at_ s { e with a := a, b := d }).bind fun _ s => .ok () (popAll s g [o.a, o.b])
  | .maccZ _ acc => if c.claims g (16 + acc) then at_ s e else .trap .slot 0
  | .mqfin _ acc n swz => (orTrap (mqfinChecks c g acc n swz) s).bind fun _ s => at_ s e
  | .oload _ n a d => src [a, d] fun s =>
      let cap := readReg s g a
      let desc := (readReg s g d).bits
      (oloadChecks s (opSender s g b.num) g n cap desc).bind fun _ s =>
        .ok () (startOload s { slot := g, ofs := ofs, seq := true, rep := b.rep, res := n, cap := cap, desc := desc, since := b.num, left := []
                               psn := false })
  | _ => .trap .illegal 0

/-- The body moves on by one word, and by one iteration after its last word; the sequencer ends with the last iteration. -/
def nextSend (b : SeqBody) : Option SeqBody :=
  if b.word + 1 < b.rep.len then some { b with word := b.word + 1 }
  else if b.rep.j + 1 < b.rep.count then some { b with word := 0, rep := { b.rep with j := b.rep.j + 1 } }
  else none

/-- The word that a sequencer sends next, as it issues in its iteration (R222-R224); at the last offset of its block it is ILLEGAL
(R152). [Log 18: DEDUCED] -/
def seqWord (b : SeqBody) (s : State) : Res Instr :=
  if b.block ≤ b.rep.ofs + 1 + b.word + 1 then .trap .illegal 0
  else if b.word = 0 ∧ !staggerFits b.rep b.rep.j b.words then .trap .repeat_ 0
  else
    match restagger b.rep b.rep.j b.word (b.words.getD b.word 0) with
    | none => .trap .repeat_ 0
    | some w =>
      match decodeWord w with
      | .ok i => .ok i s
      | .error _ => .trap .illegal 0

/-- The class of the accesses of an operation of the array, if it makes any (R121, R125). -/
def opCls (s : State) (g : Nat) (i : Instr) : Option Cls :=
  let record := fun (c : Nat) => some (if devClass (readReg s g c).addr then Cls.device else Cls.relaxed)
  match i with
  | .mmd o => record o.c
  | .mmdFull o => record o.c
  | .maccSt _ => some .relaxed
  | .oload .. => some .relaxed
  | _ => none

/-- The slots that the sequencer's next word names have every earlier load landed, an `oload` finds no operation of the thread that
names its slot, the header of a record has no earlier access of the thread, and the accesses stay within the limits of their class (R110,
R121, R125, R224). [Log 74: DESIGN CHOICE] -/
def sendReady (s : State) (b : SeqBody) (i : Instr) : Bool :=
  let c := s.core (coreOf b.slot)
  let header := fun (r : Nat) =>
    let sp := ((readReg s b.slot r).addr, 64)
    !spansBehind s (opSender s b.slot b.num) b.slot b.num [sp] && !rangeHeld s (opSender s b.slot b.num) sp
  let room := match opCls s b.slot i with
    | some k => classRoom s b.slot k
    | none => true
  room && match i with
    | .oload _ n _ _ =>
      !(c.queue.any fun e => e.slot == b.slot && (opNames e.op).contains n) && !(c.oloads.any fun o => o.slot == b.slot && o.res == n)
    | i =>
      !(c.oloads.any fun o => o.slot == b.slot && (opNames i).contains o.res) && decide ((c.queue.filter (·.seq)).length < 4)
        && match i with
          | .mmd o => header o.c
          | .mmdFull o => header o.c
          | _ => true

/-- A walk that the sequencer's next word waits for stands under the word's own offset. -/
def seqWalk (s : State) (b : SeqBody) : State :=
  { s with walks := s.walks.map fun w =>
      if !w.isEng && w.owner == b.slot && w.num == some b.num then { w with ofs := b.rep.ofs + 1 + b.word } else w }

/-- Whether a word of the body that a sequencer has sent, or is to send next, waits for a translation (R224). -/
def bodyWalking (s : State) (b : SeqBody) : Bool :=
  s.walks.any fun w => !w.isEng && w.owner == b.slot && w.phase != .done && w.num.any fun n => decide (b.since ≤ n ∧ n ≤ b.num)

/-- Whether the sequencer of a core can send (R224): nothing of its thread's sequenced words waits for a translation. -/
def canSend (s : State) (core : Nat) : Bool :=
  match (s.core core).seq with
  | none => false
  | some b =>
    !bodyWalking s b &&
      match seqWord b s with
      | .ok i _ => sendReady s b i
      | _ => true

/-- SEQUENCER_SEND (R224). -/
def execSequencerSend (core : Nat) (s : State) : Host.Outcome State Fault Refusal :=
  match (s.core core).seq with
  | none => .next s
  | some b =>
    if !canSend s core then .next s
    else
      let g := b.slot
      let r : Res Unit := (seqWord b s).bind fun i s => sendOp s b i
      match r with
      | .ok _ t => .next (t.onCore core fun c => { c with seq := nextSend b })
      | .trap c info => .next (seqFail s g c (b.rep.ofs + 1 + b.word) b.rep info)
      | .wait _ t => .next (seqWalk t b)

/-! ## Completions -/

/-- Whether the sequencer has still to send an operation that R115 puts before one that its thread issued after the body. -/
def unsentBefore (s : State) (core : Nat) (f : MatEntry) : Bool :=
  let c := s.core core
  match c.seq with
  | none => false
  | some b => b.slot == f.slot && decide (b.num < f.since) && (leftOps b).any fun i =>
      !(opNames i).isEmpty && opOrdered c { f with op := i, seq := true, rep := b.rep } f

/-- Whether an acquire that the thread issued before number `id` has not been performed (R131). -/
def acquireBehind (s : State) (g id : Nat) : Bool := s.net.any fun r => r.slot == g && r.ord == 1 && decide (r.id < id)

/-- Whether an operation that was issued directly has not taken its place in the queue: an acquire before it is not performed, or a body
that its thread gave to the sequencer before still has operations to send that it follows, or they came to stand behind it. -/
def overtaken (s : State) (core i : Nat) (e : MatEntry) : Bool :=
  acquireBehind s e.slot e.since || unsentBefore s core e || (opAccesses e.op && bodyBehind s e.slot e.since)
    || ((s.core core).queue.drop (i + 1)).any fun f => f.slot == e.slot && decide (f.since < e.since)

/-- Whether the `k`-th operation of a core's queue may complete: none that R115 puts before it is left, and those that stand before it
are of its own thread, if the sequencer sent it, or have not taken their places (R114, R115, R223). -/
def canComplete (s : State) (core k : Nat) : Bool :=
  let c := s.core core
  match c.queue[k]? with
  | none => false
  | some f => !unsentBefore s core f && !(c.queue.any fun e => opBefore c e f)
      && (c.queue.take k).zipIdx.all fun ei => (ei.1.slot == f.slot && f.sent) || overtaken s core ei.2 ei.1

/-- Whether an operation may complete: nothing orders it after another, and the memory that it accesses is free of earlier accesses of
its thread (R125-R131) and held for no handover (R312). -/
def entryReady (s : State) (core k : Nat) : Bool :=
  match (s.core core).queue[k]? with
  | some e =>
    let b := opSender s e.slot e.since
    canComplete s core k && !acquireBehind s e.slot e.since && !spansBehind s b e.slot e.since e.spans && !e.spans.any (rangeHeld s b)
  | none => false

/-- The blocks that an `oload` is reading: they are issued in ascending order, eight at a time within the relaxed limit of the thread
(R238). -/
def OloadJob.reading (s : State) (j : OloadJob) : List Nat :=
  j.left.take (9 - min 8 (outstanding s j.slot .relaxed + relaxedWork s j.slot))

/-- Whether an `oload` may read a block: earlier accesses of its thread to its bytes come first (R127, R128), and no handover holds it
(R312). -/
def oloadReady (s : State) (j : OloadJob) (i : Nat) : Bool :=
  let b := opSender s j.slot j.since
  !spansBehind s b j.slot j.since [j.block i] && !rangeHeld s b (j.block i)

/-- The walks that served an operation are over with it (R262, R264). -/
def dropDone (s : State) (g n : Nat) : State :=
  { s with walks := s.walks.filter fun w => w.isEng || w.owner != g || w.num != some n || w.phase != .done }

/-- An operation leaves the queue with its flags (R102). -/
def doneOp (s : State) (core : Nat) (e : MatEntry) (fl : Nat) : State :=
  dropDone (orFlags (s.onCore core fun c => { c with queue := c.queue.erase e }) e.slot fl) e.slot e.since

/-- An operation of the array fails after its checks (R123, R224, R229). -/
def failOp (s : State) (e : MatEntry) (c : Cause) : State := failThread s e.slot c e.ofs (some e.since) 0

/-- `mma`, `mmq` and `mml` complete (R113); the codebook is read now (R118). Blocks that the distributor overwrote since the checks
and that no longer fit leave the accumulator as it was. [Log 20: DESIGN CHOICE] -/
def finishMat (s : State) (core : Nat) (e : MatEntry) (form : MatForm) (o : MatOperand) : State :=
  let c := s.core core
  match matShape c form o.a o.b with
  | none => doneOp s core e 0
  | some (int, k) =>
    let reg := fun (r : Nat) => (readReg s e.slot r).bits.toNat
    let book := if form = .mml then reg o.c + reg (o.c + 1) * 2 ^ 128 else 0
    let (v, fl) := matMul c int k o.a o.b book (if o.z then AccVal.zero else c.accVal o.acc)
    let mode := if o.z then int else look false c.accInt o.acc
    doneOp (s.setCore core (c.setAcc o.acc mode v)) core e fl

/-- The core number and slot of a thread, as a trace entry names it (R140). -/
def srcOf (g : Nat) : Nat × Nat := (coreOf g, g % 16)

/-- What the thread's earlier accesses have put into the gather buffer for the record of an `mmd` since its issue drains before the first
access to the record (R130); its stores come first. -/
def drainRecord (s : State) (e : MatEntry) : Option State :=
  let t := e.spans.foldl (fun t sp => drainRange t (opSender t e.slot e.since) e.slot sp.1 sp.2) s
  if t.stores.length = s.stores.length then none else some t

/-- `mmd` completes: reads the record, whose header still has to be the tenant's and of this K, computes, and writes the data lines
and then the header (R123, R229). [Log 20: DESIGN CHOICE] -/
def finishMmd (s : State) (core : Nat) (e : MatEntry) (force : Bool) (o : MatOperand) : State :=
  let k := slotK ((s.core core).hdr o.b)
  let ea := e.c0.addr
  let b := opSender s e.slot e.since
  match missing s b 3 (piecesOf 64 ea (recordSize k)) with
  | some va => askWalk s e.slot b.num va 3 1 6 e.ofs 0
  | none =>
    match readSpan s b ea (recordSize k) with
    | (.ok rec, s) =>
      if anyPsn rec then failOp s e .poison
      else if fld (recWord rec 0) 51 12 ≠ b.ten ∨ fld (recWord rec 0) 25 10 ≠ k then failOp s e .reuse
      else
        let c := s.core core
        let v := e.c1.int.toNat
        let r := mmdVal c force k o.a o.b v rec
        let out := cleanBytes (mmdRecord c o.b v rec r)
        let (ok1, s) := writeRange s b (srcOf e.slot) (ea + 64) (out.drop 64)
        let (ok2, s) := if ok1 then writeRange s b (srcOf e.slot) ea (out.take 64) else (false, s)
        if ok2 then doneOp (s.setCore core (c.setAcc o.acc false r.acc)) core e r.flags else failOp s e .access
    | (_, s) => failOp s e .access

/-- One 16-byte piece of a stored row (R236, R393): a device byte enters the gather buffer, a fenced cocoon drops it. The instruction
counts once for each guarded range (R79). -/
def storePiece (s : State) (b : Sender) (g num ea : Nat) (bs : List (BitVec 8)) : State :=
  match locateFor s b ea bs.length 2 with
  | some (.at_ (.sram p o) _) =>
    if nacked s p then faultEntry s (clusterOf g) 0x02 0x50 (s.slot g).ten (hwid g) ea (nackAux s p)
    else
      match foreignQueue s (partOf s g) p o bs.length with
      | some q => dropQueueWrite s p q ea s.chip
      | none => traceFrom (sramWrite s p o bs.length (ofBytes bs)) g p o
  | some (.at_ (.dev pa) e) =>
    let r := match e with | some e => if e.grd then [e.ridx + 64 * (num + 1)] else [] | none => []
    gatherPut s g pa e (bs.zipIdx.map fun bi => (pa % 64 + bi.2, bi.1)) false r
  | some (.at_ (.peer _) _) =>
    match placeOf ea 1 with
    | .exported .. => gatherPut s g (exportLine + ea) none (bs.zipIdx.map fun bi => (ea % 64 + bi.2, bi.1)) false []
    | _ => s
  | _ => s

/-- `macc.st` completes (R236). -/
def finishMaccSt (s : State) (core : Nat) (e : MatEntry) (o : MaccStOp) : State :=
  let rows := storedRows e.a e.b
  let b := opSender s e.slot e.since
  let c := s.core core
  let absent := fun (r : Nat × Nat) => (missing s b 2 (piecesOf 64 r.2 (rowBytes o.fmt))).map fun va => (r, va)
  match rows.findSome? absent with
  | some (r, va) => askWalk s e.slot b.num va 2 1 6 e.ofs (rowData c o.acc o.fmt e.rnd r va)
  | none =>
    let (s, fl) := rows.foldl (fun (acc : State × Nat) r =>
      let (bs, f) := storedRow c o.acc o.fmt e.rnd r.1
      ((piecesOf 16 r.2 bs.length).foldl (fun s p => storePiece s b e.slot e.since p.1 ((bs.drop (p.1 - r.2)).take p.2)) acc.1,
        acc.2 ||| f)) (s, 0)
    doneOp s core e fl

/-- Whether what an operation reads has become poison since its checks: operand memory, its accumulator, or its codebook (R351, R395).
[Log 85: DESIGN CHOICE] -/
def opSpoiled (s : State) (c : Core) (e : MatEntry) : Bool :=
  let mat := fun (o : MatOperand) => !o.z && c.accBad o.acc
  ((opNames e.op).any fun n => decide (n < 16) && c.slotPsn n) || match e.op with
    | .mma o => mat o
    | .mmq o => mat o
    | .mml o => mat o || (readReg s e.slot o.c).psn || (readReg s e.slot (o.c + 1)).psn
    | .maccSt o => c.accBad o.acc
    | .mqfin _ a _ _ => c.accBad a
    | _ => false

/-- MATRIX_OP_COMPLETE (R114). [Log 85: DESIGN CHOICE] -/
def execMatrixOpComplete (core k : Nat) (s : State) : Host.Outcome State Fault Refusal :=
  let c := s.core core
  match (if entryReady s core k then c.queue[k]? else none) with
  | none => .next s
  | some e =>
    if opSpoiled s c e then .next (failOp s e .poison)
    else
    .next <| match (if isMmd e.op then drainRecord s e else none) with
    | some t => t
    | none => match e.op with
      | .mma o => finishMat s core e .mma o
      | .mmq o => finishMat s core e .mmq o
      | .mml o => finishMat s core e .mml o
      | .mmd o => finishMmd s core e false o
      | .mmdFull o => finishMmd s core e true o
      | .maccSt o => finishMaccSt s core e o
      | .maccZ _ acc => doneOp (s.setCore core (c.setAcc acc false AccVal.zero)) core e 0
      | .mqfin _ acc n _ =>
        let (v, fl) := mqfinVal c acc n
        doneOp (s.setCore core (c.setAcc acc false v)) core e fl
      | _ => doneOp s core e 0

/-- The header that a complete `oload` leaves (R109). -/
def loadedHdr (cap : RegVal) (desc : W128) : W128 :=
  let n := desc.toNat
  let sva := if isGlobal cap.addr then fld n 64 57 else fld cap.addr 0 57
  makeHdr sva true (fld n 18 3) (fld n 0 8) (fld n 8 2) (fld n 10 8)

/-- A block of an `oload` has landed. With the last one the slot becomes FULL, or stays as it is with a deferred POISON where a block
was poisoned (R109, R351). -/
def landBlock (s : State) (core : Nat) (j : OloadJob) (i : Nat) (xs : List MByte) : State :=
  let n := { j with left := j.left.erase i, psn := j.psn || anyPsn xs }
  let s := if n.left.isEmpty then dropDone s j.slot j.since else s
  if !n.left.isEmpty then
    s.onCore core fun c => { (c.setBlock j.res i xs) with oloads := c.oloads.map fun o => if o = j then n else o }
  else
    let s := s.onCore core fun c =>
      { (c.setBlock j.res i xs) with
        oloads := c.oloads.erase j
        hdrs := if n.psn then c.hdrs else put 0 c.hdrs j.res (loadedHdr j.cap j.desc) }
    if !n.psn then s
    else if j.seq then seqFail s j.slot .poison j.ofs j.rep 0
    else deferTrap s j.slot .poison j.ofs (if j.rep.active then some j.rep else none) 0

/-- OLOAD_COMPLETE (R109, R238, R351, R393): a block of a load lands, one of those that it is reading. `k` names the load and the
block. -/
def execOloadComplete (core k : Nat) (s : State) : Host.Outcome State Fault Refusal :=
  let jobs := (s.core core).oloads
  match jobs[k % jobs.length]? with
  | none => .next s
  | some j =>
    match (j.reading s)[k / jobs.length]?.filter (oloadReady s j) with
    | none => .next s
    | some i =>
      match readSpan s (opSender s j.slot j.since) (j.block i).1 64 with
      | (.miss va, _) => .next (askWalk s j.slot (some j.since) va 1 0 6 j.ofs 0)
      | (.fail, s) => .next (failThread s j.slot .access j.ofs (some j.since) (j.block i).1)
      | (.ok xs, s) => .next (landBlock s core j i xs)

end Sys2Proof.Machine
end

