-- ==== Sys2Proof/Machine/Tables.lean ====
section
/-! DEFINITION. `end`, `match`, the table instructions and the match cache (04_matching R55-R67; 14_insn_control R243-R249;
25_faults_execution R363). -/

namespace Sys2Proof.Machine

/-! ## Directory and header -/

/-- A doubleword of a directory or a header at a device virtual address, through the thread's translation (R57), and whether it is
poisoned. -/
def tableDw (s : State) (va : Nat) : Res (Nat × Bool) :=
  (findAt s va 8 1 3 3).bind fun te s =>
    match te.1 with
    | .dev pa =>
      let s := devSettle s (forwardPa s pa) 8
      .ok (devRead s (s.slot s.cur).ten pa 8, devPoisoned s pa 8) s
    | _ => .trap .access va

/-- `LTDIR` of the thread's launch (R32). -/
def tableDir (s : State) (g : Nat) : Nat :=
  match s.launch (s.slot g).lcl (s.slot g).lid with
  | some l => l.ltdir
  | none => 0

/-- The device virtual address of table `n`, none where its directory entry is poisoned; TABLE when it has `V` = 0 (R57). -/
def tableAddr (s : State) (n : Nat) : Res (Option Nat) :=
  (tableDw s (tableDir s s.cur + 8 * n)).bind fun w s =>
    if w.2 then .ok none s else if bitAt w.1 0 then .ok (some (fld w.1 6 51 * 64)) s else .trap .table 0

/-- The physical address of a table's header. -/
def headerPa (s : State) (va : Nat) : Res Nat :=
  (findAt s va 64 1 3 6).bind fun te s =>
    match te.1 with
    | .dev pa => .ok pa s
    | _ => .trap .access va

/-- C of a header's doubleword 0 (R58). -/
def hdrCap (h : Nat) : Nat := fld h 1 8 + 1

/-- Byte offset of a bank of a table object (R58): 0 A, 1 B. -/
def bankOfs (h bank : Nat) : Nat := 0x40 + (if bank = 0 then 0 else 32 * hdrCap h)

/-- Entries searched in a bank (R58, R60). -/
def bankCount (h bank : Nat) : Nat := if bank = 0 then fld h 11 9 else fld h 20 9

/-! ## The match cache (R62, R63) -/

/-- Whether version `v` is newer than `u` (R62). -/
def newerVer (v u : Nat) : Bool := let d := (v + 2 ^ 32 - u) % 2 ^ 32; decide (1 ≤ d) && decide (d < 2 ^ 31)

/-- A cluster learns a version (R62, R66). -/
def learnVer (s : State) (cl hdr ver act : Nat) : State :=
  let go := match find (s.cluster cl).known hdr with
    | some u => newerVer ver u.1
    | none => true
  if go then dropOldLines (s.onCluster cl fun c => { c with known := ins c.known hdr (ver, act) }) cl hdr else s

/-- A line of entries joins a match cache of 1,024 such lines, the one that joined first leaving a full one; headers are kept apart
(R62). [Log 75: DESIGN CHOICE] -/
def addLine (s : State) (cl : Nat) (l : MatchLine) : State :=
  s.onCluster cl fun c =>
    if l.idx = 0 then { c with hdrLines := c.hdrLines ++ [l] }
    else let ls := c.lines ++ [l]; { c with lines := ls.drop (ls.length - 1024) }

/-- The version that a search uses: pinned already, or pinned now (R63). -/
def pinVer (s : State) (hdr va : Nat) : Res (Nat × Nat) :=
  let old := match (s.slot s.cur).pin with
    | some p => if p.1 = hdr then some p.2 else none
    | none => none
  match old with
  | some v => .ok v s
  | none =>
    match find (s.cluster (clusterOf s.cur)).known hdr with
    | some v => .ok v (s.onSlot s.cur fun x => { x with pin := some (hdr, v) })
    | none => .wait (.table hdr va) s

/-- A line of the pinned version, as the cache holds it. -/
def cacheLine (s : State) (hdr ver idx va len : Nat) : Res MatchLine :=
  let ten := (s.slot s.cur).ten
  let c := s.cluster (clusterOf s.cur)
  match (if idx = 0 then c.hdrLines else c.lines).find? fun l => l.hdr == hdr && l.ver == ver && l.idx == idx && l.ten == ten with
  | some l => .ok l s
  | none => (walked s s.cur va len 1 3).bind fun _ s => .wait (.tableLine hdr ver idx ten va len) s

/-- An entry as a number of 256 bits (R59). -/
structure Entry where
  value  : Nat
  mask   : Nat
  params : Nat
  dw3    : Nat
  deriving DecidableEq, Repr

/-- Entry `i` (0 or 1) of a cached line. -/
def lineEntry (data i : Nat) : Entry :=
  { value := fld data (256 * i) 64, mask := fld data (256 * i + 64) 64, params := fld data (256 * i + 128) 64,
    dw3 := fld data (256 * i + 192) 64 }

/-- `ACTN` (R59). -/
def Entry.actn (e : Entry) : Nat := fld e.dw3 24 4
/-- `NEXT` (R59). -/
def Entry.next (e : Entry) : Nat := fld e.dw3 0 24

/-- Whether an entry wins a key (R60). -/
def Entry.hits (e : Entry) (key : Nat) : Bool := bitAt e.dw3 28 && (key ^^^ e.value) &&& e.mask == 0

/-- The result of a search: the winner with its index, and whether a line that was compared is poisoned. -/
structure Found where
  win : Option (Nat × Entry)
  psn : Bool

/-- Searches `n` entries from line `k` on (R60). `va` is the bank's address, `cap` the entries it holds. -/
def searchFrom (s : State) (hdr ver va cap n key k : Nat) (psn : Bool) : Nat → Res Found
  | 0 => .ok ⟨none, psn⟩ s
  | fuel + 1 =>
    if n ≤ 2 * k then .ok ⟨none, psn⟩ s
    else
      (cacheLine s hdr ver (k + 1) (va + 64 * k) (32 * min 2 (cap - 2 * k))).bind fun l s =>
        let psn := psn || l.psn
        if (lineEntry l.data 0).hits key then .ok ⟨some (2 * k, lineEntry l.data 0), psn⟩ s
        else if 2 * k + 1 < n ∧ (lineEntry l.data 1).hits key then .ok ⟨some (2 * k + 1, lineEntry l.data 1), psn⟩ s
        else searchFrom s hdr ver va cap n key (k + 1) psn fuel

/-- The search of table `n` for a key (R60-R63); TABLE where the table does not exist. A count past C stands for C. A directory entry
or a header that is poisoned ends the search (R351). [Log 76: DESIGN CHOICE] -/
def searchTable (s : State) (n key : Nat) : Res Found :=
  (tableAddr s n).bind fun v s =>
    match v with
    | none => .ok ⟨none, true⟩ s
    | some va =>
      (headerPa s va).bind fun hdr s =>
        (pinVer s hdr va).bind fun v s =>
          (cacheLine s hdr v.1 0 va 64).bind fun h s =>
            let d := fld h.data 0 64
            let cap := hdrCap d
            if h.psn then .ok ⟨none, true⟩ s
            else searchFrom s hdr v.1 (va + bankOfs d v.2) cap (min (bankCount d v.2) cap) key 0 false 129

/-- Whether the fetch that slot `g` waits for can be made: nothing of it is still being walked. -/
def fillReady (s : State) (g : Nat) : Bool :=
  match (s.slot g).status with
  | .parked (.table hdr _) => (find (s.cluster (clusterOf g)).known hdr).isNone && !walking s g
  | .parked (.tableLine hdr ver idx ten _ _) => !waitOver s g (.tableLine hdr ver idx ten 0 0) && !walking s g
  | _ => false

/-- MATCH_CACHE_FILL (R62): the header or line that slot `g` waits for arrives. -/
def execMatchCacheFill (g : Nat) (s : State) : Host.Outcome State Fault Refusal :=
  let cl := clusterOf g
  let b := { threadSender s g with own := false }
  if !fillReady s g then .next s
  else
    match (s.slot g).status with
    | .parked (.table hdr va) =>
      match readSpan s b va 64 with
      | (.ok xs, s) =>
        let h := fld (numOf xs) 0 64
        let s := learnVer s cl hdr (fld h 32 32) (fld h 0 1)
        .next (addLine s cl ⟨hdr, fld h 32 32, 0, b.ten, numOf xs, anyPsn xs⟩)
      | (.miss va, s) => .next (askWalk s g none va 1 3 6 (s.slot g).ofs 0)
      | (.fail, s) => .next (trapHere s g .access va)
    | .parked (.tableLine hdr ver idx ten va len) =>
      match readSpan s b va len with
      | (.ok xs, s) =>
        let h := fld (numOf xs) 0 64
        let s := if idx = 0 then learnVer s cl hdr (fld h 32 32) (fld h 0 1) else s
        .next (addLine s cl ⟨hdr, ver, idx, ten, numOf xs, anyPsn xs⟩)
      | (.miss va, s) => .next (askWalk s g none va 1 3 6 (s.slot g).ofs 0)
      | (.fail, s) => .next (trapHere s g .access va)
    | _ => .next s

/-! ## end -/

/-- Width in bits of a selector (R55). -/
def Sel.bits (x : Sel) : Nat := match x.wc with | 1 => 8 | 2 => 16 | 3 => 32 | _ => 0

/-- `BuildKey` (R56): a stream port reads as zero. -/
def buildKey (s : State) (g : Nat) (sels : List Sel) : Nat :=
  (sels.foldl (fun (acc : Nat × Nat) x =>
    (acc.1 + fld (readReg s g x.reg).bits.toNat (8 * x.ofs) (Sel.bits x) * 2 ^ acc.2, acc.2 + Sel.bits x)) (0, 0)).1

/-- Whether operations that the sequencer sent or is to send are not complete (R223). -/
def sequenced (s : State) (g : Nat) : Bool :=
  let c := s.core (coreOf g)
  (c.queue.any fun e => e.slot == g && e.seq) || (c.oloads.any fun o => o.slot == g && o.seq)
    || (match c.seq with | some b => b.slot == g | none => false)

/-- What an `end` that gives up the slot waits for and then releases (R108, R219, R244): matrix operations, its accesses, and the
elements of its ports, of which the open blocks are closed; then its gather buffer drains. Its table writes may be held for a commit
that waits for its own search (R65, R66); its drained stores come before the reports of its end (R39, R53). -/
def giveUp (s : State) : Res Unit :=
  if matrixBusy s s.cur then .wait .matrix s
  else
    ((boundPorts s s.cur).foldl (fun (r : Res Unit) p => r.bind fun _ s => placeBlock s p) (.ok () s)).bind fun _ s =>
      let s := closeBlocks s s.cur
      if !waitOver s s.cur (.posted false) then .wait (.posted false) s
      else if !waitOver s s.cur .written then .wait .written s
      else .ok () (releaseAll (drainAll (flushPorts s s.cur) s.cur) s.cur)

/-- The continuation leaves its slot at `end` (R47, R61): suspend (1), retire (2) or wait (3). [Log 77: DEDUCED] -/
def leaveSlot (s : State) (g actn next params : Nat) : State :=
  let cl := clusterOf g
  let ofs := (s.slot g).recOfs
  let s := unpin s g
  if actn = 2 then
    let s := idleSlot (writeBack s g 0 2 next 0 (BitVec.ofNat 64 params)) g
    retireRec s cl ofs (hwid g) 0 true
  else
    let s := idleSlot (writeBack s g 0 3 next 0 (BitVec.ofNat 64 params)) g
    if actn = 1 ∨ recCnt s cl ofs = 0 then runTail s cl ofs else s

/-- The action of the winning entry (R61, R244). -/
def endAction (s : State) (e : Entry) : Res Unit :=
  let g := s.cur
  let blocks := match s.launch (s.slot g).lcl (s.slot g).lid with | some l => l.blocks | none => 0
  let act := e.actn
  if 5 ≤ act ∨ ((act = 0 ∨ act = 1 ∨ act = 3) ∧ blocks ≤ e.next) then .trap .table 0
  else
    let lact := fun (s : State) => s.onSlot g fun x => { x with lact := act }
    match act with
    | 0 =>
      if sequenced s g then .wait .matrix s
      else
        .ok () ((lact (dropGot (unpin s g) g)).onSlot g fun x =>
          { x with blk := e.next, ofs := 0, p0 := BitVec.ofNat 64 e.params, status := .ready, mark := false,
                   ctx := { x.ctx with rep := Rep.none } })
    | 4 => .ok () (trapSoft (lact s) g (BitVec.ofNat 64 e.params))
    | _ => (giveUp s).bind fun _ s => .ok () (leaveSlot (lact s) g act e.next e.params)

/-- `end` (R244). Table data that is poisoned traps POISON once the search has met it, ahead of NOMATCH and of what the entry would
say. [Log 83: DESIGN CHOICE] -/
def execEndBlk (o : EndOp) (s : State) : Host.Outcome State Fault Refusal :=
  let sels := [o.sel0, o.sel1, o.sel2, o.sel3]
  issueOwn s <|
    if owesResult s s.cur then .wait .results s
    else if sels.any fun x => x.wc != 0 && decide (1 ≤ x.reg ∧ x.reg ≤ 47) && ((s.slot s.cur).ctx.reg x.reg).psn then .trap .poison 0
    else
      (searchTable s o.table (buildKey s s.cur sels)).bind fun f s =>
        if f.psn then .trap .poison 0
        else
          match f.win with
          | none => .trap .nomatch 0
          | some (_, e) => endAction s e

/-! ## match -/

/-- The result of `match` (R67). -/
def matchVal (f : Found) : RegVal :=
  match f.win with
  | some (i, e) => { RegVal.ofNat (e.params + i * 2 ^ 64 + e.actn * 2 ^ 80 + e.next * 2 ^ 84) with psn := f.psn }
  | none => { RegVal.ofNat (0xFFFF * 2 ^ 64) with psn := f.psn }

/-- `match` (R67, R246). [Log 83: DESIGN CHOICE] -/
def execMatchKey (m : Bool) (d a table : Nat) (s : State) : Host.Outcome State Fault Refusal :=
  issue m s <|
    (checkSrc s s.cur [a] 0).bind fun _ s =>
      (searchTable s table (fieldVal s s.cur [a] 0).int.toNat).bind fun f s =>
        let s := popAll (unpin s s.cur) s.cur [a]
        .ok () (pushResult s s.cur { dst := d, val := matchVal f, flags := 0, cls := none, rid := 0, after := none })

/-! ## Table instructions -/

/-- The checks of R247 on A for table `n`: the table's address, its header's address and its doubleword 0; none where the directory entry
or the header is poisoned, so that the checks from the fifth on cannot be made (R351). [Log 83: DESIGN CHOICE] -/
def tableChecks (s : State) (n : Nat) (c : RegVal) (perm : Nat) : Res (Option (Nat × Nat × Nat)) :=
  if !c.tag then .trap .captag 0
  else if c.otype ≠ 0 ∨ !hasPerm c perm then .trap .capperm 0
  else if isGlobal c.addr ∨ 2 ^ 57 ≤ c.addr then .trap .access 0
  else
    (tableAddr s n).bind fun v s =>
      match v with
      | none => .ok none s
      | some va =>
        (headerPa s va).bind fun pa s =>
          (tableDw s va).bind fun h s =>
            let fits := match capBounds c with
              | some (b, t) => decide (b ≤ va ∧ va + 64 + 64 * hdrCap h.1 ≤ t)
              | none => false
            if h.2 then .ok none s else if fits then .ok (some (va, pa, h.1)) s else .trap .capbound 0

/-- A table instruction that writes goes on with what its checks found; on poisoned table data it traps POISON. -/
def tableFound (t : Option (Nat × Nat × Nat)) (s : State) : Res (Nat × Nat × Nat) :=
  match t with
  | some t => .ok t s
  | none => .trap .poison 0

/-- The virtual and physical pages of a range that the thread has translated. -/
def pagesOf (s : State) (g va len : Nat) : List (Nat × Nat) :=
  (piecesOf 4096 va len).filterMap fun p =>
    match locate s g p.1 1 1 with
    | some (.at_ (.dev pa) _) => some (p.1 / 4096, pa / 4096)
    | _ => none

/-- The ranges of a table object at an address, whose header has doubleword 0 `h`, that an operation touches: the header, and an entry in
whichever bank is the one when the operation is performed (R65). -/
def touched (op : MemOp) (va h : Nat) : List (Nat × Nat) :=
  let entry := fun (i : Nat) => [(va + bankOfs h 0 + 32 * i, 32), (va + bankOfs h 1 + 32 * i, 32)]
  match op with
  | .tblWr _ _ c => (va, 8) :: entry (fld c.toNat 96 8)
  | .tblRd _ b => (va, 8) :: entry (fld b.toNat 0 8)
  | .tblSync _ => [(va, 64 + 64 * hdrCap h)]
  | _ => [(va, 8)]

/-- Steps for each range in turn. -/
def eachRange (f : State → Nat → Nat → Res Unit) (s : State) (rs : List (Nat × Nat)) : Res Unit :=
  rs.foldl (fun (r : Res Unit) t => r.bind fun _ s => f s t.1 t.2) (.ok () s)

/-- A table request leaves for the atomic unit that holds the header (R248): the bytes that it touches are translated, every gather
line that overlaps them drains once what the thread issued earlier has entered it, and the elements of the source fields `fs` are popped as
it issues. -/
def sendTable (s : State) (fs : List Nat) (cls : Cls) (op : MemOp) (va h ord d : Nat) : Res Unit :=
  let rs := touched op va h
  let need := reqNeed op
  (eachRange (fun s a n => walked s s.cur a n need 3) s rs).bind fun _ s =>
    (eachRange (fun s a n => fed s s.cur a n) s rs).bind fun _ s =>
      let r : Request := { newReq s s.cur cls op va 8 ord d with pages := (rs.flatMap fun (p : Nat × Nat) => pagesOf s s.cur p.1 p.2).dedup, touch := rs }
      let t := popAll s s.cur fs
      issueReq (rs.foldl (fun s p => drainRange s (threadSender s s.cur) s.cur p.1 p.2) t) (r.withPops s t fs) need

/-- `tbl.wr` (R65, R247, R248). [Log 83: DESIGN CHOICE] -/
def execTblWr (m : Bool) (table a b c : Nat) (s : State) : Host.Outcome State Fault Refusal :=
  issue m s <|
    let fs := [a, b, c]
    (checkSrc s s.cur fs 0).bind fun _ s =>
      (room .device s).bind fun _ s =>
        let v := fun i => fieldVal s s.cur fs i
        ((tableChecks s table (v 0) (permW ||| permTBL)).bind tableFound).bind fun t s =>
          if hdrCap t.2.2 ≤ fld (v 2).bits.toNat 96 8 then .trap .table 0
          else sendTable s fs .device (.tblWr t.2.1 (v 1).bits (v 2).bits) t.1 t.2.2 0 0

/-- `tbl.commit` (R65, R133, R248): a sequentially consistent operation. [Log 83: DESIGN CHOICE] -/
def execTblCommit (m : Bool) (d table a : Nat) (s : State) : Host.Outcome State Fault Refusal :=
  issue m s <|
    (checkSrc s s.cur [a] 0).bind fun _ s =>
      let c := fieldVal s s.cur [a] 0
      ((tableChecks s table c (permW ||| permTBL)).bind tableFound).bind fun t s =>
        (withFence 1 4 s).bind fun _ s =>
          let rid := s.nextId
          (sendTable s [a] .sc (.tblCommit t.2.1) t.1 t.2.2 3 d).bind fun _ s => .ok () (parkAfter s (.reply rid))

/-- `tbl.rd` (R65, R247, R248). [Log 83: DESIGN CHOICE] -/
def execTblRd (m : Bool) (d table a b : Nat) (s : State) : Host.Outcome State Fault Refusal :=
  issue m s <|
    let fs := [a, b]
    (checkSrc s s.cur fs 0).bind fun _ s =>
      (room .device s).bind fun _ s =>
        let v := fun i => fieldVal s s.cur fs i
        (tableChecks s table (v 0) permR).bind fun t s =>
          match t with
          | none =>
            .ok () (pushResult (popAll s s.cur fs) s.cur
              { dst := d, val := { RegVal.zero with psn := true }, flags := 0, cls := none, rid := 0, after := none })
          | some t =>
            if hdrCap t.2.2 ≤ fld (v 1).bits.toNat 0 8 then .trap .table 0
            else sendTable s fs .device (.tblRd t.2.1 (v 1).int) t.1 t.2.2 0 d

/-- `tbl.sync` (R65, R247, R248). [Log 83: DESIGN CHOICE] -/
def execTblSync (m : Bool) (table a : Nat) (s : State) : Host.Outcome State Fault Refusal :=
  issue m s <|
    (checkSrc s s.cur [a] 0).bind fun _ s =>
      (room .device s).bind fun _ s =>
        ((tableChecks s table (fieldVal s s.cur [a] 0) (permW ||| permTBL)).bind tableFound).bind fun t s =>
          sendTable s [a] .device (.tblSync t.2.1) t.1 t.2.2 0 0

/-! ## What the atomic unit does (R65) -/

/-- The physical address of a byte of a table object, through the pages that the request brings. -/
def tablePa (r : Request) (va : Nat) : Option Nat := (find r.pages (va / 4096)).map fun p => p * 4096 + va % 4096

/-- A range of a table object as the atomic unit reads it, its words settled (R371, R373). -/
def tableSettle (s : State) (r : Request) (va n : Nat) : State :=
  (piecesOf 64 va n).foldl (fun s p => match tablePa r p.1 with | some pa => devSettle s pa p.2 | none => s) s

/-- `n` bytes of a table object at a virtual address as a number. -/
def tableRead (s : State) (r : Request) (va n : Nat) : Nat :=
  (piecesOf 64 va n).foldr (fun p acc =>
    match tablePa r p.1 with
    | some pa => devRead s r.ten pa p.2 + 2 ^ (8 * p.2) * acc
    | none => 2 ^ (8 * p.2) * acc) 0

/-- Writes `n` bytes of a table object. -/
def tableWrite (s : State) (r : Request) (va n v : Nat) : State :=
  ((piecesOf 64 va n).foldl (fun (acc : State × Nat) p =>
    let s := acc.1
    let s := match tablePa r p.1 with
      | some pa => devWrite s r.ten pa (bytesOf p.2 acc.2) false
      | none => s
    (s, acc.2 / 2 ^ (8 * p.2))) (s, v)).1

/-- Whether any byte of a range of a table object is poisoned. -/
def tablePsn (s : State) (r : Request) (va n : Nat) : Bool :=
  (piecesOf 64 va n).any fun p =>
    match tablePa r p.1 with
    | some pa => devPoisoned s pa p.2
    | none => false

/-- Whether a table operation is held: its header has `PEND` = 1 (R65). -/
def tableHeld (s : State) (r : Request) : Bool :=
  match r.op with
  | .tblRd .. => false
  | _ => bitAt (tableRead s r r.ea 8) 29

/-- Doubleword 0 of a header as the part writes it: its `0` fields zero (R6, R58). -/
def tableDw0 (h : Nat) : Nat := setFld (setFld h 30 2 0) 9 2 0

/-- Entries as the part writes them: the `0` field of each doubleword 3 zero (R6, R59). -/
def entriesOf (v : Nat) (n : Nat) : Nat := (List.range n).foldl (fun v k => setFld v (256 * k + 221) 35 0) v

/-- Makes the words of a range of a table object poison that another range, as far off from its own start, holds poisoned (R372). -/
def copyPoison (s : State) (r : Request) (dst src n : Nat) : State :=
  ((List.range (n / 8)).filter fun i => tablePsn s r (src + 8 * i) 8).foldl (fun s i =>
    match tablePa r (dst + 8 * i) with
    | some pa => { s with dev := s.dev.makePoison (forwardPa s pa) 8 }
    | none => s) s

/-- A table operation performed: the state and its result. Each cluster that knows a version of the table applies a commit in a
moment of its own (R66). -/
def tablePerform (s : State) (r : Request) : State × Option RegVal :=
  let s := tableSettle s r r.ea 8
  let h := tableRead s r r.ea 8
  let act := fld h 0 1
  let shadow := 1 - act
  let at_ := fun (bank i : Nat) => r.ea + bankOfs h bank + 32 * i
  let setCount := fun (n : Nat) => setFld (tableDw0 h) (if shadow = 0 then 11 else 20) 9 n
  match r.op with
  | .tblWr _ b c =>
    let i := fld c.toNat 96 8
    let e := b.toNat + fld c.toNat 0 64 * 2 ^ 128 + fld c.toNat 64 29 * 2 ^ 192
    (tableWrite (tableWrite s r (at_ shadow i) 32 e) r r.ea 8 (setCount (max (bankCount h shadow) (i + 1))), none)
  | .tblSync _ =>
    let n := 32 * hdrCap h
    let s := tableSettle s r (at_ act 0) n
    let t := tableWrite s r (at_ shadow 0) n (entriesOf (tableRead s r (at_ act 0) n) (hdrCap h))
    (tableWrite (copyPoison t r (at_ shadow 0) (at_ act 0) n) r r.ea 8 (setCount (bankCount h act)), none)
  | .tblRd _ b =>
    let n := b.toNat
    let va := at_ (if bitAt n 8 then shadow else act) (fld n 0 8)
    let s := tableSettle s r va 32
    let v := match fld n 9 2 with
      | 0 => tableRead s r va 16
      | 1 => fld (tableRead s r (va + 24) 8) 0 64 * 2 ^ 64 + tableRead s r (va + 16) 8
      | 2 => h
      | _ => 0
    let bad := match fld n 9 2 with
      | 2 => tablePsn s r r.ea 8
      | 3 => false
      | _ => tablePsn s r va 32
    (s, some { RegVal.ofNat v with psn := bad })
  | .tblCommit hdr =>
    let ver := (fld h 32 32 + 1) % 2 ^ 32
    let s := tableWrite s r r.ea 8 (setFld (setFld (setFld (tableDw0 h) 0 1 shadow) 32 32 ver) 29 1 1)
    let todo := s.clusters.filterMap fun c => if (find c.2.known hdr).isSome then some c.1 else none
    let c : Commit := { hdr := hdr, slot := r.slot, ten := r.ten, rid := r.id, dst := r.dst, ver := ver, act := shadow, todo := todo }
    ({ s with commits := s.commits ++ [c] }, none)
  | _ => (s, none)

end Sys2Proof.Machine
end

