-- ==== Sys2Proof/Machine/Tiles.lean ====
section
/-! DEFINITION. The tile table and its instructions (05_memory R83-R85; 13_insn_matrix R240-R242). -/

namespace Sys2Proof.Machine

/-- Entry `n` of the tile table of a cluster (R83). -/
def tileOf (s : State) (cl n : Nat) : Nat := look 0 (s.cluster cl).tiles n

/-- Replaces entry `n`. -/
def setTile (s : State) (cl n v : Nat) : State := s.onCluster cl fun c => { c with tiles := put 0 c.tiles n v }

/-- `DEF` -/
def tileDef (e : Nat) : Bool := bitAt e 125
/-- `TEN` -/
def tileTen (e : Nat) : Nat := fld e 110 12
/-- `ST`: 0 empty, 1 filling, 2 ready, 3 draining -/
def tileSt (e : Nat) : Nat := fld e 126 2
/-- Rows -/
def tileRows (e : Nat) : Nat := fld e 98 12 + 1
/-- Row length in 64-byte blocks -/
def tileRlen (e : Nat) : Nat := fld e 86 12 + 1
/-- Slice offset of its first byte -/
def tileBase (e : Nat) : Nat := fld e 56 15 * 64

/-- An entry as `tdef` defines it (R84). -/
def makeTile (ten rows rlen swz ext base : Nat) : Nat :=
  2 ^ 125 + swz * 2 ^ 122 + ten * 2 ^ 110 + rows * 2 ^ 98 + rlen * 2 ^ 86 + ext * 2 ^ 71 + base * 2 ^ 56

/-- The slice offset and length of the region of a `tdef` capability: the first cause that holds otherwise (R241, R348). -/
def tileRegion (s : State) (g : Nat) (c : RegVal) (b : Nat) : Cause ⊕ (Nat × Nat) :=
  let cl := clusterOf g
  let home := fun (a n : Nat) =>
    match placeOf a n with
    | .sram chip vc ofs => if isThisChip s chip ∧ vcMap s cl (partOf s g) vc = some cl then some ofs else none
    | _ => none
  if !c.tag then .inl .captag
  else if c.otype ≠ 0 ∨ !hasPerm c (permR ||| permW ||| permGLB) then .inl .capperm
  else if (home c.addr 1).isNone then .inl .access
  else
    match capBounds c with
    | none => .inl .capbound
    | some (lo, hi) =>
      match home lo (hi - lo) with
      | none => .inl .access
      | some ofs =>
        if lo % 64 ≠ 0 ∨ hi % 64 ≠ 0 then .inl .align
        else if (hi - lo) / 64 < (fld b 0 12 + 1) * (fld b 12 12 + 1) then .inl .capbound
        else .inr (ofs, hi - lo)

/-- What a TILE instruction finds at its entry (R240). -/
def withTile (s : State) (n : Nat) (undef : State → Res Unit) (mine : Nat → State → Res Unit) : Res Unit :=
  let e := tileOf s (clusterOf s.cur) n
  if !tileDef e then undef s
  else if tileTen e ≠ (s.slot s.cur).ten then .trap .access 0
  else mine e s

/-- Waits in the tile state while a command is in flight on the entry (R240). -/
def tileQuiet (s : State) (n : Nat) : Res Unit :=
  if tileInFlight s (clusterOf s.cur) n then .wait (.tileIdle n) s else .ok () s

/-- `tdef` (R84, R240, R241). -/
def execTdef (m : Bool) (tile a b : Nat) (s : State) : Host.Outcome State Fault Refusal :=
  issue m s <|
    (checkSrc s s.cur [a, b] 0).bind fun _ s =>
      let c := fieldVal s s.cur [a, b] 0
      let n := (fieldVal s s.cur [a, b] 1).bits.toNat
      match tileRegion s s.cur c n with
      | .inl x => .trap x 0
      | .inr (ofs, len) =>
        let define := fun (s : State) =>
          let e := makeTile (s.slot s.cur).ten (fld n 0 12) (fld n 12 12) (fld n 24 3) (len / 64 - 1) (ofs / 64)
          Res.ok () (setTile (popAll s s.cur [a, b]) (clusterOf s.cur) tile e)
        withTile s tile define fun _ s => (tileQuiet s tile).bind fun _ s => define s

/-- `tstate` (R84, R240). -/
def execTstate (m : Bool) (d tile : Nat) (s : State) : Host.Outcome State Fault Refusal :=
  issue m s <|
    withTile s tile (fun s => .ok () (writeReg s s.cur d RegVal.zero)) fun e s =>
      .ok () (writeReg s s.cur d (RegVal.ofNat (tileSt e)))

/-- `tset` (R240, R242). -/
def execTset (m : Bool) (tile b : Nat) (s : State) : Host.Outcome State Fault Refusal :=
  issue m s <|
    (checkSrc s s.cur [b] 0).bind fun _ s =>
      let v := fld (fieldVal s s.cur [b] 0).bits.toNat 0 2
      withTile s tile (fun s => .ok () (popAll s s.cur [b])) fun _ s =>
        (tileQuiet s tile).bind fun _ s =>
          let cl := clusterOf s.cur
          .ok () (setTile (popAll s s.cur [b]) cl tile (setFld (tileOf s cl tile) 126 2 v))

/-- The other threads of a cluster that are parked in the tile state on an entry trap ACCESS (R242). -/
def failTileWaiters (s : State) (cl n : Nat) : State :=
  let gs := s.slots.filterMap fun gx =>
    if clusterOf gx.1 == cl && gx.2.status == .parked (.tileIdle n) then some gx.1 else none
  gs.foldl (fun s g => trapHere s g .access 0) s

/-- `tfree` (R240, R242). -/
def execTfree (m : Bool) (tile : Nat) (s : State) : Host.Outcome State Fault Refusal :=
  issue m s <|
    withTile s tile (fun s => .ok () s) fun _ s =>
      (tileQuiet s tile).bind fun _ s =>
        let cl := clusterOf s.cur
        .ok () (failTileWaiters (setTile s cl tile 0) cl tile)

end Sys2Proof.Machine
end

