-- ==== Sys2Proof/Machine/Task.lean ====
section
/-! DEFINITION. The task instructions (03_execution R53, R54; 14_insn_control R250, R251; 25_faults_execution R358). -/

namespace Sys2Proof.Machine

/-- The home and offset of the record that a continuation capability names, or the first cause that holds (R250). -/
def contCheck (s : State) (g : Nat) (c : RegVal) : Cause ⊕ (Nat × Nat) :=
  if !c.tag then .inl .captag
  else if c.otype ≠ 1 then .inl .capperm
  else
    match placeOf c.addr 1 with
    | .sram chip vc ofs =>
      if !isThisChip s chip then .inl .access
      else
        match reach s (clusterOf g) (partOf s g) vc with
        | some p => .inr (p, ofs)
        | none => .inl .access
    | _ => .inl .access

/-- A task access leaves for the home of a record (R53). -/
def sendTask (s : State) (op : MemOp) (ea home ofs d : Nat) : Res Unit :=
  if nacked s home then .trap .access ea
  else .ok () (awaitReply (sendReq s { newReq s s.cur .plain op ea 64 0 d with tgt := .sram home ofs, phase := .sent }))

/-- The gather buffer drains, and its stores are performed before the task access is (R53). -/
def taskDrain (s : State) : Res Unit :=
  let s := drainAll s s.cur
  if waitOver s s.cur (.posted true) then .ok () s else .wait (.posted true) s

/-- The home of a new record (R54); none where its virtual cluster is not mapped (R250). -/
def spawnHome (s : State) (g desc : Nat) : Option Nat :=
  if bitAt desc 58 then reach s (clusterOf g) (partOf s g) (fld desc 48 10) else some (clusterOf g)

/-- The first cause that a spawn descriptor gives (R250, R348). -/
def spawnCheck (s : State) (g desc : Nat) : Cause ⊕ Nat :=
  let x := s.slot g
  let blocks := match s.launch x.lcl x.lid with | some l => l.blocks | none => 0
  if fld desc 28 4 ≠ 0 ∨ fld desc 59 5 ≠ 0 then .inl .illegal
  else if blocks ≤ fld desc 0 24 then .inl .table
  else
    match spawnHome s g desc with
    | none => .inl .access
    | some h => if x.prv = 0 ∧ recPrio s (clusterOf g) x.recOfs < fld desc 24 4 then .inl .priv else .inr h

/-- `spawn` (R54, R250). -/
def execSpawn (o : R4) (s : State) : Host.Outcome State Fault Refusal :=
  issue o.s s <|
    let fs := [o.a, o.b, o.c]
    (checkSrc s s.cur fs 0).bind fun _ s =>
      let v := fun i => fieldVal s s.cur fs i
      let desc := (v 0).int
      let succ : Cause ⊕ Option Nat :=
        if o.c = 0 then .inr none
        else
          match contCheck s s.cur (v 2), placeOf (v 2).addr 1 with
          | .inl x, _ => .inl x
          | .inr _, .sram _ vc ofs => .inr (some (vc * 2 ^ 40 + ofs))
          | _, _ => .inl .access
      match succ with
      | .inl x => .trap x 0
      | .inr sc =>
        match spawnCheck s s.cur desc.toNat with
        | .inl x => .trap x 0
        | .inr home =>
          (taskDrain s).bind fun _ s =>
            (room .plain s).bind fun _ s =>
              sendTask (popAll s s.cur fs) (.spawn desc (v 1).int sc) (sramAddr (fld desc.toNat 48 10) 0) home 0 o.d

/-- A task instruction through the capability in its first field. -/
def throughCont (s : State) (fs : List Nat) (d : Nat) (drain : Bool) (op : (Nat → RegVal) → MemOp) : Res Unit :=
  (checkSrc s s.cur fs 0).bind fun _ s =>
    let v := fun i => fieldVal s s.cur fs i
    match contCheck s s.cur (v 0) with
    | .inl x => .trap x 0
    | .inr (home, ofs) =>
      (if drain then taskDrain s else .ok () s).bind fun _ s =>
        (room .plain s).bind fun _ s => sendTask (popAll s s.cur fs) (op v) (v 0).addr home ofs d

/-- `dec` (R54). -/
def execDec (m : Bool) (a b : Nat) (s : State) : Host.Outcome State Fault Refusal :=
  issue m s (throughCont s [a, b] 0 true fun v => .dec (fld (v 1).bits.toNat 0 16))

/-- `tget` (R54). -/
def execTget (o : R2) (s : State) : Host.Outcome State Fault Refusal :=
  issue o.s s (throughCont s [o.a] o.d false fun _ => .tget)

/-- `tset.cnt` (R54, R251, R358). -/
def execTsetCnt (m : Bool) (a b : Nat) (s : State) : Host.Outcome State Fault Refusal :=
  issue m s (throughCont s [a, b] 0 false fun v => .tset (v 1).int)

/-! ## At the record's home -/

/-- `tset.cnt` at the home (R54, R251, R358): `prv` is the thread's privilege. -/
def setCount (s : State) (cl ofs prv src : Nat) (b : Nat) : State :=
  let n := fld b 0 16
  match recState s cl ofs with
  | 0 => s
  | 4 => if prv = 0 then s else if bitAt b 16 then abortRec s cl ofs src else resumeRec s cl ofs n
  | 3 => let s := setRec s cl ofs 1 0 16 n; if n = 0 then runTail s cl ofs else s
  | _ => setRec s cl ofs 1 0 16 n

/-- What `tget` gives (R54). -/
def countVal (s : State) (cl ofs : Nat) : RegVal :=
  let w := recDw s cl ofs 0
  RegVal.ofNat (fld w 0 24 * 2 ^ 24 + fld w 44 4 * 2 ^ 20 + fld w 40 4 * 2 ^ 16 + recCnt s cl ofs)

/-- `spawn` at the home (R54); none while its pools are empty (R38). One of a paired continuation that names a home with `PV` 0 creates nothing and
answers an untagged zero; its launch ends UNPAIRED (R396). -/
def spawnAt (s : State) (g home : Nat) (desc : Nat) (p1 : W64) (succ : Option Nat) : Option (State × RegVal) :=
  let x := s.slot g
  let r : NewRec :=
    { blk := fld desc 0 24, prv := x.prv, prio := fld desc 24 4, cnt := fld desc 32 16, ten := x.ten, lcl := x.lcl, lid := x.lid,
      pair := x.pair, wid := x.wid, p0 := 0, p1 := p1, succ := succ.map fun v => (v / 2 ^ 40, v % 2 ^ 40), cls := x.ctx.cls
      regs := [] }
  if noPair s home x.pair then some (markUnpaired s x.lcl x.lid, RegVal.zero)
  else
  (newConts s home r).map fun os =>
    let s :=
      if s.orphans.contains (clusterOf g, x.recOfs) then { os.2 with orphans := (home, os.1) :: os.2.orphans }
      else match os.2.launch x.lcl x.lid with
        | some l => os.2.setLaunch x.lcl x.lid { l with live := l.live + 1 }
        | none => os.2
    (s, contCap (vcOf s (clusterOf g) (partOf s g) home) os.1)

/-- A task access performed at a home: the state and its result; none while it cannot be performed. -/
def taskPerform (s : State) (r : Request) (cl ofs : Nat) : Option (State × Option RegVal) :=
  match r.op with
  | .dec n => some (decrement s cl ofs n, none)
  | .tset b => some (setCount s cl ofs (s.slot r.slot).prv (hwid r.slot) b.toNat, none)
  | .tget => some (s, some (countVal s cl ofs))
  | .spawn desc p1 succ => (spawnAt s r.slot cl desc.toNat p1 succ).map fun sv => (sv.1, some sv.2)
  | _ => none

end Sys2Proof.Machine
end

