-- ==== Sys2Proof/Machine/System.lean ====
section
/-! DEFINITION. The system instructions but for those that complete retry entries (14_insn_control R258-R263, R266-R268;
17_host R305; 25_faults_execution R357; 26_faults_memory R370). -/

namespace Sys2Proof.Machine

/-- `CAPS` of the C960 (R260). -/
def capsValue : Nat := 0x7F

/-- The value of a special register (R259). -/
def readSpr (s : State) (g spr : Nat) : Nat :=
  let x := s.slot g
  let p := s.part (partOf s g)
  match spr with
  | 0x000 => x.ctx.stat.toNat
  | 0x001 => x.ctx.rnd.toNat
  | 0x002 => x.ctx.felim
  | 0x010 => capsValue
  | 0x011 => partOf s g
  | 0x012 => x.ten
  | 0x013 => hwid g
  | 0x014 => recPrio s (clusterOf g) x.recOfs
  | 0x015 => s.chip
  | 0x016 => p.tgrant
  | 0x100 => p.asid
  | 0x101 => p.s1root
  | 0x102 => p.s2root
  | 0x103 => p.trapq
  | 0x104 => (s.cluster (clusterOf g)).retryq
  | 0x105 => p.cmap
  | _ => 0

/-- The least privilege to read a special register (R259). -/
def sprReadPriv (spr : Nat) : Nat := if spr < 0x100 then 0 else if spr = 0x102 then 2 else 1

/-- The least privilege to write a special register (R259); none for one that is only read. -/
def sprWritePriv (spr : Nat) : Option Nat :=
  if spr ≤ 0x002 ∨ spr = 0x014 then some 0
  else if spr = 0x016 then some 1
  else if spr < 0x100 then none
  else if spr = 0x102 then some 2
  else some 1

/-- Whether a register is written by a sequentially consistent operation (R261). -/
def sprShared (spr : Nat) : Bool := spr == 0x016 || decide (0x100 ≤ spr)

/-- `mfs` (R261). -/
def execMfs (m : Bool) (d spr : Nat) (s : State) : Host.Outcome State Fault Refusal :=
  issue m s <|
    if (s.slot s.cur).prv < sprReadPriv spr then .trap .priv 0
    else .ok () (writeReg s s.cur d (RegVal.ofNat (readSpr s s.cur spr)))

/-- A write of a register of the thread or its record (R259, R261). -/
def writeOwnSpr (s : State) (g spr v : Nat) : State :=
  match spr with
  | 0x000 => s.onSlot g fun x => { x with ctx := { x.ctx with stat := BitVec.ofNat 64 (fld v 0 5) } }
  | 0x001 => s.onSlot g fun x => { x with ctx := { x.ctx with rnd := BitVec.ofNat 64 (fld v 0 4) } }
  | 0x002 => s.onSlot g fun x => { x with ctx := { x.ctx with felim := fld v 0 32 } }
  | 0x014 => setRec s (clusterOf g) (s.slot g).recOfs 0 44 4 (fld v 0 4)
  | _ => s

/-- The cause that the value of an `mts` gives (R101, R259). -/
def sprValueCheck (s : State) (g spr v : Nat) : Option Cause :=
  if (sprWritePriv spr).isNone then some .illegal
  else if spr = 0x001 ∧ 6 ≤ fld v 0 3 then some .illegal
  else if spr = 0x014 ∧ (s.slot g).prv = 0 ∧ recPrio s (clusterOf g) (s.slot g).recOfs < fld v 0 4 then some .priv
  else none

/-- `mts` (R261). -/
def execMts (m : Bool) (spr a : Nat) (s : State) : Host.Outcome State Fault Refusal :=
  issue m s <|
    if (s.slot s.cur).prv < (sprWritePriv spr).getD 0 then .trap .priv 0
    else
      (checkSrc s s.cur [a] 0).bind fun _ s =>
        let v := (fieldVal s s.cur [a] 0).int
        match sprValueCheck s s.cur spr v.toNat with
        | some c => .trap c 0
        | none =>
          if !sprShared spr then .ok () (writeOwnSpr (popAll s s.cur [a]) s.cur spr v.toNat)
          else
            (withFence 1 4 s).bind fun _ s =>
              let rid := s.nextId
              let s := popAll s s.cur [a]
              .ok () (parkAfter (sendReq s { newReq s s.cur .sc (.mts spr v) 0 8 3 0 with phase := .sent }) (.reply rid))

/-- The map table that a `CMAP` value names, as it stands (R305). [Log 37: DEDUCED] -/
def mapTable (s : State) (v : Nat) : List Nat :=
  (List.range (fld v 39 9 + 1)).map fun i => sramRead s (fld v 30 9) (fld v 15 15 * 64 + 2 * i) 2

/-- The trapped records of a partition that have no handler queue any more are ended (R357). -/
def endTrapped (s : State) (part : Nat) : State :=
  let p := s.part part
  let lost := fun (t : Trapped) => (trapQueue s t.cl part).isNone
  let s' := s.setPart part { p with trapped := p.trapped.filter fun t => !lost t }
  (p.trapped.filter lost).foldl (fun s t => abortRec s t.cl t.recOfs (dieOf t.cl * 2 ^ 16 + t.cl * 128)) s'

/-- Whether cluster `cl` comes to serve a virtual cluster of a partition that a handover has moved out of another one, by the map `old` that
held until now, and its image is not loaded yet (R313). -/
def comesTo (s : State) (part : Nat) (old : List Nat) (cl : Nat) : Bool :=
  let h := (s.cluster cl).hand0
  let mine := owned s cl && ownerOf s cl == part
  let loaded := mine && !bitAt h 63 && bitAt h 16 && fld h 0 8 == part
  let moved := (look [] (s.cluster cl).maps part).zipIdx.any fun ev =>
    bitAt ev.1 15 && fld ev.1 0 9 == cl && (old[ev.2]?).any fun o =>
      bitAt o 15 && fld o 0 9 != cl && (s.cluster (fld o 0 9)).heldFor.contains part
  !loaded && (moved || (!mine && (vcOf s cl part cl).isSome && s.clusters.any fun kc => kc.2.heldFor.contains part))

/-- Requests for a partition that handovers hold go on to the clusters that a new map gives (R312). A cluster to which the new map moves a
virtual cluster holds them until its image is loaded (R313). [Log 45: DEDUCED] -/
def forwardHeld (s : State) (part : Nat) (old : List Nat) : State :=
  let held := fun (cl : Nat) => (s.cluster cl).heldFor.contains part
  let here := fun (r : Request) => partOf s r.slot == part && clusterOf r.slot != (match r.tgt with | .sram c _ => c | .ctl c _ => c | _ => 0)
    && match r.tgt with
      | .sram c _ => held c
      | .ctl c _ => held c
      | _ => false
  let move := fun (r : Request) =>
    if !here r then r
    else
      match locate s r.slot r.ea r.len 1 with
      | some (.at_ t _) => { r with tgt := t, phase := if r.phase = .word ∨ r.phase = .noEntry then .sent else r.phase }
      | _ => r
  let lost := s.net.filter fun r => here r && (locate s r.slot r.ea r.len 1).isNone
  let shift := fun (t : State) (cl : Nat) => t.onCluster cl fun c =>
    { c with heldFor := c.heldFor.filter (· != part) ++ if comesTo s part old cl then [part] else [] }
  let s' := (List.range 384).foldl shift { s with
    net := s.net.map move
    decs := s.decs.map fun (d : Dec) => if d.part = part ∧ held d.cl then { d with cl := (vcMap s d.cl part d.vc).getD d.cl } else d }
  lost.foldl (fun s r => failReq s r .access r.ea) s'

/-- An `mts` to a shared register applied by every cluster (R261, R305, R356, R359). -/
def applyMts (s : State) (g spr : Nat) (v : Nat) : State :=
  let part := partOf s g
  let p := s.part part
  match spr with
  | 0x016 => s.setPart part { p with tgrant := masked v [(2, 62)] }
  | 0x100 => s.setPart part { p with asid := fld v 0 16 }
  | 0x101 => s.setPart part { p with s1root := masked v [(12, 45)] }
  | 0x102 => s.setPart part { p with s2root := masked v [(12, 28)] }
  | 0x103 =>
    endTrapped (s.setPart part { p with trapq := masked v [(63, 1), (59, 4), (49, 10), (5, 16)] + masked p.trapq [(21, 15)] }) part
  | 0x104 =>
    s.onCluster (clusterOf g) fun c =>
      { c with retryq := masked v [(63, 1), (59, 4), (6, 15)] + masked c.retryq [(21, 15)] }
  | 0x105 =>
    let s := s.setPart part { p with cmap := masked v [(39, 9), (30, 9), (15, 15)] }
    let t := mapTable s v
    let old := look [] (s.cluster (clusterOf g)).maps part
    let s := (List.range 384).foldl (fun s cl => s.onCluster cl fun c => { c with maps := ins c.maps part t }) s
    endTrapped (forwardHeld s part old) part
  | _ => s

/-! ## Translations invalidated -/

/-- Whether a gather-buffer line holds bytes that were stored through a translation that an invalidation drops (R129, R370). -/
def Inval.coversLine (v : Inval) (l : GatherLine) : Bool := !toPeer l.line && l.via.any v.covers

/-- Whether the result of a walk under way falls in the range of an invalidation (R262): the translation that the tables give now, or,
where they give none, the page. -/
def Inval.hitsWalk (v : Inval) (s : State) (part asid va need : Nat) (user : Bool) : Bool :=
  part == v.part && match walkTables s part asid va need user with
    | .inr e => v.covers e
    | .inl _ => v.s2 || decide (va / 4096 * 4096 < v.hi ∧ v.lo < va / 4096 * 4096 + 4096)

/-- The invalidation reaches every TLB and every gather buffer (R262, R263, R370). [Log 39: DEDUCED] -/
def invalidate (s : State) (v : Inval) : State :=
  let gs := s.slots.filterMap fun gx => if partOf s gx.1 = v.part then some gx.1 else none
  let s := gs.foldl (fun s g => drainWhere s g v.coversLine) s
  let hit := fun (g va need : Nat) =>
    v.hitsWalk s (partOf s g) (asidOf s (partOf s g)) va need ((s.slot g).prv == 0)
  let engHit := fun (va need : Nat) => v.hitsWalk s v.part (v.asid.getD (asidOf s v.part)) va need false
  let keep := fun (l : List TlbEntry) => l.filter fun e => !v.covers e
  { s with
    clusters := s.clusters.map fun kc => (kc.1, { kc.2 with tlb := keep kc.2.tlb })
    cores := s.cores.map fun kc => (kc.1, { kc.2 with dtlb := keep kc.2.dtlb, itlb := keep kc.2.itlb })
    net := s.net.map fun r => if r.phase == .walk && hit r.slot r.ea (reqNeed r.op) then { r with noTlb := true } else r
    walks := s.walks.map fun w =>
      if w.phase == .walk && (if w.isEng then engHit w.va w.need else hit w.owner w.va w.need) then { w with noTlb := true } else w
    invals := s.invals ++ [{ v with since := s.nextId }] }

/-- `tlbi` (R262). -/
def execTlbi (m : Bool) (a b : Nat) (s : State) : Host.Outcome State Fault Refusal :=
  issue m s <|
    if (s.slot s.cur).prv < 1 then .trap .priv 0
    else
      (checkSrc s s.cur [a, b] 0).bind fun _ s =>
        let va := (fieldVal s s.cur [a, b] 0).bits.toNat
        let n := (fieldVal s s.cur [a, b] 1).bits.toNat
        let kind := fld n 56 2
        if kind = 3 then .trap .illegal 0
        else if kind = 2 ∧ (s.slot s.cur).prv < 2 then .trap .priv 0
        else if !waitOver s s.cur .tlbiRoom then .wait .tlbiRoom s
        else
          let len := fld n 0 40
          let lo := if len = 0 then 0 else fld va 12 45 * 4096
          let hi := if len = 0 then 2 ^ 57 else lo + roundUp len 12
          .ok () (invalidate (popAll s s.cur [a, b])
            { slot := s.cur, part := partOf s s.cur, lo := lo, hi := hi, asid := if kind = 0 then some (fld n 40 16) else none,
              s2 := kind == 2, since := 0 })

/-- `tlbsync` (R263). -/
def execTlbsync (m : Bool) (s : State) : Host.Outcome State Fault Refusal :=
  issue m s <|
    if (s.slot s.cur).prv < 1 then .trap .priv 0
    else if !waitOver s s.cur .tlbsync then .wait .tlbsync s
    else .ok () s

/-- Whether an invalidation is complete (R263): no device access, no commit and no store of its partition that was under way then is
left, nor a walk whose result serves one access, or an appended element that holds a translation of its range.
[Log 39: DEDUCED] -/
def Inval.complete (s : State) (v : Inval) : Bool :=
  let of := fun (g id : Nat) => partOf s g == v.part && decide (id < v.since)
  let translated := fun (r : Request) => r.phase == .sent && match r.tgt with | .dev _ => true | _ => false
  let walking := fun (ph : Phase) (noTlb : Bool) => ph == .walk && noTlb
  !(s.net.any fun r => of r.slot r.id && (translated r || walking r.phase r.noTlb)) && !(s.stores.any fun d => of d.slot d.id && !toPeer d.line)
    && !(s.diffs.any fun d => of d.slot d.id) && !(s.commits.any fun c => of c.slot c.rid)
    && !(s.walks.any fun w => !w.isEng && of w.owner w.id && walking w.phase w.noTlb)
    && !(s.slots.any fun gx => gx.2.ports.any fun p => p.2.outQ.any fun e => e.via.any v.covers)

/-- TLBI_COMPLETE (R263): results of walks that no access has used by now are dropped. [Log 39: DEDUCED] -/
def execTlbiComplete (k : Nat) (s : State) : Host.Outcome State Fault Refusal :=
  match s.invals[k]? with
  | some v =>
    if v.complete s then
      .next { s with
        invals := s.invals.erase v
        walks := s.walks.filter fun w => !(w.noTlb && decide (w.id < v.since) && w.got.any v.covers) }
    else .next s
  | none => .next s

/-! ## diag.st, trap, halt -/

/-- `diag.st` (R266). [Log 27: DEDUCED] -/
def execDiagSt (m : Bool) (a b c : Nat) (s : State) : Host.Outcome State Fault Refusal :=
  issue m s <|
    if (s.slot s.cur).prv < 2 then .trap .priv 0
    else
      let fs := [a, b, c]
      (checkSrc s s.cur fs 0).bind fun _ s =>
        let v := fun i => fieldVal s s.cur fs i
        let ea := (v 0).addr
        match capCheck (v 0) ea 8 (permW ||| permDIAG) 8 with
        | some x => .trap x ea
        | none =>
          let window := match locate s s.cur ea 8 2 with
            | some (.at_ (.ctl ..) _) => true
            | _ => false
          if window then .trap .access ea
          else (room (clsOf ea 0 false) s).bind fun _ s =>
            let n := (v 2).bits.toNat
            let t := popAll s s.cur fs
            issueReq t ((newReq t s.cur (clsOf ea 0 false) (.diag (v 1).int.toNat (fld n 0 8) (bitAt n 8)) ea 8 0 0).withPops s t fs) 2

/-- `trap` (R267): a stream element that A names stays unpopped, so that the word raises the same trap when it issues again.
[Log 38: DEDUCED] -/
def execTrap (_m : Bool) (a : Nat) (s : State) : Host.Outcome State Fault Refusal :=
  issueOwn s <|
    (checkSrc s s.cur [a] 0).bind fun _ s => .ok () (trapSoft s s.cur (fieldVal s s.cur [a] 0).int)

/-- `halt` (R268). -/
def execHalt (_m : Bool) (s : State) : Host.Outcome State Fault Refusal :=
  issueOwn s <|
    if owesResult s s.cur then .wait .results s
    else
      (giveUp s).bind fun _ s =>
        let g := s.cur
        let x := s.slot g
        let s := idleSlot (writeBack (unpin s g) g 0 2 x.blk x.ofs x.p0) g
        .ok () (retireRec s (clusterOf g) x.recOfs (hwid g) 1 false)

end Sys2Proof.Machine
end

