-- ==== Sys2Proof/Machine/Engines.lean ====
section
/-! DEFINITION. Engine words, kicks, argument records, and what every command does as it is accepted and as it ends
(05_memory R85; 14_insn_control R252-R256; 15_engines R271-R273, R280, R407; 25_faults_execution R362). -/

namespace Sys2Proof.Machine

/-! ## Kicks -/

/-- The checks of an operand that an engine reads as a capability (R254). -/
def kickCapCheck (c : RegVal) (perm : Nat) : Option Cause :=
  if !c.tag then some .captag
  else if c.otype ≠ 0 then some .capperm
  else if !hasPerm c (perm ||| (if isGlobal c.addr then permGLB else 0)) then some .capperm
  else none

/-- What a function needs of A and of B: none where it reads no capability there (R253). -/
structure EngNeed where
  id   : Nat
  fn   : Nat
  a    : Option Nat
  b    : Option Nat
  priv : Nat

/-- The kick of an engine word leaves, with a place for its reply (R254). -/
def sendKick (s : State) (id fn : Nat) (a b : RegVal) (d : Nat) : State :=
  let g := s.cur
  let x := s.slot g
  let cl := clusterOf g
  let part := partOf s g
  let k : Kick :=
    { fn := fn, a := a, b := b, slot := g, cl := cl, part := part, asid := fld (s.part part).asid 0 16, ten := x.ten, cls := x.ctx.cls
      prv := x.prv, lcl := x.lcl, lid := x.lid, dst := d, rid := if d = 0 then 0 else s.nextId + 1, eng := engineOf cl id, num := 1 }
  let e := engineOf cl id
  let s := s.setEngine e { s.engine e with kicks := (s.engine e).kicks ++ [k] }
  if d = 0 then s.bump
  else pushResult s.bump g { dst := d, val := RegVal.zero, flags := 0, cls := none, rid := k.rid, after := none }

/-- `eng` (R254). -/
def engWord (o : EngOp) (n : EngNeed) (s : State) : Host.Outcome State Fault Refusal :=
  issue o.s s <|
    if (s.slot s.cur).prv < n.priv then .trap .priv 0
    else
      let fs := [o.a, o.b]
      (checkSrc s s.cur fs 0).bind fun _ s =>
        let a := fieldVal s s.cur fs 0
        let b := fieldVal s s.cur fs 1
        let bad := ((n.a.bind (kickCapCheck a)) <|> (n.b.bind (kickCapCheck b)))
        match bad with
        | some c => .trap c 0
        | none =>
          if heldBack s s.cur then .wait (.access .plain) s
          else
            (if o.rel then withFence 1 4 s else .ok () s).bind fun _ s =>
              .ok () (sendKick (popAll s s.cur fs) n.id n.fn a b o.d)

/-- `copy.xfer` (R253). -/
def execCopyXfer (o : EngOp) (s : State) : Host.Outcome State Fault Refusal := engWord o ⟨0, 0x00, some (permR ||| permLC), some permW, 0⟩ s
/-- `copy.fill` (R253). -/
def execCopyFill (o : EngOp) (s : State) : Host.Outcome State Fault Refusal := engWord o ⟨0, 0x01, some (permR ||| permLC), some permW, 0⟩ s
/-- `copy.rwrite` (R253). -/
def execCopyRwrite (o : EngOp) (s : State) : Host.Outcome State Fault Refusal :=
  engWord o ⟨0, 0x02, some (permR ||| permLC ||| permENG), none, 0⟩ s
/-- `copy.rread` (R253). -/
def execCopyRread (o : EngOp) (s : State) : Host.Outcome State Fault Refusal :=
  engWord o ⟨0, 0x03, some (permR ||| permLC ||| permENG), some permW, 0⟩ s
/-- `copy.rsend` (R253). -/
def execCopyRsend (o : EngOp) (s : State) : Host.Outcome State Fault Refusal :=
  engWord o ⟨0, 0x04, some (permR ||| permLC ||| permENG), none, 0⟩ s
/-- `copy.remap` (R253, R376). -/
def execCopyRemap (o : EngOp) (s : State) : Host.Outcome State Fault Refusal :=
  engWord o ⟨0, 0x05, some (permR ||| permLC ||| permSYS), none, 2⟩ s
/-- `copy.stat` (R256). -/
def execCopyStat (o : EngOp) (s : State) : Host.Outcome State Fault Refusal := engWord o ⟨0, 0x10, none, none, 0⟩ s
/-- `dist.deal` (R253, R276). -/
def execDistDeal (o : EngOp) (s : State) : Host.Outcome State Fault Refusal := engWord o ⟨1, 0x00, some (permR ||| permLC), none, 0⟩ s
/-- `dist.cfg` (R87, R253). -/
def execDistCfg (o : EngOp) (s : State) : Host.Outcome State Fault Refusal := engWord o ⟨1, 0x01, none, none, 1⟩ s
/-- `dist.stat` (R256). -/
def execDistStat (o : EngOp) (s : State) : Host.Outcome State Fault Refusal := engWord o ⟨1, 0x10, none, none, 0⟩ s
/-- `coll.allreduce` (R253, R278). -/
def execCollAllreduce (o : EngOp) (s : State) : Host.Outcome State Fault Refusal :=
  engWord o ⟨2, 0x00, some (permR ||| permLC ||| permENG), some permW, 0⟩ s
/-- `coll.reduce` (R253, R278). -/
def execCollReduce (o : EngOp) (s : State) : Host.Outcome State Fault Refusal :=
  engWord o ⟨2, 0x01, some (permR ||| permLC ||| permENG), some permW, 0⟩ s
/-- `coll.bcast` (R253, R278). -/
def execCollBcast (o : EngOp) (s : State) : Host.Outcome State Fault Refusal :=
  engWord o ⟨2, 0x02, some (permR ||| permLC ||| permENG), some permW, 0⟩ s
/-- `coll.allgather` (R253, R278). -/
def execCollAllgather (o : EngOp) (s : State) : Host.Outcome State Fault Refusal :=
  engWord o ⟨2, 0x03, some (permR ||| permLC ||| permENG), some permW, 0⟩ s
/-- `coll.stat` (R256). -/
def execCollStat (o : EngOp) (s : State) : Host.Outcome State Fault Refusal := engWord o ⟨2, 0x10, none, none, 0⟩ s
/-- `ctx.save` (R253, R279). -/
def execCtxSave (o : EngOp) (s : State) : Host.Outcome State Fault Refusal :=
  engWord o ⟨3, 0x00, some (permR ||| permLC ||| permSYS), some permW, 1⟩ s
/-- `ctx.restore` (R253, R279). -/
def execCtxRestore (o : EngOp) (s : State) : Host.Outcome State Fault Refusal :=
  engWord o ⟨3, 0x01, some (permR ||| permLC ||| permSYS), none, 1⟩ s
/-- `ctx.scrub` (R253, R279). -/
def execCtxScrub (o : EngOp) (s : State) : Host.Outcome State Fault Refusal :=
  engWord o ⟨3, 0x02, some (permR ||| permLC ||| permSYS), none, 2⟩ s
/-- `ctx.stat` (R256). -/
def execCtxStat (o : EngOp) (s : State) : Host.Outcome State Fault Refusal := engWord o ⟨3, 0x10, none, none, 0⟩ s
/-- `gate.run` (R253, R281). -/
def execGateRun (o : EngOp) (s : State) : Host.Outcome State Fault Refusal :=
  engWord o ⟨4, 0x00, some (permR ||| permLC ||| permENG), none, 0⟩ s
/-- `gate.stat` (R256). -/
def execGateStat (o : EngOp) (s : State) : Host.Outcome State Fault Refusal := engWord o ⟨4, 0x10, none, none, 0⟩ s
/-- `dispatch.stat` (R256). -/
def execDispatchStat (o : EngOp) (s : State) : Host.Outcome State Fault Refusal := engWord o ⟨5, 0x10, none, none, 0⟩ s
/-- `combine.stat` (R256). -/
def execCombineStat (o : EngOp) (s : State) : Host.Outcome State Fault Refusal := engWord o ⟨6, 0x10, none, none, 0⟩ s

/-! ## Replies and reports -/

/-- The engine id of an instance (R252). -/
def idOf (e : Nat) : Nat := if e < 768 then e % 2 else 2 + (e - 768) % 5

/-- The die of an instance. -/
def dieOfEngine (e : Nat) : Nat := if e < 768 then dieOf (e / 2) else (e - 768) / 5

/-- On whose behalf a command accesses memory (R271). -/
def Kick.sender (k : Kick) : Sender :=
  { cl := k.cl, core := none, part := k.part, asid := k.asid, ten := k.ten, user := k.prv == 0, slot := none, own := false
    eng := some (k.eng, k.num), num := none }

/-- The value of a reply that a thread waits for has come (R254). [Log 66: DEDUCED] -/
def replyKick (s : State) (k : Kick) (v : Nat) : State :=
  if k.rid = 0 then s
  else
    s.onSlot k.slot fun x => { x with results := x.results.map fun r =>
      if r.cls.isNone && r.rid == k.rid then { r with val := RegVal.ofNat v, rid := 0 } else r }

/-- An entry of an engine in the fault ring of the kicking cluster (R362). -/
def engFault (s : State) (e : Nat) (k : Kick) (seq code addr aux : Nat) : State :=
  faultEntry s k.cl (0x10 + idOf e) code k.ten seq addr aux

/-- Why an access of a range fails now: the address, the `FCODE` and its detail (R393, R407). -/
def rangeFail (s : State) (b : Sender) (need : Nat) (ps : List (Nat × Nat)) : Option (Nat × Nat × Nat) :=
  ps.findSome? fun p =>
    match locateFor s b p.1 p.2 need with
    | none => some (p.1, 0x11, Cause.access.code)
    | some (.at_ (.sram c _) _) =>
      if nacked s c then some (p.1, 0x50, nackAux s c) else none
    | some (.at_ (.ctl ..) _) => some (p.1, 0x11, Cause.access.code)
    | _ => none

/-- How a walk names the command or layer of a number that it is made for; 1 is the kick that its engine accepts. -/
def cmdWalk (seq : Nat) : Nat := seq + 2

/-- A walk on behalf of engine `e`, for a command or for the kick that it accepts; `data` is what it writes (R360). -/
def askEngWalk (s : State) (e acc va need kind : Nat) (data : Nat := 0) : State :=
  if s.walks.any fun w => w.isEng && w.owner == e && w.ofs == acc && w.va / 4096 == va / 4096 && w.need == need && w.got.isNone then s
  else
    { s.bump with walks := s.walks ++
      [{ id := s.nextId, owner := e, isEng := true, num := none, va := va, need := need, kind := kind, size := 6, phase := .walk, fault := 0
         ia := 0, ofs := acc, noTlb := false, since := 0, data := data % 2 ^ 128, got := none }] }

/-- Whether a walk of engine `e` is under way. -/
def engWalking (s : State) (e acc : Nat) : Bool := s.walks.any fun w => w.isEng && w.owner == e && w.ofs == acc && w.got.isNone

/-- Whether an access of a command is parked on the retry ring, so that only that command waits (R368). [Log 40: DEDUCED] -/
def cmdParked (s : State) (e seq : Nat) : Bool :=
  s.walks.any fun w => w.isEng && w.owner == e && w.ofs == cmdWalk seq &&
    match w.phase with
    | .held => true
    | .ring _ => true
    | _ => false

/-- The results of walks that serve an engine's command alone are used up (R262). -/
def dropEngGot (s : State) (e acc : Nat) : State :=
  { s with walks := s.walks.filter fun w => !(w.isEng && w.owner == e && w.ofs == acc && w.got.isSome) }

/-- The command that an engine runs: the oldest that is not parked (R254, R368). [Log 40, 59: DEDUCED] -/
def runningCmd (s : State) (e : Nat) : Option Cmd := (s.engine e).cmds.find? fun c => !cmdParked s e c.seq

/-! ## Argument records (R272, R273) -/

/-- The tag of the granule at an address as an engine reads it. -/
def tagSeen (s : State) (b : Sender) (ea : Nat) : Bool :=
  ea % 16 == 0 &&
    match locateFor s b ea 16 1 with
    | some (.at_ (.sram p o) _) => s.sram.tagAt (sramKey p o)
    | some (.at_ (.dev pa) _) => s.dev.tagAt (forwardPa s pa)
    | _ => false

/-- Whether a capability grants a range (R273), which lies in one space and, in exported memory, inside its export (R369). -/
def grantsRange (c : RegVal) (ea len perm align : Nat) : Bool :=
  (capCheck c ea len perm align).isNone && match placeOf ea len with
    | .exported chip num ofs => decide (ofs + len ≤ Config.peerExportLen chip num)
    | _ => true

/-- The bytes that an engine reads through A as it accepts a kick; poisoned bytes fail (R273). [Log 41: DEDUCED] -/
def readArg (s : State) (k : Kick) (len : Nat) : Span Nat × State :=
  if !grantsRange k.a k.a.addr len (permR ||| permLC) 16 then (.fail, s)
  else
    match readSpan s k.sender k.a.addr len with
    | (.ok xs, s) => (if anyPsn xs then .fail else .ok (numOf xs), s)
    | (.miss va, s) => (.miss va, s)
    | (.fail, s) => (.fail, s)

/-- Whether the argument record of a kick reads poisoned (R273, R390). -/
def argPoisoned (s : State) (k : Kick) : Bool :=
  grantsRange k.a k.a.addr 64 (permR ||| permLC) 16 &&
    match (readSpan s k.sender k.a.addr 64).1 with
    | .ok xs => anyPsn xs
    | _ => false

/-- The capability at byte `o` of what an engine read through A. -/
def argCap (s : State) (k : Kick) (n o : Nat) : RegVal :=
  ⟨BitVec.ofNat 128 (fld n (8 * o) 128), tagSeen s k.sender (k.a.addr + o), false⟩

/-- The command of a kick and its argument record. -/
def recordCmd (s : State) (k : Kick) (n seq : Nat) : Cmd :=
  { kick := { k with num := cmdWalk seq }, seq := seq, asrc := argCap s k n 0, adone := argCap s k n 0x10, actl := fld n 256 64, ap0 := fld n 320 64
    ap1 := fld n 384 128, entered := false, moved := false, todo := [], fin := none, got := [] }

/-- `DTV` -/
def Cmd.dtv (c : Cmd) : Bool := bitAt c.actl 31
/-- `STV` -/
def Cmd.stv (c : Cmd) : Bool := bitAt c.actl 30
/-- `SDRN` -/
def Cmd.sdrn (c : Cmd) : Bool := bitAt c.actl 29
/-- `DTILE` -/
def Cmd.dtile (c : Cmd) : Nat := fld c.actl 32 8
/-- `STILE` -/
def Cmd.stile (c : Cmd) : Nat := fld c.actl 21 8
/-- `GEN` -/
def Cmd.gen (c : Cmd) : Nat := fld c.actl 48 16
/-- Bits 39:0 of `AP0` -/
def Cmd.count (c : Cmd) : Nat := fld c.ap0 0 40

/-- Whether a completion capability passes its check (R273). -/
def doneOk (c : RegVal) : Bool :=
  !c.tag || (grantsRange c c.addr 8 (permW ||| permFE) 8 && match placeOf c.addr 8 with | .sram .. => true | _ => false)

/-- The conditions that the control word gives on its own (R272, R273). -/
def ctlBad (c : Cmd) (tiles source : Bool) : Bool :=
  fld c.actl 40 8 != 0 || fld c.actl 0 21 != 0 || (!tiles && (c.dtv || c.stv)) || (!source && (c.stv || c.sdrn)) || (c.sdrn && !c.stv)

/-- Whether the tiles that a command names are defined by its tenant (R273). -/
def tilesOk (s : State) (c : Cmd) : Bool :=
  let ok := fun (n : Nat) => let e := tileOf s c.kick.cl n; tileDef e && tileTen e == c.kick.ten
  (!c.dtv || ok c.dtile) && (!c.stv || ok c.stile)

/-- The `RC` of conditions in the order of R273. -/
def rcOf (bad1 bad2 bad3 bad4 : Bool) : Nat := if bad1 then 1 else if bad2 then 2 else if bad3 then 3 else if bad4 then 4 else 0

/-! ## Tiles of commands (R85) -/

/-- 64-byte blocks that a command moves. -/
def Cmd.blocks (c : Cmd) (e : Nat) : Nat :=
  if idOf e = 1 then 32 * (fld c.ap0 0 16 + 1)
  else if c.kick.fn = 1 then (match capBounds c.kick.b with | some (b, t) => (t - b + 63) / 64 | none => 0)
  else (c.count + 63) / 64

/-- A command is taken on by its tiles: the destination fills, a drained source that is ready drains (R85). -/
def enterTiles (s : State) (e : Nat) (c : Cmd) : State :=
  let cl := c.kick.cl
  let s := if c.dtv then setTile s cl c.dtile (setFld (setFld (tileOf s cl c.dtile) 126 2 1) 41 15 (c.blocks e)) else s
  if c.stv && c.sdrn && tileSt (tileOf s cl c.stile) == 2 then
    setTile s cl c.stile (setFld (setFld (tileOf s cl c.stile) 126 2 3) 41 15 (c.blocks e))
  else s

/-- Whether the tiles of a command are empty or ready (R85). -/
def tilesFree (s : State) (c : Cmd) : Bool :=
  let free := fun (n : Nat) => tileSt (tileOf s c.kick.cl n) % 2 == 0
  (!c.dtv || free c.dtile) && (!c.stv || free c.stile)

/-- The commands of a queue that can now be taken on, in order. -/
def enterQueue (s : State) (e : Nat) : State :=
  let r := (s.engine e).cmds.foldl (fun (acc : State × List Cmd × Bool) c =>
    let (s, out, open_) := acc
    if c.entered then (s, out ++ [c], open_)
    else if open_ && tilesFree s c then (enterTiles s e c, out ++ [{ c with entered := true }], true)
    else (s, out ++ [c], false)) (s, [], true)
  r.1.setEngine e { r.1.engine e with cmds := r.2.1 }

/-- Commands of both engines of a cluster are taken on where they can be. -/
def enterAll (s : State) (e : Nat) : State := if e < 768 then enterQueue (enterQueue s (e / 2 * 2)) (e / 2 * 2 + 1) else enterQueue s e

/-- Blocks of the tile that a command fills, or drains, still to arrive or leave (R83); no tile in state `st` is left alone. -/
def pendTile (s : State) (cl n st blocks : Nat) : State :=
  if tileSt (tileOf s cl n) = st then setTile s cl n (setFld (tileOf s cl n) 41 15 blocks) else s

/-- A drained source of which `left` bytes are still to be read; with the last block read it is empty (R83, R85). -/
def drainSource (s : State) (e : Nat) (c : Cmd) (left : Nat) : State :=
  let n := c.stile
  if !(c.stv && c.sdrn) then s
  else if 0 < left then pendTile s c.kick.cl n 3 ((left + 63) / 64)
  else if tileSt (tileOf s c.kick.cl n) = 3 then
    enterAll (setTile s c.kick.cl n (setFld (setFld (tileOf s c.kick.cl n) 126 2 0) 41 15 0)) e
  else s

/-- The tiles of a command that has ended (R85). -/
def leaveTiles (s : State) (c : Cmd) (ok : Bool) : State :=
  let cl := c.kick.cl
  let turn_ := fun (s : State) (n st v : Nat) =>
    if tileSt (tileOf s cl n) = st then setTile s cl n (setFld (setFld (tileOf s cl n) 126 2 v) 41 15 0) else s
  let s := if c.dtv then turn_ s c.dtile 1 (if ok then 2 else 0) else s
  if c.stv && c.sdrn then turn_ s c.stile 3 (if ok then 0 else 2) else s

/-! ## Ends of commands -/

/-- The generation-checked fill of a completion object by an engine (R280). -/
def engFill (s : State) (e : Nat) (k : Kick) (seq : Nat) (c : RegVal) (gen status count : Nat) : State :=
  if !c.tag then s
  else
    match genFill s k.cl k.part (some (idOf e)) c gen status count with
    | some (true, s) => s
    | some (false, s) =>
      engFault s e k seq 0x10 c.addr (match readSpan s k.sender c.addr 8 with | (.ok xs, _) => numOf xs | _ => 0)
    | none =>
      match rangeFail s k.sender 2 [(c.addr, 8)] with
      | some f => engFault s e k seq f.2.1 f.1 f.2.2
      | none => engFault s e k seq 0x11 c.addr Cause.access.code

/-- A command of an engine leaves its queue: it has completed, with its effect or without it (R256). -/
def popCmd (s : State) (e seq : Nat) : State :=
  let x := s.engine e
  { s.setEngine e { x with cmds := x.cmds.filter (fun c => c.seq != seq), done := x.done + 1 } with
    walks := s.walks.filter fun w => !(w.isEng && w.owner == e && w.ofs == cmdWalk seq) }

/-- A command ends as R139 states: its writes are complete, its tile is ready, its completion object is filled. -/
def finishCmd (s : State) (e : Nat) (c : Cmd) (status count : Nat) : State :=
  enterAll (engFill (leaveTiles (popCmd s e c.seq) c true) e c.kick c.seq c.adone c.gen status count) e

/-- A command ends with no fill and an entry in the fault ring (R265, R407). -/
def failCmd (s : State) (e : Nat) (c : Cmd) (code addr aux : Nat) : State :=
  enterAll (leaveTiles (engFault (popCmd s e c.seq) e c.kick c.seq code addr aux) c false) e

/-- What follows when an engine has read poisoned data: the copy engine or distributor of a cluster in an armed cocoon fences it
(R390). -/
def poisonMet (s : State) (e : Nat) : State :=
  match (if e < 768 then cocoonOf s (e / 2) else none) with
  | some n => fenceCocoon s (dieOf (e / 2)) n 1
  | none => s

/-- A command ends because its engine read poisoned data (R372, R390). -/
def failPoison (s : State) (e : Nat) (c : Cmd) (addr : Nat) : State := poisonMet (failCmd s e c 0x12 addr 0) e

/-- A command ends by a range whose access fails. -/
def failRange (s : State) (e : Nat) (c : Cmd) (need : Nat) (ps : List (Nat × Nat)) : State :=
  match rangeFail s c.kick.sender need ps with
  | some f => failCmd s e c f.2.1 f.1 f.2.2
  | none => failCmd s e c 0x11 ((ps.headD (0, 0)).1) Cause.access.code

end Sys2Proof.Machine
end

