-- ==== Sys2Proof/Machine/Memory.lean ====
section
/-! DEFINITION. Loads and stores, full/empty accesses, atomics, fences, `rank` and `selb` as they issue (12_insn_memory R201-R210,
10_insn_integer R168-R170, 08_consistency R125-R136). What they do at their target stands in Machine/Perform.lean. -/

namespace Sys2Proof.Machine

/-- The effective address of an M-format operand (R201): the address of A, the index and its shift, the displacement. -/
def effAddr (a x : RegVal) (sh disp : Nat) : Nat := low 72 ((a.addr + x.int.toNat * 2 ^ sh : Nat) + sext 32 disp)

/-- Step 7 of R347 beyond what finding the target refuses: a sequentially consistent access to another part (R134), a full/empty
access outside SRAM (R205), a store or atomic to the control window (R257, R296), and a cluster that answers
with a NACK (R393). -/
def ruleFails (s : State) (g : Nat) (c : RegVal) (op : MemOp) (ea len ord : Nat) (rx : Bool) : Bool :=
  let outside := match op with
    | .fe .. => (match placeOf ea len with | .sram .. => false | _ => true)
    | _ => false
  let window := match op, locate s g ea len 2 with
    | .st v _, some (.at_ (.ctl cl o) _) =>
      !hasPerm c permSYS || (ctlStore s cl o len v (s.slot g).prv (partOf s g)).isNone
    | .amo .., some (.at_ (.ctl ..) _) => true
    | _, _ => false
  let closed := match op, clsOf ea ord false, locate s g ea len 1 with
    | _, .device, _ => false
    | _, _, some (.at_ (.sram cl _) _) => nacked s cl && !rx
    | _, _, some (.at_ (.ctl cl _) _) => nacked s cl && !rx
    | _, _, _ => false
  outside || (ord == 3 && otherPart s ea) || window || closed

/-- The fence that an ordering asks for before the access (R131, R133). -/
def orderFence (ord ea : Nat) (s : State) : Res Unit :=
  match ord with
  | 2 => withFence 1 (if otherPart s ea then 5 else 4) s
  | 3 => withFence 1 4 s
  | _ => .ok () s

/-- Waits until an access may issue; the gather buffer alone bounds the plain stores to device memory (R125, R129). -/
def roomFor (op : MemOp) (c : Cls) (s : State) : Res Unit :=
  match op, c with
  | .st .., .device => if heldBack s s.cur then .wait (.access .plain) s else .ok () s
  | _, c => room c s

/-- A checked access of the issuing word: its ordering, its class, its pops, and the request; a sequentially consistent one parks
its thread until the reply (R125-R134, R201). -/
def sendAccess (s : State) (fs : List Nat) (op : MemOp) (ea len need ord : Nat) (rx : Bool) (d : Nat) : Res Unit :=
  (orderFence ord ea s).bind fun _ s =>
    (roomFor op (clsOf ea ord rx) s).bind fun _ s =>
      (storeRoom s (newReq s s.cur (clsOf ea ord rx) op ea len ord d)).bind fun _ s =>
        let t := popAll s s.cur fs
        (issueReq t ((newReq t s.cur (clsOf ea ord rx) op ea len ord d).withPops s t fs) need).bind fun _ s =>
          match (s.slot s.cur).status with
          | .parked _ => .ok () s
          | _ => .ok () (if ord = 3 then parkAfter s (.reply (s.nextId - 1)) else awaitReply s)

/-- A word with one access through the capability in its first field (R74, R347, R348): `mask` and `need` are the permissions of
the capability and of the page, `op` and `ea` are taken from the sources. -/
def accessWord (s : State) (fs : List Nat) (ea : (Nat → RegVal) → Nat) (op : (Nat → RegVal) → MemOp) (mask : (Nat → RegVal) → Nat)
    (len need ord : Nat) (rx : Bool) (d : Nat) : Res Unit :=
  (checkSrc s s.cur fs 0).bind fun _ s =>
    let v := fun i => fieldVal s s.cur fs i
    let a := ea v
    match capCheck (v 0) a len (mask v) len with
    | some c => .trap c a
    | none =>
      if (locate s s.cur a len need).isNone || ruleFails s s.cur (v 0) (op v) a len ord rx then .trap .access a
      else sendAccess s fs (op v) a len need ord rx d

/-! ## Loads and stores (R203, R204) -/

/-- Size of a load or store of kind 0 `b` … 4 `q`, 5 `c` (R203). -/
def kindSize (k : Nat) : Nat := if 4 ≤ k then 16 else 2 ^ k

/-- A load of a kind. -/
def loadWord (k : Nat) (o : MemOperand) (s : State) : Host.Outcome State Fault Refusal :=
  issue o.s s <|
    accessWord s [o.a, o.x] (fun v => effAddr (v 0) (v 1) o.sh o.disp) (fun v => .ld k (hasPerm (v 0) permLC)) (fun _ => permR)
      (kindSize k) 1 o.ord o.rx o.d

/-- `ld.b` -/
def execLdB (o : MemOperand) (s : State) : Host.Outcome State Fault Refusal := loadWord 0 o s
/-- `ld.h` -/
def execLdH (o : MemOperand) (s : State) : Host.Outcome State Fault Refusal := loadWord 1 o s
/-- `ld.w` -/
def execLdW (o : MemOperand) (s : State) : Host.Outcome State Fault Refusal := loadWord 2 o s
/-- `ld.d` -/
def execLdD (o : MemOperand) (s : State) : Host.Outcome State Fault Refusal := loadWord 3 o s
/-- `ld.q` -/
def execLdQ (o : MemOperand) (s : State) : Host.Outcome State Fault Refusal := loadWord 4 o s
/-- `ld.c` -/
def execLdC (o : MemOperand) (s : State) : Host.Outcome State Fault Refusal := loadWord 5 o s

/-- A store of a kind; `st.c` of a tagged value needs SC. -/
def storeWord (k : Nat) (o : MemOperand) (s : State) : Host.Outcome State Fault Refusal :=
  issue o.s s <|
    accessWord s [o.a, o.x, o.d] (fun v => effAddr (v 0) (v 1) o.sh o.disp)
      (fun v => .st (fld (v 2).bits.toNat 0 (8 * kindSize k)) (if k = 5 then some (v 2).tag else none))
      (fun v => if k = 5 ∧ (v 2).tag then permW ||| permSC else permW) (kindSize k) 2 o.ord o.rx 0

/-- `st.b` -/
def execStB (o : MemOperand) (s : State) : Host.Outcome State Fault Refusal := storeWord 0 o s
/-- `st.h` -/
def execStH (o : MemOperand) (s : State) : Host.Outcome State Fault Refusal := storeWord 1 o s
/-- `st.w` -/
def execStW (o : MemOperand) (s : State) : Host.Outcome State Fault Refusal := storeWord 2 o s
/-- `st.d` -/
def execStD (o : MemOperand) (s : State) : Host.Outcome State Fault Refusal := storeWord 3 o s
/-- `st.q` -/
def execStQ (o : MemOperand) (s : State) : Host.Outcome State Fault Refusal := storeWord 4 o s
/-- `st.c` -/
def execStC (o : MemOperand) (s : State) : Host.Outcome State Fault Refusal := storeWord 5 o s

/-! ## Full/empty accesses (R205, R206) -/

/-- A full/empty access: 0 `ldfe`, 1 `ldff`, 2 `stef`, 3 `stfill`, 4 `fectl.read`, 5 `fectl.empty`, 6 `fectl.full`. `SH` of a
`fectl` word is its function, so it shifts no index (R150). -/
def fullEmptyWord (fn : Nat) (o : MemOperand) (s : State) : Host.Outcome State Fault Refusal :=
  let st : Bool := fn == 2 || fn == 3
  let rd : Bool := fn == 0 || fn == 1 || fn == 4
  issue o.s s <|
    accessWord s (if st then [o.a, o.x, o.d] else [o.a, o.x]) (fun v => effAddr (v 0) (v 1) (if 4 ≤ fn then 0 else o.sh) o.disp)
      (fun v => .fe fn (if st then (v 2).int.toNat else 0)) (fun _ => permFE ||| if rd then permR else permW) 8
      (if rd then 1 else 2) o.ord false (if rd then o.d else 0)

/-- `ldfe` -/
def execLdfe (o : MemOperand) (s : State) : Host.Outcome State Fault Refusal := fullEmptyWord 0 o s
/-- `ldff` -/
def execLdff (o : MemOperand) (s : State) : Host.Outcome State Fault Refusal := fullEmptyWord 1 o s
/-- `stef` -/
def execStef (o : MemOperand) (s : State) : Host.Outcome State Fault Refusal := fullEmptyWord 2 o s
/-- `stfill` -/
def execStfill (o : MemOperand) (s : State) : Host.Outcome State Fault Refusal := fullEmptyWord 3 o s
/-- `fectl.read` -/
def execFectlRead (o : MemOperand) (s : State) : Host.Outcome State Fault Refusal := fullEmptyWord 4 o s
/-- `fectl.empty` -/
def execFectlEmpty (o : MemOperand) (s : State) : Host.Outcome State Fault Refusal := fullEmptyWord 5 o s
/-- `fectl.full` -/
def execFectlFull (o : MemOperand) (s : State) : Host.Outcome State Fault Refusal := fullEmptyWord 6 o s

/-! ## Atomics (R207-R209) -/

/-- An atomic: 0 `add`, 1 `and`, 2 `or`, 3 `xor`, 4 `min`, 5 `max`, 6 `minu`, 7 `maxu`, 8 `swap`, 9 `cas`, 10 `fadd.f32` (R149). -/
def atomicWord (fn : Nat) (o : AmoOp) (s : State) : Host.Outcome State Fault Refusal :=
  let n := if o.dbl then 8 else 4
  issue o.s s <|
    accessWord s (if fn = 9 then [o.a, o.b, o.c] else [o.a, o.b]) (fun v => (v 0).addr)
      (fun v => .amo fn (fld (v 1).bits.toNat 0 (8 * n)) (if fn = 9 then fld (v 2).bits.toNat 0 (8 * n) else 0))
      (fun _ => permR ||| permW) n 3 o.ord false o.d

/-- `amo.add` -/
def execAmoAdd (o : AmoOp) (s : State) : Host.Outcome State Fault Refusal := atomicWord 0 o s
/-- `amo.and` -/
def execAmoAnd (o : AmoOp) (s : State) : Host.Outcome State Fault Refusal := atomicWord 1 o s
/-- `amo.or` -/
def execAmoOr (o : AmoOp) (s : State) : Host.Outcome State Fault Refusal := atomicWord 2 o s
/-- `amo.xor` -/
def execAmoXor (o : AmoOp) (s : State) : Host.Outcome State Fault Refusal := atomicWord 3 o s
/-- `amo.min` -/
def execAmoMin (o : AmoOp) (s : State) : Host.Outcome State Fault Refusal := atomicWord 4 o s
/-- `amo.max` -/
def execAmoMax (o : AmoOp) (s : State) : Host.Outcome State Fault Refusal := atomicWord 5 o s
/-- `amo.minu` -/
def execAmoMinu (o : AmoOp) (s : State) : Host.Outcome State Fault Refusal := atomicWord 6 o s
/-- `amo.maxu` -/
def execAmoMaxu (o : AmoOp) (s : State) : Host.Outcome State Fault Refusal := atomicWord 7 o s
/-- `amo.swap` -/
def execAmoSwap (o : AmoOp) (s : State) : Host.Outcome State Fault Refusal := atomicWord 8 o s
/-- `amo.cas` -/
def execAmoCas (o : AmoOp) (s : State) : Host.Outcome State Fault Refusal := atomicWord 9 o s
/-- `amo.fadd.f32` -/
def execAmoFaddF32 (o : AmoOp) (s : State) : Host.Outcome State Fault Refusal := atomicWord 10 o s

/-! ## Fences (R135, R136, R210) -/

/-- `fence.rw` -/
def execFenceRw (o : FenceOp) (s : State) : Host.Outcome State Fault Refusal := issue o.s s (withFence 0 o.scope s)
/-- `fence.x` -/
def execFenceX (o : FenceOp) (s : State) : Host.Outcome State Fault Refusal := issue o.s s (withFence 1 o.scope s)
/-- `fence.m` -/
def execFenceM (o : FenceOp) (s : State) : Host.Outcome State Fault Refusal := issue o.s s (withFence 2 o.scope s)

/-! ## Bitmaps (R168-R170) -/

/-- Bits set among the low `n` bits of a number. -/
def setBits (v n : Nat) : Nat := ((List.range n).filter (bitAt v)).length

/-- The position of the set bit with exactly `n` set bits below it, among the low `len` bits. -/
def nthSet (v n len : Nat) : Option Nat := ((List.range len).filter (bitAt v))[n]?

/-- A word of `m` bytes of a `rank` (R168): the result, or the index that remains and the bits counted. -/
def rankWord (i cnt v m : Nat) : Nat ⊕ (Nat × Nat) :=
  if i < 8 * m then .inl (cnt + setBits v i + bit (bitAt v i) * 2 ^ 64) else .inr (i - 8 * m, cnt + setBits v (8 * m))

/-- A word of `m` bytes of a `selb` with `len` bytes left to search (R169): the result, or the rank that remains and the bits passed. -/
def selbWord (n base v m len : Nat) : Nat ⊕ (Nat × Nat) :=
  match nthSet v n (8 * m) with
  | some j => .inl (base + j)
  | none => if len ≤ m then .inl (2 ^ 64 - 1) else .inr (n - setBits v (8 * m), base + 8 * m)

/-- Whether a page that a bitmap may need is not translated: its thread then waits for the reply, so that a failed walk is precise
(R352). -/
def bitmapOpen (s : State) (r : Request) : Bool :=
  isBitmap r.op && (missing s (threadSender s r.slot) 1 (piecesOf 4096 r.ea r.len)).isSome

/-- A bitmap word, its checks passed but for those of its target (R347 step 7): the request for its first word leaves. -/
def sendBitmap (s : State) (fs : List Nat) (op : MemOp) (ea len d : Nat) : Res Unit :=
  if (piecesOf 4096 ea len).any fun p => (locate s s.cur p.1 p.2 1).isNone then .trap .access ea
  else
    (room (clsOf ea 0 false) s).bind fun _ s =>
      let r := newReq s s.cur (clsOf ea 0 false) op ea len 0 d
      (storeRoom s r).bind fun _ s =>
        let open_ := bitmapOpen s r
        let t := popAll s s.cur fs
        (issueReq t (r.withPops s t fs) 1).bind fun _ s =>
          match (s.slot s.cur).status with
          | .parked _ => .ok () s
          | _ => .ok () (if open_ then parkAfter s (.reply (s.nextId - 1)) else s)

/-- `rank` (R168). -/
def execRank (o : R3) (s : State) : Host.Outcome State Fault Refusal :=
  issue o.s s <|
    let fs := [o.a, o.b]
    (checkSrc s s.cur fs 0).bind fun _ s =>
      let v := fun i => fieldVal s s.cur fs i
      let ea := (v 0).addr
      let i := (v 1).int.toNat
      if 2 ^ 20 ≤ i then .trap .access 0
      else
        match capCheck (v 0) ea (i / 8 + 1) permR 1 with
        | some c => .trap c ea
        | none => sendBitmap s fs (.rank i 0 false) ea (i / 8 + 1) o.d

/-- `selb` (R169). With no byte to search, only tag, seal and permissions are checked. [Log 86: DESIGN CHOICE] -/
def execSelb (o : R3) (s : State) : Host.Outcome State Fault Refusal :=
  issue o.s s <|
    let fs := [o.a, o.b]
    (checkSrc s s.cur fs 0).bind fun _ s =>
      let v := fun i => fieldVal s s.cur fs i
      let c := v 0
      let ea := c.addr
      let n := (v 1).int.toNat
      let len := match capBounds c with | some (_, t) => min (t - ea) (2 ^ 17) | none => 0
      let mask := permR ||| (if isGlobal ea then permGLB else 0)
      let cause := if len = 0 then (if !c.tag then some .captag else if c.otype ≠ 0 ∨ !hasPerm c mask then some .capperm else none)
        else capCheck c ea len permR 1
      match cause with
      | some x => .trap x ea
      | none =>
        if len = 0 then
          .ok () (pushResult (popAll s s.cur fs) s.cur
            { dst := o.d, val := RegVal.ofNat (2 ^ 64 - 1), flags := 0, cls := none, rid := 0, after := none })
        else sendBitmap s fs (.selb n 0 false) ea len o.d

end Sys2Proof.Machine
end

