-- ==== Sys2Proof/Machine/Streams.lean ====
section
/-! DEFINITION. Stream ports and `rep` (12_insn_memory R211-R224). -/

namespace Sys2Proof.Machine

/-- Whether a stream descriptor is valid (R211). [Log 26: DEDUCED] -/
def descValid (d : Nat) : Bool :=
  let bm := bitAt d 8
  fld d 96 32 == 0 && fld d 24 8 == 0 && fld d 9 7 == 0 && fld d 4 4 == 0 && fld d 32 32 != 0 && decide (fld d 0 3 ≤ 4)
    && if bm then fld d 0 3 == 4 && !bitAt d 3 && (narrowFloat (fld d 16 8) || narrowInt (fld d 16 8)) else fld d 16 8 == 0

/-- The checks of a bind, in order (R213): a descriptor for LUT4 blocks is not valid, which traps STREAM here, although R99 names FORMAT
for a stream that would encode into it. [Log 26: DEDUCED] -/
def bindCheck (c : RegVal) (d : Nat) (out : Bool) : Option Cause :=
  let size := if bitAt d 8 then 64 else 2 ^ fld d 0 3
  let mask := (if out then permW else permR) ||| (if isGlobal c.addr then permGLB else 0)
  if !c.tag then some .captag
  else if c.otype ≠ 0 ∨ !hasPerm c mask then some .capperm
  else if !descValid d then some .stream
  else if c.addr % size ≠ 0 ∨ fld d 64 32 % size ≠ 0 then some .align
  else none

/-- `sbind` (R213). -/
def bindPort (o : BindOp) (out : Bool) (s : State) : Host.Outcome State Fault Refusal :=
  issue o.s s <|
    let fs := [o.a, o.b]
    (checkSrc s s.cur fs 0).bind fun _ s =>
      let c := fieldVal s s.cur fs 0
      let d := (fieldVal s s.cur fs 1).bits
      match bindCheck c d.toNat out with
      | some x => .trap x 0
      | none =>
        (placeBlock s o.port).bind fun _ s =>
          let s := unbindPort s s.cur o.port
          .ok () (setPort s s.cur o.port
            { (s.slot s.cur).port o.port with
              dir := if out then 2 else 1, cap := c, desc := d, pos := 0, fetched := [], nextIn := 0, part := []
              openV := [], block := none })

/-- `sbind.in` -/
def execSbindIn (o : BindOp) (s : State) : Host.Outcome State Fault Refusal := bindPort o false s
/-- `sbind.out` -/
def execSbindOut (o : BindOp) (s : State) : Host.Outcome State Fault Refusal := bindPort o true s

/-- `sunbind` (R219). -/
def execSunbind (m : Bool) (port : Nat) (s : State) : Host.Outcome State Fault Refusal :=
  issue m s <|
    if ((s.slot s.cur).port port).dir = 0 then .ok () s
    else (placeBlock s port).bind fun _ s => .ok () (unbindPort s s.cur port)

/-- What `sstat` reports of a port (R219). -/
def portStat (q : Port) : Nat :=
  fld q.pos 0 32 + q.dir * 2 ^ 32 + (if q.dir ≠ 0 ∧ q.count ≤ q.pos then 2 ^ 36 else 0)

/-- `sstat` (R219). -/
def execSstat (m : Bool) (d port : Nat) (s : State) : Host.Outcome State Fault Refusal :=
  issue m s (.ok () (writeReg s s.cur d (RegVal.ofNat (portStat ((s.slot s.cur).port port)))))

/-! ## Elements on their way -/

/-- Whether the thread of slot `g` is at work in its slot. -/
def working (s : State) (g : Nat) : Bool :=
  match (s.slot g).status with
  | .ready => true
  | .parked _ => true
  | _ => false

/-- Whether an input port may fetch its next element (R125-R128, R136, R214): at most eight ahead, within the relaxed limit, not past
an element that failed, after the thread's earlier accesses to its bytes, and with its page translated unless a pop or a fence waits for
it. -/
def mayFetch (s : State) (g p : Nat) : Bool :=
  let x := s.slot g
  let q := x.port p
  let again := match x.fence with | some f => f.refetch.isSome | none => false
  let ea := q.addrOf q.nextIn
  q.dir == 1 && decide (q.fetched.length < 8) && decide (q.nextIn < q.total) && (q.fetched.all fun f => f.cause.isNone)
    && working s g && (x.fence.isNone || again) && hasRoom s g .relaxed && !walking s g && !rangeHeld s (threadSender s g) (ea, q.size)
    && ((capCheck q.cap ea q.size permR q.size).isSome || match locate s g ea q.size 1 with
      | some (.at_ t _) => !ownBehind s g s.nextId t q.size
      | some .miss => (again || x.status == .parked (.pop p)) && !elemsWait s g
      | none => true)
where
  /-- Whether an appended element has still to be written to device memory. -/
  elemsWait (s : State) (g : Nat) : Bool := (s.slot g).ports.any fun k => k.2.outQ.any fun e => e.tgt.isDevice e.ea

/-- Whether an output port may write the `k`-th element that it has still to write: every earlier access of the thread to its bytes has
been performed (R127, R128), and no handover holds it (R312). Elements for different bytes are written in any order (R125). -/
def mayWrite (s : State) (g p k : Nat) : Bool :=
  match ((s.slot g).port p).outQ[k]? with
  | some e => !(accBehind s g e.id e.tgt e.len || bodyBehind s g e.id) && match e.tgt with
    | .sram cl _ => !heldAt s (partOf s g) (clusterOf g) cl
    | _ => true
  | none => false

/-- The elements of port `p` of slot `g` that can move: those to be written, or the one to be fetched. -/
def streamReady (s : State) (g p : Nat) : List Nat :=
  match ((s.slot g).port p).outQ.length with
  | 0 => if mayFetch s g p then [0] else []
  | n => (List.range n).filter (mayWrite s g p)

/-- An element that an input port has fetched. -/
def fetchedInto (s : State) (g p : Nat) (f : Fetched) : State :=
  let q := (s.slot g).port p
  setPort s g p { q with fetched := q.fetched ++ [f], part := [], nextIn := q.nextIn + 1 }

/-- Bytes of the next element of an input port have come: the element is fetched once they are all there (R202). -/
def pieceInto (s : State) (g p : Nat) (xs : List MByte) : State :=
  let q := (s.slot g).port p
  let ys := q.part ++ xs
  if ys.length < q.size then setPort s g p { q with part := ys } else fetchedInto s g p ⟨numOf ys, anyPsn ys, none⟩

/-- Where an input port reads next, and how many bytes: an element, or 16 bytes of a block (R202). -/
def Port.nextRead (q : Port) : Nat × Nat := (q.addrOf q.nextIn + q.part.length, min 16 (q.size - q.part.length))

/-- An input port makes its next access (R202, R214-R216). -/
def fetchElem (s : State) (g p : Nat) : State :=
  let q := (s.slot g).port p
  let (ea, n) := q.nextRead
  match capCheck q.cap (q.addrOf q.nextIn) q.size permR q.size with
  | some c => fetchedInto s g p ⟨0, false, some c⟩
  | none =>
    match readSpan s (threadSender s g) ea n with
    | (.ok xs, s) => pieceInto s g p xs
    | (.miss va, s) => askWalk s g none va 1 0 (sizeLog n) (s.slot g).ofs 0
    | (.fail, s) => fetchedInto s g p ⟨0, false, some .access⟩

/-- STREAM_ELEMENT_ARRIVAL (R214, R215, R217): an appended element is written at its target, or an input port's next element
arrives. `k` names the port and, 64 times it, the place of the element among those appended. -/
def execStreamElementArrival (g k : Nat) (s : State) : Host.Outcome State Fault Refusal :=
  let p := k % 64
  match ((s.slot g).port p).outQ with
  | [] => if mayFetch s g p then .next (fetchElem s g p) else .next s
  | es =>
    match (if mayWrite s g p (k / 64) then es[k / 64]? else none) with
    | some e => .next (writeNext s g p (k / 64) e)
    | none => .next s

/-! ## rep -/

/-- Whether a body may not be repeated: its count is too large or it runs past the block's last word (R221). `d` is the block's descriptor, `ofs` the offset of the `rep`. -/
def bodyBad (d : Nat × Nat) (ofs len count : Nat) : Bool := decide (65535 < count) || decide (d.2 < ofs + len + 1)

/-- `rep` (R220-R223). The accesses of a detached body wait for the plain accesses before it, and its operations for acquires (R126,
R131). -/
def execRep (o : RepOp) (s : State) : Host.Outcome State Fault Refusal :=
  issue o.s s <|
    (checkSrc s s.cur [o.a] 0).bind fun _ s =>
      let ofs := (s.slot s.cur).ofs
      let len := o.lenm1 + 1
      let count := (fieldVal s s.cur [o.a] 0).int.toNat
      (blockDesc s).bind fun d s =>
        if bodyBad d ofs len count then .trap .repeat_ 0
        else
          (codeWords s d (ofs + 1) len).bind fun ws s =>
            if ws.any bodyForbidden then .trap .repeat_ 0
            else
              let past := fun (s : State) => s.onSlot s.cur fun x => { x with ofs := ofs + len }
              let r : Rep := { active := true, detached := ws.all bodyDetached, ofs := ofs, count := count, j := 0, len := len,
                               stagger := o.stagger, fix := o.fix }
              if count = 0 then .ok () (past (popAll s s.cur [o.a]))
              else if !r.detached then
                .ok () ((popAll s s.cur [o.a]).onSlot s.cur fun x => { x with ctx := { x.ctx with rep := r } })
              else if acquiring s s.cur || (ws.any bodyAccess && heldBack s s.cur) then .wait (.access .plain) s
              else if (s.core (coreOf s.cur)).seq.isSome then .wait .sequencer s
              else
                .ok () (startBody (past (popAll s s.cur [o.a])) s.cur r 0 ws d.2)

end Sys2Proof.Machine
end

