-- ==== Sys2Proof/Machine/Perform.lean ====
section
/-! DEFINITION. What an access of a thread does at its target: banks of global SRAM, control windows, base dies, record homes,
other parts (03_execution R52-R54; 05_memory R71, R75, R81, R82, R91, R92; 08_consistency R126-R133; 12_insn_memory R204-R209;
26_faults_memory R371-R384; 28_faults_containment R393). -/

namespace Sys2Proof.Machine

/-! ## Order -/

/-- Whether an operation is one on a table object (R65). -/
def tableOp : MemOp → Bool
  | .tblWr .. => true
  | .tblRd .. => true
  | .tblSync _ => true
  | .tblCommit _ => true
  | _ => false

/-- Whether an earlier access of the thread to bytes that a table operation touches has still to be performed (R65, R248). -/
def objectBehind (s : State) (r : Request) : Bool :=
  r.objParts.any fun p => reqBehind s r.thr r.id (.dev p.1) p.2
    || s.stores.any fun d => d.thr == r.thr && decide (d.id < r.id) && lineMeets d.line (.dev p.1) p.2

/-- Whether an earlier access of the thread to the same bytes has still to be performed (R125, R127, R128, R130, R141). A plain access
waits neither for an operation of the array nor for an `oload` (R236, R142). [Log 62: DEDUCED] -/
def behind (s : State) (r : Request) : Bool :=
  if r.cls = .plain then reqBehind s r.thr r.id r.tgt r.reach || elemBehind s r.slot r.id r.tgt r.reach
  else ownBehind s r.slot r.id r.tgt r.reach || (tableOp r.op && objectBehind s r)

/-! ## Replies -/

/-- The request is over. -/
def dropReq (s : State) (r : Request) : State := { s with net := s.net.filter fun q => q.id != r.id }

/-- The request is over and its result is on its way (R50). -/
def reply (s : State) (r : Request) (v : RegVal) (flags : Nat) : State :=
  pushResult (dropReq s r) r.slot { dst := r.dst, val := v, flags := flags, cls := some r.cls, rid := r.id, after := none }

/-- The value of a load (R204) from the bytes read, the granule's tag and the poison mark (R351). -/
def loadVal (kind : Nat) (lc : Bool) (v : Nat) (tag psn : Bool) : RegVal :=
  { RegVal.ofNat v with tag := kind == 5 && lc && tag, psn := psn }

/-- A fenced cocoon answers a request with a NACK (R393). [Log 24: DESIGN CHOICE] -/
def nackReq (s : State) (r : Request) (cl : Nat) : State :=
  let late := deferTrap (dropReq s r) r.slot .access r.ofs (if r.rep.active then some r.rep else none) r.ea
  match r.op with
  | .rank .. => late
  | .selb .. => late
  | .ld .. => if r.cls = .relaxed then late else failReq s r .access r.ea
  | .st .. =>
    if r.cls = .relaxed then
      faultEntry (dropReq s r) (clusterOf r.slot) 0x02 0x50 (s.slot r.slot).ten (hwid r.slot) r.ea (nackAux s cl)
    else failReq s r .access r.ea
  | _ => failReq s r .access r.ea

/-! ## Atomics (R208, R209) -/

/-- The new value of an atomic of `n` bits, none where nothing is written, and its flags. [Log 28: DEDUCED] -/
def amoNew (fn n old b c : Nat) : Option Nat × Nat :=
  match fn with
  | 0 => (some ((old + b) % 2 ^ n), 0)
  | 1 => (some (old &&& b), 0)
  | 2 => (some (old ||| b), 0)
  | 3 => (some (old ^^^ b), 0)
  | 4 => (some (if sext n old ≤ sext n b then old else b), 0)
  | 5 => (some (if sext n b ≤ sext n old then old else b), 0)
  | 6 => (some (min old b), 0)
  | 7 => (some (max old b), 0)
  | 8 => (some b, 0)
  | 9 => (if old = c then some b else none, 0)
  | _ => let r := addF32 old b; (some r.1, r.2)

/-- Whether the new value of an atomic on a poisoned word is poisoned: it depends on the old one, or covers a part of the word
(R372). [Log 28: DEDUCED] -/
def amoKeepsPoison (fn len : Nat) : Bool := !(fn == 8 && len == 8)

/-! ## Global SRAM -/

/-- Whether a full/empty access finds the state that it needs (R206). -/
def feReady (fn : Nat) (full : Bool) : Bool :=
  match fn with
  | 0 => full
  | 1 => full
  | 2 => !full
  | _ => true

/-- A full/empty access whose word is in the needed state, at its bank (R82, R206). -/
def fePerform (s : State) (r : Request) (fn val cl ofs : Nat) : State :=
  let s := { s with sram := s.sram.settleAll (sramKey cl ofs) 8 }
  let v : RegVal := { RegVal.ofNat (sramRead s cl ofs 8) with psn := s.sram.poisoned (sramKey cl ofs) 8 }
  let full := sramFull s cl ofs
  let traced := fun (s : State) => traceFrom s r.slot cl ofs
  match fn with
  | 0 => reply (traced (setWordFull s cl ofs false)) r v 0
  | 1 => reply s r v 0
  | 2 => dropReq (traced (fillWord s cl ofs val)) r
  | 3 => dropReq (traced (fillWord s cl ofs val)) r
  | 4 => reply s r (RegVal.ofNat (if full then 1 else 0)) 0
  | 5 => dropReq (traced (setWordFull s cl ofs false)) r
  | _ => dropReq (traced (setWordFull s cl ofs true)) r

/-- The accesses on the wait list of a cluster, in order of arrival (R52). -/
def waiters (s : State) (cl : Nat) : List Request :=
  s.net.filter fun r => r.phase == .word && match r.tgt with | .sram c _ => c == cl | _ => false

/-- A wait that pre-emption withdraws: the thread is to resume at the waiting instruction, which has popped nothing (R309 step 1, R350). -/
def withdrawReq (s : State) (r : Request) : State :=
  (undoPops (dropReq s r) r.slot r.pops r.flags).onSlot r.slot fun x =>
    { x with ofs := r.ofs, skip := 0, ctx := { x.ctx with rep := r.rep } }

/-- A full/empty access that finds the wrong state takes an entry of the wait list, or is held while there is none (R52). In Handover it is
withdrawn. [Log 25: DEDUCED] -/
def joinWaitList (s : State) (r : Request) (cl : Nat) : State :=
  if (s.slot r.slot).status = .handover ∧ (s.slot r.slot).trap.isNone then withdrawReq s r
  else
  let p := if (waiters s cl).length < 1024 then Phase.word else Phase.noEntry
  let s := { s.bump with net := (s.net.filter fun (q : Request) => q.id != r.id) ++ [{ r with phase := p, since := s.nextId }] }
  s.onSlot r.slot fun x =>
    { x with recheck := 0, status := if x.status = .ready then .parked (.word r.id) else x.status }

/-- A record header as `rinit` writes it (R120, R121). -/
def initHeader (ten : Nat) (b : Nat) : Nat :=
  ten * 2 ^ 51 + fld b 32 16 * 2 ^ 35 + fld b 0 10 * 2 ^ 25 + fld b 24 6 * 2 ^ 19 + fld b 10 5 * 2 ^ 12 + fld b 16 8

/-- The word that a bitmap request reads: its bytes as a number, and whether they are poisoned (R170, R371). The thread's own buffered
bytes lie over those of memory (R128). -/
def bitmapWord (s : State) (r : Request) : (Nat × Bool) × State :=
  let m := r.reach
  let laid := fun (v : Nat) => ofBytes (overlay (bytesOf m v) r.own)
  match r.tgt with
  | .sram cl ofs =>
    let s := { s with sram := s.sram.settleAll (sramKey cl ofs) m }
    ((sramRead s cl ofs m, s.sram.poisoned (sramKey cl ofs) m), s)
  | .ctl cl ofs => ((ofBytes ((List.range m).map fun i => BitVec.ofNat 8 (ctlRead s cl (ofs + i) 1)), false), s)
  | .dev pa =>
    let s := devSettle s (forwardPa s pa) m
    ((laid (devRead s r.ten pa m), devPoisoned s pa m), s)
  | .peer _ => ((laid (Config.peerData s.free % 2 ^ (8 * m)), false), { s with free := s.free + 1 })

/-- A bitmap request goes on to its next word (R170). Where the page of that word is not translated, a thread that does not wait for the
reply issues on meanwhile. -/
def bitmapNext (s : State) (r : Request) (op : MemOp) : State :=
  let m := r.reach
  let own := r.own.filterMap fun kb => if m ≤ kb.1 then some (kb.1 - m, kb.2) else none
  let q := { r with op := op, ea := r.ea + m, len := r.len - m, own := own }
  let put := fun (q : Request) => { s with net := s.net.map fun p => if p.id = r.id then q else p }
  match locate s q.slot q.ea q.reach 1 with
  | none => failReq s q .access q.ea
  | some (.at_ t _) => put { q with tgt := t }
  | some .miss => put { q with phase := .walk, kept := (s.slot r.slot).status != .parked (.reply r.id) }

/-- A bitmap request reads one word: it answers, or goes on (R168-R170). -/
def bitmapPerform (s : State) (r : Request) : State :=
  let (vp, s) := bitmapWord s r
  let answer := fun (v : Nat) (psn : Bool) => reply s r { RegVal.ofNat v with psn := psn } 0
  match r.op with
  | .rank i cnt psn =>
    match rankWord i cnt vp.1 r.reach with
    | .inl v => answer v (psn || vp.2)
    | .inr (i, cnt) => bitmapNext s r (.rank i cnt (psn || vp.2))
  | .selb n base psn =>
    match selbWord n base vp.1 r.reach r.len with
    | .inl v => answer v (psn || vp.2)
    | .inr (n, base) => bitmapNext s r (.selb n base (psn || vp.2))
  | _ => s

/-- `rinval` where the header stands (R121, R230): the doubleword as read and its poison mark, and how to write it, its `0` fields
zero (R6). [Log 46: DEDUCED] -/
def rinvalAt (s : State) (r : Request) (h : Nat) (psn : Bool) (write : Nat → State) : State :=
  if psn then failReq s r .poison 0
  else if fld h 51 12 ≠ r.ten then failReq s r .reuse 0
  else dropReq (write (setFld (headerDw0 h) 63 1 0)) r

/-- The two doublewords of `rstat` (R121), the thread's own buffered bytes among them; `TEN` is checked. [Log 46: DEDUCED] -/
def rstatAt (s : State) (r : Request) (v : Nat) (psn : Bool) : State :=
  let v := ofBytes (overlay (bytesOf 16 v) r.own)
  let psn := psn && decide (r.own.length < 16)
  if !psn && fld v 51 12 != r.ten then failReq s r .reuse 0 else reply s r { RegVal.ofNat v with psn := psn } 0

/-- Whether an operation writes a word of a slice or its full/empty bit. -/
def writesWord : MemOp → Bool
  | .st .. => true
  | .amo .. => true
  | .fe fn _ => fn != 1 && fn != 4
  | .rinit _ => true
  | .rinval => true
  | .diag .. => true
  | _ => false

/-- A write to a slot of another partition's queue is dropped whole and reported (R300); an access with a reply reads the word.
[Log 49: DEDUCED] -/
def refuseSlot (s : State) (r : Request) (cl q : Nat) : State :=
  let t := dropQueueWrite s cl q r.ea s.chip
  let v := match r.tgt with | .sram c o => RegVal.ofNat (sramRead s c o r.len) | _ => RegVal.zero
  match r.op with
  | .amo .. => reply t r v 0
  | .fe 0 _ => reply t r v 0
  | _ => dropReq t r

/-- A request performed at the bank of a slice (R71, R81) whose writer is permitted. -/
def bankPerform (s : State) (r : Request) (cl ofs : Nat) : State :=
  let key := sramKey cl ofs
  let s := { s with sram := s.sram.settleAll key r.len }
  let psn := s.sram.poisoned key r.len
  let traced := fun (s : State) => traceFrom s r.slot cl ofs
  match r.op with
  | .ld k lc => reply s r (loadVal k lc (sramRead s cl ofs r.len) (s.sram.tagAt key) psn) 0
  | .st v tag =>
    let t := match tag with
      | some b => { s with sram := s.sram.writeTagged key v b }
      | none => sramWrite s cl ofs r.len v
    dropReq (traced t) r
  | .amo fn b c =>
    let old := sramRead s cl ofs r.len
    let (new, fl) := amoNew fn (8 * r.len) old b c
    let t := match new with
      | some v =>
        let t := sramWrite s cl ofs r.len v
        if psn && amoKeepsPoison fn r.len then { t with sram := t.sram.makePoison key r.len } else t
      | none => s
    let t := traced t
    reply t r { RegVal.ofNat old with psn := psn } fl
  | .fe fn v => if feReady fn (sramFull s cl ofs) then fePerform s r fn v cl ofs else joinWaitList s r cl
  | .rstat => rstatAt s r (sramRead s cl ofs 16) psn
  | .rinit b => dropReq (traced (sramWrite s cl ofs 64 (initHeader r.ten b.toNat))) r
  | .rinval =>
    rinvalAt s r (sramRead s cl ofs 8) (s.sram.poisoned key 8) fun h => traced (sramWrite s cl ofs 8 h)
  | .diag v chk _ =>
    let t := sramWrite s cl ofs 8 v
    let syn := BitVec.ofNat 8 chk ^^^ Config.checkByte (BitVec.ofNat 64 v)
    dropReq (traced { t with sram := { t.sram with syn := put 0 t.sram.syn (key / 8) syn } }) r
  | _ =>
    match taskPerform s r cl ofs with
    | some (t, some v) => reply t r v 0
    | some (t, none) => dropReq t r
    | none => s

/-- A request performed at the bank of a slice (R71, R81, R300). [Log 24: DESIGN CHOICE] -/
def sramPerform (s : State) (r : Request) (cl ofs : Nat) : State :=
  match (if writesWord r.op then foreignQueue s (partOf s r.slot) cl ofs r.len else none) with
  | some q => refuseSlot s r cl q
  | none => bankPerform s r cl ofs

/-- A request performed at a control window (R257, R296). [Log 27: DEDUCED] -/
def ctlPerform (s : State) (r : Request) (cl ofs : Nat) : State :=
  match r.op with
  | .ld k lc => reply s r (loadVal k lc (ctlRead s cl ofs r.len) false false) 0
  | .st v _ =>
    match ctlStore s cl ofs r.len v (s.slot r.slot).prv (partOf s r.slot) with
    | some t => dropReq (traceFrom t r.slot cl ofs) r
    | none => failReq s r .access r.ea
  | _ => failReq s r .access r.ea

/-! ## Device memory -/

/-- A request performed at the base die of its data stack (R91, R92, R371). [Log 80: DESIGN CHOICE] -/
def devPerform (s : State) (r : Request) (pa : Nat) : State :=
  let g := r.slot
  let ten := r.ten
  let die := dieOf (clusterOf g)
  let fw := forwardPa s pa
  let s := devSettle s fw r.len
  let psn := devPoisoned s pa r.len
  let store := fun (s : State) (bs : Sparse (BitVec 8)) (tags : Nat) => performLine s r.id g die ten (pa / 64) bs tags
  match r.op with
  | .ld k lc =>
    let v := ofBytes (overlay (devBytes s ten pa r.len) r.own)
    let tag := r.otag.getD (look false s.dev.tags (fw / 16))
    reply s r (loadVal k lc v tag (psn && decide (r.own.length < r.len))) 0
  | .st v tag =>
    let t := store s (bytesAt (pa % 64) r.len v) (if tag = some true then 2 ^ (pa % 64 / 16) else 0)
    dropReq (countGuarded t (clusterOf g) (partOf s g) r.grd) r
  | .amo fn b c =>
    let old := devRead s ten pa r.len
    let (new, fl) := amoNew fn (8 * r.len) old b c
    let t := match new with
      | some v =>
        let t := store s (bytesAt (pa % 64) r.len v) 0
        if psn && amoKeepsPoison fn r.len then { t with dev := t.dev.makePoison fw r.len } else t
      | none => s
    reply t r { RegVal.ofNat old with psn := psn } fl
  | .rstat => rstatAt s r (devRead s ten pa 16) (devPoisoned s pa 16)
  | .rinit b => dropReq (store s (bytesAt 0 64 (initHeader ten b.toNat)) 0) r
  | .rinval =>
    rinvalAt s r (devRead s ten pa 8) (devPoisoned s pa 8) fun h => store s (bytesAt 0 8 h) 0
  | .diag v chk par =>
    let syn := BitVec.ofNat 8 chk ^^^ Config.checkByte (BitVec.ofNat 64 v)
    dropReq (diagLine s r.id g die fw v syn par) r
  | _ =>
    if tableHeld s r then s
    else
      match tablePerform s r with
      | (t, some v) => reply t r v 0
      | (t, none) => dropReq t r

/-! ## Another part -/

/-- A request that another part performs (R71): what it returns, a capability's tag among it, is that part's (R75, R121).
[Log 16: DESIGN CHOICE] -/
def peerPerform (s : State) (r : Request) : State :=
  let d := Config.peerData s.free
  let v := RegVal.ofNat (ofBytes (overlay (bytesOf r.len d) r.own))
  let t := { s with free := s.free + 1 }
  match r.op with
  | .ld k lc => reply t r { v with tag := k == 5 && lc && r.otag.getD (bitAt d 128) } 0
  | .amo fn _ _ => reply { t with free := t.free + 1 } r v (if fn = 10 then Config.peerData t.free % 32 else 0)
  | .fe 0 _ => reply t r v 0
  | .fe 1 _ => reply t r v 0
  | .fe 4 _ => reply t r (RegVal.ofNat (v.bits.toNat % 2)) 0
  | .rstat => rstatAt t r (d % 2 ^ 128) false
  | .rinval => rinvalAt t r (d % 2 ^ 64) false fun _ => t
  | _ => dropReq s r

/-! ## The steps -/

/-- A request performed at its target (R71): a cluster that is fenced answers with a NACK. -/
def performReq (s : State) (r : Request) : State :=
  if r.phase = .nack then (match r.tgt with | .sram cl _ => nackReq s r cl | _ => s)
  else
  match r.tgt with
  | .sram cl ofs => if nacked s cl then nackReq s r cl else if isBitmap r.op then bitmapPerform s r else sramPerform s r cl ofs
  | .ctl cl ofs => if nacked s cl then nackReq s r cl else if isBitmap r.op then bitmapPerform s r else ctlPerform s r cl ofs
  | .dev pa => if isBitmap r.op then bitmapPerform s r else devPerform s r pa
  | .peer _ => if isBitmap r.op then bitmapPerform s r else peerPerform s r

/-- The request with a number, on its way, with nothing of its thread before it, and not waiting for a sweep. -/
def sentReq (s : State) (rid : Nat) : Option Request :=
  (s.net.find? fun r => r.id == rid && (r.phase == .nack || (r.phase == .sent && r.cls != .sc))).filter fun r =>
    r.phase == .nack || !behind s r

/-- Whether a request is one of a base die's reads: a load, a bitmap or a record's status. -/
def isDevRead (r : Request) : Bool :=
  match r.tgt, r.op with
  | .dev _, .ld .. => true
  | .dev _, .rank .. => true
  | .dev _, .selb .. => true
  | .dev _, .rstat => true
  | _, _ => false

/-- Whether a request goes to a base die. -/
def isDev (r : Request) : Bool :=
  match r.tgt with
  | .dev _ => true
  | _ => false

/-- Whether a handover of the target cluster holds a request back (R312, R313). -/
def atHandover (s : State) (r : Request) : Bool :=
  let held := heldAt s (partOf s r.slot) (clusterOf r.slot)
  match r.tgt with
  | .sram cl _ => held cl
  | .ctl cl _ => held cl
  | _ => false

/-- Whether a request of a thread is its only access outstanding (R206). -/
def alone (s : State) (r : Request) : Bool :=
  let g := r.slot
  let c := s.core (coreOf g)
  !(s.net.any fun q => q.slot == g && q.id != r.id) && ((s.slot g).results.all fun x => x.cls.isNone)
    && ((s.slot g).ports.all fun p => p.2.outQ.isEmpty) && !(c.oloads.any fun o => o.slot == g)
    && !(c.queue.any fun e => e.slot == g && opAccesses e.op) && !anyUnsent s g opAccesses

/-- Whether SRAM_REQUEST can perform a request: a `spawn` waits at a home that creates no continuations (R303) or whose pools are
empty (R38), and a full/empty access that has to park waits until it is the only one of its thread (R206). -/
def sramReady (s : State) (r : Request) : Bool :=
  r.phase == .nack || !isDev r && !atHandover s r && match r.op, r.tgt with
    | .spawn .., .sram cl ofs => nacked s cl || (owned s cl && (taskPerform s r cl ofs).isSome)
    | .fe fn _, .sram cl ofs => nacked s cl || feReady fn (sramFull s cl ofs) || alone s r
    | _, _ => true

/-- SRAM_REQUEST (R71): a request to a slice, to a control window or to another part is performed. [Log 19: DEDUCED] -/
def execSramRequest (rid : Nat) (s : State) : Host.Outcome State Fault Refusal :=
  match sentReq s rid with
  | some r => if sramReady s r then .next (performReq s r) else .next s
  | none => .next s

/-- The words of a device read that are uncorrectable and whose reconstruction is still to be asked for (R373). -/
def unasked (s : State) (r : Request) : List Nat :=
  match r.tgt with
  | .dev pa => (badWords s pa r.reach).filter fun w => !s.rebuilds.contains w
  | _ => []
where
  /-- The uncorrectable words of a range. -/
  badWords (s : State) (pa n : Nat) : List Nat :=
    (wordsOf (forwardPa s pa) n).filter fun w => synKind (look 0 s.dev.syn w) == .bad

/-- Whether a read waits for a reconstruction that has been asked for. -/
def rebuilding (s : State) (r : Request) : Bool :=
  match r.tgt with
  | .dev pa => !(unasked.badWords s pa r.reach).isEmpty
  | _ => false

/-- Whether a drained line may be performed: stores and earlier accesses of its thread to its bytes come first (R91, R125), and a stripe whose
parity unit is stale holds its stores (R381). -/
def storeFree (s : State) (d : DevStore) : Bool :=
  (toPeer d.line || !s.stale.contains (stripeOf (forwardPa s (64 * d.line)))) &&
  !(s.stores.any fun e => e.thr == d.thr && decide (e.id < d.id) && e.line == d.line)
    && !(s.net.any fun r => r.thr == d.thr && decide (r.id < d.id) && r.phase == .sent &&
      (lineMeets d.line r.tgt r.len || (!toPeer d.line && reqMeets s r (.dev (64 * d.line)) 64)))

/-- Whether a base die can serve a read: it answers, or asks for words that it cannot correct. -/
def readFree (s : State) (r : Request) : Bool := isDevRead r && (!rebuilding s r || !(unasked s r).isEmpty)

/-- Whether a base die can serve another request: a stripe whose parity unit is stale holds its atomics (R381), and a table whose `PEND` is 1 its
operations (R65). -/
def atomicFree (s : State) (r : Request) : Bool :=
  isDev r && !isDevRead r && !(tableOp r.op && tableHeld s r) && match r.tgt with
    | .dev pa => !s.stale.contains (stripeOf (forwardPa s pa))
    | _ => true

/-- Whether a rehash still holds what was issued with a number (R382): a request that was on the planes before the loss, or a parity
difference, can still complete. -/
def planeHeld (s : State) (id : Nat) : Bool :=
  decide (s.rehash ≤ id) &&
    ((s.diffs.any fun d => decide (d.id < s.rehash)) || (s.stores.any fun d => decide (d.id < s.rehash) && !toPeer d.line && storeFree s d) ||
      s.net.any fun r => decide (r.id < s.rehash) && (sentReq s r.id).isSome && (readFree s r || atomicFree s r))

/-- Whether a drained line may be performed now. -/
def storeReady (s : State) (d : DevStore) : Bool := storeFree s d && (toPeer d.line || !planeHeld s d.id)

/-- Whether DEVICE_READ can do something for a request. -/
def devReadReady (s : State) (r : Request) : Bool := readFree s r && !planeHeld s r.id

/-- DEVICE_READ (R371, R373): a read answers, or asks the parity stack for the words that it cannot correct.
[Log 19: DEDUCED] -/
def execDeviceRead (rid : Nat) (s : State) : Host.Outcome State Fault Refusal :=
  match sentReq s rid with
  | some r =>
    if !devReadReady s r then .next s
    else if rebuilding s r then .next { s with rebuilds := s.rebuilds ++ unasked s r }
    else .next (performReq s r)
  | none => .next s

/-- Whether DEVICE_ATOMIC can perform a request. -/
def atomicReady (s : State) (r : Request) : Bool := atomicFree s r && !planeHeld s r.id

/-- DEVICE_ATOMIC (R92, R384): the atomic unit of a base die performs an atomic, a table operation, or a write that bypasses the
gather buffer. [Log 19: DEDUCED] -/
def execDeviceAtomic (rid : Nat) (s : State) : Host.Outcome State Fault Refusal :=
  match sentReq s rid with
  | some r => if atomicReady s r then .next (performReq s r) else .next s
  | none => .next s

/-- Whether a reconstruction happens: a stripe whose parity unit is stale holds it (R381). -/
def rebuildReady (s : State) (w : Nat) : Bool := !s.stale.contains (stripeOf (8 * w))

/-- RECONSTRUCTION (R373, R374): the unit is rebuilt; a word that cannot be becomes poison and its line is reported lost.
[Log 72: DEDUCED] -/
def execReconstruction (k : Nat) (s : State) : Host.Outcome State Fault Refusal :=
  match s.rebuilds[k]? with
  | some w => .next (if rebuildReady s w then settleWord { s with rebuilds := s.rebuilds.erase w } w else s)
  | none => .next s

/-- The range indexes that the performing of a line counts (R79): each of its single stores, and a `macc.st` with its last line.
[Log 80: DESIGN CHOICE] -/
def guardsDone (s : State) (grd : List Nat) : List Nat :=
  let pending := fun (x : Nat) => (s.stores.any fun d => d.grd.contains x) || s.slots.any fun gx => gx.2.gather.any fun l => l.grd.contains x
  grd.filterMap fun x => if x < 64 then some x else if pending x then none else some (x % 64)

/-- DEVICE_STORE (R91, R79): a drained line is performed and its parity difference leaves; guarded stores are counted. A line of another
part's memory is performed there. -/
def execDeviceStore (k : Nat) (s : State) : Host.Outcome State Fault Refusal :=
  match s.stores[k]? with
  | some d =>
    if !storeReady s d then .next s
    else
      let s := { s with stores := s.stores.erase d }
      if toPeer d.line then .next s
      else
        let s := performLine s d.id d.slot d.die d.ten d.line d.bytes d.tags
        .next (countGuarded s (clusterOf d.slot) (partOf s d.slot) (guardsDone s d.grd))
  | none => .next s

/-- PARITY_DIFFERENCE (R91): the difference is applied and the store completes. -/
def execParityDifference (k : Nat) (s : State) : Host.Outcome State Fault Refusal :=
  match s.diffs[k]? with
  | some d => .next (applyDiff { s with diffs := s.diffs.erase d } d)
  | none => .next s

/-- The data bytes of a stripe and the differences on their way, as one parity byte (R381). -/
def freshParity (s : State) (stripe off : Nat) : BitVec 8 :=
  let sum := (List.range 15).foldl (fun x j => x ^^^ unitByte s stripe j off) (0 : BitVec 8)
  s.diffs.foldl (fun x d =>
    if stripeOf d.pa = stripe ∧ !d.poor then x ^^^ (find d.bytes (stripe * 512 + off - localAddr d.pa)).getD 0 else x) sum

/-- PARITY_RESYNC (R381): the parity unit of a stripe is computed from its data units; a data word that cannot be read becomes
poison and its line is reported lost. -/
def execParityResync (k : Nat) (s : State) : Host.Outcome State Fault Refusal :=
  match s.stale[k]? with
  | none => .next s
  | some stripe =>
    let words := (List.range 960).map fun i => stripe * 960 + i
    let gone := fun (w : Nat) => s.lost.contains (dataStack (8 * w))
    let s := (words.filter fun w => !gone w).foldl correctWord s
    let s := loseWords s (words.filter fun w =>
      synKind (look 0 s.dev.syn w) == .bad || (gone w && look 0 s.dev.syn w != 0xFF))
    let a := stripe * 512
    .next { s with
      parity := (List.range 512).foldl (fun m i => put 0 m (a + i) (freshParity s stripe i)) s.parity
      parSyn := (List.range 64).foldl (fun m i => put 0 m (a / 8 + i) 0) s.parSyn
      stale := s.stale.erase stripe }

/-! ## Fence markers (R137, R380) -/

/-- Whether a physical address is served on a plane by the base die of a stack; a marker that a lost base die holds stands for the
requests re-sent for it (R380). -/
def servedAt (s : State) (pa plane stack : Nat) : Bool :=
  planeOf s pa == plane &&
    (if s.lost.contains stack then dataStack pa == stack
     else (if s.lost.contains (dataStack pa) then parityStack pa else dataStack pa) == stack)

/-- Whether everything that a base die received on a plane from a compute die before number `since` is complete. -/
def markerReady (s : State) (die since plane stack : Nat) : Bool :=
  !(s.stores.any fun d => d.die == die && decide (d.id < since) && !toPeer d.line && servedAt s (64 * d.line) plane stack)
    && !(s.diffs.any fun d => d.die == die && decide (d.id < since) && servedAt s d.pa plane stack)
    && !(s.net.any fun r => dieOf (clusterOf r.slot) == die && decide (r.id < since) && r.phase == .sent
      && match r.tgt with | .dev pa => servedAt s pa plane stack | _ => false)

/-- FENCE_MARKER (R137): a base die acknowledges a marker. -/
def execFenceMarker (g plane stack : Nat) (s : State) : Host.Outcome State Fault Refusal :=
  match (s.slot g).fence with
  | some f =>
    if f.markers.contains (plane, stack) && markerReady s (dieOf (clusterOf g)) f.since plane stack then
      .next (s.onSlot g fun x =>
        { x with fence := some { f with markers := f.markers.erase (plane, stack), acks := f.acks ++ [(plane, stack)] } })
    else .next s
  | none => .next s

/-- MARKER_ACK (R137): the acknowledgement reaches its fence. -/
def execMarkerAck (g plane stack : Nat) (s : State) : Host.Outcome State Fault Refusal :=
  match (s.slot g).fence with
  | some f => .next (s.onSlot g fun x => { x with fence := some { f with acks := f.acks.erase (plane, stack) } })
  | none => .next s

/-! ## Results and the wait list -/

/-- Whether result `k` of slot `g` may return: it is not the reply of a kick that has not come. Results of one register return in any
order (R51), but that of a special function or an `smerge` arrives after those of the accesses that issued before it (R197). -/
def resultReady (s : State) (g k : Nat) : Bool :=
  let x := s.slot g
  match x.results[k]? with
  | none => false
  | some r =>
    !(r.cls.isNone && r.rid != 0) && match r.after with
      | none => true
      | some n => r.dst == 0 ||
          (!((x.results.take k).any fun q => q.dst == r.dst) &&
            !((x.results.drop (k + 1)).any fun q => q.dst == r.dst && q.cls.isSome && decide (q.rid < n)) &&
            !(s.net.any fun q => q.slot == g && decide (q.id < n) && q.op.returns && q.dst == r.dst) &&
            !(s.commits.any fun c => c.slot == g && decide (c.rid < n) && c.dst == r.dst))

/-- RESULT_RETURN (R50, R102): a result reaches its register and its flags `STAT`. -/
def execResultReturn (g k : Nat) (s : State) : Host.Outcome State Fault Refusal :=
  let x := s.slot g
  match x.results[k]? with
  | some r =>
    if !resultReady s g k then .next s
    else .next (orFlags (writeReg (s.setSlot g { x with results := x.results.eraseIdx k }) g r.dst r.val) g r.flags)
  | none => .next s

/-- Whether a waiting access has passed its thread's limit (R52). [Log 25: DEDUCED] -/
def pastLimit (s : State) (r : Request) : Bool :=
  let x := s.slot r.slot
  r.phase == .word && x.ctx.felim != 0 && decide (x.ctx.felim < x.recheck)

/-- Re-checks the waiters of a word in order of arrival, until one is satisfied and changes the word's state (R52). One that has passed
its thread's limit is no waiter any more: it traps (R364). [Log 25: DEDUCED] -/
def recheckAll (s : State) (cl ofs : Nat) : List Request → State
  | [] => s
  | r :: rs =>
    match r.op with
    | .fe fn v =>
      if pastLimit s r then recheckAll s cl ofs rs
      else if feReady fn (sramFull s cl ofs) then
        let t := fePerform s r fn v cl ofs
        if sramFull t cl ofs = sramFull s cl ofs then recheckAll t cl ofs rs else t
      else recheckAll (s.onSlot r.slot fun x => { x with recheck := x.recheck + 1 }) cl ofs rs
    | _ => recheckAll s cl ofs rs

/-- WAIT_LIST_RECHECK (R52): the waiters of the word whose state changed first are re-checked, those that joined before the change. An
access that reaches the word before this step may take it. [Log 25: DEDUCED] -/
def execWaitListRecheck (cl : Nat) (s : State) : Host.Outcome State Fault Refusal :=
  match (s.cluster cl).rechecks with
  | [] => .next s
  | (w, n) :: ws =>
    let s := s.onCluster cl fun c => { c with rechecks := ws }
    .next (recheckAll s cl w ((waiters s cl).filter fun r => decide (r.since < n) &&
      match r.tgt with | .sram _ o => o % 2 ^ 21 / 8 * 8 == w % 2 ^ 21 | _ => false))

/-- FELIMIT_TRAP (R52, R364). [Log 25: DEDUCED] -/
def execFelimitTrap (rid : Nat) (s : State) : Host.Outcome State Fault Refusal :=
  match s.net.find? fun r => r.id == rid && pastLimit s r with
  | some r => .next (failReq s r .felimit r.ea)
  | none => .next s

/-- The oldest access held for want of a wait-list entry of a cluster (R52). -/
def heldAccess (s : State) (cl : Nat) : Option Request :=
  s.net.find? fun r => r.phase == .noEntry && match r.tgt with | .sram c _ => c == cl | _ => false

/-- Whether the wait list of a cluster can take a held access. -/
def entryFree (s : State) (cl : Nat) : Bool := (heldAccess s cl).isSome && decide ((waiters s cl).length < 1024)

/-- WAIT_LIST_ENTRY_FREED (R52): the oldest held access is sent again. -/
def execWaitListEntryFreed (cl : Nat) (s : State) : Host.Outcome State Fault Refusal :=
  match heldAccess s cl with
  | some r =>
    if entryFree s cl then
      .next { s with net := (s.net.filter fun (q : Request) => q.id != r.id) ++ [{ r with phase := .sent }] }
    else .next s
  | none => .next s

/-! ## Commits and sweeps -/

/-- Whether every cluster has acknowledged a commit (R66): no search pins another version of the table. -/
def commitReady (s : State) (c : Commit) : Bool :=
  !(s.slots.any fun gx => match gx.2.pin with | some p => p.1 == c.hdr && p.2.1 != c.ver | none => false)

/-- Whether cluster `cl` applies commit `i` next: announcements are applied in their order (R132). -/
def mayApply (s : State) (i cl : Nat) : Bool := (s.commits.take i).all fun c => !c.todo.contains cl

/-- COMMIT_COMPLETE (R65, R66): of move `k` with `n` commits, commit `k % n` is applied by the cluster at place `k / n` of those that have
still to apply it; once there is none and every search of an older version is over, `PEND` clears and the commit returns its version. -/
def execCommitComplete (k : Nat) (s : State) : Host.Outcome State Fault Refusal :=
  let i := k % s.commits.length
  match s.commits[i]? with
  | none => .next s
  | some c =>
    match c.todo[k / s.commits.length]? with
    | some cl =>
      if !mayApply s i cl then .next s
      else
        let s := learnVer s cl c.hdr c.ver c.act
        .next { s with commits := s.commits.set i { c with todo := c.todo.erase cl } }
    | none =>
      if !c.todo.isEmpty || !commitReady s c then .next s
      else
        let s := devSettle { s with commits := s.commits.erase c } (forwardPa s c.hdr) 8
        let h := devRead s c.ten c.hdr 8
        let s := devWrite s c.ten c.hdr (bytesOf 8 (setFld (tableDw0 h) 29 1 0)) false
        .next (pushResult s c.slot { dst := c.dst, val := RegVal.ofNat c.ver, flags := 0, cls := some .sc, rid := c.rid, after := none })

/-- A request put in its place in the order (core, slot). -/
def placeBySlot (r : Request) : List Request → List Request
  | [] => [r]
  | q :: qs => if r.slot < q.slot then r :: q :: qs else q :: placeBySlot r qs

/-- The sequentially consistent operations that targets hold, in the order (core, slot) (R133). [Log 21: DESIGN CHOICE] -/
def heldScOps (s : State) : List Request :=
  (s.net.filter fun r => r.phase == .sent && r.cls == .sc).foldl (fun l r => placeBySlot r l) []

/-- Whether a held operation is performed as its sweep closes: no handover holds it (R312, R313), nor a commit (R65), a rehash (R382) or a stale
stripe (R381). -/
def scReady (s : State) (r : Request) : Bool :=
  !atHandover s r && !(tableOp r.op && tableHeld s r) && !(isDev r && (planeHeld s s.nextId || !(isDevRead r || atomicFree s r)))

/-- A held operation performed as its sweep closes (R133, R261). [Log 21: DESIGN CHOICE] -/
def performSc (s : State) (r : Request) : State :=
  match r.op with
  | .mts spr v => dropReq (applyMts s r.slot spr v.toNat) r
  | _ => if scReady s r then performReq s r else s

/-- Whether the close of the open sweep performs an operation. -/
def sweepDue (s : State) : Bool := (heldScOps s).any (scReady s)

/-- SWEEP_CLOSE (R132, R133): the sweep closes and its operations are performed. [Log 21, 61: DESIGN CHOICE] -/
def execSweepClose (s : State) : Host.Outcome State Fault Refusal :=
  .next { (heldScOps s).foldl performSc s with sweep := (s.sweep + 1) % 2 ^ 32 }

end Sys2Proof.Machine
end

