-- ==== Sys2Proof/Machine/Reduce.lean ====
section
/-! DEFINITION. Reductions that vector instructions and collectives share (11_insn_vector R187, R193, R194; 15_engines R278). -/

namespace Sys2Proof.Machine

/-- The larger, or smaller, of two values that are not NaN. -/
def pickNum (big : Bool) (a b : Num) : Bool := if big then ltNum a b else ltNum b a

/-- The largest or smallest of the codes of a float format (R193): NaNs are ignored unless all are NaN; with none the least or
greatest infinity. The code and the flags. -/
def extremeF (f : FloatFmt) (big : Bool) (codes : List Nat) : Nat × Nat :=
  let fl := if codes.any fun c => (decodeFloat f c).isSig then flNV else 0
  let nums := codes.filter fun c => !(decodeFloat f c).isNaN
  match nums with
  | [] => (if codes.isEmpty then f.signCode big + f.infCode else f.nanCode, fl)
  | c :: cs => (cs.foldl (fun best x => if pickNum big (decodeFloat f best) (decodeFloat f x) then x else best) c, fl)

/-- The largest or smallest of integers; `d` with none (R193). -/
def extremeI (big : Bool) (d : Int) (xs : List Int) : Int :=
  match xs with
  | [] => d
  | x :: xs => xs.foldl (fun best y => if big then max best y else min best y) x

/-- The empty pair (R194): index all ones, value −∞. -/
def emptyPair : Nat := 0xFFFFFFFFFF800000

/-- −∞ in FP32. -/
def negInf32 : Nat := 0xFF800000

/-- Whether a value may win (R194). -/
def mayWin (v : Nat) : Bool := !(decodeFloat fp32 v).isNaN && v != negInf32

/-- The better of a best (value, index) pair and a candidate (R194). -/
def betterKey (best : Option (Nat × Nat)) (c : Nat × Nat) : Option (Nat × Nat) :=
  if !mayWin c.1 then best
  else
    match best with
    | none => some c
    | some b =>
      if ltNum (decodeFloat fp32 b.1) (decodeFloat fp32 c.1) || (b.1 == c.1 && decide (c.2 < b.2)) then some c else some b

/-- The prior pair of a selection (R194). -/
def priorKey (pair : Nat) : Option (Nat × Nat) :=
  let v := fld pair 0 32
  let k := fld pair 32 32
  if mayWin v && k != 0xFFFFFFFF then some (v, k) else none

/-- The pair that a selection gives (R194). -/
def keyPair (best : Option (Nat × Nat)) : Nat := match best with | some (v, k) => v + k * 2 ^ 32 | none => emptyPair

end Sys2Proof.Machine
end

