-- ==== Sys2Proof/Machine/Commands.lean ====
section
/-! DEFINITION. The commands of the copy engine, the distributor, the collective engine and the context engine: what each checks as
it is accepted and what it does (05_memory R87, R88; 15_engines R273-R279; 25_faults_execution R365; 26_faults_memory R376;
28_faults_containment R400). -/

namespace Sys2Proof.Machine

/-! ## Checks at acceptance (R273) -/

/-- Bits of a number outside a list of fields. -/
def strayBits (v : Nat) (fields : List (Nat × Nat)) : Bool := v != masked v fields

/-- Whether a live port holds a queue pair that reaches a chip for a class (R319). The pair of the lowest such port carries the
command; which it is shows outside the part alone. -/
def reachPeer (s : State) (k : Kick) (chip : Nat) : Bool :=
  !isThisChip s chip && s.hawk.qps.any fun q => q.chip == chip && q.cls == k.cls && portLive s (36 + q.port)

/-- Whether the permission table of the kicking cluster forbids the cluster that a range names (R304). [Log 64: DEDUCED] -/
def forbidden (s : State) (k : Kick) (ea len : Nat) : Bool :=
  let shut := fun (chip vc : Nat) => isThisChip s chip && match vcMap s k.cl k.part vc with
    | some p => !allowed s k.cl p
    | none => false
  match placeOf ea len with
  | .sram chip vc _ => shut chip vc
  | .ctl chip vc _ => shut chip vc
  | _ => false

/-- Whether the completion capability of a command of a cluster's engine passes its checks (R273, R304). -/
def fillOk (s : State) (c : Cmd) : Bool := doneOk c.adone && !(c.adone.tag && forbidden s c.kick c.adone.addr 8)

/-- The `RC` of a copy command (R273, R274, R304, R376). [Log 64: DEDUCED] -/
def copyRc (s : State) (c : Cmd) : Nat :=
  let k := c.kick
  let n := c.count
  let b := k.b
  let limit := strayBits c.ap0 [(0, 40)] || n == 0
  let src := grantsRange c.asrc c.asrc.addr n permR 1 && !forbidden s k c.asrc.addr n
  let dst := grantsRange b b.addr n permW 1 && !forbidden s k b.addr n
  let done := fillOk s c
  let rdma := strayBits c.ap1 [(0, 24), (64, 45)]
  let page := fun (v : Nat) => fld v 12 28
  match k.fn with
  | 0 => rcOf (ctlBad c true true || limit || c.ap1 != 0) (!src || !dst || !done) (!tilesOk s c) false
  | 1 =>
    let ok := match capBounds b with | some (lo, hi) => grantsRange b lo (hi - lo) permW 1 && !forbidden s k lo (hi - lo) | none => false
    rcOf (ctlBad c true false || c.ap1 != 0) (!ok || !done) (!tilesOk s c) false
  | 2 => rcOf (ctlBad c true true || limit || rdma) (!src || !done) (!tilesOk s c) (!reachPeer s k (fld c.ap1 0 18))
  | 3 => rcOf (ctlBad c true false || limit || rdma) (!dst || !done) (!tilesOk s c) (!reachPeer s k (fld c.ap1 0 18))
  | 4 =>
    let a := fld c.ap1 64 51
    rcOf (ctlBad c true true || c.ap0 != 128 || strayBits c.ap1 [(0, 18), (64, 51)] || fld a 21 20 != 0)
      (!grantsRange c.asrc c.asrc.addr 128 permR 1 || forbidden s k c.asrc.addr 128 || !done) (!tilesOk s c) (!reachPeer s k (fld c.ap1 0 18))
  | _ =>
    let a := page c.ap0
    let d := page c.ap1
    let used := fun (p : Nat) => s.retired.any fun r => r.1 == p || r.2 == p
    rcOf (ctlBad c true false || strayBits c.ap0 [(12, 28)] || strayBits c.ap1 [(12, 28), (76, 45)] || decide (devLimit ≤ 4096 * a)
        || decide (devLimit ≤ 4096 * d) || a == d || used a || used d || decide (1024 ≤ s.retired.length))
      (!done) (!tilesOk s c) false

/-- Blocks that one core's slot receives of a burst (R276). -/
def burstStep (pat : Nat) : Nat := let nc := fld pat 5 3 + 1; (32 + nc - 1) / nc

/-- Where block `b` of a burst goes: core and block after the burst's start block (R88). -/
def dealTo (pat b : Nat) : Nat × Nat :=
  let bpd := fld pat 8 3
  let nc := fld pat 5 3 + 1
  let deal := b / 2 ^ bpd
  (fld pat (16 + 3 * (deal % nc)) 3, deal / nc * 2 ^ bpd + b % 2 ^ bpd)

/-- The `RC` of a `dist.deal` under a pattern (R273, R274, R276). [Log 64: DEDUCED] -/
def dealRc (s : State) (c : Cmd) (pat : Nat) : Nat :=
  let n := fld c.ap0 0 16 + 1
  let top := fld c.ap0 24 8 + (n - 1) * burstStep pat + (List.range 32).foldl (fun m b => max m (dealTo pat b).2) 0
  rcOf
    (ctlBad c true true || strayBits c.ap0 [(0, 19), (24, 26)] || c.ap1 != 0 || isGlobal c.asrc.addr || c.asrc.addr % 2048 != 0
      || decide (255 < top))
    (!grantsRange c.asrc c.asrc.addr (2048 * n) permR 1 || !fillOk s c) (!tilesOk s c) false

/-- Bytes of an element of a collective (R277). -/
def collSize (c : Cmd) : Nat := if fld c.ap0 44 4 ≤ 1 then 4 else 8

/-- Members of a collective (R277). -/
def collMembers (c : Cmd) (tab : RegVal) : Nat := match capBounds tab with | some (_, t) => (t - c.ap1 % 2 ^ 72) / 8 | none => 0

/-- The `RC` of a collective; `tab` is the group table capability (R273, R274, R277). -/
def collRc (c : Cmd) (tab : RegVal) : Nat :=
  let n := collMembers c tab
  let op := fld c.ap0 40 4
  let ty := fld c.ap0 44 4
  let len := c.count * collSize c
  let out := if c.kick.fn = 3 then len * n else len
  rcOf
    (ctlBad c false true || fld c.ap0 60 4 != 0 || decide (3 < op) || decide (3 < ty) || (op == 3) != (ty == 3)
      || (usable tab && (n == 0 || decide (2304 < n) || decide (n ≤ fld c.ap0 48 12))))
    (!grantsRange c.asrc c.asrc.addr len permR 1 || !grantsRange c.kick.b c.kick.b.addr out permW 1
      || !grantsRange tab tab.addr (8 * n) permR 1 || !doneOk c.adone) false false

/-- The slot that a `HWID` names, if the part has it. -/
def slotOfHwid (h : Nat) : Option Nat :=
  let g := fld h 0 16
  if clusterOf g < 384 ∧ dieOf (clusterOf g) = fld h 16 2 then some g else none

/-- The `RC` of a context command (R273, R274). -/
def ctxRc (e : Nat) (c : Cmd) : Nat :=
  let stray := ctlBad c false true || c.ap1 != 0
  match c.kick.fn with
  | 0 =>
    let mine := match slotOfHwid c.ap0 with | some g => dieOf (clusterOf g) == dieOfEngine e | none => false
    rcOf (stray || strayBits c.ap0 [(0, 18)] || !mine) (!grantsRange c.kick.b c.kick.b.addr saveSize permW 1 || !doneOk c.adone) false false
  | 1 =>
    rcOf (stray || strayBits c.ap0 [(0, 18)] || (slotOfHwid c.ap0).isNone)
      (!grantsRange c.asrc c.asrc.addr saveSize permR 1 || !doneOk c.adone) false false
  | _ => rcOf (stray || strayBits c.ap0 [(0, 8)]) (!doneOk c.adone) false false

/-- The group table capability of a collective's record. -/
def groupCap (s : State) (k : Kick) (n : Nat) : RegVal := argCap s k n 0x30

/-- The `RC` of a command of an engine other than the gate. [Log 41, 64: DEDUCED] -/
def acceptRc (s : State) (e : Nat) (c : Cmd) (n : Nat) : Nat :=
  match idOf e with
  | 0 => copyRc s c
  | 1 => dealRc s c (look 0 (s.cluster (e / 2)).pats (fld c.ap0 16 3))
  | 2 => collRc c (groupCap s c.kick n)
  | _ => ctxRc e c

/-! ## Copy -/

/-- A command of an engine takes another form under its number. -/
def setCmd (s : State) (e : Nat) (c : Cmd) : State :=
  s.setEngine e { s.engine e with cmds := (s.engine e).cmds.map fun k => if k.seq = c.seq then c else k }

/-- Whether poisoned data that an engine reads fences the cocoon that its cluster lies in (R390). -/
def fences (s : State) (e : Nat) : Bool :=
  decide (e < 768) && match cocoonOf s (e / 2) with
    | some n => fld (look 0 (s.die (dieOf (e / 2))).cocoons n) 61 2 == 0
    | none => false

/-- The bytes of a source: every byte under a translation is read through it as soon as it is obtained (R385); the command waits for a walk,
or ends. A source that drains is empty once its last block is read (R85), and poisoned data fences an armed cocoon as it is read (R390). -/
def srcBytes (s : State) (e : Nat) (c : Cmd) (ea len : Nat) (f : List MByte → State → State) : State :=
  let n := c.got.length
  match readMost s c.kick.sender (piecesOf 64 (ea + n) (len - n)) with
  | (xs, r, s) =>
    if anyPsn xs && fences s e then poisonMet s e
    else
      match r with
      | .ok _ => f (c.got ++ xs) (drainSource s e c 0)
      | .miss va =>
        let left := len - n - xs.length
        askEngWalk (drainSource (setCmd s e { c with got := c.got ++ xs }) e c left) e (cmdWalk c.seq) va 1 0
      | .fail => failRange s e c 1 (piecesOf 64 ea len)

/-- Bytes in pieces of at most 64, in ascending order, for a destination (R275). -/
def piecesTo (ea : Nat) (xs : List MByte) : List (Nat × List MByte) :=
  (piecesOf 64 ea xs.length).map fun p => (p.1, (xs.drop (p.1 - ea)).take p.2)

/-- A command has all its writes done: it ends with its fill, or by poisoned source data (R139, R372). -/
def endWrites (s : State) (e : Nat) (c : Cmd) (f : Nat × Nat × Bool) : State :=
  if f.2.2 then failPoison s e c c.asrc.addr else finishCmd s e c f.1 f.2.1

/-- A command that has what it writes goes on to write it (R275). -/
def writeAndEnd (s : State) (e : Nat) (c : Cmd) (ea : Nat) (xs : List MByte) (status count : Nat) : State :=
  let f := (status, count, anyPsn xs)
  if xs.isEmpty then endWrites s e c f else setCmd s e { c with todo := piecesTo ea xs, fin := some f, got := [] }

/-- A command writes its next piece, and ends after the last one; a failed access ends it after the pieces before it (R275, R407). -/
def writeNextPiece (s : State) (e : Nat) (c : Cmd) (f : Nat × Nat × Bool) : State :=
  match c.todo with
  | [] => endWrites s e c f
  | p :: ps =>
    let at_ := [(p.1, p.2.length)]
    match missing s c.kick.sender 2 at_ with
    | some va => askEngWalk s e (cmdWalk c.seq) va 2 1 (numOf (p.2.drop (va - p.1)))
    | none =>
      match writePiece s c.kick.sender (0xFFF, idOf e) p.1 p.2 with
      | none => failRange s e c 2 at_
      | some s =>
        let left := (ps.map fun (q : Nat × List MByte) => q.2.length).sum
        if ps.isEmpty then endWrites s e c f
        else setCmd (if c.dtv then pendTile s c.kick.cl c.dtile 1 ((left + 63) / 64) else s) e { c with todo := ps }

/-- A block of 16 bytes moved with its line's key, enciphered for its new address, and with its words' poison; as of every write of an engine, its
tag is clear (R75, R93, R372, R376). The parity unit of the destination follows (R91). -/
def moveBlock (s : State) (a d : Nat) : State :=
  let s := [a / 8, a / 8 + 1, d / 8, d / 8 + 1].foldl settleWord s
  let key := look 0 s.lineKey (a / 64)
  let was := storedBlock s a
  let now := if key = 0 then was else Config.cipher key (d / 16) ((Config.cipher key (a / 16)).symm was)
  let mark := fun (t : Sparse (BitVec 8)) (i : Nat) => put 0 t (d / 8 + i) (if wordPoisoned s (a / 8 + i) then 0xFF else 0)
  settled <| putStored { s with
    dev := { s.dev with tags := put false s.dev.tags (d / 16) false, syn := mark (mark s.dev.syn 0) 1 }
    lineKey := put 0 s.lineKey (d / 64) key } 0 s.cur 0 d (bytesAt 0 16 now.toNat)

/-- Whether requests to a page performed before its hold are not complete (R376). -/
def pageBusy (s : State) (page : Nat) : Bool :=
  (s.stores.any fun d => d.line / 64 == page) || s.diffs.any fun d => d.pa / 4096 == page

/-- The slot number under which a page move of an engine invalidates translations. -/
def moveSlot (e : Nat) : Nat := noSlot + 1 + e

/-- The first part of `copy.remap` (R376): the page is copied and retired, and the intermediate page is invalidated everywhere; words
that read poisoned are reported (R372), and fence the cocoon that the engine lies in (R390). A table that this fills raises the replacement
request (R402). -/
def movePage (s : State) (e : Nat) (c : Cmd) : State :=
  let src := fld c.ap0 12 28
  let dst := fld c.ap1 12 28
  let s := (List.range 256).foldl (fun s i => moveBlock s (4096 * src + 16 * i) (4096 * dst + 16 * i)) s
  let bad := (List.range 512).any fun i => look 0 s.dev.syn (512 * dst + i) != 0
  let s := if bad then engFault s e c.kick c.seq 0x12 (4096 * src) 0 else s
  let table := s.retired ++ [(src, dst)]
  let rrq := s.hawk.rrq || decide (1024 ≤ table.length)
  let s := statusChanged s { s with retired := table, hawk := { s.hawk with rrq := rrq } }
  let ia := fld c.ap1 76 45 * 4096
  let s := s.parts.foldl (fun s kp =>
    invalidate s { slot := moveSlot e, part := kp.1, lo := ia, hi := ia + 4096, asid := none, s2 := true, since := s.nextId }) s
  if bad && fences s e then poisonMet s e else setCmd s e { c with moved := true }

/-- `copy.remap` (R376): once every translation is dropped and what was translated through it has drained, the command ends. -/
def remapPage (s : State) (e : Nat) (c : Cmd) : State := if !c.moved then movePage s e c else finishCmd s e c 0 4096

/-- A command of the copy engine runs (R275). -/
def runCopy (s : State) (e : Nat) (c : Cmd) : State :=
  let k := c.kick
  let n := c.count
  match k.fn with
  | 0 => srcBytes s e c c.asrc.addr n fun xs s => writeAndEnd s e c k.b.addr xs 0 n
  | 1 =>
    match capBounds k.b with
    | some (lo, hi) =>
      let xs := (List.range (hi - lo)).map fun i => (BitVec.ofNat 8 (fld c.ap0 (8 * ((lo + i) % 8)) 8), false)
      writeAndEnd s e c lo xs 0 ((hi - lo) % 2 ^ 40)
    | none => s
  | 2 => srcBytes s e c c.asrc.addr n fun xs s => if anyPsn xs then failPoison s e c c.asrc.addr else finishCmd s e c 0 n
  | 3 =>
    let xs := (bytesOf n (Config.peerData s.free)).map fun x => (x, false)
    writeAndEnd { s with free := s.free + 1 } e c k.b.addr xs 0 n
  | 4 => srcBytes s e c c.asrc.addr 128 fun xs s => if anyPsn xs then failPoison s e c c.asrc.addr else finishCmd s e c 0 128
  | _ => remapPage s e c

/-! ## Distributor -/

/-- The cores that a pattern deals to. -/
def dealCores (pat : Nat) : List Nat := ((List.range 32).map fun b => (dealTo pat b).1).eraseDups

/-- `dist.deal` (R88, R276); the pattern is the one taken as the command was accepted. Its headers are set when no block is poisoned. -/
def runDeal (s : State) (e : Nat) (c : Cmd) : State :=
  let n := fld c.ap0 0 16 + 1
  let pat := c.ap1
  let cl := e / 2
  let slot := fld pat 0 4
  srcBytes s e c c.asrc.addr (2048 * n) fun xs s =>
    let s := (List.range n).foldl (fun s i => (List.range 32).foldl (fun s b =>
      let to_ := dealTo pat b
      s.onCore (8 * cl + to_.1) fun k =>
        k.setBlock slot (fld c.ap0 24 8 + i * burstStep pat + to_.2) ((xs.drop (2048 * i + 64 * b)).take 64)) s) s
    if anyPsn xs then failPoison s e c c.asrc.addr
    else
      let h := makeHdr (fld c.asrc.addr 0 57) true (fld c.ap0 16 3) (fld c.ap0 32 8) (fld c.ap0 40 2) (fld c.ap0 42 8)
      let s := (dealCores pat).foldl (fun s k => s.onCore (8 * cl + k) fun k => { k with hdrs := put 0 k.hdrs slot h }) s
      finishCmd s e c 0 (32 * n)

/-- The pattern register that a `dist.cfg` writes (R87); none where `BPD` is above its limit. [Log 81: DESIGN CHOICE] -/
def patValue (b : RegVal) : Option Nat :=
  let v := masked b.bits.toNat [(16, 24), (8, 3), (5, 3), (0, 4)]
  if 5 < fld v 8 3 then none else some v

/-! ## Collectives -/

/-- The group table of a collective (R277): chip and die of each member. -/
def groupOf (s : State) (c : Cmd) (n : Nat) : Span (List (Nat × Nat)) × State :=
  match readSpan s c.kick.sender (c.ap1 % 2 ^ 72) (8 * n) with
  | (.ok xs, s) =>
    if anyPsn xs then (.fail, s)
    else
      let v := numOf xs
      (.ok ((List.range n).map fun i => (fld v (64 * i) 18, fld v (64 * i + 18) 2)), s)
  | (.miss va, s) => (.miss va, s)
  | (.fail, s) => (.fail, s)

/-- Members that the group table capability of a command spans. -/
def Cmd.members (c : Cmd) : Nat := collMembers c ⟨BitVec.ofNat 128 c.ap1, true, false⟩

/-- The command that the collective engine of a die runs. -/
def collHead (s : State) (die : Nat) : Option Cmd := (runningCmd s (768 + 5 * die)).filter (·.fin.isNone)

/-- Whether two members' commands agree (R277). [Log 43: DESIGN CHOICE] -/
def collAgree (c d : Cmd) : Bool := c.kick.fn == d.kick.fn && c.ap0 == d.ap0 && c.gen == d.gen

/-- One position combined in ascending member index (R278): the element, and whether it has no winner. -/
def combineAt (op ty : Nat) (xs : List Nat) : Nat × Bool :=
  let w := if ty ≤ 1 then 32 else 64
  let ints := xs.map (sext w)
  match op, ty with
  | 0, 0 => ((xs.drop 1).foldl (fun a x => (addF32 a x).1) (xs.headD 0), false)
  | 0, _ => (low w (ints.foldl (· + ·) 0), false)
  | 3, _ =>
    let best := (xs.drop 1).foldl (fun b x => betterKey b (fld x 0 32, fld x 32 32)) (priorKey (xs.headD 0))
    (keyPair best, best.isNone)
  | _, 0 => ((extremeF fp32 (op == 1) xs).1, false)
  | _, _ => (low w (extremeI (op == 1) 0 ints), false)

/-- Whether member `i` gives a contribution (R278): of a `bcast` the root alone does. -/
def gives (fn root i : Nat) : Bool := fn != 2 || i == root

/-- The contributions of the members in order: read by their engines on this part, free values from another part.
[Log 43: DESIGN CHOICE] -/
def contributions (s : State) (ms : List (Nat × Nat)) (fn root len : Nat) : Span (List (List MByte)) × State × Nat :=
  ms.zipIdx.foldl (fun acc mi =>
    let m := mi.1
    match acc with
    | (.ok l, s, die) =>
      if !gives fn root mi.2 then (.ok (l ++ [[]]), s, die)
      else if !isThisChip s m.1 then
        (.ok (l ++ [(bytesOf len (Config.peerData s.free)).map fun x => (x, false)]), { s with free := s.free + 1 }, die)
      else
        match collHead s m.2 with
        | none => (.fail, s, m.2)
        | some c =>
          match readSpan s c.kick.sender c.asrc.addr len with
          | (.ok xs, s) => (.ok (l ++ [xs]), s, die)
          | (.miss va, s) => (.miss va, s, m.2)
          | (.fail, s) => (.fail, s, m.2)
    | r => r) (.ok [], s, 0)

/-- What a collective delivers to member `i` (R278), where it delivers anything, and the status of the member's fill. -/
def delivered (fn op ty size count root i : Nat) (parts : List (List MByte)) : Option (List MByte) × Nat :=
  let el := fun (p : List MByte) (k : Nat) => numOf ((p.drop (size * k)).take size)
  let sum := (List.range count).map fun k => combineAt op ty (parts.map fun p => el p k)
  let bytes := sum.flatMap fun v => (bytesOf size v.1).map fun x => (x, false)
  let st := if sum.any (·.2) then 2 ^ 7 else 0
  match fn with
  | 0 => (some bytes, st)
  | 1 => (if i = root then some bytes else none, st)
  | 2 => (some (parts.getD root []), 0)
  | _ => (some parts.flatten, 0)

/-- The members on this part that have kicked the same collective: none while one of them has not. [Log 43: DESIGN CHOICE] -/
def gathered (s : State) (ms : List (Nat × Nat)) : Bool :=
  ms.all fun m => !isThisChip s m.1 ||
    match collHead s m.2 with
    | some c =>
      match groupOf s c c.members with
      | (.ok l, _) => l == ms
      | _ => false
    | none => false

/-- The dies of this part that take part in a collective. -/
def ownDies (s : State) (ms : List (Nat × Nat)) : List Nat := (ms.filterMap fun m => if isThisChip s m.1 then some m.2 else none).eraseDups

/-- A collective is combined (R278): the engine of every member on this part goes on to write its delivery and to make its fill. -/
def deliverAll (s : State) (ms : List (Nat × Nat)) (c : Cmd) (parts : List (List MByte)) : State :=
  let dies := ownDies s ms
  (List.range ms.length).foldl (fun s i =>
    let m := ms.getD i (0, 0)
    let e := 768 + 5 * m.2
    if !isThisChip s m.1 ∨ !dies.contains m.2 ∨ (ms.take i).contains m then s
    else
      match collHead s m.2 with
      | none => s
      | some d =>
        match delivered c.kick.fn (fld c.ap0 40 4) (fld c.ap0 44 4) (collSize c) c.count (fld c.ap0 48 12) i parts with
        | (some xs, st) => writeAndEnd s e d d.kick.b.addr xs st c.count
        | (none, st) => finishCmd s e d st c.count) s

/-- The member on this part, by die, whose engine read a poisoned contribution (R372, R407). -/
def poisonedBy (s : State) (ms : List (Nat × Nat)) (parts : List (List MByte)) : Option Nat :=
  ((ms.zip parts).find? fun mp => isThisChip s mp.1.1 && anyPsn mp.2).map (·.1.2)

/-- Whether traffic reaches the parts of the members (R316, R319): over a scale-up port inside the domain, or by a queue pair. -/
def membersReached (s : State) (c : Cmd) (ms : List (Nat × Nat)) : Bool :=
  ms.all fun m => isThisChip s m.1 || reachesChip s m.1 || reachPeer s c.kick m.1

/-- A collective runs when every member on this part has kicked it (R277, R278, R400). [Log 43: DESIGN CHOICE] -/
def runColl (s : State) (e : Nat) (c : Cmd) : State :=
  match groupOf s c c.members with
  | (.miss va, s) => askEngWalk s e (cmdWalk c.seq) va 1 0
  | (.fail, s) =>
    match readSpan s c.kick.sender (c.ap1 % 2 ^ 72) (8 * c.members) with
    | (.ok _, s) => failPoison s e c (c.ap1 % 2 ^ 72)
    | _ => failRange s e c 1 (piecesOf 64 (c.ap1 % 2 ^ 72) (8 * c.members))
  | (.ok ms, s) =>
    let dies := ownDies s ms
    match dies.find? fun d => (s.die d).excluded with
    | some d => failCmd s e c 0x51 c.kick.a.addr d
    | none =>
      if !gathered s ms || !membersReached s c ms then s
      else
        let root := ms.getD (fld c.ap0 48 12) (0, 0)
        let lead := if isThisChip s root.1 then (collHead s root.2).getD c else c
        match (List.range ms.length).find? fun i =>
            let m := ms.getD i (0, 0)
            isThisChip s m.1 && !((collHead s m.2).all fun d => collAgree d lead) with
        | some i => dies.foldl (fun s d => match collHead s d with
            | some k => failCmd s (768 + 5 * d) k 0x13 k.kick.a.addr i
            | none => s) s
        | none =>
          match contributions s ms c.kick.fn (fld c.ap0 48 12) (c.count * collSize c) with
          | (.ok parts, s, _) =>
            match poisonedBy s ms parts with
            | some d => (match collHead s d with | some k => failPoison s (768 + 5 * d) k k.asrc.addr | none => s)
            | none => deliverAll s ms c parts
          | (.miss va, s, d) => askEngWalk s (768 + 5 * d) (cmdWalk ((collHead s d).getD c).seq) va 1 0
          | (.fail, s, d) => match collHead s d with
            | some k => failRange s (768 + 5 * d) k 1 (piecesOf 64 k.asrc.addr (c.count * collSize c))
            | none => s

/-! ## Context engine -/

/-- A piece of a save area written through B: a granule with its tag where B is aligned and holds SC (R75). Each 64-byte line that it meets
in a guarded page stands in the list with the weight version (R79). [Log 79: DESIGN CHOICE] -/
def savePiece (s : State) (b : Sender) (e : Nat) (cap : RegVal) (p : Nat × List MByte × Bool) : Option (State × List (Nat × Nat)) :=
  let ea := cap.addr + p.1
  let done := (piecesOf 64 ea p.2.1.length).foldl (fun (acc : Option (State × List (Nat × Nat))) q => acc.bind fun sl =>
    (writeOnly sl.1 b (0xFFF, idOf e) q.1 ((p.2.1.drop (q.1 - ea)).take q.2)).map fun r =>
      (r.1, sl.2 ++ (r.2.toList.map fun k => (q.1 / 64, k)))) (some (s, []))
  done.map fun sl =>
    if !p.2.2 || !hasPerm cap permSC || ea % 16 != 0 then sl
    else
      let s := sl.1
      match locateFor s b ea 16 2 with
      | some (.at_ (.sram q o) _) => ({ s with sram := { s.sram with tags := put false s.sram.tags (sramKey q o / 16) true } }, sl.2)
      | some (.at_ (.dev pa) _) => ({ s with dev := { s.dev with tags := put false s.dev.tags (forwardPa s pa / 16) true } }, sl.2)
      | _ => sl

/-- The pieces of a save area written in order; each guarded line counts once (R79). -/
def saveAll (s : State) (b : Sender) (e : Nat) (cap : RegVal) (ps : List (Nat × List MByte × Bool)) : Option State :=
  let r := ps.foldl (fun (acc : Option (State × List (Nat × Nat))) p => acc.bind fun sl =>
    (savePiece sl.1 b e cap p).map fun r => (r.1, sl.2 ++ r.2)) (some (s, []))
  r.map fun sl => countGuarded sl.1 b.cl b.part (sl.2.eraseDups.map (·.2))

/-- The key under which the open output values of a save area are kept. -/
def areaKey (s : State) (b : Sender) (ea : Nat) : Nat :=
  match locateFor s b ea 1 1 with
  | some (.at_ (.sram q o) _) => (2 ^ 52 + sramKey q o) / 4096
  | some (.at_ (.dev pa) _) => pa / 4096
  | _ => 0

/-- `ctx.save` (R279, R365): a write that fails aborts it. [Log 42: DEDUCED] -/
def runSave (s : State) (e : Nat) (c : Cmd) (g : Nat) : State :=
  let b := c.kick.sender
  let base := c.kick.b.addr
  let pieces := savePieces s g
  let absent := fun (p : Nat × List MByte × Bool) =>
    (missing s b 2 (piecesOf 64 (base + p.1) p.2.1.length)).map fun va => (va, numOf (p.2.1.drop (va - base - p.1)))
  match pieces.findSome? absent with
  | some (va, v) => askEngWalk s e (cmdWalk c.seq) va 2 1 v
  | none =>
    match saveAll s b e c.kick.b pieces with
    | none => failCmd s e c 0x30 base (hwid g)
    | some s =>
      let key := areaKey s b base
      let s := (boundPorts s g).foldl (fun s p =>
        { s with openVals := ins s.openVals (8 * key + (p - 48)) (((s.slot g).port p).openV.drop 102, ((s.slot g).port p).block) }) s
      finishCmd s e c 0 (pieces.foldl (fun n p => n + p.2.1.length) 0)

/-- Whether the resources that a mask names are free on the core of slot `g`, or held by it. -/
def maskFree (s : State) (g mask : Nat) : Bool :=
  (List.range 24).all fun n => !bitAt mask n || match find (s.core (coreOf g)).holder n with | some h => h == g | none => true

/-- `ctx.restore` (R279): it waits until the target slot is Idle, for it serves the thread that the slot runs next, and for resources
that another thread holds. Tags are read with LC alone (R75). [Log 42: DEDUCED; 79: DESIGN CHOICE] -/
def runRestore (s : State) (e : Nat) (c : Cmd) (g : Nat) : State :=
  if (s.slot g).status ≠ .idle then s
  else srcBytes s e c c.asrc.addr saveSize fun xs s =>
    if anyPsn xs then failPoison s e c c.asrc.addr
    else
      let rd := fun (o n : Nat) => ((xs.drop o).take n).map (·.1)
      if !maskFree s g (ofBytes (rd 0 8)) then s
      else
        let b := c.kick.sender
        finishCmd (restoreArea s g rd (fun o => hasPerm c.asrc permLC && tagSeen s b (c.asrc.addr + o)) (areaKey s b c.asrc.addr)) e c 0 saveSize

/-- `ctx.scrub` of a partition (R279): the SRAM, operand memory and record pool of its clusters. -/
def scrubCluster (s : State) (cl : Nat) : State :=
  let s := { s with sram := s.sram.scrub (sramKey cl 0) (2 ^ 21) }
  let s := (List.range 8).foldl (fun s i => s.onCore (8 * cl + i) fun k => { k with opmem := [], opPsn := [] }) s
  s.onCluster cl fun c => { c with usedRecs := [], run := [] }

/-- `ctx.scrub`: the bytes zeroed are the slices and the operand memories. -/
def runScrub (s : State) (e : Nat) (c : Cmd) : State :=
  let cls := (List.range 384).filter fun cl => owned s cl && ownerOf s cl == fld c.ap0 0 8
  finishCmd (cls.foldl scrubCluster s) e c 0 (cls.length * (2 ^ 21 + 8 * 2 ^ 18) % 2 ^ 40)

/-- A command of the context engine runs. -/
def runCtx (s : State) (e : Nat) (c : Cmd) : State :=
  match c.kick.fn, slotOfHwid c.ap0 with
  | 0, some g => runSave s e c g
  | 1, some g => runRestore s e c g
  | 2, _ => runScrub s e c
  | _, _ => s

/-- The running command of an engine, once its tiles have taken it on: it reads what it needs, or writes its next piece.
[Log 20: DESIGN CHOICE] -/
def runCmd (s : State) (e : Nat) (c : Cmd) : State :=
  match c.fin with
  | some f => writeNextPiece s e c f
  | none =>
    match idOf e with
    | 0 => runCopy s e c
    | 1 => runDeal s e c
    | 2 => runColl s e c
    | _ => runCtx s e c

/-- The ranges that a command accesses. -/
def Cmd.ranges (c : Cmd) (e : Nat) : List (Nat × Nat) :=
  let b := c.kick.b.addr
  let n := c.count
  (if c.adone.tag then [(c.adone.addr, 8)] else []) ++
    match idOf e, c.kick.fn with
    | 0, 0 => [(c.asrc.addr, n), (b, n)]
    | 0, 1 => (match capBounds c.kick.b with | some (lo, hi) => [(lo, hi - lo)] | none => [])
    | 0, 2 => [(c.asrc.addr, n)]
    | 0, 3 => [(b, n)]
    | 0, 4 => [(c.asrc.addr, 128)]
    | 2, 3 => [(c.ap1 % 2 ^ 72, 8 * c.members), (c.asrc.addr, n * collSize c), (b, n * collSize c * c.members)]
    | 2, _ => [(c.ap1 % 2 ^ 72, 8 * c.members), (c.asrc.addr, n * collSize c), (b, n * collSize c)]
    | 3, 0 => [(b, saveSize)]
    | 3, 1 => [(c.asrc.addr, saveSize)]
    | _, _ => []

/-- Whether a command waits for something besides its tiles and its walks: the other members of a collective (R277), the slot and the
resources of a restore (R279), requests to the pages of a remap and the invalidation that follows (R376), a cluster whose requests are
held (R312, R313), or a rehash (R382). -/
def cmdWaits (s : State) (e : Nat) (c : Cmd) : Bool :=
  planeHeld s s.nextId || (c.ranges e).any (rangeHeld s c.kick.sender) ||
    match idOf e, c.kick.fn with
    | 0, 5 =>
      if c.moved then s.invals.any fun v => v.slot == moveSlot e
      else pageBusy s (fld c.ap0 12 28) || pageBusy s (fld c.ap1 12 28)
    | 2, _ => runCmd s e c == s
    | 3, 1 => runCmd s e c == s
    | _, _ => false

/-- Whether an engine has a command to run (R254): its tiles have taken it on, nothing of it is being walked, and it waits for nothing
else. -/
def canRun (s : State) (e : Nat) : Bool :=
  match runningCmd s e with
  | some c => c.entered && !engWalking s e (cmdWalk c.seq) && !cmdWaits s e c
  | none => false

/-- ENGINE_COMMAND_COMPLETE (R139). -/
def execEngineCommandComplete (e : Nat) (s : State) : Host.Outcome State Fault Refusal :=
  match runningCmd s e with
  | some c => if canRun s e then .next (runCmd s e c) else .next s
  | none => .next s

/-- ENGINE_ACCESS_FAILED (R407): an access of the running command fails with a cause. [Log 59: DEDUCED] -/
def execEngineAccessFailed (e cause : Nat) (s : State) : Host.Outcome State Fault Refusal :=
  match runningCmd s e with
  | some c => if c.entered then .next (failCmd s e c 0x11 c.kick.a.addr (cause % 2 ^ 8)) else .next s
  | none => .next s

end Sys2Proof.Machine
end

