-- ==== Sys2Proof/Machine/Special.lean ====
section
/-! DEFINITION. The special functions (11_insn_vector R196, R200; 15_engines R283). A function is evaluated in fixed point with 1,024
fraction bits and a bound on its error; the bits on which both ends of the enclosure agree give the truncated value, and
`Config.specialFloor` gives it where they do not agree. -/

namespace Sys2Proof.Machine

/-- Fraction bits. -/
def fxP : Nat := 1024

/-- One. -/
def fxOne : Int := (2 ^ fxP : Nat)

/-- A fixed-point product. -/
def fxMul (a b : Int) : Int := a * b / fxOne

/-- A fixed-point quotient. -/
def fxDiv (a b : Int) : Int := a * fxOne / b

/-- An exact dyadic value in fixed point, cut below. -/
def fxOf (neg : Bool) (m : Nat) (e : Int) : Int :=
  let k := e + fxP
  let v : Int := if 0 ≤ k then (m * 2 ^ k.toNat : Nat) else (m / 2 ^ (-k).toNat : Nat)
  if neg then -v else v

/-- Σ z^(2n+1) ÷ (2n+1), with sign `sg` ^ n; `p` is the power reached and `z2` the square. -/
def oddSeries (z2 sg : Int) : Nat → Nat → Int → Int
  | 0, _, _ => 0
  | fuel + 1, n, p => p / (2 * n + 1) + oddSeries z2 sg fuel (n + 1) (sg * fxMul p z2)

/-- artanh z = Σ z^(2n+1) ÷ (2n+1) for 0 ≤ z ≤ 1/3. -/
def fxAtanh (z : Int) : Int := oddSeries (fxMul z z) 1 330 0 z

/-- arctan (1 ÷ k) for k ≥ 5. -/
def fxAtanInv (k : Nat) : Int := let z := fxOne / k; oddSeries (fxMul z z) (-1) 230 0 z

/-- ln 2. -/
def fxLn2 : Int := 2 * fxAtanh (fxOne / 3)

/-- π, by Machin's formula. -/
def fxPi : Int := 16 * fxAtanInv 5 - 4 * fxAtanInv 239

/-- √(2π). -/
def fxSqrt2Pi : Int := (isqrt ((2 * fxPi * fxOne).toNat) : Nat)

/-- Σ r^n ÷ n!. -/
def expSeries (r : Int) : Nat → Nat → Int → Int
  | 0, _, _ => 0
  | fuel + 1, n, t => t + expSeries r fuel (n + 1) (fxMul t r / (n + 1))

/-- Squares `n` times. -/
def squares : Nat → Int → Int
  | 0, x => x
  | n + 1, x => squares n (fxMul x x)

/-- e^r for 0 ≤ r < 1. -/
def fxExpUnit (r : Int) : Int := squares 8 (expSeries (r / 256) 110 0 fxOne)

/-- e^x as t × 2^n. -/
def fxExp (x : Int) : Int × Int := let n := x / fxLn2; (fxExpUnit (x - n * fxLn2), n)

/-- t × 2^n in fixed point. -/
def fxScale (t n : Int) : Int := if 0 ≤ n then t * (2 ^ n.toNat : Nat) else t / (2 ^ (-n).toNat : Nat)

/-- A value enclosed by (`a` ± `err`) × 2^e, which is no dyadic number, cut to 100 significant bits; `fn` and `arg` name it where the
enclosure does not settle them. -/
def enclosed (fn arg : Nat) (neg : Bool) (a err : Int) (e : Int) : Num :=
  let sh := Nat.log2 a.toNat - 99
  let q : Int := (2 ^ sh : Nat)
  if (a - err) / q = (a + err) / q ∧ 0 < (a - err) / q then .fin neg ((a - err) / q).toNat (e + sh) true
  else .fin neg (Config.specialFloor fn arg (e + sh)) (e + sh) true

/-- A value above 0 and below every number that a format holds. -/
def tinyNum (neg : Bool) : Num := .fin neg 1 (-4096) true

/-- The value just below m × 2^e. -/
def justBelow (neg : Bool) (m : Nat) (e : Int) : Num := .fin neg (m * 2 ^ 64 - 1) (e - 64) true

/-- Error bound of an exponential, in units. -/
def fxErr : Int := (2 ^ 40 : Nat)

/-- Whether a magnitude is at least 2^k. [Log 15: DESIGN CHOICE] -/
def atLeast (m : Nat) (e : Int) (k : Nat) : Bool := leDyadic (2 ^ k) 0 m e

/-- e^x of a finite value (R200, R283). -/
def expNum (neg : Bool) (m : Nat) (e : Int) : Num :=
  if m = 0 then .fin false 1 0 false
  else if atLeast m e 12 then (if neg then tinyNum false else .fin false 1 8192 true)
  else
    let (t, n) := fxExp (fxOf neg m e)
    enclosed 7 m false t fxErr (n - fxP)

/-- 2^x (R196). [Log 15: DESIGN CHOICE] -/
def exp2Num (a : Num) : Num × Nat :=
  match a with
  | .nan s => (.nan false, if s then flNV else 0)
  | .inf neg => (if neg then .zero false else .inf false, 0)
  | .fin neg m e _ =>
    if m = 0 then (.fin false 1 0 false, 0)
    else if atLeast m e 12 then (if neg then tinyNum false else .fin false 1 8192 false, 0)
    else
      let x := fxOf neg m e
      let n := x / fxOne
      let f := x % fxOne
      (if f = 0 then .fin false 1 n false else enclosed 0 m false (fxExpUnit (fxMul f fxLn2)) fxErr (n - fxP), 0)

/-- log2 x (R196). [Log 15: DESIGN CHOICE] -/
def log2Num (a : Num) : Num × Nat :=
  match a with
  | .nan s => (.nan false, if s then flNV else 0)
  | .inf neg => if neg then (.nan false, flNV) else (.inf false, 0)
  | .fin neg m e _ =>
    if m = 0 then (.inf true, flDZ)
    else if neg then (.nan false, flNV)
    else
      let k := Nat.log2 m
      let top : Int := k + e
      if m = 2 ^ k then (if top = 0 then .zero false else Num.ofInt top, 0)
      else
        let y := fxOf false m (-(k : Int))
        let v := top * fxOne + fxDiv (2 * fxAtanh (fxDiv (y - fxOne) (y + fxOne))) fxLn2
        (enclosed 1 m (decide (v < 0)) (if v < 0 then -v else v) fxErr (-(fxP : Int)), 0)

/-- 1 ÷ x (R196). [Log 15: DESIGN CHOICE] -/
def rcpNum (a : Num) : Num × Nat := divNum (.fin false 1 0 false) a

/-- tanh x (R196). [Log 15: DESIGN CHOICE] -/
def tanhNum (a : Num) : Num × Nat :=
  match a with
  | .nan s => (.nan false, if s then flNV else 0)
  | .inf neg => (.fin neg 1 0 false, 0)
  | .fin neg m e _ =>
    if m = 0 then (.zero neg, 0)
    else if atLeast m e 6 then (justBelow neg 1 0, 0)
    else
      let (t, n) := fxExp (2 * fxOf false m e)
      let v := fxScale t n
      let r := fxDiv (v - fxOne) (v + fxOne)
      (enclosed 4 m neg r fxErr (-(fxP : Int)), 0)

/-- 1 ÷ (1 + e^−x) (R196). [Log 15: DESIGN CHOICE] -/
def sigNum (a : Num) : Num × Nat :=
  match a with
  | .nan s => (.nan false, if s then flNV else 0)
  | .inf neg => (if neg then .zero false else .fin false 1 0 false, 0)
  | .fin neg m e _ =>
    if m = 0 then (.fin false 1 (-1) false, 0)
    else if atLeast m e 9 then (if neg then tinyNum false else justBelow false 1 0, 0)
    else
      let (t, n) := fxExp (fxOf true m e)
      let v := fxScale t n
      (enclosed 5 m false (if neg then fxDiv v (fxOne + v) else fxDiv fxOne (fxOne + v)) fxErr (-(fxP : Int)), 0)

/-- Σ x^(2n+1) ÷ (1 · 3 · 5 … (2n+1)) for x ≥ 0. -/
def gaussSeries (x2 : Int) : Nat → Nat → Int → Int
  | 0, _, _ => 0
  | fuel + 1, n, t => t + gaussSeries x2 fuel (n + 1) (fxMul t x2 / (2 * n + 3))

/-- x × Φ(x) (R196): Φ(x) = 1/2 + φ(x) Σ x^(2n+1) ÷ (1 · 3 … (2n+1)). [Log 15: DESIGN CHOICE] -/
def geluNum (a : Num) : Num × Nat :=
  match a with
  | .nan s => (.nan false, if s then flNV else 0)
  | .inf neg => (if neg then .zero true else .inf false, 0)
  | .fin neg m e _ =>
    if m = 0 then (.zero neg, 0)
    else if leDyadic 20 0 m e then (if neg then tinyNum true else justBelow false m e, 0)
    else
      let x := fxOf false m e
      let (t, n) := fxExp (-(fxMul x x / 2))
      let phi := fxDiv (fxScale t n) fxSqrt2Pi
      let half := fxMul phi (gaussSeries (fxMul x x) 1200 0 x)
      let p := if neg then fxOne / 2 - half else fxOne / 2 + half
      (enclosed 6 m neg (fxMul x p) (2 ^ 420 : Nat) (-(fxP : Int)), 0)

end Sys2Proof.Machine
end

