-- ==== Sys2Proof/Machine/Swallowtail.lean ====
section
/-! DEFINITION. The Swallowtail chain: `gate.run`, dispatch, products and combine, and the acceptance of every kick (15_engines
R273, R281-R285, R407; 28_faults_containment R400). -/

namespace Sys2Proof.Machine

/-! ## The configuration block (R281) -/

/-- Tokens T. -/
def cfgT (n : Nat) : Nat := fld n (8 * 0x80) 12 + 1
/-- Experts E. -/
def cfgE (n : Nat) : Nat := fld n (8 * 0x80 + 16) 10 + 1
/-- Choices k. -/
def cfgK (n : Nat) : Nat := fld n (8 * 0x80 + 28) 3 + 1
/-- Places KS. -/
def cfgKS (n : Nat) : Nat := fld n (8 * 0x80 + 32) 3 + 1
/-- Generation. -/
def cfgGen (n : Nat) : Nat := fld n (8 * 0x80 + 48) 16
/-- `VB` -/
def cfgVB (n : Nat) : Nat := fld n (8 * 0x88) 16
/-- `RB` -/
def cfgRB (n : Nat) : Nat := fld n (8 * 0x88 + 16) 16
/-- The product's block. -/
def cfgBlk (n : Nat) : Nat := fld n (8 * 0x90) 24
/-- The product's priority. -/
def cfgPrio (n : Nat) : Nat := fld n (8 * 0x90 + 24) 4
/-- Stride of a logit row. -/
def logStride (n : Nat) : Nat := (4 * cfgE n + 63) / 64 * 64
/-- Bytes of a bitmap. -/
def bitmapBytes (n : Nat) : Nat := 8 * ((cfgT n + 63) / 64)
/-- Bytes of a send list. -/
def sendListBytes (n : Nat) : Nat := 8 * (1 + cfgT n * cfgKS n)

/-- Offset of the vectors of a receive buffer. -/
def Expert.vecOfs (x : Expert) : Nat := 64 * ((x.cap + 1) / 2)
/-- Offset of the results of a receive buffer. -/
def Expert.resOfs (x : Expert) (n : Nat) : Nat := x.vecOfs + cfgVB n * x.cap
/-- Bytes of a receive buffer. -/
def Expert.size (x : Expert) (n : Nat) : Nat := x.resOfs n + cfgRB n * x.cap

/-- Whether the block itself has a value outside its limits; `blocks` is the block count of the kicking launch (R273, R281). -/
def cfgBad (n blocks : Nat) : Bool :=
  fld n (8 * 0x80 + 12) 4 != 0 || fld n (8 * 0x80 + 26) 2 != 0 || bitAt n (8 * 0x80 + 31) || fld n (8 * 0x80 + 35) 13 != 0
    || decide (cfgK n < cfgKS n) || cfgVB n % 64 != 0 || cfgRB n % 64 != 0 || fld n (8 * 0x88 + 32) 32 != 0
    || fld n (8 * 0x90 + 28) 36 != 0 || fld n (8 * 0x98) (8 * 0x68) != 0 || decide (blocks ≤ cfgBlk n)

/-- Entry `e` of an expert table read as a number. -/
def expertOf (s : State) (b : Sender) (base tab e : Nat) : Expert :=
  let o := 256 * e
  { buf := ⟨BitVec.ofNat 128 (fld tab o 128), tagSeen s b (base + 32 * e), false⟩, home := fld tab (o + 128) 10
    cap := fld tab (o + 144) 16, p1 := fld tab (o + 192) 64 }

/-- Whether an expert entry has a nonzero `0` field or a capacity of 0 (R281). -/
def expertBad (tab e : Nat) : Bool := fld tab (256 * e + 138) 6 != 0 || fld tab (256 * e + 160) 32 != 0 || fld tab (256 * e + 144) 16 == 0

/-- Whether the capabilities of a block, but for the expert table, grant their ranges (R273). -/
def cfgCapsOk (n : Nat) (caps : List RegVal) (exps : List Expert) : Bool :=
  let c := fun (i : Nat) => caps.getD i RegVal.zero
  let ok := fun (i len perm : Nat) => grantsRange (c i) (c i).addr len perm 1
  ok 0 (cfgT n * logStride n) permR && ok 1 (cfgT n * cfgVB n) permR && ok 3 (cfgT n * cfgRB n) permW
    && ok 4 (cfgE n * bitmapBytes n) permW && ok 5 (8 * (cfgE n + 1)) permW && ok 6 (4 * sendListBytes n) permW
    && (c 7).tag && doneOk (c 7) && exps.all fun x => grantsRange x.buf x.buf.addr (x.size n) (permR ||| permW) 1

/-- What the acceptance of a kick comes to. -/
inductive Accept where
  | miss (va : Nat)
  | rc (n : Nat)
  | poisoned
  | layer (l : Layer)
  | cmd (c : Cmd)

/-- `gate.run` at acceptance (R273, R281). [Log 64: DEDUCED] -/
def acceptGate (s : State) (k : Kick) (seq : Nat) : Accept × State :=
  match readArg s k 256 with
  | (.miss va, s) => (.miss va, s)
  | (.fail, s) => (.rc 2, s)
  | (.ok n, s) =>
    let blocks := match s.launch k.lcl k.lid with | some l => l.blocks | none => 0
    let caps := (List.range 8).map fun i => argCap s k n (16 * i)
    let gexp := caps.getD 2 RegVal.zero
    if cfgBad n blocks then (.rc 1, s)
    else if !grantsRange gexp gexp.addr (32 * cfgE n) (permR ||| permLC) 16 then (.rc 2, s)
    else
      match readSpan s k.sender gexp.addr (32 * cfgE n) with
      | (.miss va, s) => (.miss va, s)
      | (.fail, s) => (.rc 2, s)
      | (.ok xs, s) =>
        let tab := numOf xs
        let exps := (List.range (cfgE n)).map (expertOf s k.sender gexp.addr tab)
        if anyPsn xs then (.rc 2, s)
        else if (List.range (cfgE n)).any (expertBad tab) then (.rc 1, s)
        else if !cfgCapsOk n caps exps then (.rc 2, s)
        else
          let c : Cmd :=
            { kick := { k with num := cmdWalk seq }, seq := seq, asrc := RegVal.zero, adone := caps.getD 7 RegVal.zero, actl := 0
              ap0 := 0, ap1 := 0, entered := true, moved := false, todo := [], fin := none, got := [] }
          (.layer { cmd := c, cfg := n, done := caps.getD 7 RegVal.zero, caps := caps, exps := exps, stage := 0, placed := [], counts := []
                    lost := [], ops := 0, left := 0, drain := [], failed := false }, s)

/-! ## Accepting a kick (R254, R255, R273) -/

/-- What an engine other than the gate makes of a kick: the pattern in force is kept with a `dist.deal`. -/
def acceptCmd (s : State) (e : Nat) (k : Kick) (seq : Nat) : Accept × State :=
  if idOf e = 1 ∧ k.fn = 1 then
    match patValue k.b with
    | some v =>
      let c : Cmd :=
        { kick := k, seq := seq, asrc := RegVal.zero, adone := RegVal.zero, actl := 0, ap0 := 0, ap1 := v, entered := true, moved := false
          todo := [], fin := none, got := [] }
      (.cmd c, s)
    | none => (.rc 1, s)
  else
    match readArg s k 64 with
    | (.miss va, s) => (.miss va, s)
    | (.fail, s) => (if argPoisoned s k then .poisoned else .rc 2, s)
    | (.ok n, s) =>
      let c := recordCmd s k n seq
      let rc := acceptRc s e c n
      if rc ≠ 0 then (.rc rc, s)
      else (.cmd (if idOf e = 1 then { c with ap1 := look 0 (s.cluster (e / 2)).pats (fld c.ap0 16 3) } else c), s)

/-- The oldest kick leaves the queue, with the reply of its number. [Log 40: DEDUCED] -/
def takeKick (s : State) (e : Nat) (k : Kick) (rc : Nat) : State :=
  let x := s.engine e
  let seq := x.seq % 2 ^ 32
  let s := s.setEngine e { x with kicks := x.kicks.drop 1, seq := x.seq + 1 }
  let s := { s with walks := s.walks.filter fun w => !(w.isEng && w.owner == e && w.ofs == 1) }
  let s := replyKick s k (seq * 2 ^ 16 + rc)
  if rc = 0 then s else engFault s e k seq rc k.a.addr 0

/-- Whether an engine can look at its oldest kick: room for a command, nothing of an acceptance is being walked, and the argument record
lies in no cluster where requests are held (R254, R273, R312). -/
def canAccept (s : State) (e : Nat) : Bool :=
  let x := s.engine e
  match x.kicks with
  | k :: _ => k.fn == 0x10 || (decide (x.cmds.length + x.layers.length < 32) && !engWalking s e 1
      && !rangeHeld s k.sender (k.a.addr, if idOf e = 4 then 256 else 64))
  | [] => false

/-- ENGINE_KICK_ACCEPT (R254, R273). -/
def execEngineKickAccept (e : Nat) (s : State) : Host.Outcome State Fault Refusal :=
  let x := s.engine e
  match (if canAccept s e then x.kicks.head? else none) with
  | none => .next s
  | some k =>
    if k.fn = 0x10 then .next (replyKick (s.setEngine e { x with kicks := x.kicks.drop 1 }) k (statReply s k.cl (idOf e)))
    else
      let r := if idOf e = 4 then acceptGate s k (x.seq % 2 ^ 32) else acceptCmd s e k (x.seq % 2 ^ 32)
      .next <| match r with
        | (.miss va, s) => askEngWalk s e 1 va 1 0
        | (.rc n, s) => takeKick s e k n
        | (.poisoned, s) => poisonMet (takeKick s e k 2) e
        | (.layer l, s) =>
          let s := takeKick s e k 0
          s.setEngine e { s.engine e with layers := (s.engine e).layers ++ [l] }
        | (.cmd c, s) =>
          let s := takeKick s e k 0
          if idOf e = 1 ∧ k.fn = 1 then
            let n := fld k.a.bits.toNat 0 3
            (s.onCluster (e / 2) fun t => { t with pats := put 0 t.pats n c.ap1 }).setEngine e
              { s.engine e with done := (s.engine e).done + 1 }
          else enterAll (s.setEngine e { s.engine e with cmds := (s.engine e).cmds ++ [c] }) e

/-! ## The stages of a layer -/

/-- The gate engine of a die. [Log 4: DESIGN CHOICE] -/
def gateOf (die : Nat) : Nat := 768 + 5 * die + 2

/-- The layer that a gate engine runs: the oldest, for a gate engine runs its layers one at a time (R281).
[Log 40: DEDUCED] -/
def topLayer (s : State) (die : Nat) : Option Layer := (s.engine (gateOf die)).layers.head?

/-- Replaces a layer. -/
def setLayer (s : State) (die : Nat) (l : Layer) : State :=
  let x := s.engine (gateOf die)
  s.setEngine (gateOf die) { x with layers := x.layers.map fun k => if k.cmd.seq = l.cmd.seq then l else k }

/-- Counts a stage that has finished, of engine `id` (R256). -/
def countStage (s : State) (die id : Nat) : State :=
  let e := 768 + 5 * die + (id - 2)
  s.setEngine e { s.engine e with done := (s.engine e).done + 1 }

/-- An access of a layer fails: reported under the gate engine, whose command the layer is, and the layer will end faulted (R400,
R407). The stage that it was in is over (R256). [Log 64: DEDUCED] -/
def failLayer (s : State) (die : Nat) (l : Layer) (f : Nat × Nat × Nat) : State :=
  let s := setLayer (engFault s (gateOf die) l.cmd.kick l.cmd.seq f.2.1 f.1 f.2.2) die { l with failed := true }
  if l.stage = 1 then countStage s die 5 else if l.stage = 3 then countStage s die 6 else s

/-- The ranked choices of a row of logits (R282): expert and value. -/
def rankChoices (row : List Nat) : Nat → List (Nat × Nat)
  | 0 => []
  | n + 1 =>
    let best := row.zipIdx.foldl (fun (b : Option (Nat × Nat)) vi =>
      if (decodeFloat fp32 vi.1).isNaN then b
      else
        match b with
        | none => some (vi.2, vi.1)
        | some x => if ltNum (decodeFloat fp32 x.2) (decodeFloat fp32 vi.1) then some (vi.2, vi.1) else some x) none
    match best with
    | none => []
    | some x => x :: rankChoices (row.set x.1 0x7FC00000) n

/-- A factor a_j (R283). -/
def gateFactor (v first : Nat) : Nat :=
  if v = first then 0x3F800000
  else
    match addNum 0 (decodeFloat fp32 v) (decodeFloat fp32 first).negate with
    | (.fin neg m e _, _) => (arith fp32 0 false (expNum neg m e, 0)).1
    | _ => 0

/-- The weights of a token's placed choices, from their values in ascending rank (R283). -/
def gateWeights (vs : List Nat) : List Nat :=
  let as_ := vs.map fun v => gateFactor v (vs.headD 0)
  let sum := (as_.drop 1).foldl (fun a x => (addF32 a x).1) (as_.headD 0)
  as_.map fun a => (arith fp32 0 false (divNum (decodeFloat fp32 a) (decodeFloat fp32 sum))).1

/-- Places the tokens (R283): the placements (token, expert, rank, slot, weight), the counts and the places that each token misses. -/
def placeTokens (n : Nat) (exps : List Expert) (rows : List (List Nat)) : List (Nat × Nat × Nat × Nat × Nat) × List Nat × List Nat :=
  rows.zipIdx.foldl (fun acc rt =>
    let (placed, counts, dropped) := acc
    let tried := (rankChoices rt.1 (cfgK n)).zipIdx.foldl (fun (a : List (Nat × Nat × Nat × Nat) × List Nat) cj =>
      let e := cj.1.1
      let c := a.2.getD e 0
      if a.1.length < cfgKS n ∧ c < (exps.map Expert.cap).getD e 0 then (a.1 ++ [(e, cj.2, c, cj.1.2)], a.2.set e (c + 1)) else a)
      ([], counts)
    let ws := gateWeights (tried.1.map fun p => p.2.2.2)
    (placed ++ tried.1.zipIdx.map fun pi => (rt.2, pi.1.1, pi.1.2.1, pi.1.2.2.1, ws.getD pi.2 0), tried.2, dropped ++ [cfgKS n - tried.1.length]))
    ([], List.replicate (cfgE n) 0, [])

/-- The address of capability `i` of a layer. -/
def Layer.at_ (l : Layer) (i : Nat) : Nat := (l.caps.getD i RegVal.zero).addr

/-- Expert `e` of a layer. -/
def Layer.exp (l : Layer) (e : Nat) : Expert := l.exps.getD e ⟨RegVal.zero, 0, 0, 0⟩

/-- The die of the home of an expert, as the kicking cluster's map stands (R283). -/
def Layer.dieOfExp (l : Layer) (s : State) (e : Nat) : Option Nat := (vcMap s l.cmd.kick.cl l.cmd.kick.part (l.exp e).home).map dieOf

/-- The header of a placement (R283). -/
def placeHeader (n die : Nat) (p : Nat × Nat × Nat × Nat × Nat) : List MByte :=
  let (t, e, r, sl, w) := p
  cleanBytes (bytesOf 8 (t + e * 2 ^ 12 + r * 2 ^ 22 + die * 2 ^ 25 + sl * 2 ^ 32) ++ bytesOf 8 w ++ bytesOf 8 (cfgGen n) ++ bytesOf 8 0)

/-- Bitmap of an expert (R283). -/
def bitmapOf (placed : List (Nat × Nat × Nat × Nat × Nat)) (e : Nat) : Nat :=
  placed.foldl (fun m p => if p.2.1 = e then m ||| 2 ^ p.1 else m) 0

/-- An access of a stage: the address that it writes, and its bytes or the range that it copies. -/
abbrev StageOp := Nat × (List MByte ⊕ (Nat × Nat))

/-- A doubleword that a stage writes. -/
def putDw (ea v : Nat) : StageOp := (ea, .inl (cleanBytes (bytesOf 8 v)))

/-- What dispatch zeroes first (R283): counts and dropped places, bitmaps, and the counts of the send lists. -/
def zeroOps (l : Layer) : List StageOp :=
  let n := l.cfg
  let zeros := fun (k : Nat) => Sum.inl (cleanBytes (List.replicate k 0))
  [(l.at_ 5, zeros (8 * (cfgE n + 1))), (l.at_ 4, zeros (cfgE n * bitmapBytes n))]
    ++ (List.range 4).map fun d => (l.at_ 6 + sendListBytes n * d, zeros 8)

/-- What a placement writes, after the placements `before` it (R283): header, vector, bitmap, send list and count. An expert whose home
the map does not give has no send list: that access fails (R407). -/
def placeOps (s : State) (die : Nat) (l : Layer) (before : List (Nat × Nat × Nat × Nat × Nat)) (p : Nat × Nat × Nat × Nat × Nat) :
    List StageOp :=
  let n := l.cfg
  let (t, e, _, sl, _) := p
  let x := l.exp e
  let list := match l.dieOfExp s e with
    | none => [putDw (sramAddr x.home 0) 0]
    | some d =>
      let k := (before.filter fun q => l.dieOfExp s q.2.1 == some d).length
      let base := l.at_ 6 + sendListBytes n * d
      [putDw (base + 8 * (k + 1)) (t + e * 2 ^ 12 + sl * 2 ^ 22), putDw base (k + 1)]
  [(x.buf.addr + 32 * sl, .inl (placeHeader n die p)), (x.buf.addr + x.vecOfs + cfgVB n * sl, .inr (l.at_ 1 + cfgVB n * t, cfgVB n)),
   putDw (l.at_ 4 + bitmapBytes n * e + 8 * (t / 64)) (fld (bitmapOf (before ++ [p]) e) (64 * (t / 64)) 64)]
    ++ list ++ [putDw (l.at_ 5 + 8 * e) (sl + 1)]

/-- What dispatch writes for a token (R283): its placements in rank order, then the places that it misses. -/
def tokenOps (s : State) (die : Nat) (l : Layer) (t : Nat) : List StageOp :=
  let n := l.cfg
  let before := l.placed.filter fun p => decide (p.1 < t)
  let mine := l.placed.filter fun p => p.1 == t
  (mine.zipIdx.flatMap fun pi => placeOps s die l (before ++ mine.take pi.2) pi.1)
    ++ if l.lost.getD t 0 = 0 then [] else [putDw (l.at_ 5 + 8 * cfgE n) (l.lost.take (t + 1)).sum]

/-- The accesses of dispatch in order (R283). -/
def dispatchOps (s : State) (die : Nat) (l : Layer) : List StageOp := zeroOps l ++ (List.range (cfgT l.cfg)).flatMap (tokenOps s die l)

/-- How a run of accesses ends. -/
inductive OpsEnd where
  | done
  | miss (va need data : Nat)
  | fail (f : Nat × Nat × Nat)

/-- One access of a stage of engine `id`. -/
def runOp (s : State) (b : Sender) (id : Nat) (o : StageOp) : OpsEnd × State :=
  let put := fun (s : State) (xs : List MByte) =>
    let ps := piecesOf 64 o.1 xs.length
    match missing s b 2 ps with
    | some va => (OpsEnd.miss va 2 (numOf (xs.drop (va - o.1))), s)
    | none =>
      match writeRange s b (0xFFF, id) o.1 xs with
      | (true, s) => (.done, s)
      | (false, s) => (.fail ((rangeFail s b 2 ps).getD (o.1, 0x11, Cause.access.code)), s)
  match o.2 with
  | .inl xs => put s xs
  | .inr (ea, len) =>
    match readSpan s b ea len with
    | (.ok xs, s) => if anyPsn xs then (.fail (ea, 0x12, 0), s) else put s xs
    | (.miss va, s) => (.miss va 1 0, s)
    | (.fail, s) => (.fail ((rangeFail s b 1 (piecesOf 64 ea len)).getD (ea, 0x11, Cause.access.code)), s)

/-- Accesses in order up to one that is not performed; `n` counts those performed. -/
def runOps (s : State) (b : Sender) (id : Nat) : List StageOp → Nat → OpsEnd × Nat × State
  | [], n => (.done, n, s)
  | o :: os, n =>
    match runOp s b id o with
    | (.done, s) => runOps s b id os (n + 1)
    | (r, s) => (r, n, s)

/-- A read of a layer: its bytes, or a walk, or the layer fails. -/
def layerRead (s : State) (die : Nat) (l : Layer) (ea len : Nat) (f : List MByte → State → State) : State :=
  match readSpan s l.cmd.kick.sender ea len with
  | (.ok xs, s) => if anyPsn xs then failLayer s die l (ea, 0x12, 0) else f xs s
  | (.miss va, s) => askEngWalk s (gateOf die) (cmdWalk l.cmd.seq) va 1 0
  | (.fail, s) => failLayer s die l ((rangeFail s l.cmd.kick.sender 1 (piecesOf 64 ea len)).getD (ea, 0x11, Cause.access.code))

/-- Dispatch goes on from the access that it has come to (R283). -/
def runPlaces (s : State) (die : Nat) (l : Layer) : State :=
  match runOps s l.cmd.kick.sender 5 ((dispatchOps s die l).drop l.ops) l.ops with
  | (.done, _, s) => countStage (setLayer s die { l with stage := 2, ops := 0 }) die 5
  | (.miss va need v, n, s) => askEngWalk (setLayer s die { l with ops := n }) (gateOf die) (cmdWalk l.cmd.seq) va need (need - 1) v
  | (.fail f, n, s) => failLayer s die { l with ops := n } f

/-- The gate stage and dispatch (R282, R283): the logits are read and the tokens placed, and then dispatch makes its accesses.
[Log 20: DESIGN CHOICE] -/
def runDispatch (s : State) (die : Nat) (l : Layer) : State :=
  let n := l.cfg
  if l.stage = 1 then runPlaces s die l
  else
    layerRead s die l (l.at_ 0) (cfgT n * logStride n) fun logs s =>
      let rows := (List.range (cfgT n)).map fun t =>
        let r := numOf ((logs.drop (logStride n * t)).take (4 * cfgE n))
        (List.range (cfgE n)).map fun e => fld r (32 * e) 32
      let (placed, counts, lost) := placeTokens n l.exps rows
      runPlaces s die { l with stage := 1, placed := placed, counts := counts, lost := lost, ops := 0 }

/-- The record of the product of expert `e` (R284): its successor is the combine stage, which no virtual cluster or offset names.
[Log 44: DESIGN CHOICE] -/
def productRec (s : State) (l : Layer) (e : Nat) : NewRec :=
  let k := l.cmd.kick
  { blk := cfgBlk l.cfg, prv := k.prv, prio := cfgPrio l.cfg, cnt := 0, ten := k.ten, lcl := k.lcl, lid := k.lid
    pair := (s.launch k.lcl k.lid).any (·.paired), wid := BitVec.ofNat 64 e, p0 := BitVec.ofNat 64 (l.counts.getD e 0)
    p1 := BitVec.ofNat 64 (l.exp e).p1, succ := some (0, 0), cls := k.cls, regs := [(1, (l.exp e).buf)] }

/-- One product spawned: none while the pools of its home are empty, or an access that fails (R407). -/
def spawnProduct (s : State) (die : Nat) (l : Layer) (e : Nat) : Option (State ⊕ (Nat × Nat × Nat)) :=
  let k := l.cmd.kick
  match reach s k.cl k.part (l.exp e).home with
  | none => some (.inr (sramAddr (l.exp e).home 0, 0x11, Cause.access.code))
  | some h =>
    if nacked s h then some (.inr (sramAddr (l.exp e).home 0, 0x50, nackAux s h))
    else if noPair s h (productRec s l e).pair then some (.inr (sramAddr (l.exp e).home 0, 0x11, Cause.access.code))
    else if !owned s h || heldAt s k.part k.cl h then none
    else
      (newConts s h (productRec s l e)).map fun os =>
        let p : Product := { cl := h, ofs := os.1, die := die, seq := l.cmd.seq }
        let s : State := os.2
        let s := { s with products := s.products ++ [p] }
        .inl (match s.launch k.lcl k.lid with
          | some x => s.setLaunch k.lcl k.lid { x with live := x.live + 1 }
          | none => s)

/-- The experts that get a product. -/
def usedExperts (l : Layer) : List Nat := (List.range (cfgE l.cfg)).filter fun e => l.counts.getD e 0 != 0

/-- The products of a layer from a list of experts on (R284): creation pauses while a pool is empty, and goes on as continuations retire
(R38). -/
def spawnFrom (s : State) (die : Nat) (l : Layer) : List Nat → State
  | [] => setLayer s die { l with stage := 3, ops := 0 }
  | e :: es =>
    match spawnProduct s die l e with
    | none => setLayer s die l
    | some (.inr f) => failLayer s die l f
    | some (.inl s) => spawnFrom s die { l with ops := l.ops + 1, left := l.left + 1 } es

/-- A combined row (R285): `res` gives the result row of each placed choice with its weight. -/
def combineRow (rb : Nat) (res : List (Nat × Nat)) : List (BitVec 8) :=
  (List.range (rb / 4)).flatMap fun x =>
    bytesOf 4 (res.foldl (fun acc wr => (fmaF32 wr.1 (fld wr.2 (32 * x) 32) acc).1) 0)

/-- Where the result row of a placement stands. -/
def resultAddr (l : Layer) (p : Nat × Nat × Nat × Nat × Nat) : Nat :=
  let x := l.exp p.2.1
  x.buf.addr + x.resOfs l.cfg + cfgRB l.cfg * p.2.2.2.1

/-- The result rows of a list of placements, read in order, each with its weight; `f` goes on with them. -/
def readResults (s : State) (die : Nat) (l : Layer) (f : List (Nat × Nat × Nat) → State → State) :
    List (Nat × Nat × Nat × Nat × Nat) → List (Nat × Nat × Nat) → State
  | [], acc => f acc s
  | p :: ps, acc =>
    match readSpan s l.cmd.kick.sender (resultAddr l p) (cfgRB l.cfg) with
    | (.ok xs, t) =>
      if anyPsn xs then failLayer t die l (resultAddr l p, 0x12, 0)
      else readResults t die l f ps (acc ++ [(p.1, p.2.2.2.2, numOf xs)])
    | (.miss va, t) => askEngWalk t (gateOf die) (cmdWalk l.cmd.seq) va 1 0
    | (.fail, t) =>
      failLayer t die l ((rangeFail t l.cmd.kick.sender 1 (piecesOf 64 (resultAddr l p) (cfgRB l.cfg))).getD
        (resultAddr l p, 0x11, Cause.access.code))

/-- A layer leaves its gate engine with the fill of `GDONE` (R280, R285, R400). [Log 64: DEDUCED] -/
def endLayer (s : State) (die : Nat) (l : Layer) (status count : Nat) : State :=
  let e := gateOf die
  let x := s.engine e
  let s := { s.setEngine e { x with layers := x.layers.filter (fun k => k.cmd.seq != l.cmd.seq), done := x.done + 1 } with
    walks := s.walks.filter fun w => !(w.isEng && w.owner == e && w.ofs == cmdWalk l.cmd.seq) }
  engFill s e l.cmd.kick l.cmd.seq l.done (cfgGen l.cfg) status count

/-- The combined rows, in order (R285). -/
def combineOps (l : Layer) (res : List (Nat × Nat × Nat)) : List StageOp :=
  (List.range (cfgT l.cfg)).map fun t =>
    (l.at_ 3 + cfgRB l.cfg * t, .inl (cleanBytes (combineRow (cfgRB l.cfg) ((res.filter fun r => r.1 == t).map (·.2)))))

/-- Combine (R285). [Log 20: DESIGN CHOICE] -/
def runCombine (s : State) (die : Nat) (l : Layer) : State :=
  readResults s die l (fun res s =>
    match runOps s l.cmd.kick.sender 6 ((combineOps l res).drop l.ops) l.ops with
    | (.done, _, s) => endLayer (countStage s die 6) die l 0 (cfgT l.cfg)
    | (.miss va need v, n, s) => askEngWalk (setLayer s die { l with ops := n }) (gateOf die) (cmdWalk l.cmd.seq) va need (need - 1) v
    | (.fail f, _, s) => failLayer s die l f) l.placed []

/-- The ranges that a layer accesses (R281). -/
def Layer.ranges (l : Layer) : List (Nat × Nat) :=
  let n := l.cfg
  [(l.at_ 0, cfgT n * logStride n), (l.at_ 1, cfgT n * cfgVB n), (l.at_ 3, cfgT n * cfgRB n), (l.at_ 4, cfgE n * bitmapBytes n),
   (l.at_ 5, 8 * (cfgE n + 1)), (l.at_ 6, 4 * sendListBytes n), (l.at_ 7, 8)] ++ l.exps.map fun x => (x.buf.addr, x.size n)

/-- Whether a layer of a die waits for no walk, and accesses no cluster where its requests are held (R312, R313). -/
def layerIdle (s : State) (die : Nat) (l : Layer) : Bool :=
  !engWalking s (gateOf die) (cmdWalk l.cmd.seq) && !(l.ranges.any (rangeHeld s l.cmd.kick.sender))

/-- A stage of a layer has made its accesses: results of walks that served them alone are dropped (R262). -/
def stageDone (s : State) (die : Nat) (l : Layer) : State := dropEngGot s (gateOf die) (cmdWalk l.cmd.seq)

/-- Whether dispatch can run. -/
def canDispatch (s : State) (die : Nat) : Bool :=
  match topLayer s die with | some l => !l.failed && decide (l.stage ≤ 1) && layerIdle s die l | none => false

/-- DISPATCH_STAGE (R283). -/
def execDispatchStage (die : Nat) (s : State) : Host.Outcome State Fault Refusal :=
  match topLayer s die with
  | some l => if canDispatch s die then .next (stageDone (runDispatch s die l) die l) else .next s
  | none => .next s

/-- The experts whose products are still to be spawned. -/
def toSpawn (l : Layer) : List Nat := (usedExperts l).drop l.ops

/-- Whether products can be spawned: the pools of the next home have room, or none is left to spawn. -/
def canSpawn (s : State) (die : Nat) : Bool :=
  match topLayer s die with
  | some l => !l.failed && l.stage == 2 && match toSpawn l with
    | [] => true
    | e :: _ => (spawnProduct s die l e).isSome
  | none => false

/-- PRODUCT_SPAWN (R284). -/
def execProductSpawn (die : Nat) (s : State) : Host.Outcome State Fault Refusal :=
  match topLayer s die with
  | some l => if canSpawn s die then .next (spawnFrom s die l (toSpawn l)) else .next s
  | none => .next s

/-- Whether combine, or the end of a layer that failed, can run: every product that survives has retired, and its stores are performed
(R53, R285). -/
def canCombine (s : State) (die : Nat) : Bool :=
  match topLayer s die with
  | some l => l.left == 0 && (l.drain.all fun a => storesDone s (some a)) && !(rangeHeld s l.cmd.kick.sender (l.at_ 7, 8)) && (l.failed || (l.stage == 3 && layerIdle s die l))
  | none => false

/-- COMBINE_STAGE (R285, R400). -/
def execCombineStage (die : Nat) (s : State) : Host.Outcome State Fault Refusal :=
  match topLayer s die with
  | some l =>
    if !canCombine s die then .next s
    else if l.failed then .next (endLayer s die l (2 ^ 6) 0)
    else .next (runCombine s die l)
  | none => .next s

end Sys2Proof.Machine
end

