-- ==== Sys2Proof/Machine/Integer.lean ====
section
/-! DEFINITION. Integer, constant, bit-field, skip, hash and move instructions (03_execution R26; 10_insn_integer R155-R167, R171,
R172). -/

namespace Sys2Proof.Machine

/-- 1 or 0. -/
def truth (b : Bool) : W64 := if b then 1 else 0

/-- A shift count: bits 5:0 (R159). -/
def count (b : W64) : Nat := fld b.toNat 0 6

/-- A word on two registers whose result is 64 bits (R156). -/
def binary (o : R3) (s : State) (f : W64 → W64 → W64) : Host.Outcome State Fault Refusal :=
  issue o.s s (computeVal s [o.a, o.b] o.d fun vs => RegVal.ofInt (f (vs.getD 0 RegVal.zero).int (vs.getD 1 RegVal.zero).int))

/-- A word on one register whose result is 64 bits (R156). -/
def unary (o : R2) (s : State) (f : W64 → W64) : Host.Outcome State Fault Refusal :=
  issue o.s s (computeVal s [o.a] o.d fun vs => RegVal.ofInt (f (vs.getD 0 RegVal.zero).int))

/-! ## Register-register operations (R159-R162) -/

/-- `add` (R159). -/
def valAdd (a b : W64) : W64 := a + b

/-- `add` (R159). -/
def execAdd (o : R3) (s : State) : Host.Outcome State Fault Refusal := binary o s valAdd

/-- `sub` (R159). -/
def valSub (a b : W64) : W64 := a - b

/-- `sub` (R159). -/
def execSub (o : R3) (s : State) : Host.Outcome State Fault Refusal := binary o s valSub

/-- `and` (R159). -/
def valAnd (a b : W64) : W64 := a &&& b

/-- `and` (R159). -/
def execAnd (o : R3) (s : State) : Host.Outcome State Fault Refusal := binary o s valAnd

/-- `or` (R159). -/
def valOr (a b : W64) : W64 := a ||| b

/-- `or` (R159). -/
def execOr (o : R3) (s : State) : Host.Outcome State Fault Refusal := binary o s valOr

/-- `xor` (R159). -/
def valXor (a b : W64) : W64 := a ^^^ b

/-- `xor` (R159). -/
def execXor (o : R3) (s : State) : Host.Outcome State Fault Refusal := binary o s valXor

/-- `andn` (R159). -/
def valAndn (a b : W64) : W64 := a &&& ~~~b

/-- `andn` (R159). -/
def execAndn (o : R3) (s : State) : Host.Outcome State Fault Refusal := binary o s valAndn

/-- `orn` (R159). -/
def valOrn (a b : W64) : W64 := a ||| ~~~b

/-- `orn` (R159). -/
def execOrn (o : R3) (s : State) : Host.Outcome State Fault Refusal := binary o s valOrn

/-- `xnor` (R159). -/
def valXnor (a b : W64) : W64 := ~~~(a ^^^ b)

/-- `xnor` (R159). -/
def execXnor (o : R3) (s : State) : Host.Outcome State Fault Refusal := binary o s valXnor

/-- `shl` (R159). -/
def valShl (a b : W64) : W64 := a <<< count b

/-- `shl` (R159). -/
def execShl (o : R3) (s : State) : Host.Outcome State Fault Refusal := binary o s valShl

/-- `shr` (R159). -/
def valShr (a b : W64) : W64 := a >>> count b

/-- `shr` (R159). -/
def execShr (o : R3) (s : State) : Host.Outcome State Fault Refusal := binary o s valShr

/-- `sra` (R159). -/
def valSra (a b : W64) : W64 := a.sshiftRight (count b)

/-- `sra` (R159). -/
def execSra (o : R3) (s : State) : Host.Outcome State Fault Refusal := binary o s valSra

/-- `rotl` (R159). -/
def valRotl (a b : W64) : W64 := a.rotateLeft (count b)

/-- `rotl` (R159). -/
def execRotl (o : R3) (s : State) : Host.Outcome State Fault Refusal := binary o s valRotl

/-- `rotr` (R159). -/
def valRotr (a b : W64) : W64 := a.rotateRight (count b)

/-- `rotr` (R159). -/
def execRotr (o : R3) (s : State) : Host.Outcome State Fault Refusal := binary o s valRotr

/-- `min` (R159). -/
def valMin (a b : W64) : W64 := if a.sle b then a else b

/-- `min` (R159). -/
def execMin (o : R3) (s : State) : Host.Outcome State Fault Refusal := binary o s valMin

/-- `max` (R159). -/
def valMax (a b : W64) : W64 := if b.sle a then a else b

/-- `max` (R159). -/
def execMax (o : R3) (s : State) : Host.Outcome State Fault Refusal := binary o s valMax

/-- `minu` (R159). -/
def valMinu (a b : W64) : W64 := if a.ule b then a else b

/-- `minu` (R159). -/
def execMinu (o : R3) (s : State) : Host.Outcome State Fault Refusal := binary o s valMinu

/-- `maxu` (R159). -/
def valMaxu (a b : W64) : W64 := if b.ule a then a else b

/-- `maxu` (R159). -/
def execMaxu (o : R3) (s : State) : Host.Outcome State Fault Refusal := binary o s valMaxu

/-- `cmpeq` (R159). -/
def valCmpeq (a b : W64) : W64 := truth (a == b)

/-- `cmpeq` (R159). -/
def execCmpeq (o : R3) (s : State) : Host.Outcome State Fault Refusal := binary o s valCmpeq

/-- `cmpne` (R159). -/
def valCmpne (a b : W64) : W64 := truth (a != b)

/-- `cmpne` (R159). -/
def execCmpne (o : R3) (s : State) : Host.Outcome State Fault Refusal := binary o s valCmpne

/-- `cmplt` (R159). -/
def valCmplt (a b : W64) : W64 := truth (a.slt b)

/-- `cmplt` (R159). -/
def execCmplt (o : R3) (s : State) : Host.Outcome State Fault Refusal := binary o s valCmplt

/-- `cmpltu` (R159). -/
def valCmpltu (a b : W64) : W64 := truth (a.ult b)

/-- `cmpltu` (R159). -/
def execCmpltu (o : R3) (s : State) : Host.Outcome State Fault Refusal := binary o s valCmpltu

/-- `cmple` (R159). -/
def valCmple (a b : W64) : W64 := truth (a.sle b)

/-- `cmple` (R159). -/
def execCmple (o : R3) (s : State) : Host.Outcome State Fault Refusal := binary o s valCmple

/-- `cmpleu` (R159). -/
def valCmpleu (a b : W64) : W64 := truth (a.ule b)

/-- `cmpleu` (R159). -/
def execCmpleu (o : R3) (s : State) : Host.Outcome State Fault Refusal := binary o s valCmpleu

/-- `sel` (R160). -/
def execSel (o : R4) (s : State) : Host.Outcome State Fault Refusal :=
  issue o.s s (computeVal s [o.a, o.b, o.c] o.d fun vs =>
    if (vs.getD 2 RegVal.zero).int != 0 then vs.getD 0 RegVal.zero else vs.getD 1 RegVal.zero)

/-- The number of zero bits above the highest set bit (R161). -/
def valClz (a : W64) : W64 := if a = 0 then 64 else BitVec.ofNat 64 (63 - Nat.log2 a.toNat)

/-- `clz` (R161). -/
def execClz (o : R2) (s : State) : Host.Outcome State Fault Refusal := unary o s valClz

/-- The number of zero bits below the lowest set bit (R161). -/
def valCtz (a : W64) : W64 := BitVec.ofNat 64 (((List.range 64).find? fun i => a.getLsbD i).getD 64)

/-- `ctz` (R161). -/
def execCtz (o : R2) (s : State) : Host.Outcome State Fault Refusal := unary o s valCtz

/-- The number of set bits (R161). -/
def valPopc (a : W64) : W64 := BitVec.ofNat 64 ((List.range 64).filter fun i => a.getLsbD i).length

/-- `popc` (R161). -/
def execPopc (o : R2) (s : State) : Host.Outcome State Fault Refusal := unary o s valPopc

/-- The eight bytes reversed (R161). -/
def valBswap (a : W64) : W64 := BitVec.ofNat 64 (ofBytes (bytesOf 8 a.toNat).reverse)

/-- `bswap` (R161). -/
def execBswap (o : R2) (s : State) : Host.Outcome State Fault Refusal := unary o s valBswap

/-- `abs` (R161). -/
def valAbs (a : W64) : W64 := if a.slt 0 then -a else a

/-- `abs` (R161). -/
def execAbs (o : R2) (s : State) : Host.Outcome State Fault Refusal := unary o s valAbs

/-- `neg` (R161). -/
def execNeg (o : R2) (s : State) : Host.Outcome State Fault Refusal := unary o s fun a => -a

/-- `mul` (R162). -/
def execMul (o : R3) (s : State) : Host.Outcome State Fault Refusal := binary o s fun a b => a * b

/-- The high half of the signed product (R162). -/
def valMulh (a b : W64) : W64 := BitVec.ofInt 64 (a.toInt * b.toInt / (2 ^ 64 : Nat))

/-- `mulh` (R162). -/
def execMulh (o : R3) (s : State) : Host.Outcome State Fault Refusal := binary o s valMulh

/-- The high half of the unsigned product (R162). -/
def valMulhu (a b : W64) : W64 := BitVec.ofNat 64 (a.toNat * b.toNat / 2 ^ 64)

/-- `mulhu` (R162). -/
def execMulhu (o : R3) (s : State) : Host.Outcome State Fault Refusal := binary o s valMulhu

/-- A division: DIVZERO for a zero divisor (R162). -/
def division (o : R3) (s : State) (f : W64 → W64 → W64) : Host.Outcome State Fault Refusal :=
  issue o.s s (compute s [o.a, o.b] o.d fun vs =>
    let a := (vs.getD 0 RegVal.zero).int
    let b := (vs.getD 1 RegVal.zero).int
    if b = 0 then .inl .divzero else .inr (RegVal.ofInt (f a b), 0))

/-- The quotient rounded toward zero; −2^63 for −2^63 by −1 (R162). -/
def valDiv (a b : W64) : W64 := BitVec.ofInt 64 (a.toInt.tdiv b.toInt)

/-- `div` (R162). -/
def execDiv (o : R3) (s : State) : Host.Outcome State Fault Refusal := division o s valDiv

/-- `divu` (R162). -/
def execDivu (o : R3) (s : State) : Host.Outcome State Fault Refusal := division o s fun a b => BitVec.ofNat 64 (a.toNat / b.toNat)

/-- The remainder with the sign of the dividend (R162). -/
def valRem (a b : W64) : W64 := BitVec.ofInt 64 (a.toInt.tmod b.toInt)

/-- `rem` (R162). -/
def execRem (o : R3) (s : State) : Host.Outcome State Fault Refusal := division o s valRem

/-- `remu` (R162). -/
def execRemu (o : R3) (s : State) : Host.Outcome State Fault Refusal := division o s fun a b => BitVec.ofNat 64 (a.toNat % b.toNat)

/-- `madd` (R162). -/
def execMadd (o : R4) (s : State) : Host.Outcome State Fault Refusal :=
  issue o.s s (computeVal s [o.a, o.b, o.c] o.d fun vs =>
    RegVal.ofInt ((vs.getD 0 RegVal.zero).int * (vs.getD 1 RegVal.zero).int + (vs.getD 2 RegVal.zero).int))

/-! ## Immediates (R163-R165) -/

/-- A 32-bit immediate, sign-extended (R163). -/
def imm64 (n : Nat) : W64 := (BitVec.ofNat 32 n).signExtend 64

/-- A word with an immediate: `f` on 64 bits, or `g` on the low 32 bits in the `.w` form, whose result is given as 64 bits (R163,
R164). -/
def immediate (o : ImmOp) (s : State) (f : W64 → W64 → W64) (g : BitVec 32 → BitVec 32 → W64) : Host.Outcome State Fault Refusal :=
  issue o.s s (computeVal s [o.a] o.d fun vs =>
    let a := (vs.getD 0 RegVal.zero).int
    RegVal.ofInt (if o.w then g (a.setWidth 32) (BitVec.ofNat 32 o.imm) else f a (imm64 o.imm)))

/-- A 32-bit result, sign-extended (R164). -/
def wide (f : BitVec 32 → BitVec 32 → BitVec 32) (a k : BitVec 32) : W64 := (f a k).signExtend 64

/-- `addi` (R163, R164). -/
def execAddi (o : ImmOp) (s : State) : Host.Outcome State Fault Refusal := immediate o s valAdd (wide fun a k => a + k)

/-- `andi` (R163, R164). -/
def execAndi (o : ImmOp) (s : State) : Host.Outcome State Fault Refusal := immediate o s valAnd (wide fun a k => a &&& k)

/-- `ori` (R163, R164). -/
def execOri (o : ImmOp) (s : State) : Host.Outcome State Fault Refusal := immediate o s valOr (wide fun a k => a ||| k)

/-- `xori` (R163, R164). -/
def execXori (o : ImmOp) (s : State) : Host.Outcome State Fault Refusal := immediate o s valXor (wide fun a k => a ^^^ k)

/-- `shli` (R163, R164). -/
def execShli (o : ImmOp) (s : State) : Host.Outcome State Fault Refusal := immediate o s valShl (wide fun a k => a <<< k.toNat)

/-- `shri` (R163, R164). -/
def execShri (o : ImmOp) (s : State) : Host.Outcome State Fault Refusal := immediate o s valShr (wide fun a k => a >>> k.toNat)

/-- `srai` (R163, R164). -/
def execSrai (o : ImmOp) (s : State) : Host.Outcome State Fault Refusal := immediate o s valSra (wide fun a k => a.sshiftRight k.toNat)

/-- `cmpeqi` (R163, R164). -/
def execCmpeqi (o : ImmOp) (s : State) : Host.Outcome State Fault Refusal := immediate o s valCmpeq (fun a k => truth (a == k))

/-- `cmplti` (R163, R164). -/
def execCmplti (o : ImmOp) (s : State) : Host.Outcome State Fault Refusal := immediate o s valCmplt (fun a k => truth (a.slt k))

/-- `cmpltui` (R163, R164). -/
def execCmpltui (o : ImmOp) (s : State) : Host.Outcome State Fault Refusal := immediate o s valCmpltu (fun a k => truth (a.ult k))

/-- `mini` (R163, R164). -/
def execMini (o : ImmOp) (s : State) : Host.Outcome State Fault Refusal := immediate o s valMin (wide fun a k => if a.sle k then a else k)

/-- `maxi` (R163, R164). -/
def execMaxi (o : ImmOp) (s : State) : Host.Outcome State Fault Refusal := immediate o s valMax (wide fun a k => if k.sle a then a else k)

/-- `li` (R21). -/
def execLi (o : LiOp) (s : State) : Host.Outcome State Fault Refusal := issue o.s s (computeVal s [] o.d fun _ => RegVal.ofInt (imm64 o.imm))

/-- A 32-bit part of D replaced (R165). -/
def replacePart (o : LiOp) (n : Nat) (s : State) : Host.Outcome State Fault Refusal :=
  issue o.s s (computeVal s [o.d] o.d fun vs =>
    { (vs.getD 0 RegVal.zero).set (32 * n) 32 o.imm with tag := false })

/-- `liq.1` (R165). -/
def execLiq1 (o : LiOp) (s : State) : Host.Outcome State Fault Refusal := replacePart o 1 s

/-- `liq.2` (R165). -/
def execLiq2 (o : LiOp) (s : State) : Host.Outcome State Fault Refusal := replacePart o 2 s

/-- `liq.3` (R165). -/
def execLiq3 (o : LiOp) (s : State) : Host.Outcome State Fault Refusal := replacePart o 3 s

/-! ## Bit fields (R166) -/

/-- `ext` (R166). -/
def execExt (o : FieldOp) (s : State) : Host.Outcome State Fault Refusal :=
  issue o.s s (computeVal s [o.a] o.d fun vs => RegVal.ofNat (fld (vs.getD 0 RegVal.zero).int.toNat o.pos (o.wm1 + 1)))

/-- `ext.s` (R166). -/
def execExtS (o : FieldOp) (s : State) : Host.Outcome State Fault Refusal :=
  issue o.s s (computeVal s [o.a] o.d fun vs =>
    RegVal.ofNat (low 64 (sext (o.wm1 + 1) (fld (vs.getD 0 RegVal.zero).int.toNat o.pos (o.wm1 + 1)))))

/-- `ins` (R166). -/
def execIns (o : FieldOp) (s : State) : Host.Outcome State Fault Refusal :=
  issue o.s s (computeVal s [o.a, o.d] o.d fun vs =>
    RegVal.ofNat (setFld (vs.getD 1 RegVal.zero).int.toNat o.pos (o.wm1 + 1) (vs.getD 0 RegVal.zero).int.toNat))

/-! ## Skips (R26, R167) -/

/-- Whether the range of a skip stays inside its block and holds no `end`; its words are read before it issues (R167). -/
def skipRange (s : State) (n : Nat) : Res Unit :=
  let o := (s.slot s.cur).ofs
  (blockDesc s).bind fun d s =>
    if d.2 ≤ o + n then .trap .skipend 0
    else (codeWords s d (o + 1) n).bind fun ws s => if ws.any isEndWord then .trap .skipend 0 else .ok () s

/-- A skip (R167). -/
def skipWord (o : SkipOp) (s : State) (test : W64 → Bool) : Host.Outcome State Fault Refusal :=
  issue o.s s <|
    (skipRange s o.n).bind fun _ s =>
      (checkSrc s s.cur [o.a] 0).bind fun _ s =>
        let held := test (fieldVal s s.cur [o.a] 0).int
        .ok () ((popAll s s.cur [o.a]).onSlot s.cur fun x => { x with skip := if held then o.n else 0 })

/-- `skip.z` (R26). -/
def execSkipZ (o : SkipOp) (s : State) : Host.Outcome State Fault Refusal := skipWord o s fun a => a == 0

/-- `skip.nz` (R26). -/
def execSkipNz (o : SkipOp) (s : State) : Host.Outcome State Fault Refusal := skipWord o s fun a => a != 0

/-- `skip.neg` (R26). -/
def execSkipNeg (o : SkipOp) (s : State) : Host.Outcome State Fault Refusal := skipWord o s fun a => a.msb

/-- `skip.nneg` (R26). -/
def execSkipNneg (o : SkipOp) (s : State) : Host.Outcome State Fault Refusal := skipWord o s fun a => !a.msb

/-! ## Hash and move -/

/-- `Mix` (R171). -/
def mix (x : W64) : W64 :=
  let x := (x ^^^ (x >>> 31)) * 0xA3B19C5DE7426F19
  let x := (x ^^^ (x >>> 29)) * 0x7F4A2C91B36ED5C7
  x ^^^ (x >>> 32)

/-- The hash of three values (R171). -/
def valHmix (a b c : W64) : W64 := mix (mix (mix c ^^^ b) ^^^ a)

/-- `hmix` (R171). -/
def execHmix (o : R4) (s : State) : Host.Outcome State Fault Refusal :=
  issue o.s s (computeVal s [o.a, o.b, o.c] o.d fun vs =>
    RegVal.ofInt (valHmix (vs.getD 0 RegVal.zero).int (vs.getD 1 RegVal.zero).int (vs.getD 2 RegVal.zero).int))

/-- `mov` (R172). -/
def execMov (o : R2) (s : State) : Host.Outcome State Fault Refusal :=
  issue o.s s (computeVal s [o.a] o.d fun vs => vs.getD 0 RegVal.zero)

end Sys2Proof.Machine
end

