-- ==== Sys2Proof/Machine/Capability.lean ====
section
/-! DEFINITION. Capability instructions (10_insn_integer R173-R179). -/

namespace Sys2Proof.Machine

/-- A form on A and B (R174). -/
def capBinary (o : R3) (s : State) (f : RegVal → RegVal → RegVal) : Host.Outcome State Fault Refusal :=
  issue o.s s (computeVal s [o.a, o.b] o.d fun vs => f (vs.getD 0 RegVal.zero) (vs.getD 1 RegVal.zero))

/-- A form on A alone (R174, R178). -/
def capUnary (o : R2) (s : State) (f : RegVal → RegVal) : Host.Outcome State Fault Refusal :=
  issue o.s s (computeVal s [o.a] o.d fun vs => f (vs.getD 0 RegVal.zero))

/-- A form on A and an immediate (R174). -/
def capImmediate (o : CapImmOp) (s : State) (f : RegVal → RegVal) : Host.Outcome State Fault Refusal :=
  issue o.s s (computeVal s [o.a] o.d fun vs => f (vs.getD 0 RegVal.zero))

/-- The address moved by a signed amount modulo 2^72 (R175). -/
def movedAddr (v : RegVal) (k : Int) : Nat := low 72 ((v.addr : Int) + k)

/-- `cadd` (R175). -/
def execCadd (o : R3) (s : State) : Host.Outcome State Fault Refusal := capBinary o s fun a b => capMove a (movedAddr a b.int.toInt)

/-- `cadd.i` (R175). -/
def execCaddI (o : CapImmOp) (s : State) : Host.Outcome State Fault Refusal :=
  capImmediate o s fun a => capMove a (movedAddr a (sext 32 o.imm))

/-- `cbnd` (R176). -/
def execCbnd (o : R3) (s : State) : Host.Outcome State Fault Refusal := capBinary o s fun a b => setBounds a b.int.toNat false

/-- `cbnd.x` (R176). -/
def execCbndX (o : R3) (s : State) : Host.Outcome State Fault Refusal := capBinary o s fun a b => setBounds a b.int.toNat true

/-- `cbnd.i` (R176). -/
def execCbndI (o : CapImmOp) (s : State) : Host.Outcome State Fault Refusal := capImmediate o s fun a => setBounds a o.imm false

/-- `cperm` (R177). -/
def execCperm (o : R3) (s : State) : Host.Outcome State Fault Refusal := capBinary o s fun a b => maskPerms a b.int.toNat

/-- `cperm.i` (R177). -/
def execCpermI (o : CapImmOp) (s : State) : Host.Outcome State Fault Refusal := capImmediate o s fun a => maskPerms a o.imm

/-- `cclr` (R177). -/
def execCclr (o : R2) (s : State) : Host.Outcome State Fault Refusal := capUnary o s fun a => { a with tag := false }

/-- `cget.addr` (R178). -/
def execCgetAddr (o : R2) (s : State) : Host.Outcome State Fault Refusal := capUnary o s fun a => RegVal.ofNat a.addr

/-- `cget.base` (R178). -/
def execCgetBase (o : R2) (s : State) : Host.Outcome State Fault Refusal :=
  capUnary o s fun a => RegVal.ofNat ((capBounds a).map (·.1) |>.getD 0)

/-- `cget.top` (R178). -/
def execCgetTop (o : R2) (s : State) : Host.Outcome State Fault Refusal :=
  capUnary o s fun a => RegVal.ofNat ((capBounds a).map (·.2) |>.getD 0)

/-- `cget.perm` (R178). -/
def execCgetPerm (o : R2) (s : State) : Host.Outcome State Fault Refusal :=
  capUnary o s fun a => RegVal.ofNat (a.perm % 2 ^ 11 + a.otype * 2 ^ 12)

/-- `cget.tag` (R178). -/
def execCgetTag (o : R2) (s : State) : Host.Outcome State Fault Refusal := capUnary o s fun a => RegVal.ofInt (truth a.tag)

/-- `csub` (R178). -/
def execCsub (o : R3) (s : State) : Host.Outcome State Fault Refusal :=
  capBinary o s fun a b => RegVal.ofNat (low 64 ((a.addr : Int) - b.addr))

/-- `ccmp` (R178). -/
def execCcmp (o : R3) (s : State) : Host.Outcome State Fault Refusal := capBinary o s fun a b => RegVal.ofNat (capCompare a b)

/-- Whether the thread may use an object type: CAPPERM, then PRIV (R179). -/
def typeCheck (s : State) (g : Nat) (t : Nat) : Option Cause :=
  if t < 2 ∨ 63 < t then some .capperm
  else if (s.slot g).prv = 0 ∧ !bitAt (s.part (partOf s g)).tgrant t then some .priv
  else none

/-- A form that uses a type (R179). -/
def typed (o : R3) (s : State) (f : RegVal → Nat → RegVal) : Host.Outcome State Fault Refusal :=
  issue o.s s (compute s [o.a, o.b] o.d fun vs =>
    let t := (vs.getD 1 RegVal.zero).int.toNat
    match typeCheck s s.cur t with
    | some c => .inl c
    | none => .inr (f (vs.getD 0 RegVal.zero) t, 0))

/-- `cseal` (R179). -/
def execCseal (o : R3) (s : State) : Host.Outcome State Fault Refusal := typed o s fun a t => { a.set 122 6 t with tag := usable a }

/-- `cunseal` (R179). -/
def execCunseal (o : R3) (s : State) : Host.Outcome State Fault Refusal :=
  typed o s fun a t => { a.set 122 6 0 with tag := a.tag && a.otype == t }

end Sys2Proof.Machine
end

