-- ==== Sys2Proof/Machine/Retry.lean ====
section
/-! DEFINITION. Page walks, the retry ring, and how software completes or fails an entry of it (05_memory R76-R80;
14_insn_control R264, R265; 24_exceptions_insn R352; 25_faults_execution R359, R360, R365; 26_faults_memory R368, R370). -/

namespace Sys2Proof.Machine

/-! ## Walks -/

/-- The kick of an engine's walk: the one that it accepts, or that of a command or layer. -/
def walkKick (s : State) (w : WalkJob) : Option Kick :=
  let x := s.engine w.owner
  if w.ofs = 1 then x.kicks.head?
  else
    match x.cmds.find? fun c => cmdWalk c.seq == w.ofs with
    | some c => some c.kick
    | none => (x.layers.find? fun l => cmdWalk l.cmd.seq == w.ofs).map (·.cmd.kick)

/-- On whose behalf a scheduler reads for a queue, as its queue word stood (R35). -/
def schedSender (s : State) (cl qw q : Nat) : Sender :=
  let part := ownerOf s cl
  { cl := cl, core := none, part := part, asid := asidOf s part, ten := fld qw 42 12, user := fld qw 57 2 == 0, slot := none, own := false
    eng := some (4096 + cl, q), num := none }

/-- On whose behalf a walk that is no request's is made. Scheduler `cl` is owner 4096 + `cl`, at the head slot of queue `ofs`. -/
def walkSender (s : State) (w : WalkJob) : Option Sender :=
  if !w.isEng then some { threadSender s w.owner with num := w.num }
  else if 4096 ≤ w.owner then
    let cl := w.owner - 4096
    let q := look 0 (s.cluster cl).queues w.ofs
    some (schedSender s cl (match (s.cluster cl).packet with | some p => p.qword | none => q) w.ofs)
  else (walkKick s w).map Kick.sender

/-- The first cause that a thread meets when nothing takes a failed walk: that of `portfail` with ACCESS (R359). An engine's
command ends, an acceptance is refused, a launch is refused. -/
def failWalk (s : State) (w : WalkJob) (c : Cause) : State :=
  let t := { s with walks := s.walks.erase w }
  if !w.isEng then failThread t w.owner c w.ofs w.num (if c = .soft then (s.slot w.owner).p0.toNat else 0)
  else if 4096 ≤ w.owner then
    t.onCluster (w.owner - 4096) fun k => { k with packet := k.packet.map fun p => { p with failed := true } }
  else
    let x := s.engine w.owner
    if w.ofs = 1 then
      match x.kicks with
      | k :: _ => takeKick t w.owner k 2
      | [] => t
    else
      match (x.cmds.find? fun k => cmdWalk k.seq == w.ofs), (x.layers.find? fun l => cmdWalk l.cmd.seq == w.ofs) with
      | some k, _ => failCmd t w.owner k 0x11 w.va c.code
      | none, some l => failLayer t ((w.owner - 768) / 5) l (w.va, 0x11, c.code)
      | none, none => t

/-- Parks the thread of slot `g` in the retried-access state when the access is its own word's (R352). -/
def parkRetry (s : State) (g : Nat) (num : Option Nat) : State := if num.isNone then parkRing s g else s

/-- The walks under way, of requests and then of others, in the order in which they were asked for. -/
def walkingReqs (s : State) : List Request := s.net.filter fun r => r.phase == .walk

/-- The other walks under way. -/
def walkingJobs (s : State) : List WalkJob := s.walks.filter fun w => w.phase == .walk

/-- A request whose target is found goes on; a thread that must wait for its reply does (R133, R230, R352, R393). A bitmap whose thread went
on keeps its number and what it took from the gather buffer (R170). -/
def resumeAt (s : State) (r : Request) (t : Target) (e : Option TlbEntry) : State :=
  if r.kept then { s with net := s.net.map fun q => if q.id = r.id then { r with tgt := t, phase := .sent } else q }
  else
    let waits : Bool := bitmapOpen s r || match r.op with
      | .rinit _ => true
      | .rinval => true
      | .rstat => true
      | _ => r.cls == .sc
    let s := dispatchReq (dropReq s r) r t e
    let onward := fun (b : Bool) => if b then s.onSlot r.slot fun x => { x with status := .parked (.reply (s.nextId - 1)) } else s
    match (s.slot r.slot).status with
    | .parked .walk => onward waits
    | .parked .ring => onward waits
    | .parked (.reply n) => onward (n == r.id)
    | _ => s

/-- A request whose page is now translated goes on. -/
def resumeReq (s : State) (r : Request) : State :=
  match locate s r.slot r.ea r.reach (reqNeed r.op) with
  | none => failReq s r .access r.ea
  | some .miss => s
  | some (.at_ t e) => resumeAt s r t e

/-- The walk of a sender for an address (R80): the entry that another walk to the page has installed by now, or what the tables give. -/
def walkFor (s : State) (b : Sender) (va need : Nat) : WalkFault ⊕ TlbEntry :=
  match tlbHit s b.cl b.core b.part b.asid va need b.user with
  | some e => .inr e
  | none => walkTables s b.part b.asid va need b.user

/-- The walk of a request finishes (R80, R352, R359, R368). Where an invalidation overtook it, its result serves this access alone
(R262). -/
def walkReq (s : State) (r : Request) : State :=
  let g := r.slot
  let b := threadSender s g
  let s := settleTables s b.part r.ea
  match walkFor s b r.ea (reqNeed r.op) with
  | .inr e =>
    if r.noTlb then resumeAt s r (.dev (e.at r.ea)) (some e) else resumeReq (installTlb s b.cl b.core (reqNeed r.op) e) r
  | .inl f =>
    if !ringValid s b.cl then failParked s r .access 0
    else
      let q := { r with phase := .held, fault := f.code, ia := f.ia, since := s.nextId }
      (parkRetry { s with net := s.net.map fun p => if p.id = r.id then q else p } g none).bump

/-- Whether an engine's walk is one of `ctx.save`, whose stage-2 fault makes no retry entry (R365). -/
def savesThrough (s : State) (w : WalkJob) : Option Cmd :=
  if w.isEng ∧ w.owner < 4096 ∧ 768 ≤ w.owner ∧ idOf w.owner = 3 ∧ w.need = 2 then
    ((s.engine w.owner).cmds.find? fun c => cmdWalk c.seq == w.ofs).filter fun c => c.kick.fn == 0
  else none

/-- The walk of a thread's word, an array operation, an engine or a scheduler finishes; where an invalidation overtook it, the result
is kept for the access that waits for it (R262). -/
def walkJob (s : State) (w : WalkJob) : State :=
  match walkSender s w with
  | none => { s with walks := s.walks.erase w }
  | some b =>
    let s := settleTables s b.part w.va
    let put := fun (v : WalkJob) => { s with walks := s.walks.map fun u => if u = w then v else u }
    match walkFor s b w.va w.need with
    | .inr e =>
      if w.noTlb then put { w with phase := .done, got := some e }
      else installTlb { s with walks := s.walks.erase w } b.cl b.core w.need e
    | .inl f =>
      match (if bitAt f.code 3 then savesThrough s w else none) with
      | some c => failCmd { s with walks := s.walks.erase w } w.owner c 0x30 w.va (fld c.ap0 0 18)
      | none =>
        if !ringValid s b.cl then failWalk s w .access
        else
          let t := put { w with phase := .held, fault := f.code, ia := f.ia, since := s.nextId }
          (if w.isEng then t else parkRetry t w.owner w.num).bump

/-- The walks that a cluster needs, with their numbers: each by partition, address space and page (R80). -/
def walkKeys (s : State) (cl : Nat) : List (Nat × Nat × Nat × Nat) :=
  let key := fun (id va : Nat) (b : Sender) => if b.cl = cl then some (id, b.part, b.asid, va / 4096) else none
  ((walkingReqs s).filterMap fun r => key r.id r.ea (threadSender s r.slot))
    ++ (walkingJobs s).filterMap fun w => (walkSender s w).bind (key w.id w.va)

/-- Whether a walk has one of the cluster's four page walkers (R12, R80): fewer than four other pages were asked for before its own. -/
def hasWalker (s : State) (cl : Nat) (k : Nat × Nat × Nat) : Bool :=
  let ks := walkKeys s cl
  let first : Nat × Nat × Nat → Nat := fun k => ((ks.filter fun x => x.2 == k).map (·.1)).min?.getD 0
  decide ((((ks.map (·.2)).dedup).filter fun j => decide (first j < first k)).length < 4)

/-- Whether the `k`-th walk can finish. -/
def walkReady (s : State) (k : Nat) : Bool :=
  let free := fun (b : Sender) (va : Nat) => hasWalker s b.cl (b.part, b.asid, va / 4096)
  let n := (walkingReqs s).length
  if k < n then (walkingReqs s)[k]?.any fun r => free (threadSender s r.slot) r.ea
  else (walkingJobs s)[k - n]?.any fun w => match walkSender s w with | some b => free b w.va | none => true

/-- PAGE_WALK_COMPLETE (R80, R352): the `k`-th walk finishes; the translation is installed, or the access parks. -/
def execPageWalkComplete (k : Nat) (s : State) : Host.Outcome State Fault Refusal :=
  let n := (walkingReqs s).length
  if !walkReady s k then .next s
  else if k < n then .next (match (walkingReqs s)[k]? with | some r => walkReq s r | none => s)
  else .next (match (walkingJobs s)[k - n]? with | some w => walkJob s w | none => s)

/-! ## Entries -/

/-- The cluster on whose ring a walk's fault is written (R359). -/
def walkCluster (s : State) (w : WalkJob) : Nat := match walkSender s w with | some b => b.cl | none => 0

/-- `HWID` of the slot, or the die and the id of the engine (R360). A scheduler's read stands as slot 0 of its cluster. -/
def walkSrc (w : WalkJob) : Nat :=
  if !w.isEng then hwid w.owner
  else if 4096 ≤ w.owner then hwid (128 * (w.owner - 4096))
  else dieOfEngine w.owner * 2 ^ 16 + idOf w.owner

/-- The entry of a request's fault (R360). -/
def writeReqEntry (s : State) (r : Request) : State :=
  let g := r.slot
  let cl := clusterOf g
  let (data, fn) := reqData r.op
  let dw0 := ringDw0 false (reqKind r.op) (sizeLog r.reach) r.fault (s.slot g).ten (hwid g) r.dst r.ofs
  match ringWrite s cl dw0 r.ea (partOf s g) (threadSender s g).asid r.ia data (r.ord * 2 ^ 8 + fn) with
  | some (o, t) => { t with net := t.net.map fun q => if q.id = r.id then { r with phase := .ring o } else q }
  | none => s

/-- The entry of another walk's fault (R360). -/
def writeJobEntry (s : State) (w : WalkJob) : State :=
  match walkSender s w with
  | none => { s with walks := s.walks.erase w }
  | some b =>
    let dw0 := ringDw0 (w.isEng && decide (w.owner < 4096)) w.kind w.size w.fault b.ten (walkSrc w) 0 (if w.isEng then 0 else w.ofs)
    match ringWrite s b.cl dw0 w.va b.part b.asid w.ia w.data 0 with
    | some (o, t) => { t with walks := t.walks.map fun u => if u = w then { w with phase := .ring o } else u }
    | none => s

/-- The held fault of a request that came first, and that of another walk. -/
def oldestHeld (s : State) (cl : Nat) : Option Request × Option WalkJob :=
  let rs := s.net.filter fun r => r.phase == .held && clusterOf r.slot == cl
  let ws := s.walks.filter fun w => w.phase == .held && walkCluster s w == cl
  (rs.foldl (fun a r => match a with | some q => if r.since < q.since then some r else a | none => some r) none,
   ws.foldl (fun a w => match a with | some v => if w.since < v.since then some w else a | none => some w) none)

/-- The state once the oldest held fault of a cluster is written, or fails because the ring is no longer valid. -/
def writeOldest (s : State) (cl : Nat) : State :=
  let job := fun (w : WalkJob) => if ringValid s cl then writeJobEntry s w else failWalk s w .access
  let req := fun (r : Request) => if ringValid s cl then writeReqEntry s r else failParked s r .access 0
  match oldestHeld s cl with
  | (some r, some w) => if w.since < r.since then job w else req r
  | (some r, none) => req r
  | (none, some w) => job w
  | (none, none) => s

/-- RETRY_ENTRY_WRITE (R359, R360): the oldest held fault of a cluster is written when the entry at `RHEAD` is free. -/
def execRetryEntryWrite (cl : Nat) (s : State) : Host.Outcome State Fault Refusal := .next (writeOldest s cl)

/-! ## portwr and portfail -/

/-- The slice offset that a phase names in the retry ring. -/
def Phase.at_ : Phase → Option Nat
  | .ring o => some o
  | _ => none

/-- The checks of `portwr` and `portfail` on A (R264, R348); the physical cluster and offset of the entry.
[Log 32: DEDUCED] -/
def entryAt (s : State) (c : RegVal) : Res (Target × Nat) :=
  let ea := c.addr
  match capCheck c ea 64 (permR ||| permW ||| permSYS ||| permGLB) 64 with
  | some x => .trap x ea
  | none =>
    (room (clsOf ea 0 false) s).bind fun _ s =>
      if rangeHeld s (threadSender s s.cur) (ea, 64) then .wait (.held ea 64) s else
      (findAt s ea 64 3 2 6).bind fun te s =>
        match te.1 with
        | .sram cl ofs => if nacked s cl then .trap .access ea else .ok (te.1, ofs) s
        | .ctl .. => .trap .access ea
        | .dev pa => .ok (te.1, pa) s
        | .peer _ => .ok (te.1, 0) s

/-- Clears `EV` of the entry and sets its doubleword empty, as one access, its `0` field zero (R6, R360); none when the bit was clear (R264).
[Log 32: DEDUCED; 84: DESIGN CHOICE] -/
def takeEntry (s : State) (cl ofs : Nat) : Option State :=
  let w := sramRead s cl ofs 8
  if !bitAt w 63 then none else some (setWordFull (sramWrite s cl ofs 8 (setFld (setFld w 63 1 0) 48 4 0)) cl ofs false)

/-- An entry in device memory is none of the part's: only its valid bit is cleared. -/
def clearDevEntry (s : State) (pa : Nat) : State :=
  let ten := (s.slot s.cur).ten
  let w := devRead s ten pa 8
  if bitAt w 63 then devWrite s ten pa (bytesOf 8 (setFld w 63 1 0)) false else s

/-- The value that completes a load or an atomic (R264). -/
def suppliedVal (op : MemOp) (len : Nat) (b : RegVal) : RegVal :=
  let n := b.bits.toNat
  match op with
  | .ld .. => RegVal.ofNat (fld n 0 (8 * len))
  | .amo .. => RegVal.ofNat (fld n 0 (8 * len))
  | _ => RegVal.ofNat n

/-- A parked request retried with what its entry records (R264, R360). -/
def retryReq (s : State) (r : Request) (cl ofs : Nat) : State :=
  let dw := fun k => sramRead s cl (ofs + 8 * k) 8
  let data := dw 4 + dw 5 * 2 ^ 64
  let op := match r.op with
    | .st _ tag => .st (fld data 0 (8 * r.len)) tag
    | .amo _ _ c => .amo (fld (dw 6) 0 8) (fld data 0 (8 * r.len)) c
    | .diag _ chk par => .diag (fld data 0 64) chk par
    | o => o
  let q := { r with op := op, ea := fld (dw 1) 0 57, noTlb := false, ord := fld (dw 6) 8 2, phase := .walk, fault := 0, ia := 0 }
  { s with net := s.net.map fun p => if p.id = r.id then q else p }

/-- A parked request completed without an access (R264). -/
def supplyReq (s : State) (r : Request) (b : RegVal) : State :=
  let t := dropReq s r
  match r.op with
  | .st .. => t
  | .diag .. => t
  | .rinit _ => t
  | .rinval => t
  | op => writeReg t r.slot r.dst (suppliedVal op r.len b)

/-- The input port of a slot whose next access goes to an address. -/
def inputAt (s : State) (g va : Nat) : Option Nat :=
  ((s.slot g).ports.find? fun p => p.2.dir == 1 && p.2.nextRead.1 == va).map (·.1)

/-- Whether some output port of a slot is to write next at an address. [Log 63: DEDUCED] -/
def outputAt (s : State) (g va : Nat) : Bool :=
  (s.slot g).ports.any fun p =>
    let q := p.2
    q.dir == 2 && if q.blockMode then q.addrOf (q.pos / q.perBlock) == va || q.addrOf (q.pos / q.perBlock + 1) == va
      else q.addrOf q.pos == va

/-- The word at the offset of slot `g`, where it can be read now. -/
def wordNow (s : State) (g : Nat) : Option Instr :=
  let t := { s with cur := g }
  match (blockDesc t).bind fun d t => codeWords t d (s.slot g).ofs 1 with
  | .ok [w] _ => (match decodeWord w with | .ok i => some i | .error _ => none)
  | _ => none

/-- Whether an operation accesses memory piece by piece once it is queued (R109, R123, R236). -/
def inPieces : Instr → Bool
  | .oload .. => true
  | .mmd _ => true
  | .mmdFull _ => true
  | .maccSt _ => true
  | _ => false

/-- A walk of the thread's own word completed without an access (R264): the stream element receives B or counts as written; of an
`oload`, an `mmd` or a `macc.st` that access alone is over, a piece that it reads being B; any other word counts as performed. -/
def supplyJob (s : State) (w : WalkJob) (b : RegVal) : State :=
  let g := w.owner
  let t := { s with walks := s.walks.erase w }
  let done := { t with walks := t.walks ++ [{ w with phase := .done, data := b.bits.toNat }] }
  match (if w.kind = 0 then inputAt s g w.va else none) with
  | some p => pieceInto t g p (cleanBytes (bytesOf ((s.slot g).port p).nextRead.2 b.bits.toNat))
  | none =>
    if w.kind = 1 ∧ outputAt s g w.va then done
    else if (wordNow s g).any inPieces then done
    else t.onSlot g nextWord

/-- Whether C of `portwr` chooses for a walk: it is the thread's own word's, and no fetch or table read (R224, R264, R359). -/
def maySupply (s : State) (w : WalkJob) : Bool :=
  !w.isEng && w.num.isNone && w.kind != 3 && w.ofs == (s.slot w.owner).ofs
    && match (s.slot w.owner).status with
      | .parked _ => true
      | .handover => true
      | _ => false

/-- `portwr` on a valid entry (R264). [Log 32: DEDUCED] -/
def completeEntry (s : State) (cl ofs : Nat) (b : RegVal) (retry : Bool) : State :=
  let o := some (ofs % 2 ^ 21)
  match s.net.find? fun r => r.phase.at_ == o && clusterOf r.slot == cl with
  | some r => if retry || reqKind r.op == 3 then retryReq s r cl ofs else supplyReq s r b
  | none =>
    match s.walks.find? fun w => w.phase.at_ == o && walkCluster s w == cl with
    | some w =>
      if !retry && maySupply s w then supplyJob s w b
      else
        let va := fld (sramRead s cl (ofs + 8) 8) 0 57
        { s with walks := s.walks.map fun u => if u = w then { w with va := va, phase := .walk, fault := 0, ia := 0, noTlb := false } else u }
    | none => s

/-- `portfail` on a valid entry (R265). [Log 32: DEDUCED] -/
def failEntry (s : State) (cl ofs : Nat) (c : Cause) : State :=
  let o := some (ofs % 2 ^ 21)
  match s.net.find? fun r => r.phase.at_ == o && clusterOf r.slot == cl with
  | some r => failParked s r c (if c = .soft then (s.slot r.slot).p0.toNat else 0)
  | none =>
    match s.walks.find? fun w => w.phase.at_ == o && walkCluster s w == cl with
    | some w => failWalk s w c
    | none => s

/-- A word that acts on a retry entry through the capability in its first field. -/
def entryWord (s : State) (fs : List Nat) (act : State → Nat → Nat → (Nat → RegVal) → State) : Res Unit :=
  if (s.slot s.cur).prv < 1 then .trap .priv 0
  else
    (checkSrc s s.cur fs 0).bind fun _ s =>
      let v := fun i => fieldVal s s.cur fs i
      (entryAt s (v 0)).bind fun te s =>
        let t := popAll s s.cur fs
        match te.1 with
        | .sram cl ofs =>
          match takeEntry t cl ofs with
          | some t => .ok () (act t cl ofs v)
          | none => .ok () t
        | .dev pa => .ok () (clearDevEntry t pa)
        | _ => .ok () t

/-- `portwr` (R264). [Log 32: DEDUCED] -/
def execPortwr (m : Bool) (a b c : Nat) (s : State) : Host.Outcome State Fault Refusal :=
  issue m s (entryWord s [a, b, c] fun s cl ofs v => completeEntry s cl ofs (v 1) (bitAt (v 2).bits.toNat 0))

/-- `portfail` (R265). [Log 32: DEDUCED] -/
def execPortfail (m : Bool) (a b : Nat) (s : State) : Host.Outcome State Fault Refusal :=
  issue m s (entryWord s [a, b] fun s cl ofs v => failEntry s cl ofs (causeOf (fld (v 1).bits.toNat 0 8)))

end Sys2Proof.Machine
end

