-- ==== Sys2Proof/Machine/Launches.lean ====
section
/-! DEFINITION. The cluster scheduler: launch packets, creation of continuations, run lists, reports and handler entries
(03_execution R28-R47, 25_faults_execution R355-R361). -/

namespace Sys2Proof.Machine

/-! ## The launch packet (R32-R34) -/

/-- `n` bits of a packet at a byte. -/
def Packet.at_ (p : Packet) (byte n : Nat) : Nat := fld p.data (8 * byte) n

/-- `LCTL` (R33). -/
def Packet.ctl (p : Packet) : Nat := p.at_ 0 64

/-- `LCODE` -/
def Packet.code (p : Packet) : RegVal := ⟨BitVec.ofNat 128 (p.at_ 0x20 128), p.tCode, false⟩
/-- `LSIMG` -/
def Packet.simg (p : Packet) : RegVal := ⟨BitVec.ofNat 128 (p.at_ 0x30 128), p.tSimg, false⟩
/-- `LDONE` -/
def Packet.done (p : Packet) : RegVal := ⟨BitVec.ofNat 128 (p.at_ 0x40 128), p.tDone, false⟩

/-- `NSEED` -/
def Packet.nseed (p : Packet) : Nat := fld p.ctl 60 4

/-- Seed register `i` (R32). -/
def Packet.seedReg (p : Packet) (i : Nat) : Nat := fld (p.at_ 8 64) (6 * i) 6

/-- `LSHAPE` -/
def Packet.shape (p : Packet) : Nat := p.at_ 0x60 64

/-- Width of field `i` of a shape (R34). -/
def widthOf (shape i : Nat) : Nat := fld shape (7 * i) 7

/-- Bit position of field `i` of a shape. -/
def posOf (shape : Nat) : Nat → Nat
  | 0 => 0
  | i + 1 => posOf shape i + widthOf shape i

/-- The home virtual clusters of a shape (R34). -/
def homesOf (shape : Nat) : List Nat := List.range' (fld shape 45 9) (fld shape 54 9 + 1)

/-- The homes, as places in the list above, that some work identifier of a shape falls on (R36): each field from `HLVL` up adds its values in
its place, modulo the number of homes. -/
def usedFrom (shape ext m base i : Nat) (rs : List Nat) : Nat → List Nat
  | 0 => rs
  | n + 1 =>
    let vs := List.range (min (fld ext (posOf shape i) (widthOf shape i) + 1) m)
    let k := 2 ^ (posOf shape i - base)
    usedFrom shape ext m base (i + 1) ((List.range m).filter fun r => rs.any fun x => vs.any fun v => (x + v * k) % m == r) n

/-- The home virtual clusters of the continuations of a launch (R36, R361). -/
def usedHomes (shape ext : Nat) : List Nat :=
  let h := fld shape 42 3
  (usedFrom shape ext (fld shape 54 9 + 1) (posOf shape h) h [0] (6 - h)).map (fld shape 45 9 + ·)

/-- The home of a work identifier (R36). -/
def homeOf (shape wid : Nat) : Nat := fld shape 45 9 + wid / 2 ^ posOf shape (fld shape 42 3) % (fld shape 54 9 + 1)

/-- The next work identifier of a shape in ascending order (R36): field `i` and those above it, with those below at zero. -/
def nextFrom (shape ext wid i : Nat) : Nat → Option Nat
  | 0 => none
  | n + 1 =>
    let p := posOf shape i
    let w := widthOf shape i
    let v := fld wid p w
    if v < fld ext p w then some (wid / 2 ^ (p + w) * 2 ^ (p + w) + (v + 1) * 2 ^ p) else nextFrom shape ext wid (i + 1) n

/-- The next work identifier of a shape. -/
def nextWid (shape ext wid : Nat) : Option Nat := nextFrom shape ext wid 0 6

/-! ## Acceptance (R30, R35, R36, R361) -/

/-- Whether a capability is tagged and unsealed and holds a mask, GLB included for a global address. -/
def holds (c : RegVal) (mask : Nat) : Bool := usable c && hasPerm c (mask ||| (if isGlobal c.addr then permGLB else 0))

/-- Whether `LDONE` is usable (R361). -/
def doneUsable (s : State) (cl part : Nat) (c : RegVal) : Bool :=
  (capCheck c c.addr 8 (permW ||| permFE ||| permGLB) 8).isNone &&
    match placeOf c.addr 8 with
    | .sram chip vc _ => isThisChip s chip && (reach s cl part vc).isSome
    | _ => false

/-- Whether a packet breaks a limit (R34, R361). [Log 29: DEDUCED] -/
def packetBad (s : State) (cl part : Nat) (p : Packet) : Bool :=
  let sh := p.shape
  fld p.ctl 0 8 != 1 || decide (8 < p.nseed) || (List.range (min p.nseed 8)).any (fun i => p.seedReg i == 0 || decide (47 < p.seedReg i))
    || decide (64 < posOf sh 6) || decide (384 < fld sh 45 9 + fld sh 54 9 + 1) || fld sh 42 3 == 7
    || (homesOf sh).any fun v => (reach s cl part v).isNone

/-- What reading for an acceptance comes to: the block count, or a walk, or a refusal. -/
inductive CodeRead where
  | ok (blocks : Nat) (seeds : List (Nat × RegVal))
  | miss (va : Nat)
  | bad

/-- The reads of an acceptance (R35): doubleword 0 of the code object and the seed image. [Log 29: DEDUCED] -/
def readCode (s : State) (b : Sender) (p : Packet) : CodeRead × State :=
  let c := p.code
  let i := p.simg
  let n := p.nseed
  if !holds c (permR ||| permX) || (capCheck c c.addr 8 permR 8).isSome || p.at_ 0x50 64 / 2 ^ 57 != 0 then (.bad, s)
  else if n ≠ 0 ∧ (!holds i (permR ||| permLC) || (capCheck i i.addr (16 * n) permR 16).isSome) then (.bad, s)
  else
    match readSpan s b c.addr 8 with
    | (.miss va, s) => (.miss va, s)
    | (.fail, s) => (.bad, s)
    | (.ok xs, s) =>
      if anyPsn xs || numOf xs == 0 || decide (2 ^ 24 < numOf xs) || decide (numOf xs ≤ fld p.ctl 36 24) then (.bad, s)
      else if n = 0 then (.ok (numOf xs) [], s)
      else
        match readSpan s b i.addr (16 * n) with
        | (.miss va, s) => (.miss va, s)
        | (.fail, s) => (.bad, s)
        | (.ok ys, s) =>
          if anyPsn ys then (.bad, s)
          else
            (.ok (numOf xs) ((List.range n).map fun k =>
              (p.seedReg k, ⟨BitVec.ofNat 128 (fld (numOf ys) (128 * k) 128), tagSeen s b (i.addr + 16 * k), false⟩)), s)

/-- The scheduler asks for a walk (R359). -/
def askSchedWalk (s : State) (cl q va : Nat) : State :=
  { s.bump with walks := s.walks ++
    [{ id := s.nextId, owner := 4096 + cl, isEng := true, num := none, va := va, need := 1, kind := 0, size := 3, phase := .walk, fault := 0, ia := 0
       ofs := q, noTlb := false, since := 0, data := 0, got := none }] }

/-- Whether the scheduler of a cluster waits for a walk or a retry entry. -/
def schedWalking (s : State) (cl : Nat) : Bool := s.walks.any fun w => w.isEng && w.owner == 4096 + cl && w.got.isNone

/-- The packet that the scheduler has copied is settled (R36, R361), under the queue word as it was copied (R299): refused with a code
or without a fill, accepted as a launch, or kept while a read is walked. -/
def settlePacket (s : State) (cl : Nat) (p : Packet) : State :=
  let qw := p.qword
  let part := ownerOf s cl
  let ten := fld qw 42 12
  let gen := p.at_ 0x58 16
  let clear := fun (s : State) =>
    let s := { s with walks := s.walks.filter fun w => !(w.isEng && w.owner == 4096 + cl) }
    s.onCluster cl fun c => { c with packet := none }
  let refuse := fun (s : State) (code : Nat) => fillCompletion (clear s) cl p.queue qw part ten p.done gen code 0
  if !doneUsable s cl part p.done then faultEntry (clear s) cl 0x00 0x20 ten 0 p.done.addr 0
  else if fld p.ctl 28 8 ≠ fld qw 34 8 ∨ fld p.ctl 16 12 ≠ ten ∨ fld p.ctl 12 2 ≠ fld qw 54 2 then refuse s 0x05
  else if packetBad s cl part p then refuse s 0x04
  else if p.failed then refuse s 0x06
  else
    match readCode s (schedSender s cl qw p.queue) p with
    | (.miss va, s) => askSchedWalk s cl p.queue va
    | (.bad, s) => refuse s 0x06
    | (.ok blocks seeds, s) =>
      let unpaired := fun (v : Nat) => match vcMap s cl part v with
        | some h => !bitAt (s.cluster h).pairW 63
        | none => true
      if p.at_ 0x10 128 / 2 ^ 7 ≠ 0 then refuse s 0x01
      else if bitAt p.ctl 14 && (usedHomes p.shape (p.at_ 0x68 64)).any unpaired then refuse s 0x07
      else
        let lid := ((List.range 64).find? fun k => (s.launch cl k).isNone).getD 0
        (clear s).setLaunch cl lid
          { used := true, queue := p.queue, part := part, ten := ten, cls := fld qw 54 2, prv := fld qw 57 2, pri := fld p.ctl 8 4,
            entry := fld p.ctl 36 24, paired := bitAt p.ctl 14, ldone := p.done, lgen := gen, lcode := p.code, blocks := blocks,
            ltdir := p.at_ 0x50 57, shape := p.shape, ext := p.at_ 0x68 64, lp0 := BitVec.ofNat 64 (p.at_ 0x70 64),
            lp1 := BitVec.ofNat 64 (p.at_ 0x78 64), seeds := seeds, next := some 0, live := 0, ended := 0, halted := false,
            faulted := false, unpaired := false }

/-- Whether queue `q` holds a full slot at its head that the scheduler may accept (R30, R299, R303, R312). -/
def queueReady (s : State) (cl q : Nat) : Bool :=
  let c := s.cluster cl
  let w := look 0 c.queues q
  bitAt w 63 && owned s cl && !(bitAt c.hand0 63 && bitAt c.hand0 17 && fld c.hand0 8 8 == ownerOf s cl)
    && sramFull s cl (128 * fld w 7 14 + 128 * fld w 120 8)

/-- Whether what the scheduler reads for a packet lies in a cluster where its requests are held (R312). -/
def packetHeld (s : State) (cl : Nat) (p : Packet) : Bool :=
  [(p.code.addr, 8), (p.simg.addr, 16 * p.nseed)].any (rangeHeld s (schedSender s cl p.qword p.queue))

/-- Whether ACCEPT_LAUNCH can act on queue `q` of a cluster: it settles the packet in hand, or takes the next one in round robin, one
packet at a time, with fewer than 64 launches in flight (R30, R31, R36). [Log 22: DEDUCED] -/
def acceptReady (s : State) (cl q : Nat) : Bool :=
  let c := s.cluster cl
  match c.packet with
  | some p => p.queue == q && !schedWalking s cl && !fillHeld s cl (ownerOf s cl) p.done && !packetHeld s cl p
  | none =>
    let order := (List.range 16).map fun i => (c.lastQ + 1 + i) % 16
    order.find? (queueReady s cl) == some q && decide ((c.launches.filter fun l => l.2.used).length < 64)
      && !(c.launches.any fun l => l.2.used && l.2.next.isSome)

/-- The packet at the head of a queue, copied; its doubleword 0 becomes empty and the head advances (R30).
[Log 84: DESIGN CHOICE] -/
def takePacket (s : State) (cl q : Nat) : Packet × State :=
  let w := look 0 (s.cluster cl).queues q
  let o := 128 * fld w 7 14 + 128 * fld w 120 8
  let s := { s with sram := s.sram.settleAll (sramKey cl o) 128 }
  let tag := fun b => s.sram.tagAt (sramKey cl (o + b))
  let p : Packet := ⟨q, w, sramRead s cl o 128, tag 0x20, tag 0x30, tag 0x40, false⟩
  let head := (fld w 120 8 + 1) % 2 ^ fld w 59 4
  (p, (setWordFull s cl o false).onCluster cl fun c => { c with queues := ins c.queues q (setFld w 120 8 head), packet := some p, lastQ := q })

/-- ACCEPT_LAUNCH (R36). -/
def execAcceptLaunch (cl q : Nat) (s : State) : Host.Outcome State Fault Refusal :=
  if !acceptReady s cl q then .next s
  else
    match (s.cluster cl).packet with
    | some p => .next (settlePacket s cl p)
    | none =>
      let (p, s) := takePacket s cl q
      .next (if fillHeld s cl (ownerOf s cl) p.done || packetHeld s cl p then s else settlePacket s cl p)

/-! ## Creation (R36-R38) -/

/-- The record that a launch creates for a work identifier (R38, R43). -/
def newCont (l : Launch) (cl lid wid : Nat) : NewRec :=
  { blk := l.entry, prv := l.prv, prio := l.pri, cnt := 0, ten := l.ten, lcl := cl, lid := lid, pair := l.paired
    wid := BitVec.ofNat 64 wid, p0 := l.lp0, p1 := l.lp1, succ := none, cls := l.cls
    regs := l.seeds.foldl (fun m kv => ins m kv.1 kv.2) [] }

/-- The launch once a creation message is done with: delivered, or dropped, which makes it FAULTED (R361). -/
def creationSent (s : State) (cl lid wid : Nat) (l : Launch) (made : Bool) : State :=
  completeLaunch (s.setLaunch cl lid
    { l with next := nextWid l.shape l.ext wid, live := if made then l.live + 1 else l.live, faulted := l.faulted || !made }) cl lid

/-- What becomes of the next creation message of a launch; none while creation pauses (R38, R303). [Log 30: DEDUCED] -/
def createNext (s : State) (cl lid : Nat) : Option State :=
  match s.launch cl lid with
  | none => none
  | some l =>
    match l.next with
    | none => none
    | some wid =>
      match reach s cl l.part (homeOf l.shape wid) with
      | none => some (creationSent s cl lid wid l false)
      | some home =>
        if nacked s home then some (creationSent s cl lid wid l false)
        else if noPair s home l.paired then some (creationSent s cl lid wid { l with unpaired := true } false)
        else if !owned s home || ownerOf s home != l.part || heldAt s l.part cl home || fillHeld s cl l.part l.ldone then none
        else (newConts s home (newCont l cl lid wid)).map fun os => creationSent os.2 cl lid wid l true

/-- CREATE_CONTINUATION (R38). [Log 30: DEDUCED] -/
def execCreateContinuation (cl lid : Nat) (s : State) : Host.Outcome State Fault Refusal := .next ((createNext s cl lid).getD s)

/-! ## Reports and decrements (R39, R54, R394) -/

/-- The `k`-th report in flight that is a discard report or is not. -/
def reportAt (s : State) (discard : Bool) (k : Nat) : Option Report := (s.reports.filter fun r => (r.kind == 3) == discard)[k]?

/-- Whether a report can arrive: the stores of its thread are performed (R39, R53), and the fill that it may bring is not held. -/
def reportReady (s : State) (r : Report) : Bool :=
  storesDone s r.after && match s.launch r.cl r.lid with
    | some l => !fillHeld s r.cl l.part l.ldone
    | none => true

/-- A report arrives. -/
def reportArrives (s : State) (discard : Bool) (k : Nat) : State :=
  match (reportAt s discard k).filter (reportReady s) with
  | some r => takeReport { s with reports := s.reports.erase r } r
  | none => s

/-- RETIREMENT_REPORT (R39). -/
def execRetirementReport (k : Nat) (s : State) : Host.Outcome State Fault Refusal := .next (reportArrives s false k)

/-- DISCARD_REPORT (R394). -/
def execDiscardReport (k : Nat) (s : State) : Host.Outcome State Fault Refusal := .next (reportArrives s true k)

/-- Whether a decrement can arrive: the stores of its thread are performed (R47, R53), and its target does not hold it (R312, R313). -/
def decReady (s : State) (d : Dec) : Bool := storesDone s d.after && !heldAt s d.part noSlot d.cl && !bitAt (s.cluster d.cl).hand0 63

/-- SUCCESSOR_DECREMENT (R47, R54). -/
def execSuccessorDecrement (k : Nat) (s : State) : Host.Outcome State Fault Refusal :=
  match s.decs[k]? with
  | some d => if decReady s d then .next (decrement { s with decs := s.decs.erase d } d.cl d.ofs 1) else .next s
  | none => .next s

/-! ## Run lists (R44, R45, R308) -/

/-- The first record of the run list whose tenant is not held (R45, R308). -/
def runHead (s : State) (cl : Nat) : Option Nat :=
  let c := s.cluster cl
  c.run.find? fun o => !c.heldSet.contains (fld (recDw s cl o 1) 16 12)

/-- The lowest-numbered Idle slot of the lowest-numbered core that has one (R45). -/
def idleOf (s : State) (cl : Nat) : Option Nat := ((List.range 128).map (128 * cl + ·)).find? fun g => (s.slot g).status == .idle

/-- Slot `g` as it takes a record (R45): the record's fields and its image, and the ports that the context engine restored for it (R279);
a save area is restored before the first issue (R310). -/
def loadSlot (s : State) (g ofs : Nat) (ctx : Context) : Slot :=
  let dw := recDw s (clusterOf g) ofs
  { Slot.reset with
    status := if ctx.save.isSome then .parked .restore else .ready
    recOfs := ofs, ctxPa := recCtx s (clusterOf g) ofs, blk := fld (dw 0) 0 24, ofs := fld (dw 0) 24 12, p0 := BitVec.ofNat 64 (dw 3)
    p1 := BitVec.ofNat 64 (dw 4), wid := BitVec.ofNat 64 (dw 2), lact := fld (dw 0) 36 4, prv := fld (dw 0) 48 2
    ten := fld (dw 1) 16 12, lcl := fld (dw 1) 36 9, lid := fld (dw 1) 28 8, pair := bitAt (dw 1) 46, ctx := ctx
    ports := (s.slot g).ports }

/-- What TAKE_RUN_LIST_HEAD would take, and the slot. -/
def takeable (s : State) (cl : Nat) : Option (Nat × Nat) :=
  if bitAt (s.cluster cl).hand0 63 then none
  else
    match runHead s cl, idleOf s cl with
    | some o, some g => some (o, g)
    | _, _ => none

/-- TAKE_RUN_LIST_HEAD (R45): the record leaves the run list, its link at zero, and its image enters the register cache of the core. -/
def execTakeRunListHead (cl : Nat) (s : State) : Host.Outcome State Fault Refusal :=
  match takeable s cl with
  | some (o, g) =>
    let s := endRotation { s with sram := s.sram.settleAll (sramKey cl o) 64 } cl
    let s := setRun s cl ((s.cluster cl).run.erase o)
    let s := sramWrite (setRec s cl o 0 40 4 2) cl (o + 56) 8 0
    let (ctx, s) := contextAt s (fld (recDw s cl o 1) 16 12) (recCtx s cl o)
    .next (trimCache (s.setSlot g (loadSlot s g o ctx)) (coreOf g))
  | none => .next s

/-! ## Traps (R355, R357) -/

/-- Whether a slot can deliver the trap that it holds (R355 step 1). -/
def trapReady (s : State) (g : Nat) : Bool := (s.slot g).trap.isSome && quiet s g

/-- TRAP_DELIVERY (R355). -/
def execTrapDelivery (g : Nat) (s : State) : Host.Outcome State Fault Refusal :=
  if trapReady s g then .next (deliverTrap s g) else .next s

/-- What becomes of the oldest trapped record of a partition (R357): its handler entry is written once the stores of its thread are
performed, it ends because the queue is gone, or none while the entry at `TTAIL` is full. [Log 31: DEDUCED] -/
def writeHandler (s : State) (part : Nat) : Option State :=
  let p := s.part part
  match p.trapped with
  | [] => none
  | t :: ts =>
    let s := s.setPart part { p with trapped := ts }
    match trapQueue s t.cl part with
    | none => some (abortRec s t.cl t.recOfs (hwid (128 * t.cl)))
    | some cl =>
      let q := p.trapq
      let ofs := fld q 5 16 * 32 + 32 * fld q 21 15
      if sramFull s cl ofs || heldAt s part t.cl cl || !storesDone s t.after then none
      else
        let s := sramWrite s cl (ofs + 8) 8 t.info
        let s := sramWriteCap s cl (ofs + 16) (contCap (vcOf s t.cl part t.cl) t.recOfs)
        let s := fillWord s cl ofs t.dw0
        some (s.setPart part { s.part part with trapq := setFld q 21 15 ((fld q 21 15 + 1) % ringSize (fld q 59 4) 8) })

/-- HANDLER_ENTRY_WRITE (R357). -/
def execHandlerEntryWrite (part : Nat) (s : State) : Host.Outcome State Fault Refusal := .next ((writeHandler s part).getD s)

end Sys2Proof.Machine
end

