-- ==== Sys2Proof/Machine/Handover.lean ====
section
/-! DEFINITION. Pre-emption by slot rotation and moving a cluster (17_host R308-R313; 25_faults_execution R350, R365, R367). -/

namespace Sys2Proof.Machine

/-- ROTATION_START (R308): a store to the rotation word; one that is refused changes nothing. -/
def execRotationStart (cl val : Nat) (s : State) : Host.Outcome State Fault Refusal := .next ((storeRotation s cl val).getD s)

/-! ## Visiting a slot (R309) -/

/-- Whether a cluster handover is under way that moves a partition out (R312 step 3). -/
def movingOut (s : State) (cl : Nat) : Bool := let c := s.cluster cl; bitAt c.hand0 63 && bitAt c.hand0 17

/-- Whether a visit takes the thread of slot `g` out: it runs `ROUT`, or its partition leaves the cluster. -/
def leaves (s : State) (g : Nat) : Bool :=
  let cl := clusterOf g
  let w := (s.cluster cl).rotation
  (rotating s cl && bitAt w 25 && (s.slot g).ten == fld w 12 12)
    || (movingOut s cl && partOf s g == fld (s.cluster cl).hand0 8 8)

/-- Whether it is the turn of slot `g` to be visited: every lower slot of its core that holds a thread has been (R309).
[Log 45: DEDUCED] -/
def visitDue (s : State) (g : Nat) : Bool :=
  let cl := clusterOf g
  let vis := (s.cluster cl).visited
  (rotating s cl || movingOut s cl) && (s.slot g).status != .idle && !vis.contains g
    && (List.range (g % 16)).all fun i =>
      let h := g / 16 * 16 + i
      (s.slot h).status == .idle || vis.contains h

/-- Marks a slot visited. [Log 45: DEDUCED] -/
def markVisited (s : State) (g : Nat) : State := s.onCluster (clusterOf g) fun c => { c with visited := g :: c.visited }

/-- A wait that a visit withdraws: the thread resumes at the waiting instruction, whose search, if it is an `end`, is over, and no word after it
is skipped (R309 step 1, R26, R63). A waiter that has passed its limit traps (R364); the claims of a restore that waits are given up, its
area stays (R310). -/
def withdraw (s : State) (g : Nat) : State :=
  let s := match s.net.find? fun r => r.slot == g && (r.phase == .word || r.phase == .noEntry) && !pastLimit s r with
    | some r => withdrawReq s r
    | none => s
  let s := if (s.slot g).status = .parked .restore then releaseAll s g else s
  ((unpin s g).onCore (coreOf g) fun c => { c with waiting := c.waiting.filter fun w => w.2 != g }).onSlot g fun x =>
    { x with fence := none, mark := false }

/-- A slot goes to the Handover state (R309). [Log 45: DEDUCED] -/
def beginVisit (s : State) (g : Nat) : State :=
  markVisited ((withdraw s g).onSlot g fun x => { x with status := .handover }) g

/-- The save of a slot is aborted (R365): the thread stays in its slot. -/
def abortSave (s : State) (g pa : Nat) : State := (saveFailed s g pa).onSlot g fun x => { x with status := .ready }

/-- Steps 2 to 5 of R309, once nothing of the thread is outstanding: a cause goes to the handler queue (R350), otherwise the
resources are saved and the record joins the run list. [Log 18, 45: DEDUCED] -/
def finishVisit (s : State) (g : Nat) : State :=
  let cl := clusterOf g
  let x := s.slot g
  match x.trap, x.deferred with
  | some _, _ => deliverTrap s g
  | none, some t => deliverTrap (s.onSlot g fun x => { x with trap := some { t with p0 := x.p0 }, deferred := none }) g
  | none, none =>
    let s := drainAll s g
    if cannotSave s g then s.onSlot g fun x => { x with status := .ready }
    else
      let c := s.cluster cl
      let k := (freeArea c).getD 0
      let pa := areaPa c k
      let saved := if holdsAny s g then saveTo s g pa else some s
      match saved with
      | none => abortSave s g pa
      | some t =>
        let t := if holdsAny s g then
            (t.onSlot g fun x => { x with ctx := { x.ctx with save := some (cl, k) } }).onCluster cl fun c =>
              { c with saveUsed := k :: c.saveUsed }
          else t
        let t := drainAll t g
        let t := writeBack t g 0 1 x.blk (min (x.ofs + x.skip) 4095) x.p0
        runTail (idleSlot t g) cl x.recOfs

/-- Whether SLOT_HANDOVER can act on a slot: its visit is due, or it is in Handover with nothing outstanding, an access of its word on
the retry ring included (R309, R350). -/
def handoverReady (s : State) (g : Nat) : Bool :=
  match (s.slot g).status with
  | .handover => quiet s g && !walking s g
  | .trapping => false
  | .idle => false
  | _ => visitDue s g

/-- SLOT_HANDOVER (R309, R310): slot `g` is visited; a thread that leaves drains, is saved and goes back to the run list. -/
def execSlotHandover (g : Nat) (s : State) : Host.Outcome State Fault Refusal :=
  if !handoverReady s g then .next s
  else if (s.slot g).status = .handover then .next (finishVisit s g)
  else if !leaves s g || cannotSave s g then .next (markVisited s g)
  else
    let s := beginVisit s g
    .next (if quiet s g && !walking s g then finishVisit s g else s)

/-! ## Moving a cluster (R311, R312) -/

/-- Size of a cluster image (R311). -/
def imageSize : Nat := 0x202000

/-- The doublewords of a state page (R311): the queue words, the held set, the save-area base word and the areas in use, the words of
the record pool, the context pool and the weight versions, and the first record of the run list. The links of the run list stand in
the records, and a handover waits until no wait-list re-check is due. [Log 33: DESIGN CHOICE] -/
def pageDws (c : Cluster) : List Nat :=
  ((List.range 16).flatMap fun q => let w := look 0 c.queues q; [fld w 0 64, fld w 64 64])
    ++ [heldWord c, c.saveBase, c.saveUsed.foldl (fun m k => m + 2 ^ k) 0, c.recPool, c.ctxPool, c.wvWord,
        match c.run with | o :: _ => 2 ^ 63 + o | [] => 0]

/-- Writes the image of a cluster to device memory (R311, R312 step 5); the full/empty bits of the slice go with its words.
[Log 33: DESIGN CHOICE] -/
def writeImage (s : State) (cl pa : Nat) : State :=
  let key := sramKey cl 0
  let s := (List.range (2 ^ 17)).foldl (fun s i =>
    let a := forwardPa s (pa + 16 * i)
    let s := devWrite s noTenant (pa + 16 * i) (bytesOf 16 (s.sram.read (key + 16 * i) 16)) (s.sram.tagAt (key + 16 * i))
    let dev := if s.sram.poisoned (key + 16 * i) 16 then s.dev.makePoison a 16 else s.dev
    { s with dev := (dev.setFull a (s.sram.isFull (key + 16 * i))).setFull (a + 8) (s.sram.isFull (key + 16 * i + 8)) }) s
  let s := (List.range 256).foldl (fun s n =>
    devWrite s noTenant (pa + 0x200000 + 16 * n) (bytesOf 16 (tileOf s cl n)) false) s
  let page := pageDws (s.cluster cl)
  devWrite s noTenant (pa + 0x201000) ((page ++ List.replicate (512 - page.length) 0).flatMap (bytesOf 8)) false

/-- A cluster with its slice, its tile table and its state page at zero (R312 step 5). -/
def blankCluster (s : State) (cl : Nat) : State :=
  let s := { s with sram := s.sram.scrub (sramKey cl 0) (2 ^ 21) }
  s.onCluster cl fun c =>
    { c with
      tiles := [], queues := [], run := [], rechecks := [], heldSet := [], saveBase := 0, saveUsed := [], recPool := 0, ctxPool := 0
      wvWord := 0, usedRecs := [], usedCtx := [] }

/-- Whether an image can be read (R367): it lies in device memory, every word of it can be recovered, and no word of its tile table or its
state page is poison. [Log 33: DESIGN CHOICE] -/
def imageReadable (s : State) (pa : Nat) : Bool :=
  let lost := fun (w : Nat) =>
    let w := forwardPa s (8 * w) / 8
    (synKind (look 0 s.dev.syn w) == .bad || s.lost.contains (dataStack (8 * w))) && !canRebuild s w
  decide (pa + imageSize ≤ devLimit) && !s.stopped && !((wordsOf pa imageSize).any lost)
    && !(wordsOf (pa + 0x200000) 0x2000).any fun w => synKind (look 0 s.dev.syn (forwardPa s (8 * w) / 8)) == .poison

/-- The run list whose first record stands at an offset, by the links of its records (R40); at most `n`. -/
def runFrom (s : State) (cl ofs : Nat) : Nat → List Nat
  | 0 => []
  | n + 1 =>
    let w := recDw s cl ofs 7
    ofs :: if bitAt w 63 then runFrom s cl (fld w 0 21) n else []

/-- The records of a cluster's pool that are not free. -/
def recsInUse (s : State) (cl : Nat) : List Nat :=
  let w := (s.cluster cl).recPool
  if !bitAt w 63 then []
  else ((List.range (fld w 32 15 + 1)).map fun i => 64 * (fld w 6 15 + i)).filter fun o => recState s cl o != 0

/-- Loads an image into a cluster that is at zero (R311-R313). [Log 33: DESIGN CHOICE] -/
def loadImage (s : State) (cl pa : Nat) : State :=
  let key := sramKey cl 0
  let s := devSettle s pa imageSize
  let s := (List.range (2 ^ 17)).foldl (fun s i =>
    let a := pa + 16 * i
    let d := forwardPa s a
    let st := s.sram.writeTagged (key + 16 * i) (devRead s noTenant a 16) (s.dev.tagAt d)
    let st := if devPoisoned s a 16 then st.makePoison (key + 16 * i) 16 else st
    { s with sram := (st.setFull (key + 16 * i) (s.dev.isFull d)).setFull (key + 16 * i + 8) (s.dev.isFull (d + 8)) }) s
  let s := (List.range 256).foldl (fun s n => setTile s cl n (devRead s noTenant (pa + 0x200000 + 16 * n) 16)) s
  let dw := fun (o : Nat) => devRead s noTenant (pa + 0x201000 + o) 8
  let held := (List.range 4).filterMap fun i => if bitAt (dw 0x100) (16 * i + 15) then some (fld (dw 0x100) (16 * i) 12) else none
  let s := s.onCluster cl fun c =>
    { c with
      queues := (List.range 16).foldl (fun m q => put 0 m q (dw (16 * q) + dw (16 * q + 8) * 2 ^ 64)) []
      heldSet := held, saveBase := dw 0x108, saveUsed := (List.range 64).filter fun k => bitAt (dw 0x110) k
      recPool := dw 0x118, ctxPool := dw 0x120, wvWord := dw 0x128 }
  let recs := recsInUse s cl
  let run := if bitAt (dw 0x130) 63 then runFrom s cl (fld (dw 0x130) 0 21) 32768 else []
  s.onCluster cl fun c => { c with run := run, usedRecs := recs, usedCtx := recs.map (recCtx s cl) }

/-- Whether some Swallowtail layer that a thread of a partition kicked is in progress (R312 step 2). -/
def layerOf (s : State) (part : Nat) : Bool := s.engines.any fun ex => ex.2.layers.any fun l => l.cmd.kick.part == part

/-- Whether a handover under way can be finished: no layer of `HOUT`, no slot of the cluster at work, nothing of it on its way, and no
wait-list re-check due (R312 steps 2 and 3). -/
def moveReady (s : State) (cl : Nat) : Bool :=
  let c := s.cluster cl
  bitAt c.hand0 63 &&
    (!bitAt c.hand0 17 ||
      (!layerOf s (fld c.hand0 8 8) && c.packet.isNone && c.rechecks.isEmpty && !(s.slots.any fun gx => clusterOf gx.1 == cl && gx.2.status != .idle)
        && !(s.stores.any fun d => clusterOf d.slot == cl) && (s.engine (2 * cl)).cmds.isEmpty && (s.engine (2 * cl)).kicks.isEmpty
        && (s.engine (2 * cl + 1)).cmds.isEmpty && (s.engine (2 * cl + 1)).kicks.isEmpty))

/-- The partition of a request that stands at a cluster, sent from another one. -/
def atCluster (s : State) (cl : Nat) (r : Request) : Option Nat :=
  let here := match r.tgt with
    | .sram c _ => c == cl
    | .ctl c _ => c == cl
    | _ => false
  if here && clusterOf r.slot != cl then some (partOf s r.slot) else none

/-- The dirty register lines of a cluster's records are written to their images (R312 step 3). -/
def evictAll (s : State) (cl : Nat) : State :=
  (s.cluster cl).usedRecs.foldl (fun s o => evictImage s (recCtx s cl o) (fld (recDw s cl o 1) 16 12)) s

/-- The partition `pout` leaves a cluster (R312 steps 3 to 5): its register lines and the image are written, its translations and match-cache
lines dropped, and accesses of other clusters on its wait list are held with the rest. -/
def moveOut (s : State) (cl pout pa : Nat) : State :=
  let s := writeImage (evictAll s cl) cl pa
  let keep := fun (l : List TlbEntry) => l.filter fun e => e.part != pout
  let held := fun (r : Request) =>
    if atCluster s cl r == some pout && (r.phase == .word || r.phase == .noEntry) && !pastLimit s r then { r with phase := .sent } else r
  let drop := fun (kc : Nat × Core) =>
    if kc.1 / 8 = cl then (kc.1, { kc.2 with dtlb := keep kc.2.dtlb, itlb := keep kc.2.itlb }) else kc
  let s := { s with net := s.net.map held, cores := s.cores.map drop }
  s.onCluster cl fun c =>
    { c with
      tlb := keep c.tlb, lines := [], hdrLines := [], known := []
      heldFor := if c.heldFor.contains pout then c.heldFor else c.heldFor ++ [pout] }

/-! ## Requests of links that a cluster holds -/

/-- The partition that a virtual function is bound to (R297). [Log 48: DEDUCED] -/
def vfPart (s : State) (vf : Nat) : Option Nat := (s.parts.find? fun kp => kp.2.vf == some vf).map (·.1)

/-- The cluster of a link's request for a partition's virtual cluster. -/
def linkCluster (s : State) (part vc : Nat) : Option Nat := vcMap s (linkCopy s part) part vc

/-- The partition and cluster of a request of a virtual function for a slice or a control window (R297). -/
def vfTarget (s : State) (vf addr n : Nat) : Option (Nat × Nat) :=
  (vfPart s vf).bind fun part =>
    match placeOf addr n with
    | .sram 0x3FFFF vc _ => (linkCluster s part vc).map fun cl => (part, cl)
    | .ctl 0x3FFFF vc _ => (linkCluster s part vc).map fun cl => (part, cl)
    | _ => none

/-- Whether a request of a virtual function is held at its cluster for a handover (R312, R313). [Log 45: DEDUCED] -/
def vfHeld (s : State) (vf addr n : Nat) : Bool :=
  (vfTarget s vf addr n).any fun pc => !nacked s pc.2 && heldAt s pc.1 noCluster pc.2

/-- A completion for a virtual function. -/
def vfAnswer (s : State) (vf : Nat) (rd : Bool) (tag status val : Nat) : State :=
  { s with vfReply := s.vfReply ++ [{ vf := vf, rd := rd, tag := tag % 256, status := status, val := val }] }

/-- The cluster that an access-control entry's partition maps a virtual cluster to (R301). -/
def aclCluster (s : State) (e vc : Nat) : Option Nat := linkCluster s (fld e 21 8) vc

/-- The reply to a request of another part that expects one: a read or an atomic. -/
def peerAnswer (s : State) (chip ten kind : Nat) (v : Option Nat) : State :=
  if kind = 1 ∨ kind = 2 then { s with peerOut := s.peerOut ++ [{ chip := chip, ten := ten, ok := v.isSome, val := v.getD 0 }] } else s

/-- The requests of other parts that wait at clusters, by partition and cluster, are answered with a NACK (R393). -/
def nackPeers (s : State) (at_ : Nat → Nat → Bool) : State :=
  let hit := fun (w : PeerWait) => match placeOf w.addr w.len with
    | .sram _ vc _ => (aclCluster s w.entry vc).any fun cl => at_ (fld w.entry 21 8) cl
    | _ => false
  let gone := s.peerIn.filter hit
  gone.foldl (fun s w => peerAnswer s w.chip w.ten w.kind none) { s with peerIn := s.peerIn.filter fun w => !hit w }

/-- The requests of virtual functions that a cluster holds: a write is dropped, and a read receives an error completion (R393). -/
def nackVfs (s : State) (cl : Nat) : State :=
  let hit := fun (vf addr n : Nat) => vfHeld s vf addr n && (vfTarget s vf addr n).any fun pc => pc.2 == cl
  let gone := fun (i : Instr) => match i with
    | .vfPostedWrite vf addr len _ _ _ => hit vf addr len
    | .vfTaggedRead vf _ addr len => hit vf addr len
    | _ => false
  (s.inbox.filter gone).foldl (fun s i => match i with
    | .vfTaggedRead vf tag _ _ => vfAnswer s vf true tag 2 0
    | _ => s) { s with inbox := s.inbox.filter fun i => !gone i }

/-! ## What a cluster whose image cannot be read answers (R367, R393) -/

/-- Whether a range of a sender lies in a cluster that holds the sender's requests. -/
def heldIn (s : State) (cl : Nat) (b : Sender) (sp : Nat × Nat) : Bool :=
  b.cl != cl && heldAt s b.part b.cl cl && (piecesOf (2 ^ 21) sp.1 sp.2).any fun p =>
    match locateFor s b p.1 p.2 1 with
    | some (.at_ (.sram c _) _) => c == cl
    | some (.at_ (.ctl c _) _) => c == cl
    | _ => false

/-- The accesses of one engine that a cluster holds: its command or layer ends with no fill, a kick whose argument record it cannot read is
refused. -/
def nackEngine (s : State) (cl e : Nat) : State :=
  let s := match runningCmd s e with
    | some c => (match (c.ranges e).find? (heldIn s cl c.kick.sender) with
      | some sp => if c.entered then failCmd s e c 0x50 sp.1 (nackAux s cl) else s
      | none => s)
    | none => s
  let die := (e - 768) / 5
  let s := if e < 768 ∨ idOf e ≠ 4 then s else match topLayer s die with
    | some l =>
      let home := fun (x : Nat) => (reach s l.cmd.kick.cl l.cmd.kick.part (l.exp x).home) == some cl && heldAt s l.cmd.kick.part l.cmd.kick.cl cl
      let met := if l.stage = 2 then (toSpawn l).head?.bind fun x => if home x then some (sramAddr (l.exp x).home 0, 0) else none
        else l.ranges.find? (heldIn s cl l.cmd.kick.sender)
      (match met with
      | some sp => if l.failed then s else failLayer s die l (sp.1, 0x50, nackAux s cl)
      | none => s)
    | none => s
  match (s.engine e).kicks with
  | k :: _ => if k.fn ≠ 0x10 && heldIn s cl k.sender (k.a.addr, if idOf e = 4 then 256 else 64) then takeKick s e k 2 else s
  | [] => s

/-- The creation message that the launch of a scheduler has on its way to a cluster that holds it is dropped (R394). -/
def nackCreation (s : State) (cl from_ lid : Nat) : State :=
  match s.launch from_ lid with
  | none => s
  | some l =>
    match l.next with
    | none => s
    | some wid =>
      if heldAt s l.part from_ cl && reach s from_ l.part (homeOf l.shape wid) == some cl then creationSent s from_ lid wid l false else s

/-- What the array, the streams and the fetches of slot `g` have under way that a cluster holds. -/
def nackSlot (s : State) (cl g : Nat) : State :=
  let c := s.core (coreOf g)
  let b := fun (n : Nat) => opSender s g n
  let loads := (c.oloads.filter fun j => j.slot == g && (j.reading s).any fun i => heldIn s cl (b j.since) (j.block i)).map fun j => (j.ofs, j.since)
  let ops := (c.queue.filter fun e => e.slot == g && e.spans.any (heldIn s cl (b e.since))).map fun e => (e.ofs, e.since)
  let s := (loads ++ ops).foldl (fun s on => failThread s g .access on.1 (some on.2) 0) s
  let outs := (s.slot g).ports.map (·.1)
  let s := outs.foldl (fun s p =>
    let q := (s.slot g).port p
    let gone := fun (e : OutElem) => match e.tgt with | .sram k _ => k == cl && heldAt s (partOf s g) (clusterOf g) cl | _ => false
    let s := (q.outQ.filter gone).foldl (fun s e => faultEntry s (clusterOf g) 0x02 0x50 (s.slot g).ten (hwid g) e.ea (nackAux s cl)) s
    let s := setPort s g p { (s.slot g).port p with outQ := q.outQ.filter fun e => !gone e }
    if q.dir = 1 && decide (q.nextIn < q.total) && decide (q.fetched.length < 8) && heldIn s cl (threadSender s g) q.nextRead then
      fetchedInto s g p ⟨0, false, some .access⟩ else s) s
  match (s.slot g).status with
  | .parked (.held ea n) => if heldIn s cl (threadSender s g) (ea, n) then trapHere s g .access ea else s
  | _ => s

/-- The requests that a cluster holds are answered with a NACK, and the decrements that it holds are dropped (R367, R393). -/
def nackHeld (s : State) (cl hin : Nat) : State :=
  let held := fun (p : Nat) => p == hin || (s.cluster cl).heldFor.contains p
  let rs := s.net.filter fun r => r.phase == .sent && (atCluster s cl r).any held
  let s := nackVfs (nackPeers s fun part c => c == cl && held part) cl
  let s := s.engines.foldl (fun s ex => nackEngine s cl ex.1) s
  let s := s.clusters.foldl (fun s kc => kc.2.launches.foldl (fun s kl => nackCreation s cl kc.1 kl.1) s) s
  let s := (s.slots.filter fun gx => clusterOf gx.1 != cl).foldl (fun s gx => nackSlot s cl gx.1) s
  rs.foldl (fun s r => nackReq s r cl) { s with decs := s.decs.filter fun d => !(d.cl == cl && held d.part) }

/-- Steps 4 to 6 of R312. An image that cannot be read leaves the cluster at zero, and its held requests are answered with a NACK
(R367). [Log 45: DEDUCED] -/
def finishMove (s : State) (cl : Nat) : State :=
  let c := s.cluster cl
  let h := c.hand0
  let hin := fld h 0 8
  let pa := c.hand2 / 4096 * 4096
  let s := endRotation s cl
  let s := if bitAt h 17 then moveOut s cl (fld h 8 8) (c.hand1 / 4096 * 4096) else s
  let s := blankCluster s cl
  let s :=
    if pa = 0 then s
    else if imageReadable s pa then loadImage s cl pa
    else nackHeld (monitorEvent s 9 cl pa) cl hin
  s.onCluster cl fun c =>
    { c with
      owner := setFld c.owner 0 8 hin, hand0 := setFld h 61 3 0, visited := []
      heldFor := if bitAt h 16 then c.heldFor.filter (· != hin) else c.heldFor }

/-- CLUSTER_HANDOVER (R312): a store to handover doubleword 0; while a handover is under way, its last steps once they can be made. -/
def execClusterHandover (cl val : Nat) (s : State) : Host.Outcome State Fault Refusal :=
  if bitAt (s.cluster cl).hand0 63 then .next (if moveReady s cl then finishMove s cl else s)
  else .next (storeHandover s cl val)

end Sys2Proof.Machine
end

