-- ==== Sys2Proof/Machine/Host.lean ====
section
/-! DEFINITION. What reaches the part over its links: stores to control words, virtual functions, peers, and the function-level
reset (17_host R296-R306, 26_faults_memory R369, 28_faults_containment R403, R404). -/

namespace Sys2Proof.Machine

/-! ## Stores to control words -/

/-- QUEUE_WORD_STORE (R298, R299): a store that traps ACCESS changes nothing. -/
def execQueueWordStore (cl q val prv part : Nat) (s : State) : Host.Outcome State Fault Refusal :=
  .next (if q < 16 then (ctlStore s cl (0x1000 + 16 * q) 16 val prv part).getD s else s)

/-- POOL_WORD_STORE (R306). -/
def execPoolWordStore (cl ofs val prv part : Nat) (s : State) : Host.Outcome State Fault Refusal :=
  .next (if ofs = 0x518 ∨ ofs = 0x520 then (ctlStore s cl ofs 8 val prv part).getD s else s)

/-- COCOON_WORD_STORE (R389). -/
def execCocoonWordStore (cl n val prv part : Nat) (s : State) : Host.Outcome State Fault Refusal :=
  .next (if n < 8 then (ctlStore s cl (0x700 + 8 * n) 8 val prv part).getD s else s)

/-- PAIR_WORD_STORE (R396). -/
def execPairWordStore (cl val prv part : Nat) (s : State) : Host.Outcome State Fault Refusal :=
  .next ((ctlStore s cl 0x740 8 val prv part).getD s)

/-- CONTROL_WORD_WRITE (R296). -/
def execControlWordWrite (cl ofs size val prv part : Nat) (s : State) : Host.Outcome State Fault Refusal :=
  .next ((ctlStore s cl ofs size val prv part).getD s)

/-! ## Virtual functions -/

/-- The tenant under whose key a line is written; `noTenant` where there is none. A request that carries no tenant uses it.
[Log 48: DEDUCED] -/
def lineTenant (s : State) (pa : Nat) : Nat := keyHolder s (forwardPa s pa / 64)

/-- The slot arrays of enabled queues that a write meets. [Log 49: DEDUCED] -/
def queuesHit (s : State) (cl ofs n : Nat) : List Nat :=
  (List.range 16).filter fun q =>
    let w := look 0 (s.cluster cl).queues q
    bitAt w 63 && decide (ofs < (slotArray w).1 + (slotArray w).2 ∧ (slotArray w).1 < ofs + n)

/-- Whether virtual function `vf` may write the slots of a queue (R298, R300). [Log 49: DEDUCED] -/
def vfMayWrite (s : State) (cl vf q : Nat) : Bool :=
  let w := look 0 (s.cluster cl).queues q
  bitAt w 111 && fld w 112 6 == vf

/-- The slots whose doubleword 0 lies whole in a write, among those of a queue. [Log 47: DEDUCED] -/
def wholeHeads (s : State) (cl q ofs n : Nat) : List Nat :=
  let a := slotArray (look 0 (s.cluster cl).queues q)
  ((List.range (a.2 / 128)).map fun i => a.1 + 128 * i).filter fun o => decide (ofs ≤ o ∧ o + 8 ≤ ofs + n)

/-- The granules that a write covers whole. [Log 47: DEDUCED] -/
def wholeGranules (ofs n : Nat) : List Nat := (granulesOf ofs n).filter fun k => decide (ofs ≤ 16 * k ∧ 16 * k + 16 ≤ ofs + n)

/-- Whether a granule of a slice is a capability field of a slot of one of the queues: bytes 0x20 to 0x4F (R297).
[Log 48: DEDUCED] -/
def capField (s : State) (cl : Nat) (qs : List Nat) (k : Nat) : Bool :=
  qs.any fun q =>
    let a := slotArray (look 0 (s.cluster cl).queues q)
    let o := (16 * k - a.1) % 128
    decide (a.1 ≤ 16 * k ∧ 16 * k < a.1 + a.2) && decide (0x20 ≤ o ∧ o < 0x50)

/-- The words that a write which asks for it sets full: doubleword 0 of each slot whose doubleword 0 it covers (R29), or, outside
every slot array, each word that it covers whole. [Log 47: DEDUCED] -/
def wordsFilled (s : State) (cl ofs n : Nat) (qs : List Nat) : List Nat :=
  if qs.isEmpty then ((wordsOf ofs n).filter fun w => decide (ofs ≤ 8 * w ∧ 8 * w + 8 ≤ ofs + n)).map (8 * ·)
  else qs.flatMap fun q => wholeHeads s cl q ofs n

/-- A write of a link to a slice that is performed: its bytes, the tags that it sets, and the full bits of the slots of queues `qs`
(R29, R75, R297); `mayTag` says which granules receive their tag bit. [Log 47: DEDUCED] -/
def linkWrite (s : State) (cl ofs n data : Nat) (qs : List Nat) (mayTag : Nat → Bool) (tags : Nat) (full : Bool) : State :=
  let s := sramWrite s cl ofs n data
  let set := (wholeGranules ofs n).zipIdx.filter fun ki => bitAt tags ki.2 && mayTag ki.1
  let s := { s with sram := { s.sram with
    tags := set.foldl (fun (t : Sparse Bool) ki => put false t (sramKey cl (16 * ki.1) / 16) true) s.sram.tags } }
  if full then (wordsFilled s cl ofs n qs).foldl (fun s o => setWordFull s cl o true) s else s

/-- A posted write to a slice (R297, R300): one that meets a queue whose slots the function may not write is dropped whole; tags are set in
the capability fields of the function's queues, enabled or not. [Log 47: DEDUCED] -/
def vfSramWrite (s : State) (vf cl ofs n addr data tags : Nat) (full : Bool) : State :=
  let qs := queuesHit s cl ofs n
  match qs.find? fun q => !vfMayWrite s cl vf q with
  | some q => dropQueueWrite s cl q addr vf
  | none => linkWrite s cl ofs n data qs (capField s cl ((List.range 16).filter (vfMayWrite s cl vf))) tags full

/-- The bytes of device memory that a piece of a virtual function's request names: the device virtual address is an intermediate
address (R297). [Log 48: DEDUCED] -/
def vfPa (s : State) (part ia need : Nat) : Option Nat :=
  match stage2 s part ia need with
  | .inr (pa, _, _) => some pa
  | .inl _ => none

/-- A posted write to device memory, in pieces of a line; a piece that stage 2 does not permit is dropped. -/
def vfDevWrite (s : State) (part va n data : Nat) : State :=
  ((piecesOf 64 va n).foldl (fun (acc : State × Nat) p =>
    let s := settleStage2 acc.1 part p.1
    let t := match vfPa s part p.1 2 with
      | some pa => devWrite s (lineTenant s pa) pa (bytesOf p.2 (acc.2 % 2 ^ (8 * p.2))) false
      | none => s
    (t, acc.2 / 2 ^ (8 * p.2))) (s, data)).1

/-- A posted write of a virtual function bound to a partition. [Log 48: DEDUCED] -/
def vfWrite (s : State) (vf part addr n data tags : Nat) (full : Bool) : State :=
  match placeOf addr n with
  | .dev va => vfDevWrite s part va n data
  | .sram 0x3FFFF vc ofs =>
    match linkCluster s part vc with
    | some cl => if nacked s cl then s else vfSramWrite s vf cl ofs n addr data tags full
    | none => s
  | .ctl 0x3FFFF vc ofs =>
    match linkCluster s part vc with
    | some cl => if nacked s cl then s else (ctlStore s cl ofs n data 1 part).getD s
    | none => s
  | _ => s

/-- Whether a function has requests outstanding: those that are held (R319). -/
def vfOutstanding (s : State) (vf : Nat) : Bool :=
  s.inbox.any fun i => match i with
    | .vfPostedWrite v addr len _ _ _ => v == vf && vfHeld s v addr len
    | .vfTaggedRead v _ addr len => v == vf && vfHeld s v addr len
    | _ => false

/-- VF_POSTED_WRITE (R297, R300): one that is held changes nothing yet; one of an unbound function is an unsupported request. A part
whose boot failed answers none (R314). -/
def execVfPostedWrite (vf addr len data tags : Nat) (full : Bool) (s : State) : Host.Outcome State Fault Refusal :=
  if !s.hawk.booted || vfHeld s vf addr len then .next s
  else
    match vfPart s vf with
    | some part => .next (if len = 0 then s else vfWrite s vf part addr len data tags full)
    | none => .next (vfAnswer s vf false 0 1 0)

/-- The bytes that a link reads, poisoned words replaced by free values (R372). -/
def linkBytes (s : State) (bs : List (BitVec 8)) (psn : Nat → Bool) : List (BitVec 8) :=
  bs.zipIdx.map fun bi => if psn bi.2 then Config.poisonByte (s.free + bi.2) else bi.1

/-- A read of a slice by a link. -/
def linkReadSram (s : State) (cl ofs n : Nat) : Nat × State :=
  let s := { s with sram := s.sram.settleAll (sramKey cl ofs) n }
  let bs := (List.range n).map fun i => look 0 s.sram.bytes (sramKey cl ofs + i)
  (ofBytes (linkBytes s bs fun i => s.sram.poisoned (sramKey cl ofs + i) 1), { s with free := s.free + n })

/-- A read of device memory by a link, under one tenant's key. -/
def linkReadDev (s : State) (ten pa n : Nat) : Nat × State :=
  let s := devSettle s (forwardPa s pa) n
  (ofBytes (linkBytes s (devBytes s ten pa n) fun i => devPoisoned s (pa + i) 1), { s with free := s.free + n })

/-- Pieces of device memory read in order; none where one is not permitted. `walk` reads the table entries of a piece, and `pa` gives its
physical address (R368). -/
def readDevPieces (s : State) (walk : State → Nat → State) (pa : State → Nat → Option Nat) (ten : State → Nat → Nat) :
    List (Nat × Nat) → Option Nat × State
  | [] => (some 0, s)
  | (a, n) :: ps =>
    let s := walk s a
    match pa s a with
    | none => (none, s)
    | some x =>
      let (v, s) := linkReadDev s (ten s x) x n
      match readDevPieces s walk pa ten ps with
      | (some w, s) => (some (v + w * 2 ^ (8 * n)), s)
      | r => r

/-- A tagged read of a virtual function bound to a partition: none is an error completion. [Log 48: DEDUCED] -/
def vfRead (s : State) (part addr n : Nat) : Option Nat × State :=
  match placeOf addr n with
  | .dev va => readDevPieces s (fun s a => settleStage2 s part a) (fun s a => vfPa s part a 1) lineTenant (piecesOf 64 va n)
  | .sram 0x3FFFF vc ofs =>
    match linkCluster s part vc with
    | some cl => if nacked s cl then (none, s) else let (v, s) := linkReadSram s cl ofs n; (some v, s)
    | none => (none, s)
  | .ctl 0x3FFFF vc ofs =>
    match linkCluster s part vc with
    | some cl =>
      if nacked s cl ∨ ofs % n ≠ 0 ∨ !([1, 2, 4, 8, 16].contains n) then (none, s) else (some (ctlRead s cl ofs n), s)
    | none => (none, s)
  | _ => (none, s)

/-- VF_TAGGED_READ (R297): the completion carries the bytes, or is an error, or an unsupported request where the function is bound to
no partition. One that is held changes nothing yet. -/
def execVfTaggedRead (vf tag addr len : Nat) (s : State) : Host.Outcome State Fault Refusal :=
  if !s.hawk.booted || vfHeld s vf addr len then .next s
  else
    match vfPart s vf with
    | none => .next (vfAnswer s vf true tag 1 0)
    | some part =>
      let r := if len = 0 then (none, s) else vfRead s part addr len
      .next (vfAnswer r.2 vf true tag (if r.1.isSome then 0 else 2) (r.1.getD 0))

/-! ## Peers -/

/-- Whether an entry of the access-control table is valid for a source (R301). [Log 50: DEDUCED] -/
def aclFor (chip ten e : Nat) : Bool := bitAt e 63 && fld e 29 18 == chip && fld e 47 12 == ten

/-- Whether the target of a request lies in the slots of the enabled queue that an entry names (R301). -/
def aclQueue (s : State) (e vc ofs n : Nat) : Bool :=
  bitAt e 62 && fld e 1 10 == vc && match aclCluster s e vc with
    | some cl =>
      let w := look 0 (s.cluster cl).queues (fld e 11 4)
      bitAt w 63 && decide ((slotArray w).1 ≤ ofs ∧ ofs + n ≤ (slotArray w).1 + (slotArray w).2)
    | none => false

/-- Whether an entry gives all of its partition's SRAM to a request (R301): over scale-up only. -/
def aclAnySram (s : State) (up : Bool) (kind e vc : Nat) : Bool :=
  up && bitAt e 61 && kind != 3 && (aclCluster s e vc).isSome

/-- Whether an entry matches the target of a request of a kind (R301): the slots of its queue, any SRAM, or its export. `up` tells
scale-up from scale-out. [Log 50: DEDUCED] -/
def aclMatches (s : State) (up : Bool) (kind : Nat) (p : Place) (n e : Nat) : Bool :=
  match p with
  | .sram c vc ofs => isThisChip s c && (aclQueue s e vc ofs n || aclAnySram s up kind e vc)
  | .exported c num _ => isThisChip s c && (bitAt e 60 || bitAt e 59) && fld e 15 6 == num
  | _ => false

/-- Whether the entry that decides grants a request. [Log 50: DEDUCED] -/
def aclGrants (s : State) (up : Bool) (kind : Nat) (p : Place) (n e : Nat) : Bool :=
  match p with
  | .sram _ vc ofs => aclAnySram s up kind e vc || ((kind == 0 || kind == 3) && aclQueue s e vc ofs n)
  | .exported .. =>
    if kind = 0 then bitAt e 59 else if kind = 1 then bitAt e 60 else kind == 2 && bitAt e 59 && bitAt e 60
  | _ => false

/-- A request of another part refused by the table is reported (R301, R362). [Log 50: DEDUCED] -/
def refusePeer (s : State) (chip ten kind addr : Nat) : State :=
  let s := monitorEvent s 10 (chip % 2 ^ 18 + ten % 2 ^ 12 * 2 ^ 18) addr
  let named := ((s.acl.filter fun ke => aclFor chip ten ke.2).map fun ke => fld ke.2 21 8).eraseDups
  named.foldl (fun s p =>
    match linkCluster s p 0 with
    | some cl => faultEntry s cl 0x03 0x22 ten 0 addr (chip % 2 ^ 18 + ten % 2 ^ 12 * 2 ^ 18 + kind % 4 * 2 ^ 30)
    | none => s) s

/-- A store of another part enters the trace ring (R140): the request does not carry its core and slot.
[Log 16: DESIGN CHOICE] -/
def tracePeer (s : State) (cl ofs chip : Nat) : State :=
  traceStore { s with free := s.free + 1 } cl ofs (Config.peerSource s.free % 2 ^ 12) (Config.peerSource s.free / 2 ^ 12 % 16) chip

/-- A full/empty access of another part whose word is in the state that it needs (R71, R206). [Log 50: DEDUCED] -/
def peerFe (s : State) (chip ten fn cl ofs data : Nat) : State :=
  let full := sramFull s cl ofs
  let (v, s) := linkReadSram s cl ofs 8
  match fn with
  | 0 => peerAnswer (tracePeer (setWordFull s cl ofs false) cl ofs chip) chip ten 2 (some v)
  | 1 => peerAnswer s chip ten 2 (some v)
  | 2 => tracePeer (fillWord s cl ofs (data % 2 ^ 64)) cl ofs chip
  | 3 => tracePeer (fillWord s cl ofs (data % 2 ^ 64)) cl ofs chip
  | 4 => peerAnswer s chip ten 2 (some (if full then 1 else 0))
  | 5 => tracePeer (setWordFull s cl ofs false) cl ofs chip
  | _ => tracePeer (setWordFull s cl ofs true) cl ofs chip

/-- The function of an atomic of another part: it stands in bits 132:128 of the data; functions from 16 are the full/empty accesses
of R206. -/
def peerFn (data : Nat) : Nat := fld data 128 5

/-- An atomic of another part at a slice (R208, R140): the compared value stands in bits 127:64. [Log 50: DEDUCED] -/
def peerAtomic (s : State) (chip ten cl ofs n data : Nat) : State :=
  let fn := peerFn data
  if 16 ≤ fn then peerFe s chip ten (fn - 16) cl ofs data
  else
    let (old, s) := linkReadSram s cl ofs n
    let psn := s.sram.poisoned (sramKey cl ofs) n
    let (new, _) := amoNew fn (8 * n) old (data % 2 ^ (8 * n)) (fld data 64 (8 * n))
    let s := match new with
      | some v =>
        let t := sramWrite s cl ofs n v
        if psn && amoKeepsPoison fn n then { t with sram := t.sram.makePoison (sramKey cl ofs) n } else t
      | none => s
    peerAnswer (tracePeer s cl ofs chip) chip ten 2 (some old)

/-- The tag that a request of another part carries beside a capability's 16 bytes: bit 128 of the data of its `st.c`, and of the answer to its
`ld.c` (R75). -/
def tagBit (n : Nat) (tag : Bool) : Nat := if n = 16 ∧ tag then 2 ^ 128 else 0

/-- A granted request at a slice (R71, R300): a write to the slots of a queue without `QPEER` is dropped and reported. -/
def peerSram (s : State) (chip ten kind cl ofs n addr data : Nat) : State :=
  let qs := queuesHit s cl ofs n
  if nacked s cl then peerAnswer s chip ten kind none
  else if kind = 1 then
    let (v, s) := linkReadSram s cl ofs n
    peerAnswer s chip ten kind (some (v + tagBit n (ofs % 16 == 0 && s.sram.tagAt (sramKey cl ofs))))
  else
    match qs.find? fun q => !bitAt (look 0 (s.cluster cl).queues q) 110 with
    | some q => peerAnswer (dropQueueWrite s cl q addr chip) chip ten kind none
    | none =>
      if kind = 2 then peerAtomic s chip ten cl ofs n data
      else tracePeer (linkWrite s cl ofs n data qs (fun _ => n == 16) (fld data 128 1) (kind == 3)) cl ofs chip

/-- The translation of a byte of an export (R70): the exporting part translates it with its own tables.
[Log 17: DESIGN CHOICE] -/
def exportEntry (s : State) (part need va : Nat) : Option TlbEntry :=
  match walkTables s part (asidOf s part) va need false with
  | .inr e => some e
  | .inl _ => none

/-- A write to device memory of an export, in pieces of a line; a store through a guarded page, `count`, is counted in the weight version
table of the partition's virtual cluster 0 (R79). -/
def exportWrite (s : State) (part ten va n data : Nat) (count : Bool) : State :=
  ((piecesOf 64 va n).foldl (fun (acc : State × Nat) p =>
    let s := settleTables acc.1 part p.1
    let t := match exportEntry s part 2 p.1 with
      | some e =>
        let t := devWrite s ten (e.at p.1) (bytesOf p.2 (acc.2 % 2 ^ (8 * p.2))) (n == 16 && va % 16 == 0 && bitAt data 128)
        match (if count && e.grd then linkCluster t part 0 else none) with
        | some cl => countGuarded t cl part [e.ridx]
        | none => t
      | none => s
    (t, acc.2 / 2 ^ (8 * p.2))) (s, data)).1

/-- The physical address of a byte of an export, where its page permits the access. -/
def exportPa (s : State) (part need va : Nat) : Option Nat := (exportEntry s part need va).map (·.at va)

/-- An atomic of another part at an export, whose old value has been read (R208, R372). -/
def exportAtomic (s : State) (part ten va n data old : Nat) : State :=
  let pa := (exportPa s part 3 va).getD 0
  let psn := devPoisoned s pa n
  match (amoNew (peerFn data) (8 * n) old (data % 2 ^ (8 * n)) (fld data 64 (8 * n))).1 with
  | some v =>
    let t := exportWrite s part ten va n v false
    if psn && amoKeepsPoison (peerFn data) n then { t with dev := t.dev.makePoison (forwardPa t pa) n } else t
  | none => s

/-- A granted request at an export (R70, R316, R369): one past its length, or for a tenant that holds no key, is refused.
[Log 17: DESIGN CHOICE] -/
def peerExport (s : State) (chip ten kind part num ofs n data : Nat) : State :=
  let va := Config.exportBase part num + ofs
  let owner := Config.exportTenant part num
  if Config.exportLen part num < ofs + n ∨ !hasKey s owner then peerAnswer s chip ten kind none
  else if kind = 0 then exportWrite s part owner va n data true
  else
    let need := if kind = 1 then 1 else 3
    match readDevPieces s (fun s a => settleTables s part a) (fun s a => exportPa s part need a) (fun _ _ => owner) (piecesOf 64 va n) with
    | (none, s) => peerAnswer s chip ten kind none
    | (some old, s) =>
      if kind = 1 then
        let tag := (exportPa s part 1 va).any fun pa => pa % 16 == 0 && s.dev.tagAt (forwardPa s pa)
        peerAnswer s chip ten kind (some (old + tagBit n tag))
      else peerAnswer (exportAtomic s part owner va n data old) chip ten kind (some old)

/-- The source chip and tenant of a request (R301, R319): over scale-up the request carries them, over scale-out they are those of
the queue pair on which it arrives. None where the port carries no traffic or has no such pair. [Log 50: DEDUCED] -/
def peerFrom (s : State) (via : PeerRoute) (ten : Nat) : Option (Nat × Nat) :=
  if !portLive s via.port then none
  else if via.port < 36 then some (via.chip, ten)
  else (s.hawk.qps.find? fun q => q.qp == via.qp && q.port + 36 == via.port).map fun q => (q.chip, q.ten)

/-- The entry that grants a request: the lowest-numbered one that matches, if it has the right (R301). -/
def peerEntry (s : State) (up : Bool) (chip ten kind addr len : Nat) : Option Nat :=
  match s.acl.find? fun ke => aclFor chip ten ke.2 && aclMatches s up kind (placeOf addr len) len ke.2 with
  | some ke => if aclGrants s up kind (placeOf addr len) len ke.2 then some ke.2 else none
  | none => none

/-- Whether a granted request waits at its cluster: it is held for a handover (R312, R313), or its word is not in the state that it
needs (R206). [Log 45, 50: DEDUCED] -/
def peerHeld (s : State) (e kind addr len data : Nat) : Bool :=
  match placeOf addr len with
  | .sram _ vc ofs =>
    match aclCluster s e vc with
    | some cl =>
      !nacked s cl && (heldAt s (fld e 21 8) noCluster cl
        || (kind == 2 && decide (16 ≤ peerFn data) && !feReady (peerFn data - 16) (sramFull s cl ofs)))
    | none => false
  | _ => false

/-- Whether an earlier request of the same source to bytes of the range waits. -/
def peerBehind (ws : List PeerWait) (chip ten addr len : Nat) : Bool :=
  ws.any fun w => w.chip == chip && w.ten == ten && decide (w.addr < addr + len ∧ addr < w.addr + w.len)

/-- A granted request performed. -/
def peerDo (s : State) (e chip ten kind addr len data : Nat) : State :=
  match placeOf addr len with
  | .sram _ vc ofs =>
    match aclCluster s e vc with
    | some cl => peerSram s chip ten kind cl ofs len addr data
    | none => peerAnswer s chip ten kind none
  | .exported _ num ofs => peerExport s chip ten kind (fld e 21 8) num ofs len data
  | _ => peerAnswer s chip ten kind none

/-- PEER_REQUEST (R18, R301, R302): a request arrives only over a port that carries traffic; scale-out has no atomics, and answers
one with an error; the entry that decides as it arrives grants any other, or it is refused. One that is held waits, granted.
[Log 50: DEDUCED] -/
def execPeerRequest (via : PeerRoute) (ten kind addr len data : Nat) (s : State) : Host.Outcome State Fault Refusal :=
  match (if len = 0 then none else peerFrom s via ten) with
  | none => .next s
  | some (chip, ten) =>
    if kind = 2 ∧ 36 ≤ via.port then .next (peerAnswer s chip ten kind none)
    else
      match peerEntry s (decide (via.port < 36)) chip ten kind addr len with
      | none => .next (peerAnswer (refusePeer s chip ten kind addr) chip ten kind none)
      | some e => .next (
          if peerHeld s e kind addr len data || peerBehind s.peerIn chip ten addr len then
            { s with peerIn := s.peerIn ++ [{ chip := chip, ten := ten, kind := kind, addr := addr, len := len, data := data, entry := e }] }
          else peerDo s e chip ten kind addr len data)

/-- Whether the `k`-th request of another part that waits can be performed now. -/
def peerReady (s : State) (k : Nat) : Bool :=
  match s.peerIn[k]? with
  | some w => !peerHeld s w.entry w.kind w.addr w.len w.data && !peerBehind (s.peerIn.take k) w.chip w.ten w.addr w.len
  | none => false

/-- The `k`-th request of another part that waits is performed (R206, R301, R312). -/
def peerServe (s : State) (k : Nat) : State :=
  match s.peerIn[k]? with
  | some w => peerDo { s with peerIn := s.peerIn.eraseIdx k } w.entry w.chip w.ten w.kind w.addr w.len w.data
  | none => s

/-! ## The function-level reset (R403, R404) -/

/-- The clusters of a partition. -/
def clustersOf (s : State) (part : Nat) : List Nat := (List.range 384).filter fun cl => owned s cl && ownerOf s cl == part

/-- The physical cluster that a request goes to. -/
def Request.home (r : Request) : Option Nat :=
  match r.tgt with
  | .sram cl _ => some cl
  | .ctl cl _ => some cl
  | _ => none

/-- Step 2: every queue of the clusters is disabled, and requests of other sources for them get a NACK. [Log 51: DEDUCED] -/
def flrClose (s : State) (part : Nat) (cls : List Nat) : State :=
  let s := cls.foldl (fun s cl => s.onCluster cl fun c => { c with queues := c.queues.map fun q => (q.1, setFld q.2 63 1 0) }) s
  let foreign := s.net.filter fun r => partOf s r.slot != part && r.phase != .walk && match r.home with
    | some cl => cls.contains cl
    | none => false
  let s := nackPeers (foreign.foldl (fun s r => nackReq s r (r.home.getD 0)) s) fun _ cl => cls.contains cl
  { s with
    decs := s.decs.filter fun d => !cls.contains d.cl
    reports := s.reports.filter fun r => !cls.contains r.cl }

/-- Step 4: the engine commands of a partition end with no fill. [Log 51: DEDUCED] -/
def flrEngines (s : State) (part : Nat) : State :=
  let heads := s.engines.flatMap fun ex =>
    ((ex.2.cmds.filter fun (c : Cmd) => c.kick.part == part).map fun c => (ex.1, cmdWalk c.seq))
      ++ ((ex.2.layers.filter fun (l : Layer) => l.cmd.kick.part == part).map fun l => (ex.1, cmdWalk l.cmd.seq))
      ++ (match ex.2.kicks with | k :: _ => if k.part = part then [(ex.1, 1)] else [] | [] => [])
  { s with
    walks := s.walks.filter fun w => !(w.isEng && heads.contains (w.owner, w.ofs))
    engines := s.engines.map fun ex => (ex.1,
      { ex.2 with
        kicks := ex.2.kicks.filter fun k => k.part != part
        cmds := ex.2.cmds.filter fun (c : Cmd) => c.kick.part != part
        layers := ex.2.layers.filter fun (l : Layer) => l.cmd.kick.part != part }) }

/-- Steps 3 and 5 at one cluster: its continuations are discarded, its threads' work dropped, its storage zeroed, and what its TLBs,
match cache and register cache hold dropped. [Log 51: DEDUCED] -/
def flrCluster (s : State) (cl : Nat) : State :=
  let s := (s.cluster cl).usedRecs.foldl (fun s o => discardRec s cl o false) s
  let gs := s.slots.filterMap fun gx => if clusterOf gx.1 = cl then some gx.1 else none
  let s := gs.foldl (fun s g => (dropSlotWork s g).setSlot g Slot.reset) s
  let s := scrubCluster { s with walks := s.walks.filter fun w => !(w.isEng && w.owner == 4096 + cl) } cl
  let s := (List.range 8).foldl (fun s i => s.onCore (8 * cl + i) fun k => { k with dtlb := [], itlb := [] }) s
  s.onCluster cl fun c =>
    { c with
      launches := [], packet := none, usedCtx := [], saveUsed := [], rechecks := [], tiles := [], tlb := [], lines := [], hdrLines := []
      known := [], visited := [] }

/-- Whether a rotation or a handover is in progress on a cluster of a partition (R404). [Log 51: DEDUCED] -/
def flrWaits (s : State) (cls : List Nat) : Bool := cls.any fun cl => rotating s cl || bitAt (s.cluster cl).hand0 63

/-- The reset of the function bound to a partition (R403). [Log 51: DEDUCED] -/
def flrPart (s : State) (part : Nat) : State :=
  let cls := clustersOf s part
  let s := flrClose s part cls
  let s := s.setPart part { s.part part with trapped := [] }
  cls.foldl flrCluster (flrEngines s part)

/-- FUNCTION_LEVEL_RESET (R403, R404): a function bound to no partition resets only its link. [Log 51: DEDUCED] -/
def execFunctionLevelReset (vf : Nat) (s : State) : Host.Outcome State Fault Refusal :=
  match vfPart s vf with
  | none => .next s
  | some part => .next (if flrWaits s (clustersOf s part) then s else flrPart s part)

end Sys2Proof.Machine
end

