-- ==== Sys2Proof/Machine/Faults.lean ====
section
/-! DEFINITION. Losing stacks, planes and dies, fencing, and soft errors (26_faults_memory R377-R383; 28_faults_containment
R390, R391, R395, R399). -/

namespace Sys2Proof.Machine

/-- Data bits that poisoned data leaves in a register line (R351): a free value. [Log 12: DESIGN CHOICE] -/
def poisonedVal (s : State) : RegVal := ⟨Config.poisonBits s.free, false, true⟩

/-- The reply of a request returns poisoned data (R379). -/
def replyPoison (s : State) (r : Request) : State := reply { s with free := s.free + 1 } r (poisonedVal s) 0

/-- Whether an access that is not performed, wherever it stands, is one to device memory. -/
def toDevice (r : Request) : Bool :=
  r.phase != .done && match r.phase, r.tgt with
    | .sent, .dev _ => true
    | .sent, _ => false
    | _, _ => (match placeOf r.ea 1 with | .dev _ => true | _ => false)

/-- The second stack or the last plane is lost (R379): unperformed device accesses return poisoned data, every launch ends FAULTED, and
the part stops and answers the status request only, as one whose boot failed. [Log 56: DEDUCED] -/
def stopPart (s : State) : State :=
  let s := (s.net.filter fun r => toDevice r && r.op.returns).foldl replyPoison s
  let s := s.commits.foldl (fun s c => pushResult { s with free := s.free + 1 } c.slot
    { dst := c.dst, val := poisonedVal s, flags := 0, cls := some .sc, rid := c.rid, after := none }) s
  let s := s.clusters.foldl (fun s kc => endLaunches s kc.1) s
  { s with
    net := s.net.filter fun r => !toDevice r
    commits := []
    clusters := s.clusters.map fun kc => (kc.1, { kc.2 with launches := [] })
    hawk := { s.hawk with booted := false }
    stopped := true }

/-- The replacement request is raised (R402). -/
def raiseRrq (s : State) : State := { s with hawk := { s.hawk with rrq := true } }

/-- The atomics that the planes re-send for a lost stack (R379). -/
def resentAtomics (s : State) (stack : Nat) : List (Request × Nat) :=
  s.net.filterMap fun r =>
    match r.tgt, r.op with
    | .dev pa, .amo .. => if r.phase = .sent ∧ dataStack (forwardPa s pa) = stack then some (r, forwardPa s pa) else none
    | _, _ => none

/-- STACK_LOSS (R377-R379): degraded mode; a re-sent atomic is not performed, its word becomes poison and its reply is poisoned.
[Log 56: DEDUCED] -/
def execStackLoss (stack : Nat) (s : State) : Host.Outcome State Fault Refusal :=
  if 16 ≤ stack ∨ s.lost.contains stack then .next s
  else
    let second := !s.lost.isEmpty
    let t := (resentAtomics s stack).foldl (fun t rp =>
      replyPoison { t with dev := t.dev.makePoison (rp.2 / 8 * 8) 8 } rp.1) s
    let t := raiseRrq { t with lost := t.lost ++ [stack], diffs := t.diffs.filter fun d => parityStack d.pa != stack }
    let t := statusChanged s (monitorEvent t 4 stack 0)
    .next (if second then stopPart t else t)

/-- A device fence that spans a rehash waits for the new live set (R382). -/
def refence (s : State) (x : Slot) : Slot :=
  match x.fence with
  | some f =>
    if f.kind = 1 ∨ (f.kind = 0 ∧ 1 ≤ f.scope) then { x with fence := some { f with markers := fenceMarkers s, acks := [] } } else x
  | none => x

/-- PLANE_LOSS (R382): the rehash, in which what was issued before it completes before what is issued after; the last plane stops the part.
[Log 56: DEDUCED] -/
def execPlaneLoss (plane : Nat) (s : State) : Host.Outcome State Fault Refusal :=
  if !s.planes.contains plane then .next s
  else
    let t := { s with planes := s.planes.erase plane, rehash := s.nextId }
    let live := t.planes.foldl (fun a p => a + 2 ^ p) 0
    let t := { t with slots := t.slots.map fun gx => (gx.1, refence t gx.2) }
    let t := statusChanged s (monitorEvent (raiseRrq t) 5 plane live)
    .next (if t.planes.isEmpty then stopPart t else t)

/-- DIE_EXCLUSION (R399). -/
def execDieExclusion (die cause : Nat) (s : State) : Host.Outcome State Fault Refusal :=
  .next (if die < 4 then excludeDie s die cause else s)

/-- COCOON_FENCING (R390, R391). -/
def execCocoonFencing (die n cause : Nat) (s : State) : Host.Outcome State Fault Refusal :=
  .next (if die < 4 ∧ n < 8 then fenceCocoon s die n cause else s)

/-- A register line of an image that a register cache holds, no slot's, becomes poison (R395). -/
def spoilCached (s : State) (k idx : Nat) : State :=
  match s.contexts[k]? with
  | some pc =>
    if 1 ≤ idx ∧ idx ≤ 47 then
      { s with free := s.free + 1, contexts := ins s.contexts pc.1 { pc.2 with regs := ins pc.2.regs idx (poisonedVal s) } }
    else s
  | none => s

/-- An entry of a TLB is dropped: of a cluster's, or, from place 384 on, of a core's data TLB and, from index 1024 on, its instruction
TLB (R395). -/
def dropTlb (s : State) (place idx : Nat) : State :=
  if place < 384 then s.onCluster place fun c => { c with tlb := c.tlb.eraseIdx idx }
  else s.onCore (place - 384) fun k =>
    if idx < 1024 then { k with dtlb := k.dtlb.eraseIdx idx } else { k with itlb := k.itlb.eraseIdx (idx - 1024) }

/-- A line of a match cache is dropped: an entry line, or, after those, a table header (R395). -/
def dropMatch (s : State) (cl idx : Nat) : State :=
  s.onCluster cl fun c =>
    if idx < c.lines.length then { c with lines := c.lines.eraseIdx idx }
    else { c with hdrLines := c.hdrLines.eraseIdx (idx - c.lines.length) }

/-- SOFT_ERROR (R395): an error that the check bits correct, and one that drops a cached entry, has no visible effect; any other
makes the data poison, or a parity difference on its way one that its parity engine cannot use (R381). A register line is one of a slot's
thread or, from place 49152 on, of an image in a register cache. [Log 57: DEDUCED] -/
def execSoftError (kind place idx bit : Nat) (fixable : Bool) (s : State) : Host.Outcome State Fault Refusal :=
  if kind = 4 then .next (dropTlb s place idx)
  else if kind = 5 then .next (dropMatch s place idx)
  else if fixable ∨ 72 ≤ bit then .next s
  else
    match kind with
    | 0 => .next (
        if noSlot ≤ place then spoilCached s (place - noSlot) idx
        else if (s.slot place).status = .idle then s else writeReg { s with free := s.free + 1 } place idx (poisonedVal s))
    | 1 => .next (s.onCore place fun c => { c with opPsn := idx % 2 ^ 15 :: c.opPsn })
    | 2 => .next (s.onCore place fun c => { c with accPsn := idx % 2 ^ 15 :: c.accPsn })
    | 3 => .next { s with sram := s.sram.makePoison (sramKey place (8 * idx)) 8 }
    | 6 => .next { s with diffs := s.diffs.zipIdx.map fun di => if di.2 = place then { di.1 with poor := true } else di.1 }
    | _ => .next s

end Sys2Proof.Machine
end

