-- ==== Sys2Proof/Machine/Sha3.lean ====
section
/-! DEFINITION. SHA3-256, which the measurement registers and the attestation report use (18_bringup R314, R317). PRESUMED: the
function of FIPS 202. -/

namespace Sys2Proof.Machine

/-- The sponge state: 25 lanes, lane (x, y) at x + 5 y. -/
abbrev Sponge := List (BitVec 64)

/-- Lane (x, y), both counted modulo 5. -/
def Sponge.lane (a : Sponge) (x y : Nat) : BitVec 64 := a.getD (x % 5 + 5 * (y % 5)) 0

/-- The state whose lane (x, y) is `f x y`. -/
def Sponge.tabulate (f : Nat → Nat → BitVec 64) : Sponge := (List.range 25).map fun i => f (i % 5) (i / 5)

/-- Theta: every lane is XORed with the parities of the columns before and after its own. -/
def Sponge.mixColumns (a : Sponge) : Sponge :=
  let sheet := (List.range 5).map fun x => ((List.range 5).map (a.lane x)).foldl (· ^^^ ·) 0
  Sponge.tabulate fun x y => a.lane x y ^^^ sheet.getD ((x + 4) % 5) 0 ^^^ (sheet.getD ((x + 1) % 5) 0).rotateLeft 1

/-- Rho and pi, as the walk that defines the offsets: it starts at lane (1, 0), step `t` turns the lane by the triangular number of
`t` and puts it at (y, 2 x + 3 y), where the next step starts. Lane (0, 0) stays. -/
def Sponge.scatter (a : Sponge) : Nat → Nat → Nat → Sponge → Sponge
  | 0, _, _, out => out
  | n + 1, x, y, out =>
    let t := 24 - n
    let v := (a.lane x y).rotateLeft (t * (t + 1) / 2 % 64)
    a.scatter n y ((2 * x + 3 * y) % 5) (out.set (y + 5 * ((2 * x + 3 * y) % 5)) v)

/-- Chi: every lane is XORed with the lane two to its right where the lane one to its right is clear. -/
def Sponge.filterRows (a : Sponge) : Sponge :=
  Sponge.tabulate fun x y => a.lane x y ^^^ (~~~ a.lane (x + 1) y &&& a.lane (x + 2) y)

/-- One step of the shift register over x^8 + x^6 + x^5 + x^4 + 1 that the round constants come from. -/
def roundLfsr (r : Nat) : Nat := if r < 128 then 2 * r else (2 * r) ^^^ 0x171

/-- Seven bits of the register from `r` on, at bit positions 2^j - 1 of a lane, and the register after them. -/
def roundBits : Nat → Nat → Nat → BitVec 64 → BitVec 64 × Nat
  | 0, _, r, c => (c, r)
  | n + 1, j, r, c => roundBits n (j + 1) (roundLfsr r) (if r % 2 = 1 then c ^^^ BitVec.twoPow 64 (2 ^ j - 1) else c)

/-- `n` rounds, the shift register standing at `r`. -/
def Sponge.rounds : Nat → Nat → Sponge → Sponge
  | 0, _, a => a
  | n + 1, r, a =>
    let a := a.mixColumns
    let a := (a.scatter 24 1 0 a).filterRows
    let c := roundBits 7 0 r 0
    Sponge.rounds n c.2 (a.set 0 (a.lane 0 0 ^^^ c.1))

/-- The permutation: 24 rounds. [Log 14: PRESUMED] -/
def Sponge.permute (a : Sponge) : Sponge := Sponge.rounds 24 1 a

/-- A list of bytes as a number, lowest first. -/
def leNum : List (BitVec 8) → Nat
  | [] => 0
  | b :: bs => b.toNat + 256 * leNum bs

/-- The message absorbed in blocks of 17 lanes; `n` bounds their number. -/
def Sponge.absorb : Nat → Sponge → List (BitVec 8) → Sponge
  | 0, a, _ => a
  | n + 1, a, m =>
    let block := leNum (m.take 136)
    Sponge.absorb n (Sponge.permute ((List.range 25).map fun i =>
      if i < 17 then a.getD i 0 ^^^ BitVec.ofNat 64 (block >>> (64 * i)) else a.getD i 0)) (m.drop 136)

/-- The padded message. -/
def sha3Pad (m : List (BitVec 8)) : List (BitVec 8) :=
  let r := 136 - m.length % 136
  if r = 1 then m ++ [0x86] else m ++ [0x06] ++ List.replicate (r - 2) 0 ++ [0x80]

/-- The SHA3-256 digest; byte i of the digest is byte i of the number. [Log 14: PRESUMED] -/
def sha3 (m : List (BitVec 8)) : BitVec 256 :=
  let p := sha3Pad m
  let a := Sponge.absorb (p.length / 136) (List.replicate 25 0) p
  a.lane 3 0 ++ a.lane 2 0 ++ a.lane 1 0 ++ a.lane 0 0

end Sys2Proof.Machine
end

