-- ==== Sys2Proof/Machine/Management.lean ====
section
/-! DEFINITION. Hawkmoth: boot, the management function's window and requests, the event ring, monitors and clock steps
(18_bringup R314-R322, 28_faults_containment R402). -/

namespace Sys2Proof.Machine

/-! ## Boot and measurement -/

/-- A measurement register extended with a digest (R314). [Log 14: PRESUMED] -/
def extendReg (m d : BitVec 256) : BitVec 256 := sha3 (bytesOf 32 m.toNat ++ bytesOf 32 d.toNat)

/-- The part after a whole-part reset, booted from a firmware image (R314, R315): a signature that fails stops the boot at step 1, the
training of the memory at step 3 and that of WCL at step 6. What the model keeps of its own goes on: its counters, its choices and what
comes from outside. [Log 54: DESIGN CHOICE] -/
def bootFrom (s : State) (len image : Nat) : State :=
  let bs := bytesOf len image
  let signed := Config.signatureGood bs
  let trained := signed && Config.trainingGood s.free
  { State.reset with
    sched := s.sched, inbox := s.inbox, free := s.free + 2, nextId := s.nextId, keySeq := s.keySeq
    hawk := { Hawkmoth.reset with
      image := (len, image), booted := trained && Config.trainingGood (s.free + 1)
      m0 := if signed then extendReg 0 (sha3 bs) else 0
      m1 := if trained then extendReg 0 (sha3 (Config.microcode len image)) else 0 } }

/-- POWER_ON_BOOT (R314). [Log 54: DESIGN CHOICE] -/
def execPowerOnBoot (len image : Nat) (s : State) : Host.Outcome State Fault Refusal := .next (bootFrom s len image)

/-! ## The window -/

/-- Hawkmoth writes a response, clears `GO` and sends one interrupt (R318). [Log 52: DEDUCED] -/
def respond (s : State) (code seq rst len body : Nat) : State :=
  let done := rst = 0
  { s with hawk := { s.hawk with
      response := if done then body else 0
      respCode := code, respLen := if done then len else 0, respSeq := seq % 2 ^ 32, respRst := rst, go := false
      irqs := s.hawk.irqs + 1 } }

/-- A request of the management function with its sequence number and the fields of its body (R319). -/
inductive MgmtReq where
  | status (seq : Nat)
  | attest (seq nonce : Nat)
  | idkey (seq : Nat)
  | extend (seq digest : Nat)
  | fwchunk (seq ofs total len data : Nat)
  | setchip (seq chip : Nat)
  | bindvf (seq vf part : Nat)
  | keyinstall (seq ten : Nat)
  | keyerase (seq ten : Nat)
  | addrmap (seq chip mac ip : Nat)
  | qpset (seq qp port cls ten chip peerQp psn : Nat)
  | qpclear (seq qp port : Nat)
  | reset (seq : Nat)
  deriving DecidableEq, Repr

/-- The request that a header and a body make, or the result that refuses them (R318, R319). [Log 52: DEDUCED] -/
def requestOf (code len seq body : Nat) : Nat ⊕ MgmtReq :=
  let need := fun (n : Nat) (i : MgmtReq) => if len = n then Sum.inr i else Sum.inl 2
  let f := fun (at_ n : Nat) => fld body (8 * at_) (8 * n)
  if 4080 < len then .inl 2
  else
    match code with
    | 0x0001 => need 0 (.status seq)
    | 0x0002 => need 32 (.attest seq (f 0 32))
    | 0x0003 => need 0 (.idkey seq)
    | 0x0004 => need 32 (.extend seq (f 0 32))
    | 0x0010 => if len < 16 then .inl 2 else .inr (.fwchunk seq (f 0 8) (f 8 8) (len - 16) (f 16 (len - 16)))
    | 0x0011 => need 4 (.setchip seq (f 0 4))
    | 0x0012 => need 4 (.bindvf seq (f 0 2) (f 2 2))
    | 0x0020 => need 2 (.keyinstall seq (f 0 2))
    | 0x0021 => need 2 (.keyerase seq (f 0 2))
    | 0x0030 => need 32 (.addrmap seq (f 0 4) (f 4 6) (f 16 16))
    | 0x0031 => need 20 (.qpset seq (f 0 4) (f 4 1) (f 5 1) (f 6 2) (f 8 4) (f 12 4) (f 16 4))
    | 0x0032 => need 5 (.qpclear seq (f 0 4) (f 4 1))
    | 0x0040 => need 0 (.reset seq)
    | _ => .inl 1

/-- `CODE`, `LEN` and `SEQ` of the request buffer (R318). -/
def requestHeader (s : State) : Nat × Nat × Nat := (rdN s.hawk.request 0 2, rdN s.hawk.request 2 2, rdN s.hawk.request 4 4)

/-- The request in the buffer. -/
def bufferRequest (s : State) : Nat ⊕ MgmtReq :=
  let h := requestHeader s
  requestOf h.1 h.2.1 h.2.2 (rdN s.hawk.request 16 (min h.2.1 4080))

/-- The request that a doorbell has posted and Hawkmoth has to serve. [Log 52: DEDUCED] -/
def pendingRequest (s : State) : Option MgmtReq :=
  if s.hawk.go then (match bufferRequest s with | .inr i => some i | .inl _ => none) else none

/-- Whether Hawkmoth has something to serve: `GO` reads 1; a part whose boot failed takes the status request only (R314, R318). -/
def requestDue (s : State) : Bool :=
  s.hawk.go && (s.hawk.booted || match bufferRequest s with | .inr (.status _) => true | _ => false)

/-- A request served (R318): host firmware posts it and Hawkmoth answers. One posted while `GO` reads 1 is ignored unless it is the one in the
buffer; a part whose boot failed answers to the status request only (R314). [Log 52: DEDUCED] -/
def serve (s : State) (i : MgmtReq) (f : State → State) : Host.Outcome State Fault Refusal :=
  if s.hawk.go && pendingRequest s != some i then .next s
  else
    match i with
    | .status _ => .next (f s)
    | _ => .next (if s.hawk.booted then f s else s)

/-- The doorbell word as it reads (R318). -/
def doorbellWord (s : State) : Nat := s.hawk.doorSeq + if s.hawk.go then 2 ^ 63 else 0

/-- A write of `len` bytes at byte `ofs` of the doorbell (R318): with `GO` it posts the request in the buffer. A request that is unknown
or malformed is answered at once; a part whose boot failed takes the status request only (R314). [Log 52: DEDUCED] -/
def doorbell (s : State) (ofs len data : Nat) : State :=
  let v := setFld (doorbellWord s) (8 * ofs) (8 * len) data
  if s.hawk.go then s
  else if !bitAt v 63 then { s with hawk := { s.hawk with doorSeq := v % 2 ^ 32 } }
  else
    let t := { s with hawk := { s.hawk with go := true, doorSeq := v % 2 ^ 32 } }
    match bufferRequest s with
    | .inl rst => if s.hawk.booted then respond t (requestHeader s).1 (requestHeader s).2.2 rst 0 0 else s
    | .inr (.status _) => t
    | .inr _ => if s.hawk.booted then t else s

/-- The bytes of an entry of the event ring (R320). -/
def eventWord (e : EvEntry) : Nat :=
  (if e.ev then 2 ^ 63 else 0) + e.kind % 2 ^ 16 * 2 ^ 32 + e.seq % 2 ^ 32 + 2 ^ 64 * (e.d1 % 2 ^ 64) + 2 ^ 128 * (e.d2 % 2 ^ 64)

/-- The response buffer as it reads (R318). -/
def responseWord (s : State) : Nat :=
  let h := s.hawk
  h.respCode % 2 ^ 16 + h.respLen % 2 ^ 16 * 2 ^ 16 + h.respSeq % 2 ^ 32 * 2 ^ 32 + h.respRst % 2 ^ 8 * 2 ^ 64
    + h.response % 2 ^ (8 * h.respLen) * 2 ^ 128

/-- A byte of the window as a read returns it (R318, R320); an offset that holds nothing reads as zero. [Log 52: DEDUCED] -/
def windowByte (s : State) (o : Nat) : Nat :=
  if o < 8 then fld (doorbellWord s) (8 * o) 8
  else if o < 0x10 then fld (statusWord s) (8 * (o - 8)) 8
  else if o < 0x18 then fld s.hawk.evHead (8 * (o - 0x10)) 8
  else if o < 0x1000 then 0
  else if o < 0x2000 then (look 0 s.hawk.request (o - 0x1000)).toNat
  else if o < 0x4000 then fld (responseWord s) (8 * (o - 0x2000)) 8
  else if o < 0x8000 then
    match find s.hawk.ring ((o - 0x4000) / 64) with
    | some e => fld (eventWord e) (8 * ((o - 0x4000) % 64)) 8
    | none => 0
  else 0

/-- What host firmware reads of the window: `n` bytes (R318). -/
def windowRead (s : State) (ofs n : Nat) : Nat := ofBytes ((List.range n).map fun i => BitVec.ofNat 8 (windowByte s (ofs + i)))

/-- Host firmware clears `EV` of the entries that a write covers with a 0 in their bit 63 (R320). -/
def clearEvents (s : State) (ofs len data : Nat) : State :=
  { s with hawk := { s.hawk with ring := s.hawk.ring.map fun ke =>
      let b := 0x4000 + 64 * ke.1 + 7
      (ke.1, if ofs ≤ b ∧ b < ofs + len ∧ !bitAt data (8 * (b - ofs) + 7) then { ke.2 with ev := false } else ke.2) } }

/-- MANAGEMENT_WINDOW_WRITE (R318, R320). -/
def execManagementWindowWrite (ofs len data : Nat) (s : State) : Host.Outcome State Fault Refusal :=
  if ofs + len ≤ 8 then .next (doorbell s ofs len data)
  else if 0x1000 ≤ ofs ∧ ofs + len ≤ 0x2000 then
    .next { s with hawk := { s.hawk with request := wrN s.hawk.request (ofs - 0x1000) len data } }
  else if 0x4000 ≤ ofs ∧ ofs + len ≤ 0x8000 then .next (clearEvents s ofs len data)
  else .next s

/-! ## The requests (R319) -/

/-- STATUS (R319, R402). -/
def execStatus (seq : Nat) (s : State) : Host.Outcome State Fault Refusal :=
  serve s (.status seq) fun s => respond s 0x0001 seq 0 8 (statusWord s)

/-- Bytes 0x000 to 0x0CF of the attestation report (R317). -/
def reportBody (s : State) (nonce : Nat) : List (BitVec 8) :=
  bytesOf 32 nonce ++ bytesOf 32 s.hawk.m0.toNat ++ bytesOf 32 s.hawk.m1.toNat ++ bytesOf 32 s.hawk.m2.toNat
    ++ bytesOf 32 s.hawk.m3.toNat ++ bytesOf 8 capsValue ++ bytesOf 32 (sha3 (bytesOf 1312 Config.identityKey)).toNat
    ++ bytesOf 4 s.keys.length ++ bytesOf 4 0

/-- ATTEST (R317). -/
def execAttest (seq nonce : Nat) (s : State) : Host.Outcome State Fault Refusal :=
  serve s (.attest seq nonce) fun s =>
    let b := reportBody s nonce
    respond s 0x0002 seq 0 0xA44 (leNum b + Config.sign (sha3 b) % 2 ^ (8 * 2420) * 2 ^ (8 * 0xD0))

/-- IDKEY (R319). -/
def execIdkey (seq : Nat) (s : State) : Host.Outcome State Fault Refusal :=
  serve s (.idkey seq) fun s => respond s 0x0003 seq 0 1312 (Config.identityKey % 2 ^ (8 * 1312))

/-- EXTEND (R314, R319). -/
def execExtend (seq digest : Nat) (s : State) : Host.Outcome State Fault Refusal :=
  serve s (.extend seq digest) fun s =>
    respond { s with hawk := { s.hawk with m3 := extendReg s.hawk.m3 (BitVec.ofNat 256 digest) } } 0x0004 seq 0 0 0

/-- FWCHUNK (R314 step 6, R319): the chunk that reaches the total length starts the check. [Log 53: DEDUCED] -/
def execFwchunk (seq ofs total len data : Nat) (s : State) : Host.Outcome State Fault Refusal :=
  serve s (.fwchunk seq ofs total len data) fun s =>
    let got := s.hawk.fwBytes ++ bytesOf len data
    if 4064 < len ∨ total < ofs + len then respond s 0x0010 seq 2 0 0
    else if ofs ≠ s.hawk.fwBytes.length then respond s 0x0010 seq 3 0 0
    else if ofs + len < total then respond { s with hawk := { s.hawk with fwBytes := got } } 0x0010 seq 0 0 0
    else if !Config.signatureGood got then respond s 0x0010 seq 4 0 0
    else respond { s with hawk := { s.hawk with fwBytes := [], m2 := extendReg s.hawk.m2 (sha3 got) } } 0x0010 seq 0 0 0

/-- SETCHIP (R319, R70). -/
def execSetchip (seq chip : Nat) (s : State) : Host.Outcome State Fault Refusal :=
  serve s (.setchip seq chip) fun s =>
    if 0x3FFFE < chip then respond s 0x0011 seq 2 0 0
    else if s.chip ≠ 0x3FFFF then respond s 0x0011 seq 3 0 0
    else respond { s with chip := chip } 0x0011 seq 0 0 0

/-- The partition that a function is bound to gives it up. [Log 53: DEDUCED] -/
def unbindVf (s : State) (vf : Nat) : State :=
  { s with parts := s.parts.map fun kp => (kp.1, if kp.2.vf = some vf then { kp.2 with vf := none } else kp.2) }

/-- BINDVF (R297, R319, R403). [Log 53: DEDUCED] -/
def execBindvf (seq vf part : Nat) (s : State) : Host.Outcome State Fault Refusal :=
  serve s (.bindvf seq vf part) fun s =>
    if 63 < vf ∨ (255 < part ∧ part ≠ 0xFFFF) then respond s 0x0012 seq 2 0 0
    else if vfOutstanding s vf then respond s 0x0012 seq 3 0 0
    else if part = 0xFFFF then respond (unbindVf s vf) 0x0012 seq 0 0 0
    else if (s.part part).vf.isSome then respond s 0x0012 seq 3 0 0
    else
      let s := unbindVf s vf
      respond (s.setPart part { s.part part with vf := some vf }) 0x0012 seq 0 0 0

/-- KEYINSTALL (R316): a fresh key in every base die. [Log 53: DEDUCED] -/
def execKeyinstall (seq ten : Nat) (s : State) : Host.Outcome State Fault Refusal :=
  serve s (.keyinstall seq ten) fun s =>
    if 4095 < ten then respond s 0x0020 seq 2 0 0
    else if hasKey s ten then respond s 0x0020 seq 3 0 0
    else respond { s with keys := ins s.keys ten (s.keySeq + 1), keySeq := s.keySeq + 1 } 0x0020 seq 0 0 0

/-- KEYERASE (R316). [Log 53: DEDUCED] -/
def execKeyerase (seq ten : Nat) (s : State) : Host.Outcome State Fault Refusal :=
  serve s (.keyerase seq ten) fun s =>
    if 4095 < ten then respond s 0x0021 seq 2 0 0
    else if !hasKey s ten then respond s 0x0021 seq 3 0 0
    else respond { s with keys := del s.keys ten } 0x0021 seq 0 0 0

/-- ADDRMAP (R319). [Log 53: DEDUCED] -/
def execAddrmap (seq chip mac ip : Nat) (s : State) : Host.Outcome State Fault Refusal :=
  serve s (.addrmap seq chip mac ip) fun s =>
    if 2 ^ 18 ≤ chip then respond s 0x0030 seq 2 0 0
    else if 4096 ≤ s.hawk.addrMap.length ∧ (find s.hawk.addrMap chip).isNone then respond s 0x0030 seq 3 0 0
    else respond { s with hawk := { s.hawk with addrMap := ins s.hawk.addrMap chip (mac % 2 ^ 48, ip % 2 ^ 128) } } 0x0030 seq 0 0 0

/-- QPSET (R319). [Log 53: DEDUCED] -/
def execQpset (seq qp port cls ten chip peerQp psn : Nat) (s : State) : Host.Outcome State Fault Refusal :=
  serve s (.qpset seq qp port cls ten chip peerQp psn) fun s =>
    if 2 ^ 24 ≤ qp ∨ 7 < port ∨ 3 < cls ∨ 4095 < ten ∨ 2 ^ 18 ≤ chip then respond s 0x0031 seq 2 0 0
    else if (find s.hawk.addrMap chip).isNone ∨ (s.hawk.qps.any fun q => q.qp == qp)
        ∨ 1024 ≤ (s.hawk.qps.filter fun q => q.port == port).length then respond s 0x0031 seq 3 0 0
    else
      respond { s with hawk := { s.hawk with qps := s.hawk.qps ++
        [{ qp := qp, port := port, cls := cls, ten := ten, chip := chip, peerQp := peerQp % 2 ^ 32, psn := psn % 2 ^ 32 }] } }
        0x0031 seq 0 0 0

/-- QPCLEAR (R319). -/
def execQpclear (seq qp port : Nat) (s : State) : Host.Outcome State Fault Refusal :=
  serve s (.qpclear seq qp port) fun s =>
    let is := fun (q : QueuePair) => q.qp == qp && q.port == port
    if 7 < port then respond s 0x0032 seq 2 0 0
    else if !s.hawk.qps.any is then respond s 0x0032 seq 3 0 0
    else respond { s with hawk := { s.hawk with qps := s.hawk.qps.filter fun q => !is q } } 0x0032 seq 0 0 0

/-- RESET (R319): the response is written, and the part starts again at step 1 of R314 from its firmware image.
[Log 54: DESIGN CHOICE] -/
def execReset (seq : Nat) (s : State) : Host.Outcome State Fault Refusal :=
  serve s (.reset seq) fun s => respond (bootFrom s s.hawk.image.1 s.hawk.image.2) 0x0040 seq 0 0 0

/-! ## The event ring (R320) -/

/-- Whether MONITOR_EVENT can write the oldest event held: the entry at the event head is free. -/
def eventReady (s : State) : Bool :=
  !s.hawk.evHeld.isEmpty && !(match find s.hawk.ring s.hawk.evHead with | some e => e.ev | none => false)

/-- MONITOR_EVENT (R320). -/
def execMonitorEvent (s : State) : Host.Outcome State Fault Refusal :=
  match s.hawk.evHeld with
  | [] => .next s
  | (k, d1, d2) :: rest =>
    if !eventReady s then .next s
    else
      let h := s.hawk
      .next { s with hawk := { h with
        ring := ins h.ring h.evHead { ev := true, kind := k, seq := h.evSeq, d1 := d1, d2 := d2 }
        evHead := (h.evHead + 1) % 256, evSeq := (h.evSeq + 1) % 2 ^ 32, evHeld := rest, irqs := h.irqs + 1 } }

/-! ## Monitors and clock steps (R321, R322) -/

/-- A die at a clock step, reported when it changes. [Log 55: DEDUCED] -/
def setDieStep (s : State) (die step cause : Nat) : State :=
  let d := s.die die
  let step := min 5 step
  if d.step = step then s else monitorEvent (s.setDie die { d with step := step }) 1 die (step + cause * 2 ^ 8)

/-- The part at a clock step (R322): the planes and base dies follow it, and no die stays above it. [Log 55: DEDUCED] -/
def setPartStep (s : State) (step cause : Nat) : State :=
  let step := min 5 step
  if s.partStep = step then s
  else
    let t := statusChanged s (monitorEvent { s with partStep := step } 1 4 (step + cause * 2 ^ 8))
    (List.range 4).foldl (fun t d => setDieStep t d (max (t.die d).step step) cause) t

/-- The thresholds that a temperature has reached: the first, and one more at each 2 °C above it. [Log 55: DEDUCED] -/
def hotSteps (temp first : Nat) : Nat := if temp < first then 0 else 1 + (temp - first) / 2

/-- The readings of a die act on its step (R322). [Log 55: DEDUCED] -/
def sampleDie (s : State) (die temp rail slow : Nat) : State :=
  let d := s.die die
  let n := hotSteps temp 95
  let low := decide (30 ≤ rail)
  let s := s.setDie die { d with
    hot := n, rail := low, calm := decide (temp + 5 ≤ 95 ∧ rail + 15 ≤ 30 ∧ slow + 15 ≤ 50), capStep := if 50 ≤ slow then 1 else d.capStep }
  let s := setDieStep s die (d.step + (n - d.hot)) 1
  let s := if low && !d.rail then setDieStep s die ((s.die die).step + 1) 2 else s
  setDieStep s die (max (s.die die).step (s.die die).capStep) 3

/-- MONITOR_SAMPLE (R322). [Log 55: DEDUCED] -/
def execMonitorSample (die temp stackTemp railDrop oscSlow : Nat) (s : State) : Host.Outcome State Fault Refusal :=
  let n := hotSteps stackTemp 90
  let hot := s.stackHot
  let s := setPartStep { s with stackHot := n } (s.partStep + (n - hot)) 1
  if 4 ≤ die ∨ (s.die die).excluded then .next s
  else if 110 ≤ temp ∨ 100 ≤ stackTemp then .next (excludeDie s die 1)
  else if 80 ≤ railDrop then .next (excludeDie s die 2)
  else .next (sampleDie s die temp railDrop oscSlow)

/-- CLOCK_STEP_CLIMB (R322): only while the readings stand inside every threshold by the margin, and never above the part's step.
[Log 55: DEDUCED] -/
def execClockStepClimb (die : Nat) (s : State) : Host.Outcome State Fault Refusal :=
  let d := s.die die
  if 4 ≤ die ∨ d.excluded ∨ !d.calm then .next s
  else
    let s := s.setDie die { d with hot := 0, rail := false, capStep := 0 }
    .next (if s.partStep < d.step then setDieStep s die (d.step - 1) 4 else s)

/-! ## Ports (R302, R316) -/

/-- A scale-up port agrees a key, or is left without one (R316). -/
def agreeKey (s : State) (port : Nat) : State :=
  let keys := s.hawk.linkKeys
  { s with
    keySeq := s.keySeq + 1
    hawk := { s.hawk with linkKeys := if Config.exchangeGood (s.keySeq + 1) then ins keys port (s.keySeq + 1) else del keys port } }

/-- LINK_KEY_RENEWAL (R316). -/
def execLinkKeyRenewal (port : Nat) (s : State) : Host.Outcome State Fault Refusal :=
  .next (if port < 36 ∧ s.hawk.portUp.contains port then agreeKey s port else s)

/-- SCALE_PORT_LINK_CHANGE (R302, R316): a scale-up port that comes up agrees a key. -/
def execScalePortLinkChange (port : Nat) (up : Bool) (s : State) : Host.Outcome State Fault Refusal :=
  let h := s.hawk
  if 44 ≤ port then .next s
  else if !up then .next { s with hawk := { h with portUp := h.portUp.filter (· != port), linkKeys := del h.linkKeys port } }
  else if h.portUp.contains port then .next s
  else
    let s := { s with hawk := { h with portUp := port :: h.portUp } }
    .next (if 36 ≤ port then s else agreeKey s port)

end Sys2Proof.Machine
end

