-- ==== Sys2Proof/Machine/Paired.lean ====
section
/-! DEFINITION. Paired execution (28_faults_containment R396-R398): what the router does with the messages of both copies, and how the
secondary follows the primary. The secondary's words run on its own values in the place of the primary, so that both copies see one
core and one memory; its messages are compared and never performed. -/

namespace Sys2Proof.Machine

/-- `Fold` of a message (R397). -/
def foldMsg (m : List W64) : W64 := m.zipIdx.foldl (fun a di => a ^^^ di.1.rotateLeft (di.2 % 64)) 0

/-- `H(n)` of a copy once it has sent a message (R397). -/
def hashMsg (n : Nat) (h : W64) (m : List W64) : W64 := valHmix (foldMsg m) (BitVec.ofNat 64 n) h

/-- What the router makes of the messages that both copies wait to send (R397): whether those that it can pair agree; the count and the hashes
after them, those included that differ; and what is left of each list. -/
structure Compared where
  same : Bool
  n    : Nat
  hp   : W64
  hs   : W64
  msgP : List (List W64)
  msgS : List (List W64)

/-- Messages of both copies compared in order, as many as both have sent (R397, R398). [Log 58: DEDUCED] -/
def compareMsgs (n : Nat) (hp hs : W64) : List (List W64) → List (List W64) → Compared
  | a :: as, b :: bs =>
    let hp := hashMsg (n + 1) hp a
    let hs := hashMsg (n + 1) hs b
    if hp = hs then compareMsgs (n + 1) hp hs as bs else ⟨false, n + 1, hp, hs, a :: as, b :: bs⟩
  | as, bs => ⟨true, n, hp, hs, as, bs⟩

/-- Fences the cocoon that holds a cluster (R398). -/
def fenceAround (s : State) (cl : Nat) : State :=
  match cocoonOf s cl with
  | some n => fenceCocoon s (dieOf cl) n 2
  | none => s

/-- Whether the router has messages of both copies to compare (R397). -/
def compareReady (p : Pair) : Bool := !p.msgP.isEmpty && !p.msgS.isEmpty

/-- The router compares what the copies of pair `k` have sent (R397, R398): a copy goes on when all its messages agree and waits for the
other's next one when it has sent more; a mismatch fences every cocoon that holds either copy. -/
def routeMsgs (s : State) (k : Nat) (p : Pair) : State :=
  let c := compareMsgs p.n p.hp p.hs p.msgP p.msgS
  if !c.same then fenceAround (fenceAround s p.pcl) p.scl
  else
    let q : Pair :=
      { p with
        n := c.n, hp := c.hp, hs := c.hs, msgP := c.msgP, msgS := c.msgS
        goP := p.goP || (!p.msgP.isEmpty && c.msgP.isEmpty), goS := p.goS || (!p.msgS.isEmpty && c.msgS.isEmpty) }
    { s with pairs := s.pairs.set k q }

/-- PAIRED_MESSAGE_COMPARE (R397, R398). [Log 58: DEDUCED] -/
def execPairedMessageCompare (k : Nat) (s : State) : Host.Outcome State Fault Refusal :=
  match s.pairs[k]? with
  | some p => .next (if compareReady p then routeMsgs s k p else s)
  | none => .next s

/-! ## The words of both copies -/

/-- A number as doublewords. -/
def dws (n : Nat) (v : Nat) : List W64 := (List.range n).map fun i => BitVec.ofNat 64 (v / 2 ^ (64 * i))

/-- A register value as doublewords. -/
def regDws (v : RegVal) : List W64 := dws 2 v.bits.toNat ++ [if v.tag then 1 else 0]

/-- What an access carries, as doublewords. -/
def opDws : MemOp → List W64
  | .ld k lc => [0, BitVec.ofNat 64 k, if lc then 1 else 0]
  | .st v tag => 1 :: dws 2 v ++ [match tag with | some true => 2 | some false => 1 | none => 0]
  | .amo fn b c => [2, BitVec.ofNat 64 fn] ++ dws 2 b ++ dws 2 c
  | .fe fn v => [3, BitVec.ofNat 64 fn, BitVec.ofNat 64 v]
  | .rank i c p => [4, BitVec.ofNat 64 i, BitVec.ofNat 64 c, if p then 1 else 0]
  | .selb n b p => [5, BitVec.ofNat 64 n, BitVec.ofNat 64 b, if p then 1 else 0]
  | .rstat => [6]
  | .rinit b => 7 :: dws 2 b.toNat
  | .rinval => [8]
  | .diag v c p => [9, BitVec.ofNat 64 v, BitVec.ofNat 64 c, if p then 1 else 0]
  | .dec n => [10, BitVec.ofNat 64 n]
  | .tget => [11]
  | .tset b => [12, b]
  | .spawn d p1 sc => [13, d, p1, BitVec.ofNat 64 (match sc with | some x => x + 1 | none => 0)]
  | .tblWr h b c => 14 :: BitVec.ofNat 64 h :: dws 2 b.toNat ++ dws 2 c.toNat
  | .tblRd h b => [15, BitVec.ofNat 64 h, b]
  | .tblSync h => [16, BitVec.ofNat 64 h]
  | .tblCommit h => [17, BitVec.ofNat 64 h]
  | .mts r v => [18, BitVec.ofNat 64 r, v]
  | .ctl => [19]

/-- An access as a message. -/
def reqMsg (r : Request) : List W64 := dws 2 r.ea ++ [BitVec.ofNat 64 r.len] ++ opDws r.op

/-- A line of stores as a message. -/
def lineMsg (line tags : Nat) (bs : Sparse (BitVec 8)) : List W64 :=
  BitVec.ofNat 64 line :: BitVec.ofNat 64 tags :: bs.flatMap fun kb => [BitVec.ofNat 64 kb.1, kb.2.setWidth 64]

/-- A kick as a message. -/
def kickMsg (e : Nat) (k : Kick) : List W64 := [BitVec.ofNat 64 e, BitVec.ofNat 64 k.fn] ++ regDws k.a ++ regDws k.b

/-- An operation of the array as a message: its operands. -/
def matMsg (e : MatEntry) : List W64 := BitVec.ofNat 64 e.ofs :: regDws e.c0 ++ regDws e.c1 ++ regDws e.a ++ regDws e.b

/-- An appended stream element or block as a message. -/
def elemMsg (e : OutElem) : List W64 := dws 2 e.ea ++ dws 2 e.data

/-- A trap as its delivery carries it (R357, R398): cause, offset and `INFO`. -/
def trapMsg (x : Slot) : List (List W64) :=
  match x.trap with
  | some p => [[BitVec.ofNat 64 p.cause.code, BitVec.ofNat 64 p.ofs] ++ dws 2 p.info]
  | none => []

/-- The messages that the word of slot `g` sends from state `s` on the way to `t`: accesses, stores, kicks, operations of the array and
`oload`s, appended elements, the record as written back, reports and its trap (R397). [Log 58: DEDUCED] -/
def wordMsgs (s t : State) (g : Nat) : List (List W64) :=
  let x := s.slot g
  let y := t.slot g
  let cl := clusterOf g
  let recNow := (List.range 8).map fun k => BitVec.ofNat 64 (recDw t cl x.recOfs k)
  let recWas := (List.range 8).map fun k => BitVec.ofNat 64 (recDw s cl x.recOfs k)
  (t.net.filter fun r => r.slot == g && decide (s.nextId ≤ r.id)).map reqMsg
    ++ (t.stores.filter fun d => d.slot == g && decide (s.nextId ≤ d.id)).map (fun d => lineMsg d.line d.tags d.bytes)
    ++ (if y.gather = x.gather then [] else y.gather.map fun l => lineMsg l.line l.tags l.bytes)
    ++ (t.engines.flatMap fun ex => (ex.2.kicks.drop (s.engine ex.1).kicks.length).map (kickMsg ex.1))
    ++ ((t.core (coreOf g)).queue.filter fun e => e.slot == g && !(s.core (coreOf g)).queue.contains e).map matMsg
    ++ ((t.core (coreOf g)).oloads.filter fun o => o.slot == g && !(s.core (coreOf g)).oloads.contains o).map
        (fun o => BitVec.ofNat 64 o.ofs :: BitVec.ofNat 64 o.res :: regDws o.cap ++ dws 2 o.desc.toNat)
    ++ (if y.trap = x.trap then [] else trapMsg y)
    ++ (if y.ports = x.ports then [] else y.ports.map fun kp =>
          (kp.2.openV.map fun v => v.setWidth 64) ++ kp.2.outQ.flatMap elemMsg)
    ++ (if recNow = recWas then [] else [recNow])
    ++ (t.reports.drop s.reports.length).map (fun r => [BitVec.ofNat 64 r.cl, BitVec.ofNat 64 r.lid, BitVec.ofNat 64 r.kind])
    ++ (t.decs.drop s.decs.length).map fun d => [BitVec.ofNat 64 d.cl, BitVec.ofNat 64 d.ofs]

/-- The pair, by index, whose primary slot `g` runs. -/
def primaryOf (s : State) (g : Nat) : Option (Nat × Pair) :=
  ((s.pairs.zipIdx.find? fun pi => pi.1.pcl == clusterOf g && pi.1.pofs == (s.slot g).recOfs && (s.slot g).status != .idle)).map
    fun pi => (pi.2, pi.1)

/-- Whether slot `g` runs the secondary of a pair. -/
def isSecSlot (s : State) (g : Nat) : Bool := (s.slot g).status != .idle && isSecondary s (clusterOf g) (s.slot g).recOfs

/-- The thread of a slot with the values of another: context, parameters and place in the program. -/
def withValues (x y : Slot) : Slot :=
  { x with ctx := y.ctx, p0 := y.p0, p1 := y.p1, blk := y.blk, ofs := y.ofs, skip := y.skip, lact := y.lact }

/-- A value that changed from `a` to `b` in the primary reaches the secondary; one that did not change stays its own. -/
def carry {α : Type} [DecidableEq α] (a b own : α) : α := if a = b then own else b

/-- The registers of a secondary once those of the primary changed. -/
def carryRegs (a b own : Context) : Sparse RegVal :=
  (List.range' 1 47).foldl (fun (m : Sparse RegVal) r => if a.reg r = b.reg r then m else ins m r (b.reg r)) own.regs

/-- The values of a secondary once replies and handlers changed the primary's from `x` to `y` (R397). -/
def carryValues (x y own : Slot) : Slot :=
  { own with
    ctx := { own.ctx with
      regs := carryRegs x.ctx y.ctx own.ctx
      stat := own.ctx.stat ||| (y.ctx.stat ^^^ x.ctx.stat)
      rep := carry x.ctx.rep y.ctx.rep own.ctx.rep }
    p0 := carry x.p0 y.p0 own.p0
    blk := carry x.blk y.blk own.blk
    ofs := carry x.ofs y.ofs own.ofs
    skip := carry x.skip y.skip own.skip }

/-- The record of the secondary takes the fields of the primary's that changed: everything but the image and the run-list link. -/
def carryRecord (s t : State) (p : Pair) : State :=
  [0, 1, 2, 3, 4, 6].foldl (fun u k =>
    let v := recDw t p.pcl p.pofs k
    if recDw s p.pcl p.pofs k = v then u else sramWrite u p.scl (p.sofs + 8 * k) 8 v) t

/-- The secondary gives up its slot, with its context in its image. -/
def secLeaves (t : State) (g : Nat) : State :=
  (keepImage t g).setSlot g Slot.reset

/-- The secondary of a pair follows what a step from `s` to `t` did to the record of the primary (R396): ended, ready, waiting or
trapped. `own` says that the step was the primary's own word, after which the secondary holds its own values.
[Log 58: DEDUCED] -/
def followRecord (s t : State) (own : Bool) (p : Pair) : State :=
  let gp := runnerOf s p.pcl p.pofs
  let gs := runnerOf t p.scl p.sofs
  let t := match gp, gs with
    | some g, some h => if own then t else t.setSlot h (carryValues (s.slot g) (t.slot g) (t.slot h))
    | _, _ => t
  if recState t p.pcl p.pofs = 0 then
    let t := { t with pairs := t.pairs.filter fun q => !(q.pcl == p.pcl && q.pofs == p.pofs) }
    let t := match gs with | some h => (dropSlotWork t h).setSlot h Slot.reset | none => t
    freeRec t p.scl p.sofs
  else if recState s p.pcl p.pofs = recState t p.pcl p.pofs then carryRecord s t p
  else
    let st := recState t p.pcl p.pofs
    if st = 2 then t
    else
      let t := match gs with | some h => secLeaves t h | none => t
      let t := carryRecord s t p
      if st = 1 then (if (t.cluster p.scl).run.contains p.sofs then t else runTail t p.scl p.sofs)
      else t.onCluster p.scl fun c => { c with run := c.run.erase p.sofs }

/-- Every pair after a step but the one whose own word it was. [Log 58: DEDUCED] -/
def followAll (s t : State) (own : Option (Nat × Nat)) : State :=
  (t.pairs.filter fun p => own != some (p.pcl, p.pofs)).foldl (fun u p => followRecord s u false p) t

/-- The word of slot `g` as the secondary of pair `p` runs it, in the place of the primary. [Log 58: DEDUCED] -/
def secondaryStart (s : State) (g h : Nat) : State := s.setSlot g (withValues (s.slot g) (s.slot h))

/-- Both copies of pair `k` run their words (R397): `run` is the move of slot `g`. A copy whose word sends a message waits for the
router; when the router has let it go, its word takes effect, the secondary's on its own values alone. [Log 58: DEDUCED] -/
def pairMove (run : State → Nat → Host.Outcome State Fault Refusal) (s : State) (k : Nat) (p : Pair) (g h : Nat) :
    Host.Outcome State Fault Refusal :=
  let runP := p.msgP.isEmpty
  let runS := p.msgS.isEmpty
  match (if runP then run s g else .next s), (if runS then run (secondaryStart s g h) g else .next (secondaryStart s g h)) with
  | .next t, .next u =>
    let mp := wordMsgs s t g
    let ms := wordMsgs (secondaryStart s g h) u g
    let doneP := runP && (p.goP || mp.isEmpty)
    let doneS := runS && (p.goS || ms.isEmpty)
    let sec := if doneS then
        (if (u.slot g).status = .idle then
          withValues (s.slot h) { Slot.reset with ctx := (find u.contexts (s.slot g).ctxPa).getD (s.slot h).ctx }
         else withValues (s.slot h) (u.slot g))
      else s.slot h
    let base := if doneP then t else s
    let base := base.setSlot h { sec with status := .ready }
    let q : Pair :=
      { p with
        msgP := if doneP then [] else if runP then mp else p.msgP
        msgS := if doneS then [] else if runS then ms else p.msgS
        goP := p.goP && !doneP, goS := p.goS && !doneS }
    let base := { base with pairs := base.pairs.set k q }
    .next (followRecord s base true p)
  | .next _, o => o
  | o, _ => o

/-- A send of the sequencer for pair `k`, by the slot `g` of the primary (R224, R397): the operands of both copies are read, and the
operation joins the queue where their messages agree. -/
def pairSend (run : State → Host.Outcome State Fault Refusal) (s : State) (k : Nat) (p : Pair) (g h : Nat) :
    Host.Outcome State Fault Refusal :=
  let u0 := secondaryStart s g h
  match run s, run u0 with
  | .next t, .next u =>
    let c := compareMsgs p.n p.hp p.hs (wordMsgs s t g) (wordMsgs u0 u g)
    if c.same && c.msgP.isEmpty && c.msgS.isEmpty then
      let q : Pair := { p with n := c.n, hp := c.hp, hs := c.hs }
      .next { t with pairs := t.pairs.set k q }
    else .next (fenceAround (fenceAround s p.pcl) p.scl)
  | .next _, o => o
  | o, _ => o

/-- A message that both copies of pair `k` send alike, such as the fetch of a stream element (R397). -/
def sameMsg (s : State) (k : Nat) (m : List W64) : State :=
  match s.pairs[k]? with
  | some p =>
    let q : Pair := { p with n := p.n + 1, hp := hashMsg (p.n + 1) p.hp m, hs := hashMsg (p.n + 1) p.hs m }
    { s with pairs := s.pairs.set k q }
  | none => s

end Sys2Proof.Machine
end

