-- ==== Sys2Proof/Machine/Vector.lean ====
section
/-! DEFINITION. Vector instructions (11_insn_vector R180-R200). A lane is a number; a lane operation gives a number and its flags. -/

namespace Sys2Proof.Machine

/-! ## Lanes (R148, R180) -/

/-- The float format of a lane type, if it is one. -/
def laneFloat (ty : Nat) : Option FloatFmt := match ty with | 0 => some fp32 | 1 => some bf16 | 2 => some fp16 | _ => none

/-- Whether a lane type is signed. -/
def laneSigned (ty : Nat) : Bool := decide (3 ≤ ty ∧ ty ≤ 6)

/-- Lanes of a type. -/
def laneCount (ty : Nat) : Nat := 128 / laneBits ty

/-- Lane `i` of a register. -/
def laneOf (ty : Nat) (v : RegVal) (i : Nat) : Nat := fld v.bits.toNat (laneBits ty * i) (laneBits ty)

/-- A register from its lanes. -/
def ofLanes (ty : Nat) (xs : List Nat) : RegVal :=
  RegVal.ofNat (xs.zipIdx.foldl (fun a xi => a + xi.1 % 2 ^ laneBits ty * 2 ^ (laneBits ty * xi.2)) 0)

/-- An integer lane's value. -/
def laneInt (ty x : Nat) : Int := if laneSigned ty then sext (laneBits ty) x else x

/-- The mode of a vector word (R148, R184). -/
def vecMode (o : VecOp) (rnd : Nat) : Nat := match o.rnd with | 1 => 0 | 2 => 1 | 3 => 5 | _ => rnd

/-- The fields that a word with `n` sources reads: the sources, the mask and, where disabled lanes are kept, D (R181, R182). -/
def vecFields (o : VecOp) (n : Nat) : List Nat :=
  [o.a, o.b, o.c].take n ++ (if o.me then [o.k] else []) ++ (if o.me && !o.mz then [o.d] else [])

/-- Whether lane `i` is enabled (R183); `vs` are the values of `vecFields`. -/
def enabled (o : VecOp) (n : Nat) (vs : List RegVal) (i : Nat) : Bool := !o.me || bitAt (vs.getD n RegVal.zero).int.toNat i

/-- What a disabled lane of type `ty` holds (R183). -/
def idleLane (o : VecOp) (n ty : Nat) (vs : List RegVal) (i : Nat) : Nat := if o.mz then 0 else laneOf ty (vs.getD (n + 1) RegVal.zero) i

/-- The enabled lanes computed, the others kept or zero (R183). -/
def laneMap (o : VecOp) (n : Nat) (vs : List RegVal) (f : Nat → Nat × Nat) : RegVal × Nat :=
  let rs := (List.range (laneCount o.ty)).map fun i => if enabled o n vs i then f i else (idleLane o n o.ty vs i, 0)
  (ofLanes o.ty (rs.map (·.1)), rs.foldl (fun fl r => fl ||| r.2) 0)

/-- A vector word whose result has fixed latency. -/
def vecFixed (o : VecOp) (fs : List Nat) (s : State) (f : Nat → Bool → List RegVal → RegVal × Nat) : Host.Outcome State Fault Refusal :=
  issue o.s s (compute s fs o.d fun vs => .inr (f (vecMode o (rndMode s s.cur)) (rndSat s s.cur) vs))

/-- A vector word whose result returns later (R50, R182, R197). A value for an output port is appended as the word issues and written
later, as every element is (R214); its flags return with the result. -/
def vecLate (o : VecOp) (fs : List Nat) (s : State) (f : Nat → Bool → List RegVal → RegVal × Nat) : Host.Outcome State Fault Refusal :=
  issue o.s s <|
    (checkSrc s s.cur fs o.d).bind fun _ s =>
      let r := f (vecMode o (rndMode s s.cur)) (rndSat s s.cur) ((List.range fs.length).map (fieldVal s s.cur fs))
      (withData r.1 (checkDst s o.d)).bind fun places s =>
        let late := fun (d : Nat) => ({ dst := d, val := r.1, flags := r.2, cls := none, rid := 0, after := some s.nextId } : Result)
        let t := popAll s s.cur fs
        .ok () (if 48 ≤ o.d then pushResult (putResult t o.d r.1 places) s.cur (late 0) else pushResult t s.cur (late o.d))

/-- A lane-wise word: the function takes the lanes of the `n` sources. -/
def vecWord (o : VecOp) (n : Nat) (s : State) (f : Nat → Bool → List Nat → Nat × Nat) : Host.Outcome State Fault Refusal :=
  vecFixed o (vecFields o n) s fun mode sat vs =>
    laneMap o n vs fun i => f mode sat ((vs.take n).map fun v => laneOf o.ty v i)

/-- A lane-wise word of two sources: `g` on the values of float lanes, `f` on those of integer lanes, which wrap. -/
def arithWord (o : VecOp) (s : State) (g : Nat → Num → Num → Num × Nat) (f : Int → Int → Int) : Host.Outcome State Fault Refusal :=
  vecWord o 2 s fun mode sat xs =>
    let a := xs.getD 0 0
    let b := xs.getD 1 0
    match laneFloat o.ty with
    | some ft => arith ft mode sat (g mode (decodeFloat ft a) (decodeFloat ft b))
    | none => (low (laneBits o.ty) (f (laneInt o.ty a) (laneInt o.ty b)), 0)

/-! ## Arithmetic (R186-R189) -/

/-- `vadd` (R186). -/
def execVadd (o : VecOp) (s : State) : Host.Outcome State Fault Refusal := arithWord o s addNum (· + ·)

/-- `vsub` (R186). -/
def execVsub (o : VecOp) (s : State) : Host.Outcome State Fault Refusal := arithWord o s (fun m a b => addNum m a b.negate) (· - ·)

/-- `vmul` (R186). -/
def execVmul (o : VecOp) (s : State) : Host.Outcome State Fault Refusal := arithWord o s (fun _ a b => mulNum a b) (· * ·)

/-- `vdiv` (R186). [Log 68: DESIGN CHOICE] -/
def execVdiv (o : VecOp) (s : State) : Host.Outcome State Fault Refusal := arithWord o s (fun _ a b => divNum a b) fun _ _ => 0

/-- A lane-wise float word of one source. -/
def unaryFloat (o : VecOp) (mode : Nat) (sat : Bool) (xs : List Nat) (g : Num → Num × Nat) : Nat × Nat :=
  match laneFloat o.ty with
  | some ft => arith ft mode sat (g (decodeFloat ft (xs.getD 0 0)))
  | none => (0, 0)

/-- `vsqrt` (R186). -/
def execVsqrt (o : VecOp) (s : State) : Host.Outcome State Fault Refusal :=
  vecWord o 1 s fun mode sat xs => unaryFloat o mode sat xs sqrtNum

/-- The larger or smaller of two lanes (R187). -/
def pickLane (ty : Nat) (big : Bool) (a b : Nat) : Nat × Nat :=
  match laneFloat ty with
  | some ft =>
    let x := decodeFloat ft a
    let y := decodeFloat ft b
    let fl := nanFlags x y
    if x.isNaN && y.isNaN then (ft.nanCode, fl)
    else if x.isNaN then (b, fl)
    else if y.isNaN then (a, fl)
    else (if pickNum big x y then b else a, 0)
  | none =>
    let x := laneInt ty a
    let y := laneInt ty b
    (if big then (if x < y then b else a) else if y < x then b else a, 0)

/-- `vmin` (R187). -/
def execVmin (o : VecOp) (s : State) : Host.Outcome State Fault Refusal :=
  vecWord o 2 s fun _ _ xs => pickLane o.ty false (xs.getD 0 0) (xs.getD 1 0)

/-- `vmax` (R187). -/
def execVmax (o : VecOp) (s : State) : Host.Outcome State Fault Refusal :=
  vecWord o 2 s fun _ _ xs => pickLane o.ty true (xs.getD 0 0) (xs.getD 1 0)

/-- The absolute value of a lane (R187). -/
def absLane (ty a : Nat) : Nat :=
  if (laneFloat ty).isSome then a % 2 ^ (laneBits ty - 1) else if laneSigned ty then low (laneBits ty) (laneInt ty a).natAbs else a

/-- `vabs` (R187). -/
def execVabs (o : VecOp) (s : State) : Host.Outcome State Fault Refusal := vecWord o 1 s fun _ _ xs => (absLane o.ty (xs.getD 0 0), 0)

/-- The negation of a lane (R187). -/
def negLane (ty a : Nat) : Nat :=
  if (laneFloat ty).isSome then a ^^^ 2 ^ (laneBits ty - 1) else low (laneBits ty) (-(laneInt ty a))

/-- `vneg` (R187). -/
def execVneg (o : VecOp) (s : State) : Host.Outcome State Fault Refusal := vecWord o 1 s fun _ _ xs => (negLane o.ty (xs.getD 0 0), 0)

/-- A lane-wise word on bits. -/
def bitWord (o : VecOp) (s : State) (f : Nat → Nat → Nat) : Host.Outcome State Fault Refusal :=
  vecWord o 2 s fun _ _ xs => (f (xs.getD 0 0) (xs.getD 1 0), 0)

/-- `vand` (R188). -/
def execVand (o : VecOp) (s : State) : Host.Outcome State Fault Refusal := bitWord o s (· &&& ·)

/-- `vor` (R188). -/
def execVor (o : VecOp) (s : State) : Host.Outcome State Fault Refusal := bitWord o s (· ||| ·)

/-- `vxor` (R188). -/
def execVxor (o : VecOp) (s : State) : Host.Outcome State Fault Refusal := bitWord o s (· ^^^ ·)

/-- `vshl` (R188). -/
def execVshl (o : VecOp) (s : State) : Host.Outcome State Fault Refusal := bitWord o s fun a b => a * 2 ^ (b % laneBits o.ty)

/-- `vshr` (R188). -/
def execVshr (o : VecOp) (s : State) : Host.Outcome State Fault Refusal := bitWord o s fun a b => a / 2 ^ (b % laneBits o.ty)

/-- `vsra` (R188). -/
def execVsra (o : VecOp) (s : State) : Host.Outcome State Fault Refusal :=
  bitWord o s fun a b => low (laneBits o.ty) (sext (laneBits o.ty) a / (2 ^ (b % laneBits o.ty) : Nat))

/-- A fused multiply-add with the product and the addend negated as asked (R189). -/
def fmaWord (o : VecOp) (s : State) (np nc : Bool) : Host.Outcome State Fault Refusal :=
  vecWord o 3 s fun mode sat xs =>
    match laneFloat o.ty with
    | some ft =>
      let x := fun i => decodeFloat ft (xs.getD i 0)
      arith ft mode sat (fmaNum mode (if np then (x 0).negate else x 0) (x 1) (if nc then (x 2).negate else x 2))
    | none => (0, 0)

/-- `vfma` (R189). -/
def execVfma (o : VecOp) (s : State) : Host.Outcome State Fault Refusal := fmaWord o s false false

/-- `vfms` (R189). -/
def execVfms (o : VecOp) (s : State) : Host.Outcome State Fault Refusal := fmaWord o s false true

/-- `vfnma` (R189). -/
def execVfnma (o : VecOp) (s : State) : Host.Outcome State Fault Refusal := fmaWord o s true false

/-! ## Comparison and selection (R190, R191) -/

/-- How two lanes compare: less, equal, unordered, and whether a signalling NaN is among them. -/
structure LaneOrd where
  lt  : Bool
  eq  : Bool
  un  : Bool
  sig : Bool

/-- The comparison of two lanes. -/
def laneOrd (ty a b : Nat) : LaneOrd :=
  match laneFloat ty with
  | some ft =>
    let x := decodeFloat ft a
    let y := decodeFloat ft b
    if x.isNaN || y.isNaN then ⟨false, false, true, x.isSig || y.isSig⟩ else ⟨ltVal x y, eqNum x y, false, false⟩
  | none => ⟨decide (laneInt ty a < laneInt ty b), a == b, false, false⟩

/-- A comparison: bits 63:0 of D (R190). `quiet` marks the conditions that raise NV for signalling NaNs alone. -/
def cmpWord (o : VecOp) (s : State) (quiet : Bool) (f : LaneOrd → Bool) : Host.Outcome State Fault Refusal :=
  vecFixed o (vecFields o 2) s fun _ _ vs =>
    let rs := (List.range (laneCount o.ty)).map fun i =>
      if enabled o 2 vs i then
        let r := laneOrd o.ty (laneOf o.ty (vs.getD 0 RegVal.zero) i) (laneOf o.ty (vs.getD 1 RegVal.zero) i)
        (f r, if (if quiet then r.sig else r.un) then flNV else 0)
      else (!o.mz && bitAt (vs.getD 3 RegVal.zero).bits.toNat i, 0)
    (RegVal.ofNat (rs.zipIdx.foldl (fun a ri => if ri.1.1 then a + 2 ^ ri.2 else a) 0), rs.foldl (fun fl r => fl ||| r.2) 0)

/-- `vcmp.eq` (R190). -/
def execVcmpEq (o : VecOp) (s : State) : Host.Outcome State Fault Refusal := cmpWord o s true fun r => r.eq
/-- `vcmp.ne` (R190). -/
def execVcmpNe (o : VecOp) (s : State) : Host.Outcome State Fault Refusal := cmpWord o s true fun r => !r.eq
/-- `vcmp.lt` (R190). -/
def execVcmpLt (o : VecOp) (s : State) : Host.Outcome State Fault Refusal := cmpWord o s false fun r => r.lt
/-- `vcmp.le` (R190). -/
def execVcmpLe (o : VecOp) (s : State) : Host.Outcome State Fault Refusal := cmpWord o s false fun r => r.lt || r.eq
/-- `vcmp.gt` (R190). -/
def execVcmpGt (o : VecOp) (s : State) : Host.Outcome State Fault Refusal := cmpWord o s false fun r => !r.un && !r.lt && !r.eq
/-- `vcmp.ge` (R190). -/
def execVcmpGe (o : VecOp) (s : State) : Host.Outcome State Fault Refusal := cmpWord o s false fun r => !r.un && !r.lt
/-- `vcmp.un` (R190). -/
def execVcmpUn (o : VecOp) (s : State) : Host.Outcome State Fault Refusal := cmpWord o s true fun r => r.un

/-- `vsel` (R191). -/
def execVsel (o : VecOp) (s : State) : Host.Outcome State Fault Refusal :=
  vecFixed o (vecFields o 3) s fun _ _ vs =>
    laneMap o 3 vs fun i =>
      (laneOf o.ty (vs.getD (if bitAt (vs.getD 2 RegVal.zero).int.toNat i then 0 else 1) RegVal.zero) i, 0)

/-! ## Reductions (R192-R194) -/

/-- A reduction of the candidate lanes of A, with their lane numbers; `n` sources. The result is no vector; a form with `m=` reads D as every
such form does (R182). -/
def reduceWord (o : VecOp) (n : Nat) (s : State) (f : Nat → Bool → List RegVal → List (Nat × Nat) → RegVal × Nat) :
    Host.Outcome State Fault Refusal :=
  vecFixed o (vecFields o n) s fun mode sat vs =>
    f mode sat vs ((List.range (laneCount o.ty)).filterMap fun i =>
      if enabled o n vs i then some (laneOf o.ty (vs.getD 0 RegVal.zero) i, i) else none)

/-- The sum of candidate lanes (R192). -/
def sumLanes (ty mode : Nat) (sat : Bool) (xs : List Nat) : Nat × Nat :=
  match laneFloat ty with
  | some ft =>
    (xs.drop 1).foldl (fun (acc : Nat × Nat) x =>
      let (v, fl) := arith ft mode sat (addNum mode (decodeFloat ft acc.1) (decodeFloat ft x))
      (v, acc.2 ||| fl)) (xs.headD 0, 0)
  | none => (low 64 ((xs.map (laneInt ty)).foldl (· + ·) 0), 0)

/-- `vredsum` (R192). -/
def execVredsum (o : VecOp) (s : State) : Host.Outcome State Fault Refusal :=
  reduceWord o 1 s fun mode sat _ cs => let r := sumLanes o.ty mode sat (cs.map (·.1)); (RegVal.ofNat r.1, r.2)

/-- The largest or smallest candidate (R193). -/
def extremeLanes (ty : Nat) (big : Bool) (xs : List Nat) : Nat × Nat :=
  match laneFloat ty with
  | some ft => extremeF ft big xs
  | none =>
    let w := laneBits ty
    let least : Int := if laneSigned ty then -(2 ^ (w - 1) : Nat) else 0
    let most : Int := if laneSigned ty then (2 ^ (w - 1) : Nat) - 1 else (2 ^ w : Nat) - 1
    (low 64 (extremeI big (if big then least else most) (xs.map (laneInt ty))), 0)

/-- `vredmax` (R193). -/
def execVredmax (o : VecOp) (s : State) : Host.Outcome State Fault Refusal :=
  reduceWord o 1 s fun _ _ _ cs => let r := extremeLanes o.ty true (cs.map (·.1)); (RegVal.ofNat r.1, r.2)

/-- `vredmin` (R193). -/
def execVredmin (o : VecOp) (s : State) : Host.Outcome State Fault Refusal :=
  reduceWord o 1 s fun _ _ _ cs => let r := extremeLanes o.ty false (cs.map (·.1)); (RegVal.ofNat r.1, r.2)

/-- A float lane as FP32, exactly (R194). -/
def widenLane (ty x : Nat) : Nat := match laneFloat ty with | some ft => (toFloat fp32 0 false (decodeFloat ft x)).1 | none => x

/-- `vredargmax` (R194). -/
def execVredargmax (o : VecOp) (s : State) : Host.Outcome State Fault Refusal :=
  reduceWord o 3 s fun _ _ vs cs =>
    let base := fld (vs.getD 1 RegVal.zero).bits.toNat 0 32
    let best := cs.foldl (fun b c => betterKey b (widenLane o.ty c.1, (base + c.2) % 2 ^ 32)) (priorKey (vs.getD 2 RegVal.zero).int.toNat)
    (RegVal.ofNat (keyPair best), 0)

/-! ## Permutation (R195) -/

/-- `vshuf` (R195). -/
def execVshuf (o : VecOp) (s : State) : Host.Outcome State Fault Refusal :=
  vecFixed o (vecFields o 2) s fun _ _ vs =>
    laneMap o 2 vs fun i =>
      (laneOf o.ty (vs.getD 0 RegVal.zero) (laneOf o.ty (vs.getD 1 RegVal.zero) i % laneCount o.ty), 0)

/-- `vbcast` (R195). -/
def execVbcast (o : VecOp) (s : State) : Host.Outcome State Fault Refusal :=
  vecFixed o (vecFields o 1) s fun _ _ vs => laneMap o 1 vs fun _ => (laneOf o.ty (vs.getD 0 RegVal.zero) 0, 0)

/-- `vins` (R195). -/
def execVins (o : VecOp) (s : State) : Host.Outcome State Fault Refusal :=
  vecFixed o [o.a, o.b, o.d] s fun _ _ vs =>
    let k := (vs.getD 1 RegVal.zero).int.toNat % laneCount o.ty
    (ofLanes o.ty ((List.range (laneCount o.ty)).map fun i =>
      laneOf o.ty (vs.getD (if i = k then 0 else 2) RegVal.zero) (if i = k then 0 else i)), 0)

/-- `vext` (R195). -/
def execVext (o : VecOp) (s : State) : Host.Outcome State Fault Refusal :=
  vecFixed o [o.a, o.b] s fun _ _ vs =>
    let x := laneOf o.ty (vs.getD 0 RegVal.zero) ((vs.getD 1 RegVal.zero).int.toNat % laneCount o.ty)
    (RegVal.ofNat (if laneSigned o.ty then low 64 (laneInt o.ty x) else x), 0)

/-! ## Special functions (R196) -/

/-- A special function on the enabled lanes. -/
def specialWord (o : VecOp) (s : State) (g : Num → Num × Nat) : Host.Outcome State Fault Refusal :=
  vecLate o (vecFields o 1) s fun mode sat vs =>
    laneMap o 1 vs fun i => unaryFloat o mode sat [laneOf o.ty (vs.getD 0 RegVal.zero) i] g

/-- `vexp2` (R196). -/
def execVexp2 (o : VecOp) (s : State) : Host.Outcome State Fault Refusal := specialWord o s exp2Num
/-- `vlog2` (R196). -/
def execVlog2 (o : VecOp) (s : State) : Host.Outcome State Fault Refusal := specialWord o s log2Num
/-- `vrcp` (R196). -/
def execVrcp (o : VecOp) (s : State) : Host.Outcome State Fault Refusal := specialWord o s rcpNum
/-- `vrsqrt` (R196). -/
def execVrsqrt (o : VecOp) (s : State) : Host.Outcome State Fault Refusal := specialWord o s rsqrtNum
/-- `vtanh` (R196). -/
def execVtanh (o : VecOp) (s : State) : Host.Outcome State Fault Refusal := specialWord o s tanhNum
/-- `vsig` (R196). -/
def execVsig (o : VecOp) (s : State) : Host.Outcome State Fault Refusal := specialWord o s sigNum
/-- `vgelu` (R196). -/
def execVgelu (o : VecOp) (s : State) : Host.Outcome State Fault Refusal := specialWord o s geluNum

/-! ## Conversions (R198, R199) -/

/-- The value of a lane. -/
def laneNum (ty x : Nat) : Num := match laneFloat ty with | some ft => decodeFloat ft x | none => Num.ofInt (laneInt ty x)

/-- A value rounded to an integral one under a mode, with NX where that changes it (R199). -/
def integral (mode : Nat) (x : Num) : Num × Nat :=
  match x with
  | .fin neg m e st =>
    let (v, ne) := roundInt mode neg m e st
    (.fin neg v.natAbs 0 false, if ne then flNX else 0)
  | x => (x, 0)

/-- `Cvt` (R104, R105, R199). -/
def convertLane (dst src mode : Nat) (sat whole : Bool) (x : Nat) : Nat × Nat :=
  let v := laneNum src x
  match laneFloat dst with
  | none => toInt (laneBits dst) (laneSigned dst) mode v
  | some ft =>
    if whole && (laneFloat src).isSome then
      let (y, f) := integral mode v
      let (c, g) := toFloat ft mode sat y
      (c, f ||| g)
    else toFloat ft mode sat v

/-- A conversion (R198). A narrowing one reads D, and so does one that keeps disabled lanes. -/
def convertWord (o : VecOp) (whole : Bool) (s : State) : Host.Outcome State Fault Refusal :=
  let ns := laneCount o.c
  let nd := laneCount o.ty
  let keepsD : Bool := decide (ns < nd) || (o.me && !o.mz)
  let fs := [o.a, o.b] ++ (if o.me then [o.k] else []) ++ (if keepsD then [o.d] else [])
  vecFixed o fs s fun mode sat vs =>
    let p := (vs.getD 1 RegVal.zero).int.toNat % (max ns nd / min ns nd)
    let old := vs.getD (if o.me then 3 else 2) RegVal.zero
    let rs := (List.range nd).map fun i =>
      let inside : Bool := nd ≤ ns || (decide (p * ns ≤ i) && decide (i < p * ns + ns))
      if !inside then (laneOf o.ty old i, 0)
      else if !enabled o 2 vs i then (if o.mz then 0 else laneOf o.ty old i, 0)
      else
        let j := if nd < ns then p * nd + i else if ns < nd then i - p * ns else i
        convertLane o.ty o.c mode sat whole (laneOf o.c (vs.getD 0 RegVal.zero) j)
    (ofLanes o.ty (rs.map (·.1)), rs.foldl (fun fl r => fl ||| r.2) 0)

/-- `vcvt` (R198, R199). -/
def execVcvt (o : VecOp) (s : State) : Host.Outcome State Fault Refusal := convertWord o false s

/-- `vcvt.i` (R198, R199). -/
def execVcvtI (o : VecOp) (s : State) : Host.Outcome State Fault Refusal := convertWord o true s

/-! ## Merging softmax states (R200) -/

/-- A rescale factor (R200). -/
def mergeFactor (mode : Nat) (sat : Bool) (mi m : Nat) : Nat × Nat :=
  if mi = negInf32 then (0, 0)
  else if mi = m then (0x3F800000, 0)
  else
    match addNum 0 (decodeFloat fp32 mi) (decodeFloat fp32 m).negate with
    | (.fin neg x e _, _) => arith fp32 mode sat (expNum neg x e, 0)
    | _ => (0, 0)

/-- The lanes of a merge: maximum, sum and factors, with the flags (R200). -/
def mergeLanes (mode : Nat) (sat : Bool) (m1 l1 m2 l2 : Nat) : List Nat × Nat :=
  let d := decodeFloat fp32
  let xs := [d m1, d l1, d m2, d l2]
  if xs.any Num.isNaN then (List.replicate 4 fp32.nanCode, if xs.any Num.isSig then flNV else 0)
  else if m1 = negInf32 ∧ m2 = negInf32 ∧ fld l1 23 8 ≠ 255 ∧ fld l2 23 8 ≠ 255 then ([m1, 0, 0, 0], 0)
  else
    let m := if ltNum (d m1) (d m2) then m2 else m1
    let (a1, f1) := mergeFactor mode sat m1 m
    let (a2, f2) := mergeFactor mode sat m2 m
    let (t, f3) := arith fp32 mode sat (mulNum (d l1) (d a1))
    let (l, f4) := arith fp32 mode sat (fmaNum mode (d l2) (d a2) (d t))
    ([m, l, a1, a2], f1 ||| f2 ||| f3 ||| f4)

/-- `smerge` (R200). -/
def execSmerge (o : VecOp) (s : State) : Host.Outcome State Fault Refusal :=
  vecLate o [o.a, o.b] s fun mode sat vs =>
    let a := fun i => laneOf 0 (vs.getD 0 RegVal.zero) i
    let b := fun i => laneOf 0 (vs.getD 1 RegVal.zero) i
    let (xs, fl) := mergeLanes mode sat (a 0) (a 1) (b 0) (b 1)
    (ofLanes 0 xs, fl)

end Sys2Proof.Machine
end

