-- ==== Sys2Proof/Machine/Dispatch.lean ====
section
/-! DEFINITION. The meaning of every instruction and step: one arm for each constructor, each a call of the meaning in its family's
file. -/

namespace Sys2Proof.Machine

def exec (i : Instr) (s : State) : Host.Outcome State Fault Refusal :=
  match i with
  | .add o => Sys2Proof.Machine.execAdd o s
  | .sub o => Sys2Proof.Machine.execSub o s
  | .and o => Sys2Proof.Machine.execAnd o s
  | .or o => Sys2Proof.Machine.execOr o s
  | .xor o => Sys2Proof.Machine.execXor o s
  | .andn o => Sys2Proof.Machine.execAndn o s
  | .orn o => Sys2Proof.Machine.execOrn o s
  | .xnor o => Sys2Proof.Machine.execXnor o s
  | .shl o => Sys2Proof.Machine.execShl o s
  | .shr o => Sys2Proof.Machine.execShr o s
  | .sra o => Sys2Proof.Machine.execSra o s
  | .rotl o => Sys2Proof.Machine.execRotl o s
  | .rotr o => Sys2Proof.Machine.execRotr o s
  | .min o => Sys2Proof.Machine.execMin o s
  | .max o => Sys2Proof.Machine.execMax o s
  | .minu o => Sys2Proof.Machine.execMinu o s
  | .maxu o => Sys2Proof.Machine.execMaxu o s
  | .cmpeq o => Sys2Proof.Machine.execCmpeq o s
  | .cmpne o => Sys2Proof.Machine.execCmpne o s
  | .cmplt o => Sys2Proof.Machine.execCmplt o s
  | .cmpltu o => Sys2Proof.Machine.execCmpltu o s
  | .cmple o => Sys2Proof.Machine.execCmple o s
  | .cmpleu o => Sys2Proof.Machine.execCmpleu o s
  | .sel o => Sys2Proof.Machine.execSel o s
  | .clz o => Sys2Proof.Machine.execClz o s
  | .ctz o => Sys2Proof.Machine.execCtz o s
  | .popc o => Sys2Proof.Machine.execPopc o s
  | .bswap o => Sys2Proof.Machine.execBswap o s
  | .abs o => Sys2Proof.Machine.execAbs o s
  | .neg o => Sys2Proof.Machine.execNeg o s
  | .mul o => Sys2Proof.Machine.execMul o s
  | .mulh o => Sys2Proof.Machine.execMulh o s
  | .mulhu o => Sys2Proof.Machine.execMulhu o s
  | .div o => Sys2Proof.Machine.execDiv o s
  | .divu o => Sys2Proof.Machine.execDivu o s
  | .rem o => Sys2Proof.Machine.execRem o s
  | .remu o => Sys2Proof.Machine.execRemu o s
  | .madd o => Sys2Proof.Machine.execMadd o s
  | .addi o => Sys2Proof.Machine.execAddi o s
  | .andi o => Sys2Proof.Machine.execAndi o s
  | .ori o => Sys2Proof.Machine.execOri o s
  | .xori o => Sys2Proof.Machine.execXori o s
  | .shli o => Sys2Proof.Machine.execShli o s
  | .shri o => Sys2Proof.Machine.execShri o s
  | .srai o => Sys2Proof.Machine.execSrai o s
  | .cmpeqi o => Sys2Proof.Machine.execCmpeqi o s
  | .cmplti o => Sys2Proof.Machine.execCmplti o s
  | .cmpltui o => Sys2Proof.Machine.execCmpltui o s
  | .mini o => Sys2Proof.Machine.execMini o s
  | .maxi o => Sys2Proof.Machine.execMaxi o s
  | .li o => Sys2Proof.Machine.execLi o s
  | .liq1 o => Sys2Proof.Machine.execLiq1 o s
  | .liq2 o => Sys2Proof.Machine.execLiq2 o s
  | .liq3 o => Sys2Proof.Machine.execLiq3 o s
  | .ext o => Sys2Proof.Machine.execExt o s
  | .extS o => Sys2Proof.Machine.execExtS o s
  | .ins o => Sys2Proof.Machine.execIns o s
  | .skipZ o => Sys2Proof.Machine.execSkipZ o s
  | .skipNz o => Sys2Proof.Machine.execSkipNz o s
  | .skipNeg o => Sys2Proof.Machine.execSkipNeg o s
  | .skipNneg o => Sys2Proof.Machine.execSkipNneg o s
  | .rank o => Sys2Proof.Machine.execRank o s
  | .selb o => Sys2Proof.Machine.execSelb o s
  | .hmix o => Sys2Proof.Machine.execHmix o s
  | .mov o => Sys2Proof.Machine.execMov o s
  | .cadd o => Sys2Proof.Machine.execCadd o s
  | .cbnd o => Sys2Proof.Machine.execCbnd o s
  | .cbndX o => Sys2Proof.Machine.execCbndX o s
  | .cperm o => Sys2Proof.Machine.execCperm o s
  | .cclr o => Sys2Proof.Machine.execCclr o s
  | .cgetAddr o => Sys2Proof.Machine.execCgetAddr o s
  | .cgetBase o => Sys2Proof.Machine.execCgetBase o s
  | .cgetTop o => Sys2Proof.Machine.execCgetTop o s
  | .cgetPerm o => Sys2Proof.Machine.execCgetPerm o s
  | .cgetTag o => Sys2Proof.Machine.execCgetTag o s
  | .csub o => Sys2Proof.Machine.execCsub o s
  | .ccmp o => Sys2Proof.Machine.execCcmp o s
  | .cseal o => Sys2Proof.Machine.execCseal o s
  | .cunseal o => Sys2Proof.Machine.execCunseal o s
  | .caddI o => Sys2Proof.Machine.execCaddI o s
  | .cpermI o => Sys2Proof.Machine.execCpermI o s
  | .cbndI o => Sys2Proof.Machine.execCbndI o s
  | .vadd o => Sys2Proof.Machine.execVadd o s
  | .vsub o => Sys2Proof.Machine.execVsub o s
  | .vmul o => Sys2Proof.Machine.execVmul o s
  | .vmin o => Sys2Proof.Machine.execVmin o s
  | .vmax o => Sys2Proof.Machine.execVmax o s
  | .vabs o => Sys2Proof.Machine.execVabs o s
  | .vneg o => Sys2Proof.Machine.execVneg o s
  | .vdiv o => Sys2Proof.Machine.execVdiv o s
  | .vsqrt o => Sys2Proof.Machine.execVsqrt o s
  | .vand o => Sys2Proof.Machine.execVand o s
  | .vor o => Sys2Proof.Machine.execVor o s
  | .vxor o => Sys2Proof.Machine.execVxor o s
  | .vshl o => Sys2Proof.Machine.execVshl o s
  | .vshr o => Sys2Proof.Machine.execVshr o s
  | .vsra o => Sys2Proof.Machine.execVsra o s
  | .vfma o => Sys2Proof.Machine.execVfma o s
  | .vfms o => Sys2Proof.Machine.execVfms o s
  | .vfnma o => Sys2Proof.Machine.execVfnma o s
  | .vcmpEq o => Sys2Proof.Machine.execVcmpEq o s
  | .vcmpNe o => Sys2Proof.Machine.execVcmpNe o s
  | .vcmpLt o => Sys2Proof.Machine.execVcmpLt o s
  | .vcmpLe o => Sys2Proof.Machine.execVcmpLe o s
  | .vcmpGt o => Sys2Proof.Machine.execVcmpGt o s
  | .vcmpGe o => Sys2Proof.Machine.execVcmpGe o s
  | .vcmpUn o => Sys2Proof.Machine.execVcmpUn o s
  | .vsel o => Sys2Proof.Machine.execVsel o s
  | .vredsum o => Sys2Proof.Machine.execVredsum o s
  | .vredmax o => Sys2Proof.Machine.execVredmax o s
  | .vredmin o => Sys2Proof.Machine.execVredmin o s
  | .vredargmax o => Sys2Proof.Machine.execVredargmax o s
  | .vshuf o => Sys2Proof.Machine.execVshuf o s
  | .vbcast o => Sys2Proof.Machine.execVbcast o s
  | .vins o => Sys2Proof.Machine.execVins o s
  | .vext o => Sys2Proof.Machine.execVext o s
  | .vexp2 o => Sys2Proof.Machine.execVexp2 o s
  | .vlog2 o => Sys2Proof.Machine.execVlog2 o s
  | .vrcp o => Sys2Proof.Machine.execVrcp o s
  | .vrsqrt o => Sys2Proof.Machine.execVrsqrt o s
  | .vtanh o => Sys2Proof.Machine.execVtanh o s
  | .vsig o => Sys2Proof.Machine.execVsig o s
  | .vgelu o => Sys2Proof.Machine.execVgelu o s
  | .vcvt o => Sys2Proof.Machine.execVcvt o s
  | .vcvtI o => Sys2Proof.Machine.execVcvtI o s
  | .smerge o => Sys2Proof.Machine.execSmerge o s
  | .ldB o => Sys2Proof.Machine.execLdB o s
  | .ldH o => Sys2Proof.Machine.execLdH o s
  | .ldW o => Sys2Proof.Machine.execLdW o s
  | .ldD o => Sys2Proof.Machine.execLdD o s
  | .ldQ o => Sys2Proof.Machine.execLdQ o s
  | .ldC o => Sys2Proof.Machine.execLdC o s
  | .stB o => Sys2Proof.Machine.execStB o s
  | .stH o => Sys2Proof.Machine.execStH o s
  | .stW o => Sys2Proof.Machine.execStW o s
  | .stD o => Sys2Proof.Machine.execStD o s
  | .stQ o => Sys2Proof.Machine.execStQ o s
  | .stC o => Sys2Proof.Machine.execStC o s
  | .ldfe o => Sys2Proof.Machine.execLdfe o s
  | .ldff o => Sys2Proof.Machine.execLdff o s
  | .stef o => Sys2Proof.Machine.execStef o s
  | .stfill o => Sys2Proof.Machine.execStfill o s
  | .fectlRead o => Sys2Proof.Machine.execFectlRead o s
  | .fectlEmpty o => Sys2Proof.Machine.execFectlEmpty o s
  | .fectlFull o => Sys2Proof.Machine.execFectlFull o s
  | .amoAdd o => Sys2Proof.Machine.execAmoAdd o s
  | .amoAnd o => Sys2Proof.Machine.execAmoAnd o s
  | .amoOr o => Sys2Proof.Machine.execAmoOr o s
  | .amoXor o => Sys2Proof.Machine.execAmoXor o s
  | .amoMin o => Sys2Proof.Machine.execAmoMin o s
  | .amoMax o => Sys2Proof.Machine.execAmoMax o s
  | .amoMinu o => Sys2Proof.Machine.execAmoMinu o s
  | .amoMaxu o => Sys2Proof.Machine.execAmoMaxu o s
  | .amoSwap o => Sys2Proof.Machine.execAmoSwap o s
  | .amoCas o => Sys2Proof.Machine.execAmoCas o s
  | .amoFaddF32 o => Sys2Proof.Machine.execAmoFaddF32 o s
  | .fenceRw o => Sys2Proof.Machine.execFenceRw o s
  | .fenceX o => Sys2Proof.Machine.execFenceX o s
  | .fenceM o => Sys2Proof.Machine.execFenceM o s
  | .sbindIn o => Sys2Proof.Machine.execSbindIn o s
  | .sbindOut o => Sys2Proof.Machine.execSbindOut o s
  | .sunbind mk port => Sys2Proof.Machine.execSunbind mk port s
  | .sstat mk d port => Sys2Proof.Machine.execSstat mk d port s
  | .rep o => Sys2Proof.Machine.execRep o s
  | .mma o => Sys2Proof.Machine.execMma o s
  | .mmq o => Sys2Proof.Machine.execMmq o s
  | .mml o => Sys2Proof.Machine.execMml o s
  | .mmd o => Sys2Proof.Machine.execMmd o s
  | .mmdFull o => Sys2Proof.Machine.execMmdFull o s
  | .rinit mk a b => Sys2Proof.Machine.execRinit mk a b s
  | .rinval mk a => Sys2Proof.Machine.execRinval mk a s
  | .rstat mk d a => Sys2Proof.Machine.execRstat mk d a s
  | .maccSt o => Sys2Proof.Machine.execMaccSt o s
  | .maccZ mk acc => Sys2Proof.Machine.execMaccZ mk acc s
  | .mqfin mk acc slot swz => Sys2Proof.Machine.execMqfin mk acc slot swz s
  | .oclaim mk res => Sys2Proof.Machine.execOclaim mk res s
  | .orel mk res => Sys2Proof.Machine.execOrel mk res s
  | .oload mk slot a b => Sys2Proof.Machine.execOload mk slot a b s
  | .ostat mk d res => Sys2Proof.Machine.execOstat mk d res s
  | .tdef mk tile a b => Sys2Proof.Machine.execTdef mk tile a b s
  | .tstate mk d tile => Sys2Proof.Machine.execTstate mk d tile s
  | .tset mk tile b => Sys2Proof.Machine.execTset mk tile b s
  | .tfree mk tile => Sys2Proof.Machine.execTfree mk tile s
  | .endBlk o => Sys2Proof.Machine.execEndBlk o s
  | .matchKey mk d a table => Sys2Proof.Machine.execMatchKey mk d a table s
  | .tblWr mk table a b c => Sys2Proof.Machine.execTblWr mk table a b c s
  | .tblCommit mk d table a => Sys2Proof.Machine.execTblCommit mk d table a s
  | .tblRd mk d table a b => Sys2Proof.Machine.execTblRd mk d table a b s
  | .tblSync mk table a => Sys2Proof.Machine.execTblSync mk table a s
  | .spawn o => Sys2Proof.Machine.execSpawn o s
  | .dec mk a b => Sys2Proof.Machine.execDec mk a b s
  | .tget o => Sys2Proof.Machine.execTget o s
  | .tsetCnt mk a b => Sys2Proof.Machine.execTsetCnt mk a b s
  | .mfs mk d spr => Sys2Proof.Machine.execMfs mk d spr s
  | .mts mk spr a => Sys2Proof.Machine.execMts mk spr a s
  | .tlbi mk a b => Sys2Proof.Machine.execTlbi mk a b s
  | .tlbsync mk => Sys2Proof.Machine.execTlbsync mk s
  | .portwr mk a b c => Sys2Proof.Machine.execPortwr mk a b c s
  | .portfail mk a b => Sys2Proof.Machine.execPortfail mk a b s
  | .diagSt mk a b c => Sys2Proof.Machine.execDiagSt mk a b c s
  | .trap mk a => Sys2Proof.Machine.execTrap mk a s
  | .halt mk => Sys2Proof.Machine.execHalt mk s
  | .copyXfer o => Sys2Proof.Machine.execCopyXfer o s
  | .copyFill o => Sys2Proof.Machine.execCopyFill o s
  | .copyRwrite o => Sys2Proof.Machine.execCopyRwrite o s
  | .copyRread o => Sys2Proof.Machine.execCopyRread o s
  | .copyRsend o => Sys2Proof.Machine.execCopyRsend o s
  | .copyRemap o => Sys2Proof.Machine.execCopyRemap o s
  | .copyStat o => Sys2Proof.Machine.execCopyStat o s
  | .distDeal o => Sys2Proof.Machine.execDistDeal o s
  | .distCfg o => Sys2Proof.Machine.execDistCfg o s
  | .distStat o => Sys2Proof.Machine.execDistStat o s
  | .collAllreduce o => Sys2Proof.Machine.execCollAllreduce o s
  | .collReduce o => Sys2Proof.Machine.execCollReduce o s
  | .collBcast o => Sys2Proof.Machine.execCollBcast o s
  | .collAllgather o => Sys2Proof.Machine.execCollAllgather o s
  | .collStat o => Sys2Proof.Machine.execCollStat o s
  | .ctxSave o => Sys2Proof.Machine.execCtxSave o s
  | .ctxRestore o => Sys2Proof.Machine.execCtxRestore o s
  | .ctxScrub o => Sys2Proof.Machine.execCtxScrub o s
  | .ctxStat o => Sys2Proof.Machine.execCtxStat o s
  | .gateRun o => Sys2Proof.Machine.execGateRun o s
  | .gateStat o => Sys2Proof.Machine.execGateStat o s
  | .dispatchStat o => Sys2Proof.Machine.execDispatchStat o s
  | .combineStat o => Sys2Proof.Machine.execCombineStat o s
  | .acceptLaunch cl q => Sys2Proof.Machine.execAcceptLaunch cl q s
  | .createContinuation cl lid => Sys2Proof.Machine.execCreateContinuation cl lid s
  | .retirementReport k => Sys2Proof.Machine.execRetirementReport k s
  | .successorDecrement k => Sys2Proof.Machine.execSuccessorDecrement k s
  | .takeRunListHead cl => Sys2Proof.Machine.execTakeRunListHead cl s
  | .resultReturn g k => Sys2Proof.Machine.execResultReturn g k s
  | .waitListRecheck cl => Sys2Proof.Machine.execWaitListRecheck cl s
  | .felimitTrap rid => Sys2Proof.Machine.execFelimitTrap rid s
  | .waitListEntryFreed cl => Sys2Proof.Machine.execWaitListEntryFreed cl s
  | .matchCacheFill g => Sys2Proof.Machine.execMatchCacheFill g s
  | .commitComplete k => Sys2Proof.Machine.execCommitComplete k s
  | .sweepClose => Sys2Proof.Machine.execSweepClose s
  | .sequencerSend core => Sys2Proof.Machine.execSequencerSend core s
  | .matrixOpComplete core k => Sys2Proof.Machine.execMatrixOpComplete core k s
  | .oloadComplete core k => Sys2Proof.Machine.execOloadComplete core k s
  | .trapDelivery g => Sys2Proof.Machine.execTrapDelivery g s
  | .handlerEntryWrite part => Sys2Proof.Machine.execHandlerEntryWrite part s
  | .pageWalkComplete k => Sys2Proof.Machine.execPageWalkComplete k s
  | .retryEntryWrite cl => Sys2Proof.Machine.execRetryEntryWrite cl s
  | .tlbiComplete k => Sys2Proof.Machine.execTlbiComplete k s
  | .streamElementArrival g port => Sys2Proof.Machine.execStreamElementArrival g port s
  | .sramRequest rid => Sys2Proof.Machine.execSramRequest rid s
  | .deviceStore k => Sys2Proof.Machine.execDeviceStore k s
  | .parityDifference k => Sys2Proof.Machine.execParityDifference k s
  | .deviceRead rid => Sys2Proof.Machine.execDeviceRead rid s
  | .reconstruction k => Sys2Proof.Machine.execReconstruction k s
  | .deviceAtomic rid => Sys2Proof.Machine.execDeviceAtomic rid s
  | .fenceMarker g plane stack => Sys2Proof.Machine.execFenceMarker g plane stack s
  | .markerAck g plane stack => Sys2Proof.Machine.execMarkerAck g plane stack s
  | .parityResync k => Sys2Proof.Machine.execParityResync k s
  | .engineKickAccept e => Sys2Proof.Machine.execEngineKickAccept e s
  | .engineCommandComplete e => Sys2Proof.Machine.execEngineCommandComplete e s
  | .engineAccessFailed e cause => Sys2Proof.Machine.execEngineAccessFailed e cause s
  | .dispatchStage die => Sys2Proof.Machine.execDispatchStage die s
  | .productSpawn die => Sys2Proof.Machine.execProductSpawn die s
  | .combineStage die => Sys2Proof.Machine.execCombineStage die s
  | .rotationStart cl val => Sys2Proof.Machine.execRotationStart cl val s
  | .slotHandover g => Sys2Proof.Machine.execSlotHandover g s
  | .clusterHandover cl val => Sys2Proof.Machine.execClusterHandover cl val s
  | .queueWordStore cl q val prv part => Sys2Proof.Machine.execQueueWordStore cl q val prv part s
  | .poolWordStore cl ofs val prv part => Sys2Proof.Machine.execPoolWordStore cl ofs val prv part s
  | .cocoonWordStore cl n val prv part => Sys2Proof.Machine.execCocoonWordStore cl n val prv part s
  | .pairWordStore cl val prv part => Sys2Proof.Machine.execPairWordStore cl val prv part s
  | .controlWordWrite cl ofs size val prv part => Sys2Proof.Machine.execControlWordWrite cl ofs size val prv part s
  | .vfPostedWrite vf addr len data tags full => Sys2Proof.Machine.execVfPostedWrite vf addr len data tags full s
  | .vfTaggedRead vf tag addr len => Sys2Proof.Machine.execVfTaggedRead vf tag addr len s
  | .peerRequest via ten kind addr len data => Sys2Proof.Machine.execPeerRequest via ten kind addr len data s
  | .functionLevelReset vf => Sys2Proof.Machine.execFunctionLevelReset vf s
  | .status seq => Sys2Proof.Machine.execStatus seq s
  | .attest seq nonce => Sys2Proof.Machine.execAttest seq nonce s
  | .idkey seq => Sys2Proof.Machine.execIdkey seq s
  | .extend seq digest => Sys2Proof.Machine.execExtend seq digest s
  | .fwchunk seq ofs total len data => Sys2Proof.Machine.execFwchunk seq ofs total len data s
  | .setchip seq chip => Sys2Proof.Machine.execSetchip seq chip s
  | .bindvf seq vf part => Sys2Proof.Machine.execBindvf seq vf part s
  | .keyinstall seq ten => Sys2Proof.Machine.execKeyinstall seq ten s
  | .keyerase seq ten => Sys2Proof.Machine.execKeyerase seq ten s
  | .addrmap seq chip mac ip => Sys2Proof.Machine.execAddrmap seq chip mac ip s
  | .qpset seq qp port cls ten chip peerQp psn => Sys2Proof.Machine.execQpset seq qp port cls ten chip peerQp psn s
  | .qpclear seq qp port => Sys2Proof.Machine.execQpclear seq qp port s
  | .reset seq => Sys2Proof.Machine.execReset seq s
  | .powerOnBoot len image => Sys2Proof.Machine.execPowerOnBoot len image s
  | .monitorEvent => Sys2Proof.Machine.execMonitorEvent s
  | .monitorSample die temp stackTemp railDrop oscSlow => Sys2Proof.Machine.execMonitorSample die temp stackTemp railDrop oscSlow s
  | .clockStepClimb die => Sys2Proof.Machine.execClockStepClimb die s
  | .linkKeyRenewal port => Sys2Proof.Machine.execLinkKeyRenewal port s
  | .stackLoss stack => Sys2Proof.Machine.execStackLoss stack s
  | .planeLoss plane => Sys2Proof.Machine.execPlaneLoss plane s
  | .dieExclusion die cause => Sys2Proof.Machine.execDieExclusion die cause s
  | .cocoonFencing die n cause => Sys2Proof.Machine.execCocoonFencing die n cause s
  | .discardReport k => Sys2Proof.Machine.execDiscardReport k s
  | .pairedMessageCompare k => Sys2Proof.Machine.execPairedMessageCompare k s
  | .softError kind place idx bit fixable => Sys2Proof.Machine.execSoftError kind place idx bit fixable s
  | .scalePortLinkChange port up => Sys2Proof.Machine.execScalePortLinkChange port up s
  | .managementWindowWrite ofs len data => Sys2Proof.Machine.execManagementWindowWrite ofs len data s

end Sys2Proof.Machine
end

