-- ==== Sys2Proof/Machine/Moves.lean ====
section
/-! DEFINITION. What can happen next: the steps that the agents of the part can take, the turns of the cores, and what comes from
outside (03_execution R46-R48, 08_consistency R125; spec/95_what_each_step_holds). The order in which enabled steps happen is not the
manual's: the field `sched` of the state chooses. -/

namespace Sys2Proof.Machine

/-- A step that can happen next. -/
inductive Move where
  /-- the oldest step that comes from outside -/
  | inbox
  /-- a slot's turn (R48) -/
  | slot (g : Nat)
  /-- Hawkmoth serves the request that a doorbell posted (R318) -/
  | request
  /-- a granted request of another part that waited is performed (R301) -/
  | peer (k : Nat)
  | acceptLaunch (cl q : Nat)
  | createContinuation (cl lid : Nat)
  | retirementReport (k : Nat)
  | discardReport (k : Nat)
  | successorDecrement (k : Nat)
  | takeRunListHead (cl : Nat)
  | resultReturn (g k : Nat)
  | waitListRecheck (cl : Nat)
  | felimitTrap (rid : Nat)
  | waitListEntryFreed (cl : Nat)
  | matchCacheFill (g : Nat)
  | commitComplete (k : Nat)
  | sweepClose
  | sequencerSend (core : Nat)
  | matrixOpComplete (core k : Nat)
  | oloadComplete (core k : Nat)
  | trapDelivery (g : Nat)
  | handlerEntryWrite (part : Nat)
  | pageWalkComplete (k : Nat)
  | retryEntryWrite (cl : Nat)
  | tlbiComplete (k : Nat)
  | streamElementArrival (g port : Nat)
  | sramRequest (rid : Nat)
  | deviceStore (k : Nat)
  | parityDifference (k : Nat)
  | deviceRead (rid : Nat)
  | reconstruction (k : Nat)
  | deviceAtomic (rid : Nat)
  | fenceMarker (g plane stack : Nat)
  | markerAck (g plane stack : Nat)
  | parityResync (k : Nat)
  | engineKickAccept (e : Nat)
  | engineCommandComplete (e : Nat)
  | dispatchStage (die : Nat)
  | productSpawn (die : Nat)
  | combineStage (die : Nat)
  | slotHandover (g : Nat)
  | clusterHandover (cl : Nat)
  | monitorEvent
  | pairedMessageCompare (k : Nat)
  deriving DecidableEq, Repr

/-! ## Turns -/

/-- Whether a paired thread can take a turn (R397): the secondary runs in the place of its primary, which goes on while both are in their
slots and not both wait for the router. -/
def pairFree (s : State) (g : Nat) : Bool :=
  !isSecSlot s g &&
    match primaryOf s g with
    | none => true
    | some (_, p) =>
      (p.msgP.isEmpty || p.msgS.isEmpty) && match runnerOf s p.scl p.sofs with
        | some h => (s.slot h).status == .ready
        | none => false

/-- The slot of a core that issues next (R48): the first that can after the one that issued last. -/
def nextSlot (s : State) (core : Nat) : Option Nat :=
  let last := (s.core core).last
  ((List.range 16).map fun i => 16 * core + (last + 1 + i) % 16).find? fun g => canIssue s g && pairFree s g

/-- The turn of a slot (R48): what comes before its word, or its word. -/
def runSlot (s : State) (g : Nat) : Host.Outcome State Fault Refusal :=
  match turn ({ s with cur := g }.onCore (coreOf g) fun c => { c with last := g % 16 }) with
  | .done t => .next t
  | .run i t => exec i t

/-- The turn of a slot, with the secondary of its pair when it runs a primary (R397). -/
def slotMove (s : State) (g : Nat) : Host.Outcome State Fault Refusal :=
  match primaryOf s g with
  | none => runSlot s g
  | some (k, p) =>
    match runnerOf s p.scl p.sofs with
    | some h => pairMove runSlot s k p g h
    | none => .next s

/-- A send of the sequencer of a core, with the secondary of its pair when its body is a primary's (R397). -/
def sendMove (s : State) (core : Nat) : Host.Outcome State Fault Refusal :=
  match (s.core core).seq.bind fun b => (primaryOf s b.slot).map fun kp => (b.slot, kp) with
  | none => execSequencerSend core s
  | some (g, k, p) =>
    match runnerOf s p.scl p.sofs with
    | some h => pairSend (execSequencerSend core) s k p g h
    | none => .next s

/-- An element of a stream arrives or leaves; that of a primary is a message of both copies (R397). -/
def streamMove (s : State) (g k : Nat) : Host.Outcome State Fault Refusal :=
  match primaryOf s g with
  | none => execStreamElementArrival g k s
  | some (i, _) => execStreamElementArrival g k (sameMsg s i [BitVec.ofNat 64 (k % 64), BitVec.ofNat 64 ((s.slot g).port (k % 64)).pos])

/-! ## What comes from outside -/

/-- Whether a step comes from outside the part or from its physics: no other agent of the part takes it by itself. -/
def isOutside : Instr → Bool
  | .engineAccessFailed .. => true
  | .rotationStart .. => true
  | .clusterHandover .. => true
  | .queueWordStore .. => true
  | .poolWordStore .. => true
  | .cocoonWordStore .. => true
  | .pairWordStore .. => true
  | .controlWordWrite .. => true
  | .vfPostedWrite .. => true
  | .vfTaggedRead .. => true
  | .peerRequest .. => true
  | .functionLevelReset .. => true
  | .status .. => true
  | .attest .. => true
  | .idkey .. => true
  | .extend .. => true
  | .fwchunk .. => true
  | .setchip .. => true
  | .bindvf .. => true
  | .keyinstall .. => true
  | .keyerase .. => true
  | .addrmap .. => true
  | .qpset .. => true
  | .qpclear .. => true
  | .reset .. => true
  | .powerOnBoot .. => true
  | .monitorSample .. => true
  | .clockStepClimb .. => true
  | .linkKeyRenewal .. => true
  | .stackLoss .. => true
  | .planeLoss .. => true
  | .dieExclusion .. => true
  | .cocoonFencing .. => true
  | .softError .. => true
  | .scalePortLinkChange .. => true
  | .managementWindowWrite .. => true
  | _ => false

/-- Whether a step from outside reaches a part that has stopped (R379): the status request, the window in which it is posted (R318), and a power
cycle. Any other is lost. [Log 56: DEDUCED] -/
def whenStopped : Instr → Bool
  | .status .. => true
  | .powerOnBoot .. => true
  | .managementWindowWrite .. => true
  | _ => false

/-- Whether a step from outside waits: a request of a link that is held at its cluster (R312, R313), and a function-level reset that meets a
rotation or a handover (R404). -/
def outsideWaits (s : State) : Instr → Bool
  | .vfPostedWrite vf addr len _ _ _ => vfHeld s vf addr len
  | .vfTaggedRead vf _ addr len => vfHeld s vf addr len
  | .functionLevelReset vf => match vfPart s vf with
    | some p => flrWaits s (clustersOf s p)
    | none => false
  | _ => false

/-- The place of the oldest step from outside that does not wait. -/
def inboxNext (s : State) : Option Nat := s.inbox.findIdx? fun i => s.stopped || !outsideWaits s i

/-- The oldest step from outside that does not wait happens; one that is not from outside, or that a stopped part does not answer, is
dropped. -/
def runInbox (s : State) : Host.Outcome State Fault Refusal :=
  match inboxNext s with
  | none => .next s
  | some k =>
    let t := { s with inbox := s.inbox.eraseIdx k }
    match s.inbox[k]? with
    | some i => if isOutside i && (!s.stopped || whenStopped i) then exec i t else .next t
    | none => .next s

/-- A request served (R318). -/
def MgmtReq.run (s : State) : MgmtReq → Host.Outcome State Fault Refusal
  | .status q => execStatus q s
  | .attest q n => execAttest q n s
  | .idkey q => execIdkey q s
  | .extend q d => execExtend q d s
  | .fwchunk q o t l d => execFwchunk q o t l d s
  | .setchip q c => execSetchip q c s
  | .bindvf q v p => execBindvf q v p s
  | .keyinstall q t => execKeyinstall q t s
  | .keyerase q t => execKeyerase q t s
  | .addrmap q c m i => execAddrmap q c m i s
  | .qpset q n p c t h e k => execQpset q n p c t h e k s
  | .qpclear q n p => execQpclear q n p s
  | .reset q => execReset q s

/-! ## The steps that are enabled -/

/-- An item for each index of a list that satisfies a test. -/
def indexed {α : Type} (l : List α) (ok : α → Bool) (f : Nat → Move) : List Move :=
  l.zipIdx.filterMap fun xi => if ok xi.1 then some (f xi.2) else none

/-- The steps of one cluster. -/
def clusterMoves (s : State) (cl : Nat) : List Move :=
  let c := s.cluster cl
  let w := fun (b : Bool) (m : Move) => if b then [m] else []
  (((List.range 16).filter (acceptReady s cl)).map (Move.acceptLaunch cl))
    ++ ((c.launches.filter fun kl => (createNext s cl kl.1).isSome).map fun kl => Move.createContinuation cl kl.1)
    ++ w (takeable s cl).isSome (.takeRunListHead cl)
    ++ w (!c.rechecks.isEmpty) (.waitListRecheck cl)
    ++ w (entryFree s cl) (.waitListEntryFreed cl)
    ++ w (writeOldest s cl != s) (.retryEntryWrite cl)
    ++ w (moveReady s cl) (.clusterHandover cl)

/-- The steps that serve one slot. -/
def slotMoves (s : State) (g : Nat) (x : Slot) : List Move :=
  let w := fun (b : Bool) (m : Move) => if b then [m] else []
  ((List.range x.results.length).filter (resultReady s g)).map (Move.resultReturn g)
    ++ w (trapReady s g) (.trapDelivery g)
    ++ w (fillReady s g) (.matchCacheFill g)
    ++ (x.ports.flatMap fun p => (streamReady s g p.1).map fun k => Move.streamElementArrival g (p.1 + 64 * k))
    ++ (match x.fence with
        | none => []
        | some f =>
          ((f.markers.filter fun m => markerReady s (dieOf (clusterOf g)) f.since m.1 m.2).map fun m => Move.fenceMarker g m.1 m.2)
            ++ f.acks.map fun m => Move.markerAck g m.1 m.2)
    ++ w (handoverReady s g) (.slotHandover g)

/-- The steps of one request. -/
def requestMoves (s : State) (r : Request) : List Move :=
  if pastLimit s r then [.felimitTrap r.id]
  else
    match sentReq s r.id with
    | none => []
    | some q =>
      if isDevRead q then (if devReadReady s q then [.deviceRead q.id] else [])
      else if isDev q then (if atomicReady s q then [.deviceAtomic q.id] else [])
      else if sramReady s q then [.sramRequest q.id] else []

/-- Whether the operation of a thread with a number waits for a walk of its own. -/
def opWalks (s : State) (g n : Nat) : Bool :=
  s.walks.any fun w => !w.isEng && w.owner == g && w.num == some n && w.phase != .done

/-- The steps of the array of one core. -/
def coreMoves (s : State) (k : Nat) : List Move :=
  let c := s.core k
  (if canSend s k then [Move.sequencerSend k] else [])
    ++ (c.queue.zipIdx.filterMap fun ei =>
        if entryReady s k ei.2 && !opWalks s ei.1.slot ei.1.since then some (Move.matrixOpComplete k ei.2) else none)
    ++ c.oloads.zipIdx.flatMap fun ji =>
        if opWalks s ji.1.slot ji.1.since then []
        else indexed (ji.1.reading s) (oloadReady s ji.1) fun b => Move.oloadComplete k (ji.2 + c.oloads.length * b)

/-- The steps of the engines. -/
def engineMoves (s : State) : List Move :=
  let dies := if s.engines.any fun ex => !ex.2.layers.isEmpty then List.range 4 else []
  (s.engines.filter fun ex => canAccept s ex.1).map (fun ex => Move.engineKickAccept ex.1)
    ++ (s.engines.filter fun ex => canRun s ex.1).map (fun ex => Move.engineCommandComplete ex.1)
    ++ (dies.filter (canDispatch s)).map Move.dispatchStage
    ++ (dies.filter (canSpawn s)).map Move.productSpawn
    ++ (dies.filter (canCombine s)).map Move.combineStage

/-- The steps of the commits (R65, R66): each cluster that has still to apply one, then its completion. -/
def commitMoves (s : State) : List Move :=
  let n := s.commits.length
  s.commits.zipIdx.flatMap fun ci =>
    if ci.1.todo.isEmpty then (if commitReady s ci.1 then [Move.commitComplete ci.2] else [])
    else ci.1.todo.zipIdx.filterMap fun cj => if mayApply s ci.2 cj.1 then some (Move.commitComplete (ci.2 + n * cj.2)) else none

/-- The steps of what is on its way. -/
def flightMoves (s : State) : List Move :=
  (s.net.flatMap (requestMoves s))
    ++ ((List.range ((walkingReqs s).length + (walkingJobs s).length)).filter (walkReady s)).map Move.pageWalkComplete
    ++ indexed s.stores (storeReady s) Move.deviceStore
    ++ indexed s.diffs (fun _ => true) Move.parityDifference
    ++ indexed s.rebuilds (rebuildReady s) Move.reconstruction
    ++ indexed s.stale (fun _ => true) Move.parityResync
    ++ indexed s.invals (fun v => v.complete s) Move.tlbiComplete
    ++ commitMoves s
    ++ indexed (s.reports.filter fun r => (r.kind == 3) == false) (reportReady s) Move.retirementReport
    ++ indexed (s.reports.filter fun r => (r.kind == 3) == true) (reportReady s) Move.discardReport
    ++ indexed s.decs (decReady s) Move.successorDecrement

/-- The steps of Hawkmoth and of the routers. -/
def partMoves (s : State) : List Move :=
  (s.parts.filter fun kp => (writeHandler s kp.1).isSome).map (fun kp => Move.handlerEntryWrite kp.1)
    ++ (if eventReady s then [Move.monitorEvent] else [])
    ++ (if requestDue s then [Move.request] else [])
    ++ ((List.range s.peerIn.length).filter (peerReady s)).map Move.peer
    ++ indexed s.pairs compareReady Move.pairedMessageCompare

/-- The cores that hold a thread, from the one after the core that took the last turn. -/
def turnOrder (s : State) : List Nat :=
  let cs := (s.slots.map fun gx => coreOf gx.1).dedup
  (cs.filter fun c => decide (coreOf s.cur < c)) ++ cs.filter fun c => decide (c ≤ coreOf s.cur)

/-- The turns of the cores that hold a thread (R48). -/
def turnMoves (s : State) : List Move := ((turnOrder s).filterMap (nextSlot s)).map Move.slot

/-- The steps that can happen next. The close of a sweep that performs an operation stands before the turns.
[Log 56: DEDUCED] -/
def moves (s : State) : List Move :=
  if s.stopped then (if s.inbox = [] then [] else [.inbox]) ++ (if requestDue s then [.request] else [])
  else
    (if (inboxNext s).isSome then [Move.inbox] else [])
      ++ (s.clusters.flatMap fun kc => clusterMoves s kc.1)
      ++ (s.slots.flatMap fun gx => slotMoves s gx.1 gx.2)
      ++ (s.cores.flatMap fun kc => coreMoves s kc.1)
      ++ engineMoves s ++ flightMoves s ++ partMoves s
      ++ (if sweepDue s then [.sweepClose] else []) ++ turnMoves s ++ (if sweepDue s then [] else [.sweepClose])

/-- A step happens. -/
def Move.run (s : State) : Move → Host.Outcome State Fault Refusal
  | .inbox => runInbox s
  | .slot g => slotMove s g
  | .request => match bufferRequest s with
    | .inr r => r.run s
    | .inl rst => .next (if s.hawk.go then respond s (requestHeader s).1 (requestHeader s).2.2 rst 0 0 else s)
  | .peer k => .next (if peerReady s k then peerServe s k else s)
  | .acceptLaunch cl q => execAcceptLaunch cl q s
  | .createContinuation cl lid => execCreateContinuation cl lid s
  | .retirementReport k => execRetirementReport k s
  | .discardReport k => execDiscardReport k s
  | .successorDecrement k => execSuccessorDecrement k s
  | .takeRunListHead cl => execTakeRunListHead cl s
  | .resultReturn g k => execResultReturn g k s
  | .waitListRecheck cl => execWaitListRecheck cl s
  | .felimitTrap rid => execFelimitTrap rid s
  | .waitListEntryFreed cl => execWaitListEntryFreed cl s
  | .matchCacheFill g => execMatchCacheFill g s
  | .commitComplete k => execCommitComplete k s
  | .sweepClose => execSweepClose s
  | .sequencerSend core => sendMove s core
  | .matrixOpComplete core k => execMatrixOpComplete core k s
  | .oloadComplete core k => execOloadComplete core k s
  | .trapDelivery g => execTrapDelivery g s
  | .handlerEntryWrite part => execHandlerEntryWrite part s
  | .pageWalkComplete k => execPageWalkComplete k s
  | .retryEntryWrite cl => execRetryEntryWrite cl s
  | .tlbiComplete k => execTlbiComplete k s
  | .streamElementArrival g port => streamMove s g port
  | .sramRequest rid => execSramRequest rid s
  | .deviceStore k => execDeviceStore k s
  | .parityDifference k => execParityDifference k s
  | .deviceRead rid => execDeviceRead rid s
  | .reconstruction k => execReconstruction k s
  | .deviceAtomic rid => execDeviceAtomic rid s
  | .fenceMarker g p k => execFenceMarker g p k s
  | .markerAck g p k => execMarkerAck g p k s
  | .parityResync k => execParityResync k s
  | .engineKickAccept e => execEngineKickAccept e s
  | .engineCommandComplete e => execEngineCommandComplete e s
  | .dispatchStage die => execDispatchStage die s
  | .productSpawn die => execProductSpawn die s
  | .combineStage die => execCombineStage die s
  | .slotHandover g => execSlotHandover g s
  | .clusterHandover cl => execClusterHandover cl 0 s
  | .monitorEvent => execMonitorEvent s
  | .pairedMessageCompare k => execPairedMessageCompare k s

/-- The pair whose primary's word a step is. -/
def Move.ownPair (s : State) : Move → Option (Nat × Nat)
  | .slot g => (primaryOf s g).map fun kp => (kp.2.pcl, kp.2.pofs)
  | _ => none

/-- A step happens and the secondaries follow (R396). -/
def runMove (s : State) (m : Move) : Host.Outcome State Fault Refusal :=
  match m.run s with
  | .next t => .next (if s.pairs = [] then t else followAll s t (m.ownPair s))
  | o => o

end Sys2Proof.Machine
end

