-- ==== Sys2Proof/Machine/Step.lean ====
section
/-! DEFINITION. One step of the part, and a state whose next step runs a given word. -/

namespace Sys2Proof.Machine

/-- The step that happens next: the one that `sched` chooses among those enabled, the first when it is empty.
[Log 1, 2: DESIGN CHOICE; 22: DEDUCED] -/
def chooseMove (s : State) : Option Move := (moves s)[s.sched.headD 0 % (moves s).length]?

/-- One step: the chosen one; a part in which no step is enabled, or that has stopped (R379) with nothing to serve, stays as it is.
[Log 1, 2: DESIGN CHOICE; 56: DEDUCED] -/
def step (s : State) : Host.Outcome State Fault Refusal :=
  match chooseMove s with
  | none => .next { s with sched := s.sched.tail }
  | some m => runMove { s with sched := s.sched.tail } m

/-- `s` with the instruction `w` as the only word of block 0 of a code object in the slice of the cluster of slot `s.cur`, that slot Ready at
its offset 0 as a thread of launch 0 of that cluster's scheduler, and the choice of its turn. [Log 3: DESIGN CHOICE] -/
def State.withFetchWord (s : State) (nbits w : Nat) : State :=
  fetchChosen (fetchSlot s (w % 2 ^ nbits))
where
  /-- The code object and the thread. -/
  fetchSlot (s : State) (w : Nat) : State :=
    let g := s.cur
    let cl := clusterOf g
    let ofs := 0x100000
    let s := sramWrite (sramWrite (sramWrite s cl ofs 8 1) cl (ofs + 8) 8 (16 + 4096 * 2 ^ 32)) cl (ofs + 16) 8 (w % 2 ^ 64)
    let a := sramAddr 0 ofs
    let code : RegVal := ⟨capBits 0 (permR ||| permX ||| permGLB) (a + 0x8010) a 0 a, true, false⟩
    let s := s.onCluster cl fun c => { c with maps := ins c.maps (ownerOf s cl) [2 ^ 15 + cl] }
    let s := s.setLaunch cl 0
      { used := true, queue := 0, part := ownerOf s cl, ten := 0, cls := 0, prv := 0, pri := 0, entry := 0, paired := false, ldone := RegVal.zero,
        lgen := 0, lcode := code, blocks := 1, ltdir := 0, shape := 0, ext := 0, lp0 := 0, lp1 := 0, seeds := [], next := none, live := 1
        ended := 0, halted := false, faulted := false, unpaired := false }
    let s := (dropSlotWork s g).onCore (coreOf g) fun c => { c with last := (g + 15) % 16 }
    s.setSlot g { Slot.reset with status := .ready, lcl := cl }
  /-- The choice of the slot's turn. -/
  fetchChosen (s : State) : State := { s with sched := [(moves s).idxOf (.slot s.cur)] }

end Sys2Proof.Machine
end

