-- ==== Sys2Proof/Safety.lean ====
section
/-! DEFINITION. The terms in which statements speak: the invariant of the part's memories, a step that does not stop, when a word is
ready to issue and the state that it leaves, and what a step leaves unchanged. -/

namespace Sys2Proof.Machine

/-! ## Safe runs -/

/-- The canonical form of every memory of the part. -/
def Memory.wf (s : State) : Bool := s.sram.wf && s.dev.wf && canonical 0 s.parity && canonical 0 s.parSyn

/-- A step does not stop. -/
def Runs (s : State) : Prop := ∃ t, step s = .next t

/-! ## A word that issues -/

/-- The state after the word at the offset of slot `g` has issued, when its own effect has left `u` (R50, R153, R222). -/
def issued (m : Bool) (g : Nat) (u : State) : State := u.onSlot g (afterIssue m (owesResult u g))

/-- The values that a word reads from its source fields (R155, R214). -/
def values (s : State) (fs : List Nat) : List RegVal := (List.range fs.length).map (fieldVal s s.cur fs)

/-- Bits 63:0 of source field `i` (R155). -/
def srcInt (s : State) (fs : List Nat) (i : Nat) : W64 := (fieldVal s s.cur fs i).int

/-- A word that computes can issue: no source traps or is awaited, and a destination port has room; `places` says where an appended
element goes and `t` is the state once that is found (R155, R215, R346). -/
structure Ready (s : State) (fs : List Nat) (d : Nat) (places : List OutElem) (t : State) : Prop where
  src : checkSrc s s.cur fs d = .ok () s
  dst : checkDst s d = .ok places t

/-- The state after a word has popped its sources, ORed flags into `STAT`, written `v` to `d` and issued (R102, R155, R156). -/
def wrote (m : Bool) (g : Nat) (fs : List Nat) (d : Nat) (v : RegVal) (fl : Nat) (places : List OutElem) (t : State) : State :=
  issued m g (putResult (orFlags (popAll t t.cur fs) t.cur fl) d v places)

/-- From every state in which it can issue, an instruction completes and writes `v`, raising the flags `fl`. -/
def Gives (i : Instr) (m : Bool) (fs : List Nat) (d : Nat) (v : State → RegVal) (fl : State → Nat) : Prop :=
  ∀ s places t, Ready s fs d places t → exec i s = .next (wrote m s.cur fs d (v s) (fl s) places t)

/-- A word on two registers gives 64 bits (R156). -/
def Gives2 (i : R3 → Instr) (f : W64 → W64 → W64) : Prop :=
  ∀ o : R3, Gives (i o) o.s [o.a, o.b] o.d
    (fun s => RegVal.ofInt (f (srcInt s [o.a, o.b] 0) (srcInt s [o.a, o.b] 1))) fun _ => 0

/-- A word on one register gives 64 bits (R156). -/
def Gives1 (i : R2 → Instr) (f : W64 → W64) : Prop :=
  ∀ o : R2, Gives (i o) o.s [o.a] o.d (fun s => RegVal.ofInt (f (srcInt s [o.a] 0))) fun _ => 0

/-- A word with an immediate gives `f` of 64 bits, and in its `.w` form `g` of the low 32 bits and the 32-bit pattern (R163, R164). -/
def GivesImm (i : ImmOp → Instr) (f : W64 → W64 → W64) (g : BitVec 32 → BitVec 32 → W64) : Prop :=
  ∀ o : ImmOp, Gives (i o) o.s [o.a] o.d
    (fun s => RegVal.ofInt (if o.w then g ((srcInt s [o.a] 0).setWidth 32) (BitVec.ofNat 32 o.imm)
      else f (srcInt s [o.a] 0) ((BitVec.ofNat 32 o.imm).signExtend 64))) fun _ => 0

/-! ## Vector words -/

/-- Whether lane `k` takes part (R183): there is no mask, or its bit of the mask register, which is source field `n`, is set. -/
def laneOn (o : VecOp) (fs : List Nat) (n : Nat) (s : State) (k : Nat) : Bool := !o.me || bitAt (srcInt s fs n).toNat k

/-- The flags of lanes together (R184). -/
def allFlags (fls : List Nat) : Nat := fls.foldl (fun a b => a ||| b) 0

/-- A result that holds `f k` in every enabled lane `k`; a disabled lane keeps the lane of D, which is source field `n` + 1, or is zero
(R183). `fl` are the flags of the enabled lanes. -/
def LanesAre (o : VecOp) (n : Nat) (s : State) (v : RegVal) (fl : Nat) (f : Nat → Nat × Nat) : Prop :=
  v.tag = false ∧ v.psn = false ∧
  (∀ k < laneCount o.ty,
    laneOf o.ty v k =
      if laneOn o (vecFields o n) n s k then (f k).1 % 2 ^ laneBits o.ty
      else if o.mz then 0 else laneOf o.ty (fieldVal s s.cur (vecFields o n) (n + 1)) k) ∧
  fl = allFlags (((List.range (laneCount o.ty)).filter (laneOn o (vecFields o n) n s)).map fun k => (f k).2)

/-- A well-formed lane-wise word of `n` sources gives `f o mode sat src k` in lane `k`, where `src j` is source `j` (R180-R184). -/
def GivesLanes (i : VecOp → Instr) (n : Nat) (f : VecOp → Nat → Bool → (Nat → RegVal) → Nat → Nat × Nat) : Prop :=
  ∀ (o : VecOp) (s : State) (places : List OutElem) (t : State), (i o).wf = true → Ready s (vecFields o n) o.d places t →
    ∃ v fl, exec (i o) s = .next (wrote o.s s.cur (vecFields o n) o.d v fl places t) ∧
      LanesAre o n s v fl (f o (vecMode o (rndMode s s.cur)) (rndSat s s.cur) (fieldVal s s.cur (vecFields o n)))

/-- The result of a variable-latency unit on its way (R50, R197). -/
def lateResult (s : State) (d : Nat) (v : RegVal) (fl : Nat) : Result :=
  { dst := d, val := v, flags := fl, cls := none, rid := 0, after := some s.nextId }

/-- A well-formed word that a variable-latency unit computes (R50, R182): the result returns later; a value for an output port is
appended as the word issues, and its flags return later. -/
def GivesLater (i : Instr) (o : VecOp) (fs : List Nat) (P : State → RegVal → Nat → Prop) : Prop :=
  i.wf = true → ∀ s places t, Ready s fs o.d places t →
    ∃ v fl, P s v fl ∧ exec i s = .next (issued o.s s.cur
      (if 48 ≤ o.d then pushResult (putResult (popAll t t.cur fs) o.d v places) t.cur (lateResult t 0 v fl)
       else pushResult (popAll t t.cur fs) t.cur (lateResult t o.d v fl)))

/-! ## Words that access memory -/

/-- A word with one access through the capability in its first field can issue: its sources, that capability and the rules of its
address pass (R74, R347); `u` is the state once the fence of its ordering is over (R131, R133); its class has room and nothing of its
thread stands before it (R125, R126); and its bytes are at `tgt`. -/
structure AccessReady (s : State) (fs : List Nat) (op : MemOp) (ea mask len need ord : Nat) (rx : Bool) (d : Nat) (u : State)
    (tgt : Target) (e : Option TlbEntry) : Prop where
  src   : checkSrc s s.cur fs 0 = .ok () s
  cap   : capCheck (fieldVal s s.cur fs 0) ea len mask len = none
  place : (locate s s.cur ea len need).isSome = true
  rules : ruleFails s s.cur (fieldVal s s.cur fs 0) op ea len ord rx = false
  fence : orderFence ord ea s = .ok () u
  room  : roomFor op (clsOf ea ord rx) u = .ok () u
  order : storeRoom u (newReq u u.cur (clsOf ea ord rx) op ea len ord d) = .ok () u
  found : locate (popAll u u.cur fs) u.cur ea len need = some (.at_ tgt e)

/-- The state once an access has left for its target (R125-R134): a sequentially consistent one, and a plain one whose target may answer
with a NACK, parks its thread until its reply. -/
def accessSent (u : State) (fs : List Nat) (op : MemOp) (ea len ord : Nat) (rx : Bool) (d : Nat) (tgt : Target) (e : Option TlbEntry) :
    State :=
  let p := popAll u u.cur fs
  let t := dispatchReq p ((newReq p u.cur (clsOf ea ord rx) op ea len ord d).withPops u p fs) tgt e
  match (t.slot t.cur).status with
  | .parked _ => t
  | _ => if ord = 3 then parkAfter t (.reply (t.nextId - 1)) else awaitReply t

/-- A word that sends one access of `len` bytes: its operands are taken as it issues, and it needs `mask` of the capability and `need`
of the page (1 R, 2 W, 3 both). -/
structure Access where
  fs   : List Nat
  ea   : (Nat → RegVal) → Nat
  op   : (Nat → RegVal) → MemOp
  mask : (Nat → RegVal) → Nat
  len  : Nat
  need : Nat
  ord  : Nat
  rx   : Bool
  d    : Nat

/-- From every state in which it can issue, the word sends its access. -/
def Sends (i : Instr) (m : Bool) (a : Access) : Prop :=
  ∀ (s u : State) (tgt : Target) (e : Option TlbEntry),
    let v := fieldVal s s.cur a.fs
    AccessReady s a.fs (a.op v) (a.ea v) (a.mask v) a.len a.need a.ord a.rx a.d u tgt e →
      exec i s = .next (issued m s.cur (accessSent u a.fs (a.op v) (a.ea v) a.len a.ord a.rx a.d tgt e))

/-- A word that sends an access traps, with the effective address in `INFO`, on the first cause of its capability (R74, R347), and
ACCESS where its address names nothing that it may access. -/
def Refuses (i : Instr) (a : Access) : Prop :=
  ∀ s : State, checkSrc s s.cur a.fs 0 = .ok () s →
    let v := fieldVal s s.cur a.fs
    (∀ c, capCheck (v 0) (a.ea v) a.len (a.mask v) a.len = some c → exec i s = .next (trapHere s s.cur c (a.ea v))) ∧
    (capCheck (v 0) (a.ea v) a.len (a.mask v) a.len = none → locate s s.cur (a.ea v) a.len a.need = none →
      exec i s = .next (trapHere s s.cur .access (a.ea v)))

/-- Base, index and displacement of an M-format operand (R201). -/
def memAddr (o : MemOperand) (v : Nat → RegVal) : Nat :=
  (((v 0).addr + (v 1).int.toNat * 2 ^ o.sh + (BitVec.ofNat 32 o.disp).toInt) % 2 ^ 72).toNat

/-- A load of `len` bytes (R203). -/
def loadOf (o : MemOperand) (kind len : Nat) : Access :=
  { fs := [o.a, o.x], ea := memAddr o, op := fun v => .ld kind (hasPerm (v 0) permLC), mask := fun _ => permR, len := len, need := 1,
    ord := o.ord, rx := o.rx, d := o.d }

/-- A store of the low `len` bytes of D (R204); `st.c` stores the tag, and needs SC for a tagged value. -/
def storeOf (o : MemOperand) (cap : Bool) (len : Nat) : Access :=
  { fs := [o.a, o.x, o.d], ea := memAddr o
    op := fun v => .st ((v 2).bits.toNat % 2 ^ (8 * len)) (if cap then some (v 2).tag else none)
    mask := fun v => if cap && (v 2).tag then permW ||| permSC else permW, len := len, need := 2, ord := o.ord, rx := o.rx, d := 0 }

/-- A full/empty access of one word (R205, R206): `st` for one that stores D, `rd` for one that returns a value. -/
def feOf (o : MemOperand) (fn : Nat) (st rd : Bool) (ea : (Nat → RegVal) → Nat) : Access :=
  { fs := if st then [o.a, o.x, o.d] else [o.a, o.x], ea := ea, op := fun v => .fe fn (if st then (v 2).int.toNat else 0)
    mask := fun _ => permFE ||| if rd then permR else permW, len := 8, need := if rd then 1 else 2, ord := o.ord, rx := false
    d := if rd then o.d else 0 }

/-- An atomic of 4 or 8 bytes (R207, R208); `cas` also takes the value of C. -/
def amoOf (o : AmoOp) (fn : Nat) : Access :=
  let n := if o.dbl then 8 else 4
  { fs := if fn = 9 then [o.a, o.b, o.c] else [o.a, o.b], ea := fun v => (v 0).addr
    op := fun v => .amo fn ((v 1).bits.toNat % 2 ^ (8 * n)) (if fn = 9 then (v 2).bits.toNat % 2 ^ (8 * n) else 0)
    mask := fun _ => permR ||| permW, len := n, need := 3, ord := o.ord, rx := false, d := o.d }

/-- The words that send one access, with their accesses. -/
def accessWords : List ((MemOperand → Instr) × (MemOperand → Access)) :=
  [(.ldB, (loadOf · 0 1)), (.ldH, (loadOf · 1 2)), (.ldW, (loadOf · 2 4)), (.ldD, (loadOf · 3 8)), (.ldQ, (loadOf · 4 16)),
   (.ldC, (loadOf · 5 16)), (.stB, (storeOf · false 1)), (.stH, (storeOf · false 2)), (.stW, (storeOf · false 4)),
   (.stD, (storeOf · false 8)), (.stQ, (storeOf · false 16)), (.stC, (storeOf · true 16)),
   (.ldfe, fun o => feOf o 0 false true (memAddr o)), (.ldff, fun o => feOf o 1 false true (memAddr o)),
   (.stef, fun o => feOf o 2 true false (memAddr o)), (.stfill, fun o => feOf o 3 true false (memAddr o)),
   (.fectlRead, fun o => feOf o 4 false true (memAddr { o with sh := 0 })),
   (.fectlEmpty, fun o => feOf o 5 false false (memAddr { o with sh := 0 })),
   (.fectlFull, fun o => feOf o 6 false false (memAddr { o with sh := 0 }))]

/-- The atomics, with their functions (R149). -/
def atomicWords : List ((AmoOp → Instr) × Nat) :=
  [(.amoAdd, 0), (.amoAnd, 1), (.amoOr, 2), (.amoXor, 3), (.amoMin, 4), (.amoMax, 5), (.amoMinu, 6), (.amoMaxu, 7), (.amoSwap, 8),
   (.amoCas, 9), (.amoFaddF32, 10)]

/-- The state once the search of a bitmap has left for its first word (R170): a page that is not translated parks its thread until the
reply (R352). -/
def bitmapSent (s : State) (fs : List Nat) (r : Request) (tgt : Target) (e : Option TlbEntry) : State :=
  let p := popAll s s.cur fs
  let t := dispatchReq p (r.withPops s p fs) tgt e
  match (t.slot t.cur).status with
  | .parked _ => t
  | _ => if bitmapOpen s r then parkAfter t (.reply (t.nextId - 1)) else t

/-! ## Matrix words -/

/-- The state once an operation waits for its core's array (R114). -/
def queued (u : State) (e : MatEntry) : State :=
  let c := u.core (coreOf e.slot)
  (adoptWalks u e.slot e.ofs u.nextId).bump.setCore (coreOf e.slot)
    { c with queue := c.queue ++ [{ e with since := u.nextId, spans := spansOf c e }] }

/-- A direct operation parks its thread until it completes; one in a repeated body does not (R114, R223). -/
def queuedDirect (u : State) (e : MatEntry) : State :=
  if inBody u e.slot then queued u e else parkAfter (queued u e) .array

/-- The entry of a word of the thread whose turn it is, with the values that it takes from registers. -/
def entryOf (s : State) (op : Instr) (c0 c1 a b : RegVal) : MatEntry := newEntry s s.cur op c0 c1 a b

/-! ## Engine words -/

/-- The engine words, with the engine, the function, the permissions of A and of B where it reads a capability there, and the least
privilege (R252, R253). -/
def engineWords : List ((EngOp → Instr) × EngNeed) :=
  let rl := some (permR ||| permLC)
  let rle := some (permR ||| permLC ||| permENG)
  let rls := some (permR ||| permLC ||| permSYS)
  [(.copyXfer, ⟨0, 0x00, rl, some permW, 0⟩), (.copyFill, ⟨0, 0x01, rl, some permW, 0⟩), (.copyRwrite, ⟨0, 0x02, rle, none, 0⟩),
   (.copyRread, ⟨0, 0x03, rle, some permW, 0⟩), (.copyRsend, ⟨0, 0x04, rle, none, 0⟩), (.copyRemap, ⟨0, 0x05, rls, none, 2⟩),
   (.copyStat, ⟨0, 0x10, none, none, 0⟩), (.distDeal, ⟨1, 0x00, rl, none, 0⟩), (.distCfg, ⟨1, 0x01, none, none, 1⟩),
   (.distStat, ⟨1, 0x10, none, none, 0⟩), (.collAllreduce, ⟨2, 0x00, rle, some permW, 0⟩), (.collReduce, ⟨2, 0x01, rle, some permW, 0⟩),
   (.collBcast, ⟨2, 0x02, rle, some permW, 0⟩), (.collAllgather, ⟨2, 0x03, rle, some permW, 0⟩), (.collStat, ⟨2, 0x10, none, none, 0⟩),
   (.ctxSave, ⟨3, 0x00, rls, some permW, 1⟩), (.ctxRestore, ⟨3, 0x01, rls, none, 1⟩), (.ctxScrub, ⟨3, 0x02, rls, none, 2⟩),
   (.ctxStat, ⟨3, 0x10, none, none, 0⟩), (.gateRun, ⟨4, 0x00, rle, none, 0⟩), (.gateStat, ⟨4, 0x10, none, none, 0⟩),
   (.dispatchStat, ⟨5, 0x10, none, none, 0⟩), (.combineStat, ⟨6, 0x10, none, none, 0⟩)]

/-- The cause of an operand that an engine word reads as a capability with a mask; none where it reads none or the operand passes
(R254). -/
def engCause (c : RegVal) : Option Nat → Option Cause
  | none => none
  | some mask =>
    if c.tag = false then some .captag
    else if c.otype ≠ 0 ∨ hasPerm c (mask ||| if isGlobal c.addr then permGLB else 0) = false then some .capperm
    else none

/-! ## Accesses at their targets -/

/-- Request `rid` has reached the bank of its slice, which may perform it, and the words that it touches are clean. -/
structure AtBank (s : State) (rid : Nat) (r : Request) (cl ofs : Nat) : Prop where
  sent  : sentReq s rid = some r
  phase : r.phase = .sent
  tgt   : r.tgt = .sram cl ofs
  open_ : atHandover s r = false ∧ nacked s cl = false
  queue : writesWord r.op = true → foreignQueue s (partOf s r.slot) cl ofs r.len = none
  clean : ∀ w ∈ wordsOf (sramKey cl ofs) r.len, look 0 s.sram.syn w = 0

/-- A byte of the slices of global SRAM, by the key of its address. [Log 69: DESIGN CHOICE] -/
def sramByte (s : State) (key : Nat) : BitVec 8 := look 0 s.sram.bytes key

/-- A line of device memory whose page is not retired, whose words are clean and whose stack answers. -/
def LineClean (s : State) (line : Nat) : Prop :=
  ∀ w ∈ wordsOf (64 * line) 64, forwardPa s (8 * w) = 8 * w ∧ look 0 s.dev.syn w = 0 ∧ s.lost.contains (dataStack (8 * w)) = false

/-- Request `rid` has reached its base die at physical address `pa`, whose line is clean, in a part that has not stopped, and no rehash holds
it (R382). -/
structure AtDie (s : State) (rid : Nat) (r : Request) (pa : Nat) : Prop where
  sent  : sentReq s rid = some r
  phase : r.phase = .sent
  tgt   : r.tgt = .dev pa
  whole : LineClean s (pa / 64)
  free  : planeHeld s r.id = false
  runs  : s.stopped = false

/-- What an atomic on `n` bits leaves in its word (R208). -/
def amoLeaves (fn n old b c : Nat) : Nat :=
  let sg := fun (x : Nat) => (BitVec.ofNat n x).toInt
  [(old + b) % 2 ^ n, old &&& b, old ||| b, old ^^^ b, if sg old ≤ sg b then old else b, if sg b ≤ sg old then old else b,
    min old b, max old b, b, if old = c then b else old, (addF32 old b).1].getD fn 0

/-- The answer of a request is on its way to its thread, and the request is over (R50). -/
def Answers (s t : State) (r : Request) (v : RegVal) (fl : Nat) : Prop :=
  (r.slot < 49152 → (t.slot r.slot).results = (s.slot r.slot).results ++ [{ dst := r.dst, val := v, flags := fl, cls := some r.cls, rid := r.id, after := none }]) ∧
  ∀ q ∈ t.net, q.id ≠ r.id

/-! ## What a word that computes leaves unchanged -/

/-- Between `s` and the state `u` after a word with sources `fs` and destination `d` has issued, nothing changes but the destination, the
flags of `STAT`, the ports named, the offset with its repetition, and, for a destination that is a port, what the thread has on its way. -/
structure ComputeFrame (s u : State) (fs : List Nat) (d : Nat) : Prop where
  part : u = { s with slots := u.slots, stores := u.stores, nextId := u.nextId, walks := u.walks }
  others : ∀ g, g ≠ s.cur → u.slot g = s.slot g
  own : u.slot s.cur = { s.slot s.cur with ctx := (u.slot s.cur).ctx, ports := (u.slot s.cur).ports, gather := (u.slot s.cur).gather,
                                           ofs := (u.slot s.cur).ofs, status := (u.slot s.cur).status, mark := (u.slot s.cur).mark }
  ctx : (u.slot s.cur).ctx = { (s.slot s.cur).ctx with regs := (u.slot s.cur).ctx.regs, stat := (u.slot s.cur).ctx.stat,
                                                       rep := (u.slot s.cur).ctx.rep }
  regs : ∀ r, r ≠ d → (u.slot s.cur).ctx.reg r = (s.slot s.cur).ctx.reg r
  stat : ∀ k, 5 ≤ k → (u.slot s.cur).ctx.stat.getLsbD k = (s.slot s.cur).ctx.stat.getLsbD k
  ports : ∀ p, p ∉ fs → p ≠ d → (u.slot s.cur).port p = (s.slot s.cur).port p
  sent : d < 48 → u.stores = s.stores ∧ u.nextId = s.nextId ∧ u.walks = s.walks ∧ (u.slot s.cur).gather = (s.slot s.cur).gather

end Sys2Proof.Machine
end

