-- ==== Sys2Proof/Certificates/Slice0/Obligations.lean ====
section
/-! DEFINITION. The statements about the model: what every instruction does when it completes, what the machine does between words,
and what it never does. -/

open Sys2Proof Sys2Proof.Machine

/-! ## Integer words -/

/-- R159: the binary IALU functions. -/
def Obligations.BinaryIntegerResults : Prop :=
  Gives2 .add (· + ·) ∧ Gives2 .sub (· - ·) ∧ Gives2 .and (· &&& ·) ∧ Gives2 .andn (fun a b => a &&& ~~~b) ∧
  Gives2 .or (· ||| ·) ∧ Gives2 .orn (fun a b => a ||| ~~~b) ∧ Gives2 .xor (· ^^^ ·) ∧ Gives2 .xnor (fun a b => ~~~(a ^^^ b)) ∧
  Gives2 .shl (fun a b => a <<< (b.toNat % 64)) ∧ Gives2 .shr (fun a b => a >>> (b.toNat % 64)) ∧
  Gives2 .sra (fun a b => BitVec.ofInt 64 (a.toInt / 2 ^ (b.toNat % 64))) ∧
  Gives2 .rotl (fun a b => a.rotateLeft (b.toNat % 64)) ∧ Gives2 .rotr (fun a b => a.rotateRight (b.toNat % 64)) ∧
  Gives2 .min (fun a b => if a.toInt ≤ b.toInt then a else b) ∧ Gives2 .max (fun a b => if b.toInt ≤ a.toInt then a else b) ∧
  Gives2 .minu (fun a b => if a.toNat ≤ b.toNat then a else b) ∧ Gives2 .maxu (fun a b => if b.toNat ≤ a.toNat then a else b) ∧
  Gives2 .cmpeq (fun a b => if a = b then 1 else 0) ∧ Gives2 .cmpne (fun a b => if a = b then 0 else 1) ∧
  Gives2 .cmplt (fun a b => if a.toInt < b.toInt then 1 else 0) ∧ Gives2 .cmpltu (fun a b => if a.toNat < b.toNat then 1 else 0) ∧
  Gives2 .cmple (fun a b => if a.toInt ≤ b.toInt then 1 else 0) ∧ Gives2 .cmpleu (fun a b => if a.toNat ≤ b.toNat then 1 else 0)

/-- R161: the unary IALU functions. -/
def Obligations.UnaryIntegerResults : Prop :=
  Gives1 .clz (fun a => BitVec.ofNat 64 ((List.range 64).takeWhile fun i => !a.getLsbD (63 - i)).length) ∧
  Gives1 .ctz (fun a => BitVec.ofNat 64 ((List.range 64).takeWhile fun i => !a.getLsbD i).length) ∧
  Gives1 .popc (fun a => BitVec.ofNat 64 ((List.range 64).countP fun i => a.getLsbD i)) ∧
  Gives1 .bswap (fun a => BitVec.ofNat 64 ((List.range 8).foldl (fun n i => n + a.toNat / 256 ^ (7 - i) % 256 * 256 ^ i) 0)) ∧
  Gives1 .abs (fun a => if a.toInt < 0 then 0 - a else a) ∧ Gives1 .neg (fun a => 0 - a)

/-- R162: the multiplications, and the divisions by a divisor that is not zero. -/
def Obligations.ProductAndQuotientResults : Prop :=
  Gives2 .mul (· * ·) ∧
  Gives2 .mulh (fun a b => ((a.signExtend 128 * b.signExtend 128) >>> 64).setWidth 64) ∧
  Gives2 .mulhu (fun a b => ((a.setWidth 128 * b.setWidth 128) >>> 64).setWidth 64) ∧
  (∀ o : R4, Gives (.madd o) o.s [o.a, o.b, o.c] o.d
    (fun s => RegVal.ofInt (srcInt s [o.a, o.b, o.c] 0 * srcInt s [o.a, o.b, o.c] 1 + srcInt s [o.a, o.b, o.c] 2)) fun _ => 0) ∧
  ∀ (o : R3) (s : State) (places : List OutElem) (t : State), Ready s [o.a, o.b] o.d places t → srcInt s [o.a, o.b] 1 ≠ 0 →
    let a := srcInt s [o.a, o.b] 0
    let b := srcInt s [o.a, o.b] 1
    let gives := fun (q : W64) => wrote o.s s.cur [o.a, o.b] o.d (RegVal.ofInt q) 0 places t
    exec (.div o) s = .next (gives (if a = 1 <<< 63 ∧ b.toInt = -1 then 1 <<< 63 else a.sdiv b)) ∧
    exec (.divu o) s = .next (gives (a.udiv b)) ∧
    exec (.rem o) s = .next (gives (if a = 1 <<< 63 ∧ b.toInt = -1 then 0 else a.srem b)) ∧
    exec (.remu o) s = .next (gives (a.umod b))

/-- R162, R346: a division by zero traps DIVZERO at its own offset, and its destination keeps its value. -/
def Obligations.DivisionByZeroTraps : Prop :=
  ∀ (o : R3) (s : State), checkSrc s s.cur [o.a, o.b] o.d = .ok () s → srcInt s [o.a, o.b] 1 = 0 →
    ∀ i ∈ [Instr.div o, .divu o, .rem o, .remu o], exec i s = .next (trapHere s s.cur .divzero 0)

/-- R160, R171, R172: `sel`, `hmix` and `mov`. -/
def Obligations.SelectHashMoveResults : Prop :=
  let mix : W64 → W64 := fun x =>
    let y := (x ^^^ (x >>> 31)) * 0xA3B19C5DE7426F19
    let z := (y ^^^ (y >>> 29)) * 0x7F4A2C91B36ED5C7
    z ^^^ (z >>> 32)
  (∀ o : R4, Gives (.sel o) o.s [o.a, o.b, o.c] o.d
    (fun s => fieldVal s s.cur [o.a, o.b, o.c] (if srcInt s [o.a, o.b, o.c] 2 = 0 then 1 else 0)) fun _ => 0) ∧
  (∀ o : R4, Gives (.hmix o) o.s [o.a, o.b, o.c] o.d
    (fun s => RegVal.ofInt (mix (mix (mix (srcInt s [o.a, o.b, o.c] 2) ^^^ srcInt s [o.a, o.b, o.c] 1) ^^^ srcInt s [o.a, o.b, o.c] 0)))
    fun _ => 0) ∧
  ∀ o : R2, Gives (.mov o) o.s [o.a] o.d (fun s => fieldVal s s.cur [o.a] 0) fun _ => 0

/-- R163, R164: the words with an immediate, on 64 bits and in their `.w` forms. -/
def Obligations.ImmediateResults : Prop :=
  let wide := fun (f : BitVec 32 → BitVec 32 → BitVec 32) (a k : BitVec 32) => (f a k).signExtend 64
  GivesImm .addi (· + ·) (wide (· + ·)) ∧ GivesImm .andi (· &&& ·) (wide (· &&& ·)) ∧
  GivesImm .ori (· ||| ·) (wide (· ||| ·)) ∧ GivesImm .xori (· ^^^ ·) (wide (· ^^^ ·)) ∧
  GivesImm .shli (fun a b => a <<< (b.toNat % 64)) (wide fun a k => a <<< k.toNat) ∧
  GivesImm .shri (fun a b => a >>> (b.toNat % 64)) (wide fun a k => a >>> k.toNat) ∧
  GivesImm .srai (fun a b => a.sshiftRight (b.toNat % 64)) (wide fun a k => a.sshiftRight k.toNat) ∧
  GivesImm .cmpeqi (fun a b => if a = b then 1 else 0) (fun a k => if a = k then 1 else 0) ∧
  GivesImm .cmplti (fun a b => if a.toInt < b.toInt then 1 else 0) (fun a k => if a.toInt < k.toInt then 1 else 0) ∧
  GivesImm .cmpltui (fun a b => if a.toNat < b.toNat then 1 else 0) (fun a k => if a.toNat < k.toNat then 1 else 0) ∧
  GivesImm .mini (fun a b => if a.toInt ≤ b.toInt then a else b) (wide fun a k => if a.toInt ≤ k.toInt then a else k) ∧
  GivesImm .maxi (fun a b => if b.toInt ≤ a.toInt then a else b) (wide fun a k => if k.toInt ≤ a.toInt then a else k)

/-- R21, R165, R166: constants and bit fields. -/
def Obligations.ConstantAndFieldResults : Prop :=
  (∀ o : LiOp, Gives (.li o) o.s [] o.d (fun _ => RegVal.ofInt ((BitVec.ofNat 32 o.imm).signExtend 64)) fun _ => 0) ∧
  (∀ (o : LiOp) (n : Nat) (i : Instr), o.imm < 2 ^ 32 → (n, i) ∈ [(1, Instr.liq1 o), (2, .liq2 o), (3, .liq3 o)] →
    Gives i o.s [o.d] o.d
      (fun s =>
        let old := fieldVal s s.cur [o.d] 0
        { bits := (old.bits &&& ~~~(BitVec.ofNat 128 (2 ^ 32 - 1) <<< (32 * n))) ||| (BitVec.ofNat 128 o.imm <<< (32 * n))
          tag := false, psn := old.psn }) fun _ => 0) ∧
  ∀ o : FieldOp, o.pos + o.wm1 + 1 ≤ 64 →
    Gives (.ext o) o.s [o.a] o.d (fun s => RegVal.ofInt (((srcInt s [o.a] 0).extractLsb' o.pos (o.wm1 + 1)).setWidth 64)) (fun _ => 0) ∧
    Gives (.extS o) o.s [o.a] o.d
      (fun s => RegVal.ofInt (((srcInt s [o.a] 0).extractLsb' o.pos (o.wm1 + 1)).signExtend 64)) (fun _ => 0) ∧
    Gives (.ins o) o.s [o.a, o.d] o.d
      (fun s =>
        let m : W64 := BitVec.ofNat 64 (2 ^ (o.wm1 + 1) - 1) <<< o.pos
        RegVal.ofInt ((srcInt s [o.a, o.d] 1 &&& ~~~m) ||| ((srcInt s [o.a, o.d] 0 <<< o.pos) &&& m))) fun _ => 0

/-- R26, R167: a skip whose range is legal turns its words into no-ops when its test holds; otherwise it traps SKIPEND. -/
def Obligations.SkipResults : Prop :=
  (∀ (o : SkipOp) (s u : State), skipRange s o.n = .ok () u → checkSrc u u.cur [o.a] 0 = .ok () u →
    let a := srcInt u [o.a] 0
    let after := fun (held : Prop) [Decidable held] =>
      issued o.s s.cur ((popAll u u.cur [o.a]).onSlot u.cur fun x => { x with skip := if held then o.n else 0 })
    exec (.skipZ o) s = .next (after (a = 0)) ∧ exec (.skipNz o) s = .next (after (a ≠ 0)) ∧
    exec (.skipNeg o) s = .next (after (a.toInt < 0)) ∧ exec (.skipNneg o) s = .next (after (0 ≤ a.toInt))) ∧
  ∀ (o : SkipOp) (s u : State) (d : Nat × Nat), blockDesc s = .ok d u →
    (d.2 ≤ (s.slot s.cur).ofs + o.n ∨ ∃ ws t, codeWords u d ((s.slot s.cur).ofs + 1) o.n = .ok ws t ∧ ∃ w ∈ ws, opOf w = 0x78) →
    ∀ i ∈ [Instr.skipZ o, .skipNz o, .skipNeg o, .skipNneg o], exec i s = .next (trapHere s s.cur .skipend 0)

/-! ## Capability words -/

/-- R174, R175, R177: the forms that move an address or shrink permissions. -/
def Obligations.CapabilityMoveResults : Prop :=
  let moved := fun (v : RegVal) (k : Int) =>
    let d := v.set 0 72 (((v.addr : Int) + k) % 2 ^ 72).toNat
    { d with tag := v.tag && decide (v.otype = 0) && decide (capBounds d ≠ none) && decide (capBounds d = capBounds v) }
  let shrunk := fun (v : RegVal) (m : Nat) => { v.set 110 12 (v.perm &&& (m % 2 ^ 11)) with tag := v.tag && decide (v.otype = 0) }
  (∀ o : R3, Gives (.cadd o) o.s [o.a, o.b] o.d
    (fun s => moved (fieldVal s s.cur [o.a, o.b] 0) (srcInt s [o.a, o.b] 1).toInt) fun _ => 0) ∧
  (∀ o : CapImmOp, Gives (.caddI o) o.s [o.a] o.d
    (fun s => moved (fieldVal s s.cur [o.a] 0) (BitVec.ofNat 32 o.imm).toInt) fun _ => 0) ∧
  (∀ o : R3, Gives (.cperm o) o.s [o.a, o.b] o.d
    (fun s => shrunk (fieldVal s s.cur [o.a, o.b] 0) (srcInt s [o.a, o.b] 1).toNat) fun _ => 0) ∧
  (∀ o : CapImmOp, Gives (.cpermI o) o.s [o.a] o.d (fun s => shrunk (fieldVal s s.cur [o.a] 0) o.imm) fun _ => 0) ∧
  ∀ o : R2, Gives (.cclr o) o.s [o.a] o.d (fun s => { fieldVal s s.cur [o.a] 0 with tag := false }) fun _ => 0

/-- R176: the forms that set bounds. The least exponent whose mantissas hold the region is used, at most 49; the address stays; the
new capability covers exactly the rounded region, which holds the region asked for; and it is tagged only where the old one is usable
and its region holds the rounded one, `cbnd.x` only where nothing was rounded. -/
def Obligations.CapabilityBoundsResults : Prop :=
  let up := fun (x e : Nat) => (x + 2 ^ e - 1) / 2 ^ e * 2 ^ e
  let down := fun (x e : Nat) => x / 2 ^ e * 2 ^ e
  let narrowed := fun (v : RegVal) (len : Nat) (exact : Bool) (d : RegVal) =>
    ∃ e ≤ 49,
      let b1 := down v.addr e
      let t1 := up (v.addr + len) e
      t1 - b1 < 2 ^ (e + 16) ∧ (∀ e' < e, ¬ up (v.addr + len) e' - down v.addr e' < 2 ^ (e' + 16)) ∧
      d.exp = e ∧ d.bm = b1 / 2 ^ e % 2 ^ 16 ∧ d.tm = t1 / 2 ^ e % 2 ^ 16 ∧ d.addr = v.addr ∧ d.perm = v.perm ∧ d.otype = v.otype ∧
      (d.tag = true ↔ v.tag = true ∧ v.otype = 0 ∧ t1 ≤ 2 ^ 72 ∧ (∃ b t, capBounds v = some (b, t) ∧ b ≤ b1 ∧ t1 ≤ t) ∧
        (exact = true → b1 = v.addr ∧ t1 = v.addr + len)) ∧
      (t1 ≤ 2 ^ 72 → capBounds d = some (b1, t1)) ∧ b1 ≤ v.addr ∧ v.addr + len ≤ t1
  (∀ (o : R3) (s : State) (places : List OutElem) (t : State), Ready s [o.a, o.b] o.d places t →
    let a := fieldVal s s.cur [o.a, o.b] 0
    let len := (srcInt s [o.a, o.b] 1).toNat
    (∃ d, exec (.cbnd o) s = .next (wrote o.s s.cur [o.a, o.b] o.d d 0 places t) ∧ narrowed a len false d) ∧
    ∃ d, exec (.cbndX o) s = .next (wrote o.s s.cur [o.a, o.b] o.d d 0 places t) ∧ narrowed a len true d) ∧
  ∀ (o : CapImmOp) (s : State) (places : List OutElem) (t : State), Ready s [o.a] o.d places t → o.imm < 2 ^ 32 →
    ∃ d, exec (.cbndI o) s = .next (wrote o.s s.cur [o.a] o.d d 0 places t) ∧ narrowed (fieldVal s s.cur [o.a] 0) o.imm false d

/-- R178: the inspection forms. -/
def Obligations.CapabilityInspectionResults : Prop :=
  let ofBool := fun (p : Bool) (n : Nat) => if p then n else 0
  (∀ o : R2, Gives (.cgetAddr o) o.s [o.a] o.d (fun s => RegVal.ofNat (fieldVal s s.cur [o.a] 0).addr) fun _ => 0) ∧
  (∀ o : R2, Gives (.cgetBase o) o.s [o.a] o.d
    (fun s => RegVal.ofNat (match capBounds (fieldVal s s.cur [o.a] 0) with | some (b, _) => b | none => 0)) fun _ => 0) ∧
  (∀ o : R2, Gives (.cgetTop o) o.s [o.a] o.d
    (fun s => RegVal.ofNat (match capBounds (fieldVal s s.cur [o.a] 0) with | some (_, t) => t | none => 0)) fun _ => 0) ∧
  (∀ o : R2, Gives (.cgetPerm o) o.s [o.a] o.d
    (fun s => RegVal.ofNat ((fieldVal s s.cur [o.a] 0).perm % 2 ^ 11 + 2 ^ 12 * (fieldVal s s.cur [o.a] 0).otype)) fun _ => 0) ∧
  (∀ o : R2, Gives (.cgetTag o) o.s [o.a] o.d (fun s => RegVal.ofNat (ofBool (fieldVal s s.cur [o.a] 0).tag 1)) fun _ => 0) ∧
  (∀ o : R3, Gives (.csub o) o.s [o.a, o.b] o.d
    (fun s => RegVal.ofNat ((((fieldVal s s.cur [o.a, o.b] 0).addr : Int) - (fieldVal s s.cur [o.a, o.b] 1).addr) % 2 ^ 64).toNat)
    fun _ => 0) ∧
  ∀ o : R3, Gives (.ccmp o) o.s [o.a, o.b] o.d
    (fun s =>
      let a := fieldVal s s.cur [o.a, o.b] 0
      let b := fieldVal s s.cur [o.a, o.b] 1
      let within := match capBounds a, capBounds b with
        | some (ab, at_), some (bb, bt) => decide (a.tag = true ∧ b.tag = true ∧ bb ≤ ab ∧ at_ ≤ bt)
        | _, _ => false
      RegVal.ofNat (ofBool (decide (a.bits = b.bits ∧ a.tag = b.tag)) 1 + ofBool (decide (a.addr = b.addr)) 2
        + ofBool (decide (a.addr < b.addr)) 4 + ofBool within 8)) fun _ => 0

/-- R179: sealing and unsealing, and the traps of a type that the thread may not use. -/
def Obligations.SealingResults : Prop :=
  ∀ (o : R3) (s : State),
    let a := fieldVal s s.cur [o.a, o.b] 0
    let t := (srcInt s [o.a, o.b] 1).toNat
    let granted := (s.slot s.cur).prv ≠ 0 ∨ bitAt (s.part (partOf s s.cur)).tgrant t = true
    (∀ places u, Ready s [o.a, o.b] o.d places u → 2 ≤ t → t ≤ 63 → granted →
      exec (.cseal o) s = .next
        (wrote o.s s.cur [o.a, o.b] o.d { a.set 122 6 t with tag := a.tag && decide (a.otype = 0) } 0 places u) ∧
      exec (.cunseal o) s = .next
        (wrote o.s s.cur [o.a, o.b] o.d { a.set 122 6 0 with tag := a.tag && decide (a.otype = t) } 0 places u)) ∧
    (checkSrc s s.cur [o.a, o.b] o.d = .ok () s → ∀ i ∈ [Instr.cseal o, .cunseal o],
      (t < 2 ∨ 63 < t → exec i s = .next (trapHere s s.cur .capperm 0)) ∧
      (2 ≤ t → t ≤ 63 → ¬granted → exec i s = .next (trapHere s s.cur .priv 0)))

/-! ## Vector words -/

/-- R184, R186, R189: arithmetic on lanes. Float lanes compute exactly and round once; integer lanes wrap. -/
def Obligations.VectorArithmeticLanes : Prop :=
  let num := fun (ft : FloatFmt) (o : VecOp) (src : Nat → RegVal) (j k : Nat) => decodeFloat ft (laneOf o.ty (src j) k)
  let two := fun (g : Nat → Machine.Num → Machine.Num → Machine.Num × Nat) (h : Nat → Nat → Nat → Nat) (o : VecOp) (mode : Nat) (sat : Bool)
      (src : Nat → RegVal) (k : Nat) =>
    match laneFloat o.ty with
    | some ft => arith ft mode sat (g mode (num ft o src 0 k) (num ft o src 1 k))
    | none => (h (2 ^ laneBits o.ty) (laneOf o.ty (src 0) k) (laneOf o.ty (src 1) k), 0)
  let fused := fun (np nc : Bool) (o : VecOp) (mode : Nat) (sat : Bool) (src : Nat → RegVal) (k : Nat) =>
    match laneFloat o.ty with
    | some ft =>
      arith ft mode sat (fmaNum mode (if np then (num ft o src 0 k).negate else num ft o src 0 k) (num ft o src 1 k)
        (if nc then (num ft o src 2 k).negate else num ft o src 2 k))
    | none => (0, 0)
  GivesLanes .vadd 2 (two addNum fun m a b => (a + b) % m) ∧
  GivesLanes .vsub 2 (two (fun mode a b => addNum mode a b.negate) fun m a b => (a + m - b) % m) ∧
  GivesLanes .vmul 2 (two (fun _ a b => mulNum a b) fun m a b => a * b % m) ∧
  GivesLanes .vdiv 2 (two (fun _ a b => divNum a b) fun _ _ _ => 0) ∧
  GivesLanes .vsqrt 1 (fun o mode sat src k =>
    match laneFloat o.ty with | some ft => arith ft mode sat (sqrtNum (num ft o src 0 k)) | none => (0, 0)) ∧
  GivesLanes .vfma 3 (fused false false) ∧ GivesLanes .vfms 3 (fused false true) ∧ GivesLanes .vfnma 3 (fused true false)

/-- R187, R188, R191, R195: minimum and maximum, absolute value and negation, bits, shifts, selection and permutation. -/
def Obligations.VectorBitLanes : Prop :=
  let x := fun (o : VecOp) (src : Nat → RegVal) (j k : Nat) => laneOf o.ty (src j) k
  let w := fun (o : VecOp) => laneBits o.ty
  let two := fun (g : VecOp → Nat → Nat → Nat) (o : VecOp) (_ : Nat) (_ : Bool) (src : Nat → RegVal) (k : Nat) =>
    (g o (x o src 0 k) (x o src 1 k), 0)
  let pick := fun (big : Bool) (o : VecOp) (_ : Nat) (_ : Bool) (src : Nat → RegVal) (k : Nat) =>
    let a := x o src 0 k
    let b := x o src 1 k
    match laneFloat o.ty with
    | some ft =>
      let p := decodeFloat ft a
      let q := decodeFloat ft b
      let fl := if p.isSig || q.isSig then flNV else 0
      if p.isNaN && q.isNaN then (ft.nanCode, fl)
      else if p.isNaN then (b, fl)
      else if q.isNaN then (a, fl)
      else (if (if big then ltNum p q else ltNum q p) then b else a, 0)
    | none => (if (if big then laneInt o.ty a < laneInt o.ty b else laneInt o.ty b < laneInt o.ty a) then b else a, 0)
  GivesLanes .vmin 2 (pick false) ∧ GivesLanes .vmax 2 (pick true) ∧
  GivesLanes .vabs 1 (fun o _ _ src k =>
    let a := x o src 0 k
    (if (laneFloat o.ty).isSome then a % 2 ^ (w o - 1)
      else if laneSigned o.ty && decide (2 ^ (w o - 1) ≤ a) then 2 ^ w o - a else a, 0)) ∧
  GivesLanes .vneg 1 (fun o _ _ src k =>
    let a := x o src 0 k
    (if (laneFloat o.ty).isSome then (a + 2 ^ (w o - 1)) % 2 ^ w o else (2 ^ w o - a) % 2 ^ w o, 0)) ∧
  GivesLanes .vand 2 (two fun _ a b => a &&& b) ∧ GivesLanes .vor 2 (two fun _ a b => a ||| b) ∧
  GivesLanes .vxor 2 (two fun _ a b => a ^^^ b) ∧
  GivesLanes .vshl 2 (two fun o a b => a <<< (b % w o)) ∧ GivesLanes .vshr 2 (two fun o a b => a >>> (b % w o)) ∧
  GivesLanes .vsra 2 (two fun o a b => ((BitVec.ofNat (w o) a).sshiftRight (b % w o)).toNat) ∧
  GivesLanes .vsel 3 (fun o _ _ src k => (x o src (if bitAt (src 2).int.toNat k then 0 else 1) k, 0)) ∧
  GivesLanes .vshuf 2 (fun o _ _ src k => (x o src 0 (x o src 1 k % laneCount o.ty), 0)) ∧
  GivesLanes .vbcast 1 (fun o _ _ src _ => (x o src 0 0, 0)) ∧
  (∀ (o : VecOp) (s : State) (places : List OutElem) (t : State), (Instr.vins o).wf = true → Ready s [o.a, o.b, o.d] o.d places t →
    ∃ v, exec (.vins o) s = .next (wrote o.s s.cur [o.a, o.b, o.d] o.d v 0 places t) ∧ v.tag = false ∧
      ∀ k < laneCount o.ty,
        laneOf o.ty v k =
          if k = (srcInt s [o.a, o.b, o.d] 1).toNat % laneCount o.ty then laneOf o.ty (fieldVal s s.cur [o.a, o.b, o.d] 0) 0
          else laneOf o.ty (fieldVal s s.cur [o.a, o.b, o.d] 2) k) ∧
  ∀ (o : VecOp) (s : State) (places : List OutElem) (t : State), (Instr.vext o).wf = true → Ready s [o.a, o.b] o.d places t →
    let x := laneOf o.ty (fieldVal s s.cur [o.a, o.b] 0) ((srcInt s [o.a, o.b] 1).toNat % laneCount o.ty)
    exec (.vext o) s = .next (wrote o.s s.cur [o.a, o.b] o.d
      (RegVal.ofInt (if laneSigned o.ty then BitVec.ofInt 64 (laneInt o.ty x) else BitVec.ofNat 64 x)) 0 places t)

/-- R190: comparisons give one bit for each lane. -/
def Obligations.VectorComparisonResults : Prop :=
  let compares := fun (i : VecOp → Instr) (quiet : Bool) (cond : (lt eq un : Bool) → Bool) =>
    ∀ (o : VecOp) (s : State) (places : List OutElem) (t : State), (i o).wf = true → Ready s (vecFields o 2) o.d places t →
      let x := fun j k => laneOf o.ty (fieldVal s s.cur (vecFields o 2) j) k
      let rel := fun k =>
        match laneFloat o.ty with
        | some ft =>
          let p := decodeFloat ft (x 0 k)
          let q := decodeFloat ft (x 1 k)
          let un := p.isNaN || q.isNaN
          (cond (!un && ltNum p q && !eqNum p q) (!un && eqNum p q) un, if (if quiet then p.isSig || q.isSig else un) then flNV else 0)
        | none => (cond (decide (laneInt o.ty (x 0 k) < laneInt o.ty (x 1 k))) (decide (x 0 k = x 1 k)) false, 0)
      let on := laneOn o (vecFields o 2) 2 s
      ∃ v, exec (i o) s = .next (wrote o.s s.cur (vecFields o 2) o.d v
            (allFlags (((List.range (laneCount o.ty)).filter on).map fun k => (rel k).2)) places t) ∧
        v.tag = false ∧
        ∀ k < 128, v.bits.getLsbD k =
          if k < laneCount o.ty then
            (if on k then (rel k).1 else !o.mz && (fieldVal s s.cur (vecFields o 2) 3).bits.getLsbD k)
          else false
  compares .vcmpEq true (fun _ eq _ => eq) ∧ compares .vcmpNe true (fun _ eq _ => !eq) ∧
  compares .vcmpLt false (fun lt _ _ => lt) ∧ compares .vcmpLe false (fun lt eq _ => lt || eq) ∧
  compares .vcmpGt false (fun lt eq un => !lt && !eq && !un) ∧ compares .vcmpGe false (fun lt _ un => !lt && !un) ∧
  compares .vcmpUn true (fun _ _ un => un)

/-- R192-R194: reductions of the candidate lanes. -/
def Obligations.VectorReductionResults : Prop :=
  let reduces := fun (i : VecOp → Instr) (n : Nat)
      (f : VecOp → Nat → Bool → (Nat → RegVal) → List (Nat × Nat) → RegVal × Nat) =>
    ∀ (o : VecOp) (s : State) (places : List OutElem) (t : State), (i o).wf = true →
      let fs := vecFields o n
      Ready s fs o.d places t →
      let cands := ((List.range (laneCount o.ty)).filter (laneOn o fs n s)).map fun k => (laneOf o.ty (fieldVal s s.cur fs 0) k, k)
      let r := f o (vecMode o (rndMode s s.cur)) (rndSat s s.cur) (fieldVal s s.cur fs) cands
      exec (i o) s = .next (wrote o.s s.cur fs o.d r.1 r.2 places t)
  let extreme := fun (big : Bool) (o : VecOp) (_ : Nat) (_ : Bool) (_ : Nat → RegVal) (cs : List (Nat × Nat)) =>
    let xs := cs.map (·.1)
    match laneFloat o.ty with
    | some ft => let r := extremeF ft big xs; (RegVal.ofNat r.1, r.2)
    | none =>
      let w := laneBits o.ty
      let least : Int := if laneSigned o.ty then -2 ^ (w - 1) else 0
      let most : Int := if laneSigned o.ty then 2 ^ (w - 1) - 1 else 2 ^ w - 1
      let ys := xs.map (laneInt o.ty)
      (RegVal.ofInt (BitVec.ofInt 64 (if big then ys.foldl max least else ys.foldl min most)), 0)
  reduces .vredsum 1 (fun o mode sat _ cs =>
    let xs := cs.map (·.1)
    match laneFloat o.ty with
    | some ft =>
      let r := xs.tail.foldl (fun (acc : Nat × Nat) x =>
        let y := arith ft mode sat (addNum mode (decodeFloat ft acc.1) (decodeFloat ft x))
        (y.1, acc.2 ||| y.2)) (xs.headD 0, 0)
      (RegVal.ofNat r.1, r.2)
    | none => (RegVal.ofInt (BitVec.ofInt 64 (xs.map (laneInt o.ty)).sum), 0)) ∧
  reduces .vredmax 1 (extreme true) ∧ reduces .vredmin 1 (extreme false) ∧
  reduces .vredargmax 3 (fun o _ _ src cs =>
    let wide := fun x => match laneFloat o.ty with | some ft => (toFloat fp32 0 false (decodeFloat ft x)).1 | none => x
    let prior := (src 2).int.toNat
    let first := if (decodeFloat fp32 (fld prior 0 32)).isNaN || fld prior 0 32 = 0xFF800000 || fld prior 32 32 = 0xFFFFFFFF then none
      else some (fld prior 0 32, fld prior 32 32)
    let best := cs.foldl (fun (best : Option (Nat × Nat)) c =>
      let v := wide c.1
      let k := (fld (src 1).int.toNat 0 32 + c.2) % 2 ^ 32
      if (decodeFloat fp32 v).isNaN || v = 0xFF800000 then best
      else
        match best with
        | none => some (v, k)
        | some b => if ltNum (decodeFloat fp32 b.1) (decodeFloat fp32 v) || (v = b.1 && decide (k < b.2)) then some (v, k) else some b) first
    (RegVal.ofNat (match best with | some b => b.1 + b.2 * 2 ^ 32 | none => 0xFFFFFFFFFF800000), 0))

/-- R196, R198-R200: special functions and `smerge`, whose results return later, and conversions. -/
def Obligations.VectorSpecialAndConversionResults : Prop :=
  let special := fun (i : VecOp → Instr) (g : Machine.Num → Machine.Num × Nat) =>
    ∀ o : VecOp, GivesLater (i o) o (vecFields o 1) fun s v fl =>
      LanesAre o 1 s v fl fun k =>
        match laneFloat o.ty with
        | some ft => arith ft (vecMode o (rndMode s s.cur)) (rndSat s s.cur)
            (g (decodeFloat ft (laneOf o.ty (fieldVal s s.cur (vecFields o 1) 0) k)))
        | none => (0, 0)
  let converts := fun (i : VecOp → Instr) (whole : Bool) =>
    ∀ (o : VecOp) (s : State) (places : List OutElem) (t : State), (i o).wf = true →
      let ns := laneCount o.c
      let nd := laneCount o.ty
      let fs := [o.a, o.b] ++ (if o.me then [o.k] else []) ++ if ns < nd ∨ (o.me = true ∧ o.mz = false) then [o.d] else []
      Ready s fs o.d places t →
      let p := (srcInt s fs 1).toNat % (max ns nd / min ns nd)
      let old := fieldVal s s.cur fs (if o.me then 3 else 2)
      let written := fun k => decide (nd ≤ ns ∨ (p * ns ≤ k ∧ k < p * ns + ns))
      let made := fun k => convertLane o.ty o.c (vecMode o (rndMode s s.cur)) (rndSat s s.cur) whole
        (laneOf o.c (fieldVal s s.cur fs 0) (if nd < ns then p * nd + k else if ns < nd then k - p * ns else k))
      ∃ v, exec (i o) s = .next (wrote o.s s.cur fs o.d v
            (allFlags (((List.range nd).filter fun k => written k && laneOn o fs 2 s k).map fun k => (made k).2)) places t) ∧
        v.tag = false ∧
        ∀ k < nd, laneOf o.ty v k =
          if written k then
            (if laneOn o fs 2 s k then (made k).1 % 2 ^ laneBits o.ty else if o.mz then 0 else laneOf o.ty old k)
          else laneOf o.ty old k
  special .vexp2 exp2Num ∧ special .vlog2 log2Num ∧ special .vrcp rcpNum ∧ special .vrsqrt rsqrtNum ∧ special .vtanh tanhNum ∧
  special .vsig sigNum ∧ special .vgelu geluNum ∧ converts .vcvt false ∧ converts .vcvtI true ∧
  ∀ o : VecOp, GivesLater (.smerge o) o [o.a, o.b] fun s v fl =>
    let x := fun j k => laneOf 0 (fieldVal s s.cur [o.a, o.b] j) k
    let r := mergeLanes (vecMode o (rndMode s s.cur)) (rndSat s s.cur) (x 0 0) (x 0 1) (x 1 0) (x 1 1)
    v.tag = false ∧ fl = r.2 ∧ ∀ k < 4, laneOf 0 v k = r.1.getD k 0 % 2 ^ 32

/-! ## Memory words -/

/-- R203, R204, R206, R208: a load, store, full/empty access or atomic whose checks pass takes its operands and sends one access. That a plain
access whose target may answer with a NACK parks its thread until the reply is the model's choice (log 24). -/
def Obligations.AccessWordsSendOneAccess : Prop :=
  (∀ p ∈ accessWords, ∀ o : MemOperand, Sends (p.1 o) o.s (p.2 o)) ∧ ∀ p ∈ atomicWords, ∀ o : AmoOp, Sends (p.1 o) o.s (amoOf o p.2)

/-- R74, R347: the checks of an access in their order, each with its trap, and the trap of a word whose access fails one. -/
def Obligations.AccessChecksTrapInOrder : Prop :=
  ((∀ p ∈ accessWords, ∀ o : MemOperand, Refuses (p.1 o) (p.2 o)) ∧ ∀ p ∈ atomicWords, ∀ o : AmoOp, Refuses (p.1 o) (amoOf o p.2)) ∧
  ∀ (c : RegVal) (ea len mask align : Nat),
    let inside := ∃ b t, capBounds c = some (b, t) ∧ b ≤ ea ∧ ea + len ≤ t
    let granted := hasPerm c (mask ||| if 2 ^ 71 ≤ ea % 2 ^ 72 then permGLB else 0) = true
    (c.tag = false → capCheck c ea len mask align = some .captag) ∧
    (c.tag = true → c.otype ≠ 0 → capCheck c ea len mask align = some .capperm) ∧
    (c.tag = true → c.otype = 0 → ¬inside → capCheck c ea len mask align = some .capbound) ∧
    (c.tag = true → c.otype = 0 → inside → ¬granted → capCheck c ea len mask align = some .capperm) ∧
    (c.tag = true → c.otype = 0 → inside → granted → placeOf ea len = .bad → capCheck c ea len mask align = some .noncanon) ∧
    (c.tag = true → c.otype = 0 → inside → granted → placeOf ea len ≠ .bad → ea % align ≠ 0 → capCheck c ea len mask align = some .align) ∧
    (c.tag = true → c.otype = 0 → inside → granted → placeOf ea len ≠ .bad → ea % align = 0 → capCheck c ea len mask align = none)

/-- R129, R135-R137: a fence waits for the loads, atomics and relaxed accesses of its thread, sent or not, appended elements among them,
kind `x` also for its kicks and replies, and kind `m` for its matrix operations; one that reaches further then drains the gather buffer
and waits for the acknowledgement of every marker, at scopes `domain` and `system` for its stores to other parts, and kind `x` for its
input ports to fetch again. -/
def Obligations.FencesWaitForAccesses : Prop :=
  ∀ (o : FenceOp) (s : State), ∀ p ∈ [(0, Instr.fenceRw o), (1, .fenceX o), (2, .fenceM o)],
    let g := s.cur
    let set := fun (u : State) (f : Option FenceWait) => u.onSlot g fun x => { x with fence := f }
    let waits := fun (u : State) => exec p.2 s = .next (u.onSlot g fun x => { x with status := .parked .fence, mark := false })
    let ends := fun (u : State) => exec p.2 s = .next (issued o.s g (set u none))
    let new : FenceWait :=
      { kind := p.1, scope := o.scope, sent := false, since := s.nextId, markers := [], acks := [], refetch := none }
    let u := match (s.slot g).fence with | none => set s (some new) | some _ => s
    let x := u.slot g
    let c := u.core (coreOf g)
    let idle := (∀ e ∈ c.queue, e.slot ≠ g) ∧ (∀ j ∈ c.oloads, j.slot ≠ g) ∧ ∀ b, c.seq = some b → b.slot ≠ g
    let loads := (∀ r ∈ u.net, r.slot ≠ g) ∧ (∀ r ∈ x.results, r.cls = none) ∧ (∀ j ∈ c.oloads, j.slot ≠ g) ∧
      (∀ e ∈ c.queue, e.slot = g → opAccesses e.op = false) ∧ anyUnsent u g opAccesses = false ∧ ∀ q ∈ x.ports, q.2.outQ = []
    let kicks := x.results = [] ∧ ∀ e ∈ u.engines, ∀ k ∈ e.2.kicks, k.slot ≠ g
    let first := if p.1 = 2 then idle else loads ∧ (p.1 = 1 → kicks)
    let wide := p.1 = 1 ∨ (p.1 = 0 ∧ 1 ≤ o.scope)
    ∀ f, x.fence = some f → f.kind = p.1 → f.scope = o.scope →
      let drained := f.markers = [] ∧ f.acks = [] ∧
        (o.scope < 5 ∨ ∀ d ∈ u.stores, d.thr = thrOf u g → d.id < f.since → toPeer d.line = false)
      let d := drainAll u g
      (f.sent = false → f.refetch = none → ¬first → waits u) ∧
      (f.sent = false → f.refetch = none → first → ¬wide → ends u) ∧
      (f.sent = false → f.refetch = none → first → wide → fenceMarkers d ≠ [] →
        waits (set d (some { f with sent := true, since := d.nextId, markers := fenceMarkers d }))) ∧
      (f.sent = true → wide → f.refetch = none → ¬drained → waits u) ∧
      (f.sent = true → p.1 = 0 → wide → f.refetch = none → drained → ends u) ∧
      (f.sent = true → p.1 = 1 → f.refetch = none → drained →
        ∃ t l, t = (u.onSlot g fun y => { y with
            fence := some { f with refetch := some l }
            ports := y.ports.map fun q => (q.1, { q.2 with fetched := [], part := [], nextIn := q.2.nextIn - q.2.fetched.length }) }) ∧
          ((∀ q ∈ x.ports, q.2.fetched = []) → ends t) ∧
          ((∃ k, (x.port k).dir = 1 ∧ (x.port k).fetched ≠ [] ∧ (x.port k).fetched.length ≤ (x.port k).nextIn) → waits t)) ∧
      ∀ l, f.sent = true → p.1 = 1 → f.refetch = some l →
        let again := ∀ q ∈ l, (x.port q.1).dir ≠ 1 ∨ q.2 ≤ (x.port q.1).nextIn ∨ ∃ e ∈ (x.port q.1).fetched, e.cause.isSome = true
        (again → ends u) ∧ (¬again → waits u)

/-- R168-R170, R348: `rank` and `selb` whose range passes its checks send the search of a bitmap, for its first aligned word, and trap
ACCESS where some page of it names nothing; a search of no bytes finds no bit at once; an index of 2^20 or more traps ACCESS, before the
checks of M(R) and with `INFO` 0; that a capability without bounds gives `selb` no byte to search is the model's choice (log 86); the
words of a search, one after the other, give the rank and the select of the whole bitmap. -/
def Obligations.BitmapWordsSearch : Prop :=
  let pages := fun (s : State) (ea len : Nat) (P : State → Nat → Nat → Prop) => ∀ q ∈ piecesOf 4096 ea len, P s q.1 q.2
  let named := fun (s : State) (a n : Nat) => locate s s.cur a n 1 ≠ none
  let searches := fun (i : Instr) (m : Bool) (s : State) (fs : List Nat) (op : MemOp) (ea len d : Nat) =>
    let r := newReq s s.cur (clsOf ea 0 false) op ea len 0 d
    (¬pages s ea len named → exec i s = .next (trapHere s s.cur .access ea)) ∧
    (pages s ea len named → hasRoom s s.cur (clsOf ea 0 false) = true → storeRoom s r = .ok () s →
      ∀ tgt e, locate (popAll s s.cur fs) s.cur ea (min len (8 - ea % 8)) 1 = some (.at_ tgt e) →
        exec i s = .next (issued m s.cur (bitmapSent s fs r tgt e)))
  let nothing := fun (o : R3) (s : State) =>
    let c := fieldVal s s.cur [o.a, o.b] 0
    let may := hasPerm c (permR ||| if isGlobal c.addr then permGLB else 0)
    let traps := fun (x : Cause) => exec (.selb o) s = .next (trapHere s s.cur x c.addr)
    (c.tag = false → traps .captag) ∧ (c.tag = true → c.otype ≠ 0 ∨ may = false → traps .capperm) ∧
    (c.tag = true → c.otype = 0 → may = true → exec (.selb o) s = .next (issued o.s s.cur (pushResult (popAll s s.cur [o.a, o.b]) s.cur
      { dst := o.d, val := RegVal.ofNat (2 ^ 64 - 1), flags := 0, cls := none, rid := 0, after := none })))
  (∀ (o : R3) (s : State),
    let fs := [o.a, o.b]
    let c := fieldVal s s.cur fs 0
    let i := (srcInt s fs 1).toNat
    checkSrc s s.cur fs 0 = .ok () s →
      (2 ^ 20 ≤ i → exec (.rank o) s = .next (trapHere s s.cur .access 0)) ∧
      (i < 2 ^ 20 →
        (∀ x, capCheck c c.addr (i / 8 + 1) permR 1 = some x → exec (.rank o) s = .next (trapHere s s.cur x c.addr)) ∧
        (capCheck c c.addr (i / 8 + 1) permR 1 = none → searches (.rank o) o.s s fs (.rank i 0 false) c.addr (i / 8 + 1) o.d))) ∧
  (∀ (o : R3) (s : State) (b t : Nat),
    let fs := [o.a, o.b]
    let c := fieldVal s s.cur fs 0
    let n := (srcInt s fs 1).toNat
    let len := min (t - c.addr) (2 ^ 17)
    checkSrc s s.cur fs 0 = .ok () s → capBounds c = some (b, t) →
      (c.addr < t → ∀ x, capCheck c c.addr len permR 1 = some x → exec (.selb o) s = .next (trapHere s s.cur x c.addr)) ∧
      (c.addr < t → capCheck c c.addr len permR 1 = none → searches (.selb o) o.s s fs (.selb n 0 false) c.addr len o.d) ∧
      (t ≤ c.addr → nothing o s)) ∧
  (∀ (o : R3) (s : State), checkSrc s s.cur [o.a, o.b] 0 = .ok () s → capBounds (fieldVal s s.cur [o.a, o.b] 0) = none → nothing o s) ∧
  ∀ (ws : List (Nat × Nat)) (n : Nat), (∀ w ∈ ws, w.1 < 2 ^ (8 * w.2)) →
    let whole := ws.foldr (fun w v => w.1 + v * 2 ^ (8 * w.2)) 0
    let bytes := (ws.map (·.2)).sum
    let below := fun k => (List.range k).countP (bitAt whole)
    let rankOn := fun (a : Nat ⊕ (Nat × Nat)) (w : Nat × Nat) => match a with
      | .inl x => .inl x
      | .inr ic => rankWord ic.1 ic.2 w.1 w.2
    let selbOn := fun (a : Nat ⊕ (Nat × Nat × Nat)) (w : Nat × Nat) => match a with
      | .inl x => Sum.inl x
      | .inr nb => match selbWord nb.1 nb.2.1 w.1 w.2 nb.2.2 with
        | .inl x => .inl x
        | .inr m => .inr (m.1, m.2, nb.2.2 - w.2)
    (n < 8 * bytes → ws.foldl rankOn (.inr (n, 0)) = .inl (below n + if bitAt whole n then 2 ^ 64 else 0)) ∧
    (ws ≠ [] → (∀ w ∈ ws, 0 < w.2) → ws.foldl selbOn (.inr (n, 0, bytes)) =
      .inl (((List.range (8 * bytes)).find? fun k => bitAt whole k && below k == n).getD (2 ^ 64 - 1)))

/-- R211-R213, R219: binding a port, unbinding it, and reading its status. -/
def Obligations.StreamPortWords : Prop :=
  (∀ (o : BindOp) (s u : State), ∀ p ∈ [(1, Instr.sbindIn o), (2, .sbindOut o)],
    let c := fieldVal s s.cur [o.a, o.b] 0
    let d := (fieldVal s s.cur [o.a, o.b] 1).bits
    let size := if d.getLsbD 8 then 64 else 2 ^ (d.toNat % 8)
    checkSrc s s.cur [o.a, o.b] 0 = .ok () s → c.tag = true → c.otype = 0 →
    hasPerm c ((if p.1 = 2 then permW else permR) ||| if isGlobal c.addr then permGLB else 0) = true →
    descValid d.toNat = true → c.addr % size = 0 → d.toNat / 2 ^ 64 % 2 ^ 32 % size = 0 → placeBlock s o.port = .ok () u →
      ∃ t, exec p.2 s = .next (issued o.s s.cur t) ∧ t.sram = (unbindPort u u.cur o.port).sram ∧
        let q := (t.slot u.cur).port o.port
        q.dir = p.1 ∧ q.cap = c ∧ q.desc = d ∧ q.pos = 0 ∧ q.fetched = [] ∧ q.openV = [] ∧
          q.outQ = ((unbindPort u u.cur o.port).slot u.cur |>.port o.port).outQ) ∧
  (∀ (m : Bool) (port : Nat) (s : State), ((s.slot s.cur).port port).dir = 0 → exec (.sunbind m port) s = .next (issued m s.cur s)) ∧
  (∀ (m : Bool) (port : Nat) (s u : State), ((s.slot s.cur).port port).dir ≠ 0 → placeBlock s port = .ok () u →
    ∃ t, exec (.sunbind m port) s = .next (issued m s.cur t) ∧
      let q := (t.slot u.cur).port port
      q.dir = 0 ∧ q.fetched = [] ∧ q.openV = []) ∧
  ∀ (m : Bool) (d port : Nat) (s : State),
    let q := (s.slot s.cur).port port
    exec (.sstat m d port) s = .next (issued m s.cur (writeReg s s.cur d (RegVal.ofNat
      (q.pos % 2 ^ 32 + q.dir * 2 ^ 32 + if q.dir ≠ 0 ∧ q.desc.toNat / 2 ^ 32 % 2 ^ 32 ≤ q.pos then 2 ^ 36 else 0))))

/-- R220-R224: `rep` begins a body that may be repeated, inline or by the sequencer, and traps REPEAT for one that may not; the last
word of an inline body goes on to the next iteration. -/
def Obligations.RepeatBegins : Prop :=
  (∀ (o : RepOp) (s u w : State) (d : Nat × Nat) (ws : List Nat),
    let ofs := (s.slot s.cur).ofs
    let len := o.lenm1 + 1
    let count := (fieldVal s s.cur [o.a] 0).int.toNat
    checkSrc s s.cur [o.a] 0 = .ok () s → blockDesc s = .ok d u →
    (65535 < count ∨ d.2 < ofs + len + 1 → exec (.rep o) s = .next (trapHere s s.cur .repeat_ 0)) ∧
    (count ≤ 65535 → ofs + len + 1 ≤ d.2 → codeWords u d (ofs + 1) len = .ok ws w →
      ((∃ x ∈ ws, bodyForbidden x = true) → exec (.rep o) s = .next (trapHere s s.cur .repeat_ 0)) ∧
      ((∀ x ∈ ws, bodyForbidden x = false) →
        let p := popAll w w.cur [o.a]
        let r : Rep := { active := true, detached := ws.all bodyDetached, ofs := ofs, count := count, j := 0, len := len,
                         stagger := o.stagger, fix := o.fix }
        let past := fun (t : State) => t.onSlot t.cur fun x => { x with ofs := ofs + len }
        (count = 0 → exec (.rep o) s = .next (issued o.s s.cur (past p))) ∧
        (count ≠ 0 → (∃ x ∈ ws, bodyDetached x = false) →
          exec (.rep o) s = .next (issued o.s s.cur (p.onSlot w.cur fun x => { x with ctx := { x.ctx with rep := r } }))) ∧
        (count ≠ 0 → (∀ x ∈ ws, bodyDetached x = true) → acquiring w w.cur = false →
          ((∃ x ∈ ws, bodyAccess x = true) → heldBack w w.cur = false) → (w.core (coreOf w.cur)).seq = none →
          exec (.rep o) s = .next (issued o.s s.cur (State.onCore { past p with nextId := (past p).nextId + count * len } (coreOf w.cur)
            fun c => { c with seq := some { slot := w.cur, rep := r, word := 0, since := (past p).nextId, words := ws, block := d.2 } })))))) ∧
  ∀ (x : Slot) (m owes : Bool),
    let r := x.ctx.rep
    let y := afterIssue m owes x
    r.active = true → r.detached = false →
    (x.ofs = r.ofs + r.len → r.j + 1 < r.count → y.ofs = r.ofs + 1 ∧ y.ctx.rep = { r with j := r.j + 1 }) ∧
    (x.ofs = r.ofs + r.len → r.count ≤ r.j + 1 → y.ofs = x.ofs + 1 ∧ y.ctx.rep = Rep.none) ∧
    (x.ofs ≠ r.ofs + r.len → y.ofs = x.ofs + 1 ∧ y.ctx.rep = r)

/-! ## Matrix words -/

/-- R113-R118, R226-R236: an operation of the array whose checks pass joins its core's queue, with the register values that it takes. That
the words of a thread stand in line, and do not wait, when the queue's four entries are taken is the model's choice (log 74). -/
def Obligations.ArrayWordsJoinTheQueue : Prop :=
  let z := RegVal.zero
  (∀ (o : MatOperand) (s : State), namedBusy s s.cur 0 (maskOf [16 + o.acc, o.a, o.b]) = false →
    (let e := entryOf s (.mma o) z z z z
     matChecks (s.core (coreOf s.cur)) .mma o e = none → exec (.mma o) s = .next (issued o.s s.cur (queuedDirect s e))) ∧
    (let e := entryOf s (.mmq o) z z z z
     matChecks (s.core (coreOf s.cur)) .mmq o e = none → exec (.mmq o) s = .next (issued o.s s.cur (queuedDirect s e))) ∧
    (let e := entryOf s (.mml o) z z z z
     checkSrc s s.cur [o.c, o.c + 1] 0 = .ok () s → matChecks (s.core (coreOf s.cur)) .mml o e = none →
      exec (.mml o) s = .next (issued o.s s.cur (queuedDirect s e))) ∧
    ∀ op ∈ [Instr.mmd o, .mmdFull o],
      let e := entryOf s op (readReg s s.cur o.c) (readReg s s.cur (o.c + 1)) z z
      checkSrc s s.cur [o.c, o.c + 1] 0 = .ok () s →
      hasRoom s s.cur (if devClass (readReg s s.cur o.c).addr then .device else .relaxed) = true →
      ∀ u, mmdChecks s o e = .ok () u → exec op s = .next (issued o.s s.cur (queuedDirect u e))) ∧
  (∀ (o : MaccStOp) (s u : State),
    let a := fieldVal s s.cur [o.a, o.b] 0
    let b := fieldVal s s.cur [o.a, o.b] 1
    checkSrc s s.cur [o.a, o.b] 0 = .ok () s → hasRoom s s.cur .relaxed = true →
    maccStChecks s (threadSender s s.cur) s.cur o.acc o.fmt a b = .ok () u →
      exec (.maccSt o) s = .next (issued o.s s.cur
        (let q := queued u (entryOf u (.maccSt o) z z a b); popAll q u.cur [o.a, o.b]))) ∧
  (∀ (m : Bool) (acc : Nat) (s : State), (s.core (coreOf s.cur)).claims s.cur (16 + acc) = true →
    exec (.maccZ m acc) s = .next (issued m s.cur (queued s (entryOf s (.maccZ m acc) z z z z)))) ∧
  ∀ (m : Bool) (acc slot swz : Nat) (s : State), namedBusy s s.cur 1 (2 ^ slot) = false →
    mqfinChecks (s.core (coreOf s.cur)) s.cur acc slot swz = none →
      exec (.mqfin m acc slot swz) s = .next (issued m s.cur (queued s (entryOf s (.mqfin m acc slot swz) z z z z)))

/-- R108, R113, R348: what an operation of the array traps on, in order: SLOT, SWIZZLE, FORMAT. That POISON of operand contents (R395),
which R348 does not place, stands between SWIZZLE and FORMAT is the model's choice (log 85). -/
def Obligations.ArrayChecksTrapInOrder : Prop :=
  (∀ (c : Core) (g acc swz : Nat) (keeps : Bool) (slots : List Nat),
    let claimed := c.claims g (16 + acc) = true ∧ ∀ n ∈ slots, c.claims g n = true ∧ (c.hdr n).getLsbD 63 = true
    let oriented := ∀ n ∈ slots, (c.hdr n).toNat / 2 ^ 60 % 8 = swz
    let clean := (∀ n ∈ slots, ∀ k ∈ c.opPsn, k / 2048 ≠ n) ∧ (keeps = true → ∀ k ∈ c.accPsn, k / 4096 ≠ acc)
    (¬claimed → slotChecks c g acc keeps slots swz = some .slot) ∧
    (claimed → ¬oriented → slotChecks c g acc keeps slots swz = some .swizzle) ∧
    (claimed → oriented → ¬clean → slotChecks c g acc keeps slots swz = some .poison) ∧
    (claimed → oriented → clean → slotChecks c g acc keeps slots swz = none)) ∧
  (∀ (o : MatOperand) (s : State) (x : Cause), namedBusy s s.cur 0 (maskOf [16 + o.acc, o.a, o.b]) = false →
    ∀ p ∈ [(MatForm.mma, Instr.mma o), (.mmq, .mmq o)],
      let c := s.core (coreOf s.cur)
      (slotChecks c s.cur o.acc (!o.z) [o.a, o.b] o.swz = some x → exec p.2 s = .next (trapHere s s.cur x 0)) ∧
      (slotChecks c s.cur o.acc (!o.z) [o.a, o.b] o.swz = none → matShape c p.1 o.a o.b = none →
        exec p.2 s = .next (trapHere s s.cur .format 0))) ∧
  ∀ (m : Bool) (acc : Nat) (s : State), (s.core (coreOf s.cur)).claims s.cur (16 + acc) = false →
    exec (.maccZ m acc) s = .next (trapHere s s.cur .slot 0)

/-- R107, R113, R231: what a completed `mma`, `mmq`, `mml` or `macc.z` leaves in its accumulator: in INT32 mode exact sums that wrap, in
FP32 mode products added one at a time, in the elements and in the row sums; an `mml` reads its codebook as it completes. -/
def Obligations.ArrayResults : Prop :=
  (∀ (core k : Nat) (s : State) (e : MatEntry) (form : MatForm) (o : MatOperand) (K : Nat) (int : Bool),
    let c := s.core core
    (form, e.op) ∈ [(MatForm.mma, Instr.mma o), (.mmq, .mmq o), (.mml, .mml o)] →
    entryReady s core k = true → c.queue[k]? = some e → matShape c form o.a o.b = some (int, K) →
      ∃ v fl, exec (.matrixOpComplete core k) s =
          .next (doneOp (s.setCore core (c.setAcc o.acc (if o.z then int else look false c.accInt o.acc) v)) core e fl) ∧
        let reg := fun (r : Nat) => (readReg s e.slot r).bits.toNat
        let book := if form = .mml then reg o.c + reg (o.c + 1) * 2 ^ 128 else 0
        ∀ i < 32,
          (let old : BitVec 32 := if o.z then 0 else (c.accVal o.acc).sums.getD i 0
           v.sums.getD i 0 = if int then BitVec.ofInt 32 (old.toInt + (slotCodes c o.a K i).sum)
             else (accAll old ((slotVals c o.a K 0 i).map sumF)).1) ∧
          ∀ j < 64,
            let old : BitVec 32 := if o.z then 0 else (((c.accVal o.acc).rows.getD i []).getD j 0)
            (v.rows.getD i []).getD j 0 =
              if int then BitVec.ofInt 32 (old.toInt + (List.zipWith (· * ·) (slotCodes c o.a K i) (slotCodes c o.b K j)).sum)
              else (accAll old (List.zipWith prodF (slotVals c o.a K 0 i) (slotVals c o.b K book j))).1) ∧
  ∀ (core k : Nat) (s : State) (e : MatEntry) (m : Bool) (acc : Nat),
    let c := s.core core
    e.op = .maccZ m acc → entryReady s core k = true → c.queue[k]? = some e →
      exec (.matrixOpComplete core k) s = .next (doneOp (s.setCore core (c.setAcc acc false AccVal.zero)) core e 0)

/-- R108-R110, R237-R239: claiming, releasing, loading and inspecting a resource. -/
def Obligations.ClaimLoadStatusWords : Prop :=
  (∀ (m : Bool) (res : Nat) (s : State),
    let k := s.core (coreOf s.cur)
    (find k.holder res = none → exec (.oclaim m res) s = .next (issued m s.cur (s.setCore (coreOf s.cur) (grantRes k res s.cur)))) ∧
    (find k.holder res = some s.cur → exec (.oclaim m res) s = .next (issued m s.cur s)) ∧
    (∀ g, find k.holder res = some g → g ≠ s.cur → ∃ t, exec (.oclaim m res) s = .next t ∧
      (t.slot s.cur).status = .parked (.claim res) ∧ (res, s.cur) ∈ (t.core (coreOf s.cur)).waiting) ∧
    (namedBusy s s.cur 2 (2 ^ res) = false →
      (k.claims s.cur res = true → exec (.orel m res) s = .next (issued m s.cur (s.setCore (coreOf s.cur) (releaseRes k res)))) ∧
      (k.claims s.cur res = false → exec (.orel m res) s = .next (issued m s.cur s)))) ∧
  (∀ (c : Core) (n g : Nat), let d := grantRes c n g
    find d.holder n = some g ∧ (n < 16 → rising 0 c.hdrs = true → d.hdr n = 0) ∧
    (16 ≤ n → (∀ i < 2080, rising 0 c.acc = true → look 0 d.acc (4096 * (n - 16) + i) = 0) ∧
      (rising 0 c.accInt = true → look false d.accInt (n - 16) = false))) ∧
  (∀ (m : Bool) (slot a b : Nat) (s u : State),
    let cap := readReg s s.cur a
    let desc := (readReg s s.cur b).bits
    checkSrc s s.cur [a, b] 0 = .ok () s → namedBusy s s.cur 2 (2 ^ slot) = false → hasRoom s s.cur .relaxed = true →
    oloadChecks s (threadSender s s.cur) s.cur slot cap desc = .ok () u →
      exec (.oload m slot a b) s = .next (issued m s.cur (startOload u
        { slot := u.cur, ofs := (u.slot u.cur).ofs, seq := false, rep := (u.slot u.cur).ctx.rep, res := slot, cap := cap, desc := desc,
          since := 0, left := [], psn := false }))) ∧
  ∀ (m : Bool) (d res : Nat) (s : State),
    let k := s.core (coreOf s.cur)
    let pend := if namedBusy s s.cur 2 (2 ^ res) then 2 else 0
    exec (.ostat m d res) s = .next (issued m s.cur (writeReg s s.cur d
      (if k.claims s.cur res = false then RegVal.zero
       else if res < 16 then RegVal.ofNat ((k.hdr res).toNat / 2 ^ 42 * 2 ^ 42 + pend + 1)
       else RegVal.ofNat ((if look false k.accInt (res - 16) then 4 else 0) + pend + 1))))

/-- R119-R121, R230: the record words issue once their checks pass, after the thread's earlier accesses to the header have entered the
gather buffer and its lines of the header have drained; `rinit` traps REUSE on a descriptor out of range. That each parks its thread until
the reply is the model's choice (log 46). -/
def Obligations.RecordWordsIssue : Prop :=
  let parked := fun (t : State) (rid : Nat) => match (t.slot t.cur).status with | .parked _ => t | _ => parkAfter t (.reply rid)
  let drained := fun (s : State) (fs : List Nat) (ea : Nat) => drainRange (popAll s s.cur fs) (threadSender s s.cur) s.cur ea 64
  (∀ (m : Bool) (a b : Nat) (s u : State) (tgt : Target) (e : Option TlbEntry),
    let c := fieldVal s s.cur [a, b] 0
    let d := (fieldVal s s.cur [a, b] 1).bits
    let n := d.toNat
    let fits := 1 ≤ n % 1024 ∧ n % 1024 ≤ 992 ∧ n / 2 ^ 10 % 32 ≤ 16 ∧ n / 2 ^ 16 % 256 ≠ 0
    checkSrc s s.cur [a, b] 0 = .ok () s →
    (¬fits → exec (.rinit m a b) s = .next (trapHere s s.cur .reuse 0)) ∧
    (fits → capCheck c c.addr (0x20C0 + 128 * (n % 1024)) permW 64 = none → hasRoom s s.cur (recordCls c.addr) = true →
      walkedFor s (threadSender s s.cur) s.cur c.addr 64 2 1 (fun _ => n) = .ok () u → fed u u.cur c.addr 64 = .ok () u →
      let w := drained u [a, b] c.addr
      locate w w.cur c.addr 64 2 = some (.at_ tgt e) →
        exec (.rinit m a b) s = .next (issued m s.cur (parked
          (dispatchReq w ((newReq w u.cur (recordCls c.addr) (.rinit d) c.addr 64 0 0).withPops u w [a, b]) tgt e) w.nextId)))) ∧
  (∀ (m : Bool) (a : Nat) (s u : State) (tgt : Target) (e : Option TlbEntry),
    let c := fieldVal s s.cur [a] 0
    checkSrc s s.cur [a] 0 = .ok () s → capCheck c c.addr 64 (permR ||| permW) 64 = none → hasRoom s s.cur (recordCls c.addr) = true →
    walked s s.cur c.addr 64 3 1 = .ok () u → fed u u.cur c.addr 64 = .ok () u →
    let w := drained u [a] c.addr
    locate w w.cur c.addr 64 3 = some (.at_ tgt e) →
      exec (.rinval m a) s = .next (issued m s.cur (parked
        (dispatchReq w ((newReq w u.cur (recordCls c.addr) .rinval c.addr 64 0 0).withPops u w [a]) tgt e) w.nextId))) ∧
  ∀ (m : Bool) (d a : Nat) (s : State) (tgt : Target) (e : Option TlbEntry),
    let c := fieldVal s s.cur [a] 0
    let r := newReq s s.cur (recordCls c.addr) .rstat c.addr 16 0 d
    let w := popAll s s.cur [a]
    checkSrc s s.cur [a] 0 = .ok () s → capCheck c c.addr 16 permR 16 = none → hasRoom s s.cur (recordCls c.addr) = true →
    storeRoom s r = .ok () s → locate w s.cur c.addr 16 1 = some (.at_ tgt e) →
      exec (.rstat m d a) s = .next (issued m s.cur (parked (dispatchReq w (r.withPops s w [a]) tgt e) w.nextId))

/-! ## Tiles, tables and the end of a block -/

/-- R83, R84, R240-R242: the TILE instructions on an entry of the thread's tenant or an undefined one, and ACCESS on one of another
tenant. -/
def Obligations.TileWords : Prop :=
  (∀ (m : Bool) (tile a b : Nat) (s : State) (ofs len : Nat),
    let n := (fieldVal s s.cur [a, b] 1).bits.toNat
    let e := tileOf s (clusterOf s.cur) tile
    checkSrc s s.cur [a, b] 0 = .ok () s → tileRegion s s.cur (fieldVal s s.cur [a, b] 0) n = .inr (ofs, len) →
    tileDef e = false ∨ (tileTen e = (s.slot s.cur).ten ∧ tileInFlight s (clusterOf s.cur) tile = false) →
      exec (.tdef m tile a b) s = .next (issued m s.cur (setTile (popAll s s.cur [a, b]) (clusterOf s.cur) tile
        (2 ^ 125 + n / 2 ^ 24 % 8 * 2 ^ 122 + (s.slot s.cur).ten * 2 ^ 110 + n % 2 ^ 12 * 2 ^ 98
          + n / 2 ^ 12 % 2 ^ 12 * 2 ^ 86 + (len / 64 - 1) * 2 ^ 71 + ofs / 64 * 2 ^ 56)))) ∧
  (∀ (m : Bool) (d tile : Nat) (s : State),
    let e := tileOf s (clusterOf s.cur) tile
    (tileDef e = false → exec (.tstate m d tile) s = .next (issued m s.cur (writeReg s s.cur d RegVal.zero))) ∧
    (tileDef e = true → tileTen e = (s.slot s.cur).ten →
      exec (.tstate m d tile) s = .next (issued m s.cur (writeReg s s.cur d (RegVal.ofNat (e / 2 ^ 126 % 4)))))) ∧
  (∀ (m : Bool) (tile b : Nat) (s : State),
    let e := tileOf s (clusterOf s.cur) tile
    let p := popAll s s.cur [b]
    checkSrc s s.cur [b] 0 = .ok () s →
    (tileDef e = false → exec (.tset m tile b) s = .next (issued m s.cur p)) ∧
    (tileDef e = true → tileTen e = (s.slot s.cur).ten → tileInFlight s (clusterOf s.cur) tile = false →
      exec (.tset m tile b) s = .next (issued m s.cur (setTile p (clusterOf s.cur) tile
        (setFld e 126 2 ((fieldVal s s.cur [b] 0).bits.toNat % 4)))))) ∧
  (∀ (m : Bool) (tile : Nat) (s : State),
    let e := tileOf s (clusterOf s.cur) tile
    (tileDef e = false → exec (.tfree m tile) s = .next (issued m s.cur s)) ∧
    (tileDef e = true → tileTen e = (s.slot s.cur).ten → tileInFlight s (clusterOf s.cur) tile = false →
      exec (.tfree m tile) s = .next (issued m s.cur
        (failTileWaiters (setTile s (clusterOf s.cur) tile 0) (clusterOf s.cur) tile)))) ∧
  ∀ (m : Bool) (d tile : Nat) (s : State),
    let e := tileOf s (clusterOf s.cur) tile
    tileDef e = true → tileTen e ≠ (s.slot s.cur).ten →
      ∀ i ∈ [Instr.tstate m d tile, .tfree m tile], exec i s = .next (trapHere s s.cur .access 0)

/-- R55, R56, R60, R61, R243, R244: `end` builds its key, and the winning entry's action continues in another block, suspends, retires or
awaits the record, or traps SOFT with `P0` = `PARAMS`; no winner traps NOMATCH, and an action or block that does not exist TABLE. What a
record that leaves holds (R47) is, where the rules are silent, the model's choice (log 77). -/
def Obligations.EndActions : Prop :=
  ∀ (o : EndOp) (s u : State) (f : Found),
    let g := s.cur
    let sels := [o.sel0, o.sel1, o.sel2, o.sel3]
    let blocks := match u.launch (u.slot u.cur).lcl (u.slot u.cur).lid with | some l => l.blocks | none => 0
    owesResult s g = false → (∀ x ∈ sels, x.wc ≠ 0 → 1 ≤ x.reg → x.reg ≤ 47 → ((s.slot g).ctx.reg x.reg).psn = false) →
    searchTable s o.table (buildKey s g sels) = .ok f u → f.psn = false →
    (f.win = none → exec (.endBlk o) s = .next (trapHere s g .nomatch 0)) ∧
    ∀ i e, f.win = some (i, e) →
      let chosen := u.onSlot u.cur fun x => { x with lact := e.actn }
      (5 ≤ e.actn ∨ ((e.actn = 0 ∨ e.actn = 1 ∨ e.actn = 3) ∧ blocks ≤ e.next) → exec (.endBlk o) s = .next (trapHere s g .table 0)) ∧
      (e.actn = 0 → e.next < blocks → sequenced u u.cur = false →
        exec (.endBlk o) s = .next ((dropGot (unpin u u.cur) u.cur).onSlot u.cur fun x =>
          { x with lact := 0, blk := e.next, ofs := 0, p0 := BitVec.ofNat 64 e.params, status := .ready, mark := false,
                   ctx := { x.ctx with rep := Rep.none } })) ∧
      (e.actn = 4 → exec (.endBlk o) s = .next (trapSoft chosen u.cur (BitVec.ofNat 64 e.params))) ∧
      ∀ w, giveUp u = .ok () w →
        let left := unpin (w.onSlot u.cur fun x => { x with lact := e.actn }) u.cur
        let x := left.slot u.cur
        let cl := clusterOf u.cur
        let idle := idleSlot (writeBack left u.cur 0 3 e.next 0 (BitVec.ofNat 64 e.params)) u.cur
        ((e.actn = 1 → e.next < blocks → exec (.endBlk o) s = .next (runTail idle cl x.recOfs)) ∧
         (e.actn = 2 → exec (.endBlk o) s =
            .next (retireRec (idleSlot (writeBack left u.cur 0 2 e.next 0 (BitVec.ofNat 64 e.params)) u.cur) cl x.recOfs (hwid u.cur) 0 true)) ∧
         (e.actn = 3 → e.next < blocks → exec (.endBlk o) s =
            .next (if recCnt idle cl x.recOfs = 0 then runTail idle cl x.recOfs else idle)))

/-- R59, R60, R67: a search of lines that the match cache holds finds the valid entry of least index whose masked value equals the key,
and `match` returns it later; with no winner it returns the index 0xFFFF. -/
def Obligations.MatchFindsTheFirstEntry : Prop :=
  (∀ (s : State) (hdr ver va cap n key : Nat) (psn : Bool) (lines : Nat → MatchLine),
    n ≤ 256 → (∀ k, 2 * k < n → cacheLine s hdr ver (k + 1) (va + 64 * k) (32 * min 2 (cap - 2 * k)) = .ok (lines k) s) →
    let entry := fun (i : Nat) => lineEntry (lines (i / 2)).data (i % 2)
    let wins := fun (i : Nat) => (entry i).dw3 / 2 ^ 28 % 2 == 1 && (key ^^^ (entry i).value) &&& (entry i).mask == 0
    ∃ p, searchFrom s hdr ver va cap n key 0 psn 129 =
      .ok ⟨((List.range n).find? wins).map fun i => (i, entry i), p⟩ s) ∧
  ∀ (m : Bool) (d a table : Nat) (s u : State) (f : Found),
    checkSrc s s.cur [a] 0 = .ok () s → searchTable s table (srcInt s [a] 0).toNat = .ok f u →
      exec (.matchKey m d a table) s = .next (issued m s.cur (pushResult (popAll (unpin u u.cur) u.cur [a]) u.cur
        { dst := d, flags := 0, cls := none, rid := 0, after := none
          val := { RegVal.ofNat (match f.win with
            | some (i, e) => e.params + i * 2 ^ 64 + e.dw3 / 2 ^ 24 % 16 * 2 ^ 80 + e.dw3 % 2 ^ 24 * 2 ^ 84
            | none => 0xFFFF * 2 ^ 64) with psn := f.psn } }))

/-- R65, R247, R248: the table instructions issue once their capability and index pass and the bytes that they touch are translated, after
the thread's earlier accesses to those bytes have entered the gather buffer and its lines of them have drained; an index that the banks
have not traps TABLE; `tbl.commit` parks its thread until its reply. On poisoned table data `tbl.rd` gives a poisoned result (R351); that
the words that write trap POISON is the model's choice (log 83). -/
def Obligations.TableWordsIssue : Prop :=
  ∀ (s u : State) (va hdr h : Nat) (tgt : Target) (e : Option TlbEntry),
    let entries := h / 2 % 256 + 1
    let checked := fun (fs : List Nat) (n perm : Nat) (t : Option (Nat × Nat × Nat)) =>
      checkSrc s s.cur fs 0 = .ok () s ∧ tableChecks s n (fieldVal s s.cur fs 0) perm = .ok t u
    let passes := fun (fs : List Nat) (n perm : Nat) => checked fs n perm (some (va, hdr, h))
    let leaves := fun (x : State) (fs : List Nat) (cls : Cls) (op : MemOp) (ord d : Nat) (t : State) =>
      let rs := touched op va h
      ∃ w, eachRange (fun s a n => walked s s.cur a n (reqNeed op) 3) x rs = .ok () w ∧
        eachRange (fun s a n => fed s s.cur a n) w rs = .ok () w ∧
        let p := popAll w w.cur fs
        let v := rs.foldl (fun s q => drainRange s (threadSender s s.cur) s.cur q.1 q.2) p
        let r : Request :=
          { newReq w w.cur cls op va 8 ord d with pages := (rs.flatMap fun (q : Nat × Nat) => pagesOf w w.cur q.1 q.2).dedup, touch := rs }
        locate v w.cur va r.reach (reqNeed op) = some (.at_ tgt e) ∧ t = dispatchReq v (r.withPops w p fs) tgt e
    let sends := fun (i : Instr) (m : Bool) (fs : List Nat) (op : MemOp) (d : Nat) =>
      hasRoom s s.cur .device = true → ∀ t, leaves u fs .device op 0 d t → exec i s = .next (issued m s.cur t)
    let outside := fun (i : Instr) => hasRoom s s.cur .device = true → exec i s = .next (trapHere s s.cur .table 0)
    (∀ (m : Bool) (table a b c : Nat), passes [a, b, c] table (permW ||| permTBL) →
      let n := (fieldVal u u.cur [a, b, c] 2).bits
      (n.toNat / 2 ^ 96 % 256 < entries →
        sends (.tblWr m table a b c) m [a, b, c] (.tblWr hdr (fieldVal u u.cur [a, b, c] 1).bits n) 0) ∧
      (entries ≤ n.toNat / 2 ^ 96 % 256 → outside (.tblWr m table a b c))) ∧
    (∀ (m : Bool) (d table a b : Nat),
      (passes [a, b] table permR →
        let n := (fieldVal u u.cur [a, b] 1).int
        (n.toNat % 256 < entries → sends (.tblRd m d table a b) m [a, b] (.tblRd hdr n) d) ∧
        (entries ≤ n.toNat % 256 → outside (.tblRd m d table a b))) ∧
      (checked [a, b] table permR none → hasRoom s s.cur .device = true →
        exec (.tblRd m d table a b) s = .next (issued m s.cur (pushResult (popAll u u.cur [a, b]) u.cur
          { dst := d, val := { RegVal.zero with psn := true }, flags := 0, cls := none, rid := 0, after := none })))) ∧
    (∀ (m : Bool) (table a : Nat), passes [a] table (permW ||| permTBL) → sends (.tblSync m table a) m [a] (.tblSync hdr) 0) ∧
    (∀ (m : Bool) (d table a : Nat) (x : State), passes [a] table (permW ||| permTBL) → withFence 1 4 u = .ok () x →
      ∀ t, leaves x [a] .sc (.tblCommit hdr) 3 d t →
        exec (.tblCommit m d table a) s = .next (issued m s.cur (parkAfter t (.reply x.nextId)))) ∧
    ∀ (m : Bool) (d table a b c : Nat),
      (checked [a, b, c] table (permW ||| permTBL) none → hasRoom s s.cur .device = true →
        exec (.tblWr m table a b c) s = .next (trapHere s s.cur .poison 0)) ∧
      (checked [a] table (permW ||| permTBL) none →
        (hasRoom s s.cur .device = true → exec (.tblSync m table a) s = .next (trapHere s s.cur .poison 0)) ∧
        exec (.tblCommit m d table a) s = .next (trapHere s s.cur .poison 0))

/-! ## Task and system words -/

/-- R54, R250, R251: the task instructions send one request to the home of the record that they name, `spawn` and `dec` after
the thread's earlier stores. -/
def Obligations.TaskWordsIssue : Prop :=
  let sent := fun (u : State) (fs : List Nat) (op : MemOp) (ea home ofs d : Nat) =>
    let p := popAll u u.cur fs
    awaitReply (sendReq p { newReq p p.cur .plain op ea 64 0 d with tgt := .sram home ofs, phase := .sent })
  (∀ (o : R4) (s u : State) (home : Nat) (succ : Option Nat),
    let fs := [o.a, o.b, o.c]
    let desc := srcInt s fs 0
    let c := fieldVal s s.cur fs 2
    checkSrc s s.cur fs 0 = .ok () s →
    (o.c = 0 ∧ succ = none ∨ o.c ≠ 0 ∧ ∃ p, contCheck s s.cur c = .inr p ∧ ∃ chip vc ofs, placeOf c.addr 1 = .sram chip vc ofs ∧
      succ = some (vc * 2 ^ 40 + ofs)) →
    spawnCheck s s.cur desc.toNat = .inr home → taskDrain s = .ok () u → hasRoom u u.cur .plain = true → nacked (popAll u u.cur fs) home = false →
      exec (.spawn o) s = .next (issued o.s s.cur
        (sent u fs (.spawn desc (srcInt s fs 1) succ) (sramAddr (desc.toNat / 2 ^ 48 % 2 ^ 10) 0) home 0 o.d))) ∧
  ∀ (s u : State) (home ofs : Nat),
    let through := fun (i : Instr) (m : Bool) (fs : List Nat) (drains : Bool) (op : MemOp) (d : Nat) =>
      checkSrc s s.cur fs 0 = .ok () s → contCheck s s.cur (fieldVal s s.cur fs 0) = .inr (home, ofs) →
      (if drains then taskDrain s = .ok () u else u = s) → hasRoom u u.cur .plain = true → nacked (popAll u u.cur fs) home = false →
        exec i s = .next (issued m s.cur (sent u fs op (fieldVal s s.cur fs 0).addr home ofs d))
    (∀ (m : Bool) (a b : Nat), through (.dec m a b) m [a, b] true (.dec ((fieldVal s s.cur [a, b] 1).bits.toNat % 2 ^ 16)) 0) ∧
    (∀ o : R2, through (.tget o) o.s [o.a] false .tget o.d) ∧
    ∀ (m : Bool) (a b : Nat), through (.tsetCnt m a b) m [a, b] false (.tset (srcInt s [a, b] 1)) 0

/-- R101, R259-R261: what `mfs` reads and what `mts` writes; a register above the thread's privilege traps PRIV; a shared register is
written by a sequentially consistent operation. -/
def Obligations.SpecialRegisterWords : Prop :=
  (∀ (m : Bool) (d : Nat) (s : State),
    let x := s.slot s.cur
    let p := s.part (partOf s s.cur)
    ∀ r ∈ [(0x000, 0, x.ctx.stat.toNat), (0x001, 0, x.ctx.rnd.toNat), (0x002, 0, x.ctx.felim), (0x010, 0, 0x7F), (0x011, 0, partOf s s.cur),
           (0x012, 0, x.ten), (0x013, 0, dieOf (clusterOf s.cur) * 2 ^ 16 + s.cur), (0x014, 0, recPrio s (clusterOf s.cur) x.recOfs),
           (0x015, 0, s.chip), (0x016, 0, p.tgrant), (0x100, 1, p.asid), (0x101, 1, p.s1root), (0x102, 2, p.s2root), (0x103, 1, p.trapq),
           (0x104, 1, (s.cluster (clusterOf s.cur)).retryq), (0x105, 1, p.cmap)],
      (x.prv < r.2.1 → exec (.mfs m d r.1) s = .next (trapHere s s.cur .priv 0)) ∧
      (r.2.1 ≤ x.prv → exec (.mfs m d r.1) s = .next (issued m s.cur (writeReg s s.cur d (RegVal.ofNat r.2.2))))) ∧
  ∀ (m : Bool) (a : Nat) (s : State),
    let x := s.slot s.cur
    let v := srcInt s [a] 0
    let p := popAll s s.cur [a]
    let ctx := fun (f : Context → Context) => p.onSlot s.cur fun x => { x with ctx := f x.ctx }
    checkSrc s s.cur [a] 0 = .ok () s →
    exec (.mts m 0x000 a) s = .next (issued m s.cur (ctx fun c => { c with stat := BitVec.ofNat 64 (v.toNat % 32) })) ∧
    (v.toNat % 8 < 6 → exec (.mts m 0x001 a) s = .next (issued m s.cur (ctx fun c => { c with rnd := BitVec.ofNat 64 (v.toNat % 16) }))) ∧
    (6 ≤ v.toNat % 8 → exec (.mts m 0x001 a) s = .next (trapHere s s.cur .illegal 0)) ∧
    exec (.mts m 0x002 a) s = .next (issued m s.cur (ctx fun c => { c with felim := v.toNat % 2 ^ 32 })) ∧
    (x.prv ≠ 0 ∨ v.toNat % 16 ≤ recPrio s (clusterOf s.cur) x.recOfs →
      exec (.mts m 0x014 a) s =
        .next (issued m s.cur (setRec p (clusterOf s.cur) (p.slot s.cur).recOfs 0 44 4 (v.toNat % 16)))) ∧
    (x.prv = 0 → recPrio s (clusterOf s.cur) x.recOfs < v.toNat % 16 → exec (.mts m 0x014 a) s = .next (trapHere s s.cur .priv 0)) ∧
    ∀ r ∈ [(0x016, 1), (0x100, 1), (0x101, 1), (0x102, 2), (0x103, 1), (0x104, 1), (0x105, 1)],
      (x.prv < r.2 → exec (.mts m r.1 a) s = .next (trapHere s s.cur .priv 0)) ∧
      (r.2 ≤ x.prv → ∀ u, withFence 1 4 s = .ok () u →
        let q := popAll u u.cur [a]
        exec (.mts m r.1 a) s = .next (issued m s.cur (parkAfter
          (sendReq q { newReq q q.cur .sc (.mts r.1 v) 0 8 3 0 with phase := .sent }) (.reply u.nextId))))

/-- R262, R263, R266: `tlbi` drops the translations of its range and joins the thread's incomplete invalidations, `tlbsync` waits for
them, `diag.st` sends its store; each is PRIV below its privilege. That `diag.st` traps ACCESS in a control window is the model's choice
(log 27). -/
def Obligations.TranslationAndDiagnosticWords : Prop :=
  (∀ (m : Bool) (a b : Nat) (s : State),
    let va := (fieldVal s s.cur [a, b] 0).bits.toNat
    let n := (fieldVal s s.cur [a, b] 1).bits.toNat
    let kind := n / 2 ^ 56 % 4
    let prv := (s.slot s.cur).prv
    (prv < 1 → exec (.tlbi m a b) s = .next (trapHere s s.cur .priv 0)) ∧
    (1 ≤ prv → checkSrc s s.cur [a, b] 0 = .ok () s →
      (kind = 3 → exec (.tlbi m a b) s = .next (trapHere s s.cur .illegal 0)) ∧
      (kind = 2 → prv < 2 → exec (.tlbi m a b) s = .next (trapHere s s.cur .priv 0)) ∧
      (kind ≠ 3 → (kind = 2 → 2 ≤ prv) → (s.invals.filter fun v => v.slot == s.cur).length < 4 →
        let len := n % 2 ^ 40
        let lo := if len = 0 then 0 else va / 2 ^ 12 % 2 ^ 45 * 4096
        let v : Inval :=
          { slot := s.cur, part := partOf s s.cur, lo := lo, hi := if len = 0 then 2 ^ 57 else lo + (len + 4095) / 4096 * 4096
            asid := if kind = 0 then some (n / 2 ^ 40 % 2 ^ 16) else none, s2 := kind == 2, since := 0 }
        exec (.tlbi m a b) s = .next (issued m s.cur (invalidate (popAll s s.cur [a, b]) v))))) ∧
  (∀ (v : Inval) (s : State) (n : Nat), let t := invalidate s v
    ∀ e ∈ (t.cluster n).tlb ++ (t.core n).dtlb ++ (t.core n).itlb, v.covers e = false) ∧
  (∀ (m : Bool) (s : State),
    ((s.slot s.cur).prv < 1 → exec (.tlbsync m) s = .next (trapHere s s.cur .priv 0)) ∧
    (1 ≤ (s.slot s.cur).prv → (∀ v ∈ s.invals, v.slot ≠ s.cur) → exec (.tlbsync m) s = .next (issued m s.cur s)) ∧
    (1 ≤ (s.slot s.cur).prv → (∃ v ∈ s.invals, v.slot = s.cur) →
      exec (.tlbsync m) s = .next (s.onSlot s.cur fun x => { x with status := .parked .tlbsync, mark := false }))) ∧
  ∀ (m : Bool) (a b c : Nat) (s : State) (tgt : Target) (e : Option TlbEntry),
    let fs := [a, b, c]
    let ea := (fieldVal s s.cur fs 0).addr
    let n := (fieldVal s s.cur fs 2).bits
    ((s.slot s.cur).prv < 2 → exec (.diagSt m a b c) s = .next (trapHere s s.cur .priv 0)) ∧
    (2 ≤ (s.slot s.cur).prv → checkSrc s s.cur fs 0 = .ok () s → capCheck (fieldVal s s.cur fs 0) ea 8 (permW ||| permDIAG) 8 = none →
      (∃ cl o x, locate s s.cur ea 8 2 = some (.at_ (.ctl cl o) x)) → exec (.diagSt m a b c) s = .next (trapHere s s.cur .access ea)) ∧
    (2 ≤ (s.slot s.cur).prv → checkSrc s s.cur fs 0 = .ok () s → capCheck (fieldVal s s.cur fs 0) ea 8 (permW ||| permDIAG) 8 = none →
      (∀ cl o x, locate s s.cur ea 8 2 ≠ some (.at_ (.ctl cl o) x)) → hasRoom s s.cur (clsOf ea 0 false) = true → locate (popAll s s.cur fs) s.cur ea 8 2 = some (.at_ tgt e) →
        let p := popAll s s.cur fs
        exec (.diagSt m a b c) s = .next (issued m s.cur (dispatchReq p
          ((newReq p s.cur (clsOf ea 0 false) (.diag (srcInt s fs 1).toNat (n.toNat % 256) (n.getLsbD 8)) ea 8 0 0).withPops s p fs) tgt e)))

/-- R264, R265, R359: `portwr` and `portfail` take a valid entry of the retry ring, whose valid bit they clear, and complete or fail the
access that it stands for; an entry that is not valid is left alone. -/
def Obligations.RetryEntryWords : Prop :=
  let taken := fun (s : State) (cl ofs : Nat) =>
    setWordFull (sramWrite s cl ofs 8 (setFld (setFld (sramRead s cl ofs 8) 63 1 0) 48 4 0)) cl ofs false
  (∀ (m : Bool) (a b c : Nat) (s : State), (s.slot s.cur).prv < 1 →
    ∀ i ∈ [Instr.portwr m a b c, .portfail m a b], exec i s = .next (trapHere s s.cur .priv 0)) ∧
  (∀ (m : Bool) (a b c : Nat) (s u : State) (cl ofs : Nat), 1 ≤ (s.slot s.cur).prv → checkSrc s s.cur [a, b, c] 0 = .ok () s →
    entryAt s (fieldVal s s.cur [a, b, c] 0) = .ok (.sram cl ofs, ofs) u →
    let p := popAll u u.cur [a, b, c]
    (bitAt (sramRead p cl ofs 8) 63 = true → exec (.portwr m a b c) s = .next (issued m s.cur
      (completeEntry (taken p cl ofs) cl ofs (fieldVal s s.cur [a, b, c] 1) ((fieldVal s s.cur [a, b, c] 2).bits.getLsbD 0)))) ∧
    (bitAt (sramRead p cl ofs 8) 63 = false → exec (.portwr m a b c) s = .next (issued m s.cur p))) ∧
  ∀ (m : Bool) (a b : Nat) (s u : State) (cl ofs : Nat), 1 ≤ (s.slot s.cur).prv → checkSrc s s.cur [a, b] 0 = .ok () s →
    entryAt s (fieldVal s s.cur [a, b] 0) = .ok (.sram cl ofs, ofs) u →
    let p := popAll u u.cur [a, b]
    (bitAt (sramRead p cl ofs 8) 63 = true → exec (.portfail m a b) s = .next (issued m s.cur
      (failEntry (taken p cl ofs) cl ofs (causeOf ((fieldVal s s.cur [a, b] 1).bits.toNat % 256))))) ∧
    (bitAt (sramRead p cl ofs 8) 63 = false → exec (.portfail m a b) s = .next (issued m s.cur p))

/-- R267, R268: `trap` raises SOFT with A in `P0`, and `halt` gives up its resources, retires its record and reports a halt. -/
def Obligations.TrapAndHalt : Prop :=
  (∀ (m : Bool) (a : Nat) (s : State), checkSrc s s.cur [a] 0 = .ok () s →
    let x := s.slot s.cur
    let v := srcInt s [a] 0
    exec (.trap m a) s = .next (raise s s.cur { cause := .soft, ofs := x.ofs, deferred := false, rv := x.ctx.rep.active, j := x.ctx.rep.j,
                                                info := v.toNat, p0 := v })) ∧
  ∀ (m : Bool) (s u : State), owesResult s s.cur = false → giveUp s = .ok () u →
    let x := u.slot u.cur
    exec (.halt m) s = .next (retireRec (idleSlot (writeBack (unpin u u.cur) u.cur 0 2 x.blk x.ofs x.p0) u.cur)
      (clusterOf u.cur) x.recOfs (hwid u.cur) 1 false)

/-! ## Engines -/

/-- R252-R254: an engine word below its privilege traps PRIV; one whose operands pass sends its kick, with the thread's identity, to the
engine that serves its cluster; an operand that it reads as a capability traps its first cause, A's before B's. -/
def Obligations.EngineWordsKick : Prop :=
  ∀ p ∈ engineWords, ∀ (o : EngOp) (s u : State),
    let n := p.2
    let fs := [o.a, o.b]
    let a := fieldVal s s.cur fs 0
    let b := fieldVal s s.cur fs 1
    let t := sendKick (popAll u u.cur fs) n.id n.fn a b o.d
    ((s.slot s.cur).prv < n.priv → exec (p.1 o) s = .next (trapHere s s.cur .priv 0)) ∧
    (n.priv ≤ (s.slot s.cur).prv → checkSrc s s.cur fs 0 = .ok () s →
      (∀ c, engCause a n.a = some c → exec (p.1 o) s = .next (trapHere s s.cur c 0)) ∧
      (∀ c, engCause a n.a = none → engCause b n.b = some c → exec (p.1 o) s = .next (trapHere s s.cur c 0)) ∧
      (engCause a n.a = none → engCause b n.b = none → heldBack s s.cur = false → (if o.rel then withFence 1 4 s = .ok () u else u = s) →
        exec (p.1 o) s = .next (issued o.s s.cur t) ∧
        ∃ k : Kick, (t.engine (engineOf (clusterOf u.cur) n.id)).kicks =
            ((popAll u u.cur fs).engine (engineOf (clusterOf u.cur) n.id)).kicks ++ [k] ∧
          k.fn = n.fn ∧ k.a = a ∧ k.b = b ∧ k.slot = u.cur ∧ k.dst = o.d ∧ (k.rid = 0 ↔ o.d = 0) ∧
          k.ten = ((popAll u u.cur fs).slot u.cur).ten ∧ k.prv = ((popAll u u.cur fs).slot u.cur).prv ∧
          k.part = partOf (popAll u u.cur fs) u.cur ∧ k.asid = ((popAll u u.cur fs).part k.part).asid % 2 ^ 16))

/-- R139, R254-R256, R271-R273, R280, R385, R390, R407: an engine answers its oldest kick with `stat`, refuses it with an `RC`, or takes
it on as a command; a running command reads what it writes, under each translation as it is obtained, and writes it in ascending pieces,
one a step, and ends with its fill; one whose access fails ends with no fill and an entry in the fault ring, and poisoned data fences an
armed cocoon. `RC` 1 for a pattern that `dist.cfg` may not hold (log 81) and `RC` 2 for an argument record that is not aligned (log 41)
are the model's choices. -/
def Obligations.EngineCommandsBeginAndEnd : Prop :=
  (∀ (e : Nat) (s : State) (k : Kick) (ks : List Kick),
    let x := s.engine e
    let seq := x.seq % 2 ^ 32
    x.kicks = k :: ks →
    (k.fn = 0x10 → exec (.engineKickAccept e) s =
      .next (replyKick (s.setEngine e { x with kicks := ks }) k (statReply s k.cl (idOf e)))) ∧
    (k.fn ≠ 0x10 → x.cmds.length + x.layers.length < 32 → engWalking s e 1 = false →
      rangeHeld s k.sender (k.a.addr, if idOf e = 4 then 256 else 64) = false →
      (idOf e = 4 →
        (∀ rc u, acceptGate s k seq = (.rc rc, u) → exec (.engineKickAccept e) s = .next (takeKick u e k rc)) ∧
        ∀ l u, acceptGate s k seq = (.layer l, u) →
          let t := takeKick u e k 0
          exec (.engineKickAccept e) s = .next (t.setEngine e { t.engine e with layers := (t.engine e).layers ++ [l] })) ∧
      (idOf e = 1 → k.fn = 1 →
        (∀ v, patValue k.b = some v →
          let t := (takeKick s e k 0).onCluster (e / 2) fun c => { c with pats := put 0 c.pats (k.a.bits.toNat % 8) v }
          exec (.engineKickAccept e) s = .next (t.setEngine e { (takeKick s e k 0).engine e with done := (takeKick s e k 0 |>.engine e).done + 1 })) ∧
        (patValue k.b = none → exec (.engineKickAccept e) s = .next (takeKick s e k 1))) ∧
      (idOf e ≠ 4 → (idOf e = 1 → k.fn ≠ 1) →
        (∀ u, readArg s k 64 = (.fail, u) → exec (.engineKickAccept e) s =
          .next (if argPoisoned u k then poisonMet (takeKick u e k 2) e else takeKick u e k 2)) ∧
        ∀ n u, readArg s k 64 = (.ok n, u) →
          let c := recordCmd u k n seq
          (acceptRc u e c n ≠ 0 → exec (.engineKickAccept e) s = .next (takeKick u e k (acceptRc u e c n))) ∧
          (acceptRc u e c n = 0 →
            let t := takeKick u e k 0
            let d := if idOf e = 1 then { c with ap1 := look 0 (u.cluster (e / 2)).pats (c.ap0 / 2 ^ 16 % 8) } else c
            exec (.engineKickAccept e) s = .next (enterAll (t.setEngine e { t.engine e with cmds := (t.engine e).cmds ++ [d] }) e))))) ∧
  (∀ (e rc : Nat) (s : State) (k : Kick),
    let t := takeKick s e k rc
    (t.engine e).kicks = (s.engine e).kicks.drop 1 ∧ (t.engine e).seq = (s.engine e).seq + 1 ∧
    (rc ≠ 0 → t = engFault (replyKick { s.setEngine e { s.engine e with kicks := (s.engine e).kicks.drop 1, seq := (s.engine e).seq + 1 } with
        walks := s.walks.filter fun w => !(w.isEng && w.owner == e && w.ofs == 1) } k ((s.engine e).seq % 2 ^ 32 * 2 ^ 16 + rc))
      e k ((s.engine e).seq % 2 ^ 32) rc k.a.addr 0)) ∧
  (∀ (e : Nat) (s u : State) (c : Cmd) (xs : List MByte) (r : Span Unit),
    let keeps := fun (t : State) (d : Cmd) => t.setEngine e { t.engine e with cmds := (t.engine e).cmds.map fun k => if k.seq = c.seq then d else k }
    let writes := fun (t : State) (ea : Nat) (ys : List MByte) (n : Nat) (bad : Bool) =>
      exec (.engineCommandComplete e) s = .next (keeps t { c with
        todo := (piecesOf 64 ea ys.length).map fun p => (p.1, (ys.drop (p.1 - ea)).take p.2)
        fin := some (0, n, bad)
        got := [] })
    let had := c.got.length
    runningCmd s e = some c → canRun s e = true → idOf e = 0 → c.fin = none →
    (c.kick.fn = 0 →
      readMost s c.kick.sender (piecesOf 64 (c.asrc.addr + had) (c.count - had)) = (xs, r, u) →
      (anyPsn xs = true → fences u e = true → exec (.engineCommandComplete e) s = .next (poisonMet u e)) ∧
      (anyPsn xs = false ∨ fences u e = false →
        (r = .ok () → c.got ++ xs ≠ [] →
          writes (drainSource u e c 0) c.kick.b.addr (c.got ++ xs) c.count (anyPsn (c.got ++ xs))) ∧
        ∀ va, r = .miss va → exec (.engineCommandComplete e) s = .next (askEngWalk
          (drainSource (keeps u { c with got := c.got ++ xs }) e c (c.count - had - xs.length)) e (cmdWalk c.seq) va 1 0))) ∧
    ∀ lo hi, c.kick.fn = 1 → capBounds c.kick.b = some (lo, hi) → lo < hi →
      writes s lo ((List.range (hi - lo)).map fun i => (BitVec.ofNat 8 (c.ap0 / 256 ^ ((lo + i) % 8)), false)) ((hi - lo) % 2 ^ 40) false) ∧
  (∀ (e : Nat) (s u : State) (c : Cmd) (status n : Nat) (bad : Bool) (p : Nat × List MByte) (ps : List (Nat × List MByte)),
    let left := (ps.map fun (q : Nat × List MByte) => q.2.length).sum
    let t := if c.dtv then pendTile u c.kick.cl c.dtile 1 ((left + 63) / 64) else u
    runningCmd s e = some c → canRun s e = true → c.fin = some (status, n, bad) → c.todo = p :: ps →
    missing s c.kick.sender 2 [(p.1, p.2.length)] = none → writePiece s c.kick.sender (0xFFF, idOf e) p.1 p.2 = some u →
      exec (.engineCommandComplete e) s = .next (
        if ps ≠ [] then
          t.setEngine e { t.engine e with cmds := (t.engine e).cmds.map fun k => if k.seq = c.seq then { c with todo := ps } else k }
        else if bad then failPoison u e c c.asrc.addr else finishCmd u e c status n)) ∧
  (∀ (e : Nat) (s : State) (c : Cmd), runningCmd s e = some c → canRun s e = true →
    exec (.engineCommandComplete e) s = .next (runCmd s e c)) ∧
  (∀ (e cause : Nat) (s : State) (c : Cmd), runningCmd s e = some c → c.entered = true →
    exec (.engineAccessFailed e cause) s = .next (failCmd s e c 0x11 c.kick.a.addr (cause % 256))) ∧
  ∀ (e code addr aux status n : Nat) (s : State) (c : Cmd),
    let x := (failCmd s e c code addr aux).engine e
    let y := (finishCmd s e c status n).engine e
    (∀ d ∈ x.cmds, d.seq ≠ c.seq) ∧ (∀ d ∈ y.cmds, d.seq ≠ c.seq) ∧ x.done = (s.engine e).done + 1 ∧ y.done = (s.engine e).done + 1

/-- R282-R285, R400: dispatch places each token with at most `KS` experts and no expert above its capacity, in rising slots; then the
products are spawned, one by one, and creation pauses while their home's pools are empty; then, once every product has retired and its
stores are performed, the rows are combined, or a layer that failed ends faulted. That a product's record names the combine stage by a
successor of its own is the model's choice (log 44). -/
def Obligations.SwallowtailStages : Prop :=
  (∀ (n : Nat) (exps : List Expert) (rows : List (List Nat)),
    let r := placeTokens n exps rows
    (∀ e < cfgE n, (r.1.filter fun p => p.2.1 == e).map (·.2.2.2.1) = List.range (r.2.1.getD e 0)) ∧
    (∀ e < cfgE n, r.2.1.getD e 0 ≤ (exps.map Expert.cap).getD e 0) ∧
    ∀ t, (r.1.filter fun p => p.1 == t).length ≤ cfgKS n) ∧
  (∀ (die : Nat) (s : State) (l : Layer), topLayer s die = some l → l.failed = false → l.stage ≤ 1 → layerIdle s die l = true →
    exec (.dispatchStage die) s = .next (stageDone (runDispatch s die l) die l)) ∧
  (∀ (die : Nat) (s : State) (l : Layer), topLayer s die = some l → l.failed = false → l.stage = 2 →
    let left := ((List.range (cfgE l.cfg)).filter fun e => l.counts.getD e 0 != 0).drop l.ops
    (left = [] → exec (.productSpawn die) s = .next (setLayer s die { l with stage := 3, ops := 0 })) ∧
    ∀ e es, left = e :: es →
      (∀ t, spawnProduct s die l e = some (.inl t) →
        exec (.productSpawn die) s = .next (spawnFrom t die { l with ops := l.ops + 1, left := l.left + 1 } es)) ∧
      (∀ f, spawnProduct s die l e = some (.inr f) → exec (.productSpawn die) s = .next (failLayer s die l f)) ∧
      (spawnProduct s die l e = none → exec (.productSpawn die) s = .next s)) ∧
  (∀ (die e h o : Nat) (s u : State) (l : Layer), reach s l.cmd.kick.cl l.cmd.kick.part (l.exp e).home = some h → nacked s h = false →
    owned s h = true → heldAt s l.cmd.kick.part l.cmd.kick.cl h = false →
    let paired := match s.launch l.cmd.kick.lcl l.cmd.kick.lid with | some x => x.paired | none => false
    noPair s h paired = false →
    newConts s h
      { blk := cfgBlk l.cfg, prv := l.cmd.kick.prv, prio := cfgPrio l.cfg, cnt := 0, ten := l.cmd.kick.ten, lcl := l.cmd.kick.lcl,
        lid := l.cmd.kick.lid, pair := paired, wid := BitVec.ofNat 64 e, p0 := BitVec.ofNat 64 (l.counts.getD e 0),
        p1 := BitVec.ofNat 64 (l.exp e).p1, succ := some (0, 0), cls := l.cmd.kick.cls, regs := [(1, (l.exp e).buf)] } = some (o, u) →
    ∃ t, spawnProduct s die l e = some (.inl t) ∧ t.products = u.products ++ [{ cl := h, ofs := o, die := die, seq := l.cmd.seq }] ∧
      ∀ x, u.launch l.cmd.kick.lcl l.cmd.kick.lid = some x →
        t.launch l.cmd.kick.lcl l.cmd.kick.lid = some { x with live := x.live + 1 }) ∧
  ∀ (die : Nat) (s : State) (l : Layer), topLayer s die = some l → l.left = 0 → (∀ a ∈ l.drain, storesDone s (some a) = true) →
    rangeHeld s l.cmd.kick.sender ((l.caps.getD 7 RegVal.zero).addr, 8) = false →
    (l.failed = true → exec (.combineStage die) s = .next (endLayer s die l 64 0)) ∧
    (l.failed = false → l.stage = 3 → layerIdle s die l = true → exec (.combineStage die) s = .next (runCombine s die l))

/-! ## Launches and continuations -/

/-- R30, R31, R34-R36, R361: the scheduler takes the next packet of its queues in round robin, empties its doubleword 0 and advances the
head; it settles the packet under the queue word as it was then: it refuses the packet with the first code that holds, or accepts it as a
launch whose creations begin at work identifier 0. That `FSEQ` is 0 in a scheduler's fault entry is the model's choice (log 67). -/
def Obligations.LaunchesAreAcceptedOrRefused : Prop :=
  (∀ (cl q : Nat) (s : State), acceptReady s cl q = true →
    (∀ p, (s.cluster cl).packet = some p → exec (.acceptLaunch cl q) s = .next (settlePacket s cl p)) ∧
    ((s.cluster cl).packet = none → s.sram.wf = true →
      let w := look 0 (s.cluster cl).queues q
      let o := 128 * (w / 2 ^ 7 % 2 ^ 14) + 128 * (w / 2 ^ 120 % 2 ^ 8)
      let v := { s with sram := s.sram.settleAll (sramKey cl o) 128 }
      let tag := fun b => v.sram.tagAt (sramKey cl (o + b))
      let p : Packet :=
        { queue := q, qword := w, data := sramRead v cl o 128, tCode := tag 0x20, tSimg := tag 0x30, tDone := tag 0x40, failed := false }
      ∃ u, exec (.acceptLaunch cl q) s =
          .next (if fillHeld u cl (ownerOf u cl) p.done = true ∨ packetHeld u cl p = true then u else settlePacket u cl p) ∧
        sramFull u cl o = false ∧ (u.cluster cl).packet = some p ∧
        (u.cluster cl).lastQ = q ∧ u.sram.bytes = v.sram.bytes ∧
        look 0 (u.cluster cl).queues q / 2 ^ 120 % 2 ^ 8 = (w / 2 ^ 120 % 2 ^ 8 + 1) % 2 ^ (w / 2 ^ 59 % 2 ^ 4) % 2 ^ 8)) ∧
  ∀ (cl : Nat) (s : State) (p : Packet),
    let qw := p.qword
    let part := ownerOf s cl
    let ten := qw / 2 ^ 42 % 2 ^ 12
    let done := fun (s : State) =>
      State.onCluster { s with walks := s.walks.filter fun w => !(w.isEng && w.owner == 4096 + cl) } cl fun c => { c with packet := none }
    let refuses := fun (s : State) (code : Nat) => fillCompletion (done s) cl p.queue qw part ten p.done (p.at_ 0x58 16) code 0
    let agrees := p.ctl / 2 ^ 28 % 2 ^ 8 = qw / 2 ^ 34 % 2 ^ 8 ∧ p.ctl / 2 ^ 16 % 2 ^ 12 = ten ∧ p.ctl / 2 ^ 12 % 4 = qw / 2 ^ 54 % 4
    let paired := p.ctl.testBit 14 = true ∧ ∃ v ∈ usedHomes p.shape (p.at_ 0x68 64), ∀ h, vcMap s cl part v = some h → bitAt (s.cluster h).pairW 63 = false
    (doneUsable s cl part p.done = false →
      settlePacket s cl p = faultEntry (done s) cl 0x00 0x20 ten 0 p.done.addr 0) ∧
    (doneUsable s cl part p.done = true →
      (¬agrees → settlePacket s cl p = refuses s 0x05) ∧
      (agrees → packetBad s cl part p = true → settlePacket s cl p = refuses s 0x04) ∧
      (agrees → packetBad s cl part p = false →
        (p.failed = true → settlePacket s cl p = refuses s 0x06) ∧
        (p.failed = false → ∀ u,
          (readCode s (schedSender s cl qw p.queue) p = (.bad, u) → settlePacket s cl p = refuses u 0x06) ∧
          ∀ blocks seeds lid, readCode s (schedSender s cl qw p.queue) p = (.ok blocks seeds, u) → u.clusters = s.clusters →
            (p.at_ 0x10 128 / 2 ^ 7 ≠ 0 → settlePacket s cl p = refuses u 0x01) ∧
            (p.at_ 0x10 128 / 2 ^ 7 = 0 → paired → settlePacket s cl p = refuses u 0x07) ∧
            (p.at_ 0x10 128 / 2 ^ 7 = 0 → ¬paired → (List.range 64).find? (fun k => (s.launch cl k).isNone) = some lid →
              ∃ l, settlePacket s cl p = (done u).setLaunch cl lid l ∧ l.used = true ∧ l.next = some 0 ∧ l.live = 0 ∧ l.ended = 0 ∧
                l.unpaired = false ∧ l.halted = false ∧ l.faulted = false ∧ l.queue = p.queue ∧ l.part = part ∧ l.ten = ten ∧ l.prv = qw / 2 ^ 57 % 4 ∧
                l.cls = qw / 2 ^ 54 % 4 ∧ l.pri = p.ctl / 2 ^ 8 % 16 ∧ l.entry = p.ctl / 2 ^ 36 % 2 ^ 24 ∧ l.blocks = blocks ∧ l.seeds = seeds ∧
                l.lcode = p.code ∧ l.ldone = p.done ∧ l.lgen = p.at_ 0x58 16 ∧ l.shape = p.shape ∧ l.ext = p.at_ 0x68 64))))

/-- R36-R47, R54, R361, R394: a creation message builds a record and its image from the launch, at the home of its work identifier; a
slot takes the record at the head of its run list; reports and decrements of records that end reach their launch and their successor
once the stores of their thread are performed. -/
def Obligations.ContinuationsComeAndGo : Prop :=
  (∀ (s : State) (home ofs pa : Nat) (r : NewRec), freeRecord (s.cluster home) = some ofs → freeImage (s.cluster home) = some pa →
    r.blk < 2 ^ 24 → r.prio < 16 → r.prv < 4 → r.cnt < 2 ^ 16 → r.ten < 2 ^ 12 → r.lid < 2 ^ 8 → r.lcl < 2 ^ 9 →
    ofs ∉ (s.cluster home).run → (∀ o ∈ (s.cluster home).run, o % 64 = 0) → s.sram.wf = true →
      ∃ t, newRecord s home r = some (ofs, t) ∧ t.dev = (allocImage s r.ten pa { Context.new with cls := r.cls, regs := r.regs }).dev ∧
        recDw t home ofs 0 = r.prv * 2 ^ 48 + r.prio * 2 ^ 44 + (if r.cnt = 0 then 1 else 3) * 2 ^ 40 + r.blk ∧
        recDw t home ofs 1 = (if r.pair then 2 ^ 46 else 0) + r.lcl * 2 ^ 36 + r.lid * 2 ^ 28 + r.ten * 2 ^ 16 + r.cnt ∧
        recDw t home ofs 2 = r.wid.toNat ∧ recDw t home ofs 3 = r.p0.toNat ∧ recDw t home ofs 4 = r.p1.toNat ∧
        (r.cnt = 0 ↔ ofs ∈ (t.cluster home).run) ∧ ofs ∈ (t.cluster home).usedRecs ∧ pa ∈ (t.cluster home).usedCtx) ∧
  (∀ (cl lid wid home o : Nat) (s u : State) (l : Launch), s.launch cl lid = some l → l.next = some wid →
    let after := fun (s : State) (made unpaired : Bool) => completeLaunch (s.setLaunch cl lid
      { l with next := nextWid l.shape l.ext wid, live := if made then l.live + 1 else l.live, faulted := l.faulted || !made
               unpaired := l.unpaired || unpaired }) cl lid
    (reach s cl l.part (homeOf l.shape wid) = none → exec (.createContinuation cl lid) s = .next (after s false false)) ∧
    (reach s cl l.part (homeOf l.shape wid) = some home →
      (nacked s home = true → exec (.createContinuation cl lid) s = .next (after s false false)) ∧
      (nacked s home = false → noPair s home l.paired = true → exec (.createContinuation cl lid) s = .next (after s false true)) ∧
      (nacked s home = false → noPair s home l.paired = false → owned s home = true → ownerOf s home = l.part → heldAt s l.part cl home = false →
        fillHeld s cl l.part l.ldone = false → newConts s home (newCont l cl lid wid) = some (o, u) →
        exec (.createContinuation cl lid) s = .next (after u true false)))) ∧
  (∀ (cl o g : Nat) (s : State), bitAt (s.cluster cl).hand0 63 = false → s.sram.wf = true →
    (s.cluster cl).run.find? (fun o => !(s.cluster cl).heldSet.contains (recDw s cl o 1 / 2 ^ 16 % 2 ^ 12)) = some o →
    idleOf s cl = some g →
      ∃ t ctx, exec (.takeRunListHead cl) s = .next (trimCache (t.setSlot g (loadSlot t g o ctx)) (coreOf g)) ∧
        (t.cluster cl).run = (s.cluster cl).run.erase o ∧ recState t cl o = 2 ∧ recDw t cl o 7 = 0) ∧
  (∀ (k : Nat) (s : State) (r : Report) (l : Launch),
    let arrives := fun (l' : Launch) => completeLaunch ({ s with reports := s.reports.erase r }.setLaunch r.cl r.lid l') r.cl r.lid
    s.launch r.cl r.lid = some l → storesDone s r.after = true → fillHeld s r.cl l.part l.ldone = false →
    ((s.reports.filter fun r => r.kind != 3)[k]? = some r → exec (.retirementReport k) s = .next (arrives
      { l with live := l.live - 1, ended := l.ended + 1, halted := l.halted || r.kind == 1, faulted := l.faulted || r.kind == 2 })) ∧
    ((s.reports.filter fun r => r.kind == 3)[k]? = some r →
      exec (.discardReport k) s = .next (arrives { l with live := l.live - 1, faulted := true }))) ∧
  (∀ (cl lid : Nat) (s : State) (l : Launch), s.launch cl lid = some l →
    (l.live ≠ 0 ∨ l.next ≠ none → completeLaunch s cl lid = s) ∧
    (l.live = 0 → l.next = none →
      let t := s.setLaunch cl lid { l with used := false }
      completeLaunch s cl lid = fillCompletion t cl l.queue (look 0 (t.cluster cl).queues l.queue) l.part l.ten l.ldone l.lgen
        (if l.unpaired then 7 else if l.faulted then 3 else if l.halted then 2 else 0) (if l.unpaired then 0 else l.ended))) ∧
  (∀ (k : Nat) (s : State) (d : Dec), s.decs[k]? = some d → storesDone s d.after = true → heldAt s d.part noSlot d.cl = false →
    bitAt (s.cluster d.cl).hand0 63 = false →
    exec (.successorDecrement k) s = .next (decrement { s with decs := s.decs.erase d } d.cl d.ofs 1)) ∧
  ∀ (s : State) (cl ofs n : Nat), n ≠ 0 → ofs % 8 = 0 →
    let t := decrement s cl ofs n
    (recState s cl ofs = 0 → t = s) ∧
    (recState s cl ofs ≠ 0 → recCnt s cl ofs = 0 → t = setRec s cl ofs 1 45 1 1) ∧
    (recState s cl ofs ≠ 0 → recCnt s cl ofs ≠ 0 →
      let u := setRec s cl ofs 1 0 16 (recCnt s cl ofs - n)
      (recState s cl ofs = 3 ∧ recCnt s cl ofs ≤ n → t = runTail u cl ofs) ∧ (¬(recState s cl ofs = 3 ∧ recCnt s cl ofs ≤ n) → t = u))

/-! ## Traps -/

/-- R54, R251, R355, R357, R358: a trap is delivered once nothing of its thread is outstanding, and the record receives the cause, the
state Trapped and where it stands; its handler entry is written when the entry at the tail of the queue is empty and the stores of its
thread are performed; `tset.cnt` at the home of a trapped record resumes it or ends it. -/
def Obligations.TrapsAreDeliveredAndReturnedFrom : Prop :=
  (∀ (g : Nat) (s : State) (t : PendTrap), (s.slot g).trap = some t → quiet s g = true → holdsAny s g = false →
    (∀ p ∈ (s.slot g).ports, p.2.outQ = []) →
    let x := s.slot g
    let cl := clusterOf g
    ∃ u, exec (.trapDelivery g) s = .next u ∧
      ((trapQueue s cl (partOf s g)).isSome = true →
        u.slot g = Slot.reset ∧ find u.contexts x.ctxPa = some x.ctx ∧
        (∃ e : Trapped, (u.part (partOf s g)).trapped = (s.part (partOf s g)).trapped ++ [e] ∧ e.cl = cl ∧ e.recOfs = x.recOfs ∧
          e.info = t.info ∧ e.dw0 / 2 ^ 56 = t.cause.code ∧ e.dw0 / 2 ^ 36 % 2 ^ 16 = t.j % 2 ^ 16 ∧ e.dw0 / 2 ^ 24 % 2 ^ 12 = t.ofs % 2 ^ 12 ∧
          e.dw0 % 2 ^ 24 = x.blk % 2 ^ 24 ∧ e.dw0.testBit 55 = t.deferred ∧ e.dw0.testBit 54 = t.rv ∧
          e.dw0.testBit 53 = (x.status == .handover) ∧ e.dw0.testBit 52 = false) ∧
        (x.recOfs % 8 = 0 → s.sram.wf = true →
          let w := recDw u cl x.recOfs 0
          w / 2 ^ 56 % 2 ^ 8 = t.cause.code ∧ w / 2 ^ 40 % 16 = 4 ∧ w / 2 ^ 36 % 16 = x.lact % 16 ∧ w / 2 ^ 24 % 2 ^ 12 = t.ofs % 2 ^ 12 ∧
            w % 2 ^ 24 = x.blk % 2 ^ 24 ∧ w / 2 ^ 44 % 2 ^ 6 = recDw s cl x.recOfs 0 / 2 ^ 44 % 2 ^ 6 ∧ w / 2 ^ 50 % 2 ^ 6 = 0 ∧
            recDw u cl x.recOfs 3 = t.p0.toNat))) ∧
  (∀ (part cl : Nat) (s : State) (t : Trapped) (ts : List Trapped),
    let q := (s.part part).trapq
    let ofs := q / 2 ^ 5 % 2 ^ 16 * 32 + 32 * (q / 2 ^ 21 % 2 ^ 15)
    (s.part part).trapped = t :: ts →
    (trapQueue s t.cl part = none →
      exec (.handlerEntryWrite part) s = .next (abortRec (s.setPart part { s.part part with trapped := ts }) t.cl t.recOfs (hwid (128 * t.cl)))) ∧
    (trapQueue s t.cl part = some cl → sramFull s cl ofs = false → heldAt s part t.cl cl = false → storesDone s t.after = true → s.sram.wf = true →
      ∃ u, exec (.handlerEntryWrite part) s = .next u ∧ (u.part part).trapped = ts ∧ sramFull u cl ofs = true ∧
        sramRead u cl ofs 8 = t.dw0 % 2 ^ 64 ∧ sramRead u cl (ofs + 8) 8 = t.info % 2 ^ 64 ∧
        (u.part part).trapq / 2 ^ 21 % 2 ^ 15 = (q / 2 ^ 21 % 2 ^ 15 + 1) % ringSize (q / 2 ^ 59 % 2 ^ 4) 8 % 2 ^ 15) ∧
    (trapQueue s t.cl part = some cl → sramFull s cl ofs = true ∨ heldAt s part t.cl cl = true ∨ storesDone s t.after = false →
      exec (.handlerEntryWrite part) s = .next s)) ∧
  (∀ (rid cl ofs : Nat) (s : State) (r : Request), AtBank s rid r cl ofs →
    let x := s.slot r.slot
    (∀ n, r.op = .dec n → exec (.sramRequest rid) s = .next (dropReq (decrement s cl ofs n) r)) ∧
    (r.op = .tget → exec (.sramRequest rid) s = .next (reply s r (RegVal.ofNat
      (recDw s cl ofs 0 % 2 ^ 24 * 2 ^ 24 + recPrio s cl ofs * 2 ^ 20 + recState s cl ofs * 2 ^ 16 + recCnt s cl ofs)) 0)) ∧
    (∀ d p1 sc u v, r.op = .spawn d p1 sc → owned s cl = true → spawnAt s r.slot cl d.toNat p1 sc = some (u, v) →
      exec (.sramRequest rid) s = .next (reply u r v 0)) ∧
    ∀ b, r.op = .tset b →
      let n := b.toNat % 2 ^ 16
      let st := recState s cl ofs
      let counted := setRec s cl ofs 1 0 16 n
      let after := fun (t : State) => exec (.sramRequest rid) s = .next (dropReq t r)
      (st = 0 → after s) ∧
      (st = 4 → x.prv = 0 → after s) ∧
      (st = 4 → x.prv ≠ 0 → b.getLsbD 16 = true → after (abortRec s cl ofs (hwid r.slot))) ∧
      (st = 4 → x.prv ≠ 0 → b.getLsbD 16 = false → after (resumeRec s cl ofs n)) ∧
      (st = 3 → after (if n = 0 then runTail counted cl ofs else counted)) ∧
      (st ≠ 0 → st ≠ 3 → st ≠ 4 → after counted)) ∧
  ∀ (s : State) (cl ofs n : Nat), n < 2 ^ 16 → ofs % 64 = 0 → (∀ o ∈ (s.cluster cl).run, o % 64 = 0) → s.sram.wf = true →
    let t := resumeRec s cl ofs n
    recDw t cl ofs 0 / 2 ^ 56 % 2 ^ 8 = 0 ∧ recCnt t cl ofs = n ∧ recState t cl ofs = (if n = 0 then 1 else 3) ∧
      recDw t cl ofs 0 % 2 ^ 40 = recDw s cl ofs 0 % 2 ^ 40 ∧ recDw t cl ofs 3 = recDw s cl ofs 3

/-! ## Global SRAM -/

/-- R50, R71, R75, R81, R82, R102, R203-R209: what a load, a store, an atomic and a full/empty access do at the bank: their result, the
bytes and bits that they change, and that every other byte stays; how waiting accesses are re-checked, of which one past its limit is no
waiter any more by the model's choice (log 25); and how a result reaches its register, that of a special function after those of the
accesses issued before it (R197). -/
def Obligations.SramAccessResults : Prop :=
  let gone := fun (t : State) (r : Request) => ∀ q ∈ t.net, q.id ≠ r.id
  let quietTrace := fun (s : State) (r : Request) (cl : Nat) => clusterOf r.slot = cl ∨ bitAt (s.cluster cl).trace 63 = false
  let others := fun (s t : State) (cl ofs n : Nat) =>
    ∀ a, a < sramKey cl ofs ∨ sramKey cl ofs + n ≤ a → sramByte t a = sramByte s a
  (∀ (rid cl ofs : Nat) (s : State) (r : Request), AtBank s rid r cl ofs →
    (∀ k lc, r.op = .ld k lc → ∃ t, exec (.sramRequest rid) s = .next t ∧ t.sram = s.sram ∧
      Answers s t r { bits := BitVec.ofNat 128 (sramRead s cl ofs r.len), tag := k == 5 && lc && s.sram.tagAt (sramKey cl ofs), psn := false } 0) ∧
    (∀ v, r.op = .st v none → s.sram.wf = true → quietTrace s r cl → ∃ t, exec (.sramRequest rid) s = .next t ∧ gone t r ∧
      sramRead t cl ofs r.len = v % 2 ^ (8 * r.len) ∧ others s t cl ofs r.len ∧
      ∀ a, sramKey cl ofs ≤ a → a < sramKey cl ofs + r.len → t.sram.tagAt a = false) ∧
    (∀ v b, r.op = .st v (some b) → s.sram.wf = true → r.len = 16 → ofs % 16 = 0 → quietTrace s r cl → ∃ t, exec (.sramRequest rid) s = .next t ∧
      gone t r ∧ sramRead t cl ofs 16 = v % 2 ^ 128 ∧ others s t cl ofs 16 ∧ t.sram.tagAt (sramKey cl ofs) = b) ∧
    (∀ fn b c, r.op = .amo fn b c → fn ≤ 10 → b < 2 ^ (8 * r.len) → s.sram.wf = true → quietTrace s r cl →
      let n := 8 * r.len
      let old := sramRead s cl ofs r.len
      ∃ t, exec (.sramRequest rid) s = .next t ∧ sramRead t cl ofs r.len = amoLeaves fn n old b c % 2 ^ n ∧ others s t cl ofs r.len ∧
        Answers s t r (RegVal.ofNat old) (if fn = 10 then (addF32 old b).2 else 0)) ∧
    ∀ fn v, r.op = .fe fn v → fn ≤ 6 → r.len = 8 → ofs % 8 = 0 → s.sram.wf = true → quietTrace s r cl →
      let full := sramFull s cl ofs
      let ready := ((fn = 0 ∨ fn = 1) ∧ full = true) ∨ (fn = 2 ∧ full = false) ∨ 3 ≤ fn
      (ready → ∃ t, exec (.sramRequest rid) s = .next t ∧
        sramFull t cl ofs = (if fn = 0 ∨ fn = 5 then false else if fn = 2 ∨ fn = 3 ∨ fn = 6 then true else full) ∧
        sramRead t cl ofs 8 = (if fn = 2 ∨ fn = 3 then v % 2 ^ 64 else sramRead s cl ofs 8) ∧ others s t cl ofs 8 ∧
        (if fn = 0 ∨ fn = 1 then Answers s t r (RegVal.ofNat (sramRead s cl ofs 8)) 0
         else if fn = 4 then Answers s t r (RegVal.ofNat (if full then 1 else 0)) 0 else gone t r)) ∧
      (¬ready → alone s r = false → exec (.sramRequest rid) s = .next s) ∧
      (¬ready → alone s r = true → ∃ t, exec (.sramRequest rid) s = .next t ∧ t.sram = s.sram ∧
        ∃ q ∈ t.net, q.id = r.id ∧ q.phase = if (waiters s cl).length < 1024 then .word else .noEntry)) ∧
  (∀ (g k : Nat) (s : State) (r : Result), (s.slot g).results[k]? = some r → ¬(r.cls = none ∧ r.rid ≠ 0) →
    let later := fun (n : Nat) => (∀ q ∈ (s.slot g).results.take k, q.dst ≠ r.dst) ∧
      (∀ q ∈ (s.slot g).results.drop (k + 1), q.dst = r.dst → q.cls ≠ none → n ≤ q.rid) ∧
      (∀ q ∈ s.net, q.slot = g → q.id < n → q.op.returns = true → q.dst ≠ r.dst) ∧ ∀ c ∈ s.commits, c.slot = g → c.rid < n → c.dst ≠ r.dst
    (∀ n, r.after = some n → r.dst ≠ 0 → ¬later n → exec (.resultReturn g k) s = .next s) ∧
    ((∀ n, r.after = some n → r.dst ≠ 0 → later n) →
      ∃ t, exec (.resultReturn g k) s = .next t ∧ (t.slot g).results = (s.slot g).results.eraseIdx k ∧
        (t.slot g).ctx.stat = (s.slot g).ctx.stat ||| BitVec.ofNat 64 (r.flags % 32) ∧
        ∀ i < 48, 1 ≤ i → (t.slot g).ctx.reg i = if i = r.dst then r.val else (s.slot g).ctx.reg i)) ∧
  (∀ (cl w n : Nat) (ws : List (Nat × Nat)) (s : State), (s.cluster cl).rechecks = (w, n) :: ws →
    let u := s.onCluster cl fun c => { c with rechecks := ws }
    exec (.waitListRecheck cl) s = .next (recheckAll u cl w ((waiters u cl).filter fun r => decide (r.since < n) &&
      match r.tgt with | .sram _ o => o % 2 ^ 21 / 8 * 8 == w % 2 ^ 21 | _ => false))) ∧
  (∀ (s : State) (cl w fn v : Nat) (r : Request) (rs : List Request), r.op = .fe fn v →
    let ready := (fn = 0 ∨ fn = 1 → sramFull s cl w = true) ∧ (fn = 2 → sramFull s cl w = false)
    let past := (s.slot r.slot).ctx.felim ≠ 0 ∧ (s.slot r.slot).ctx.felim < (s.slot r.slot).recheck
    r.phase = .word →
    (past → recheckAll s cl w (r :: rs) = recheckAll s cl w rs) ∧
    (¬past → ¬ready → recheckAll s cl w (r :: rs) = recheckAll (s.onSlot r.slot fun x => { x with recheck := x.recheck + 1 }) cl w rs) ∧
    (¬past → ready → recheckAll s cl w (r :: rs) =
      let t := fePerform s r fn v cl w
      if sramFull t cl w = sramFull s cl w then recheckAll t cl w rs else t)) ∧
  (∀ (rid : Nat) (s : State) (r : Request), s.net.find? (fun r => r.id == rid && pastLimit s r) = some r →
    exec (.felimitTrap rid) s = .next (failReq s r .felimit r.ea)) ∧
  ∀ (cl : Nat) (s : State) (r : Request), heldAccess s cl = some r → (waiters s cl).length < 1024 →
    exec (.waitListEntryFreed cl) s = .next { s with net := (s.net.filter fun q => q.id != r.id) ++ [{ r with phase := .sent }] }

/-! ## Device memory -/

/-- R91-R93, R371, R373, R374, R381, R384: what a load, a drained line and an atomic do at the base die, where a line is stored whole
under the key of the tenant that writes it and a read deciphers it under its own; how a difference reaches the parity unit; how a unit is
rebuilt or its lines are lost, and a stale parity unit made afresh. -/
def Obligations.DeviceAccessResults : Prop :=
  let keyed := fun (s : State) (ten : Nat) => ten ≠ noTenant ∧ look 0 s.keys ten ≠ 0
  let diffLeft := fun (s t : State) (pa id : Nat) =>
    if s.lost.contains (parityStack pa) then t.diffs = s.diffs
    else ∃ d, t.diffs = s.diffs ++ [d] ∧ d.id = id ∧ d.pa = pa ∧ d.poor = false ∧
      ∀ i < 64, (find d.bytes i).getD 0 = look 0 s.dev.bytes (pa + i) ^^^ look 0 t.dev.bytes (pa + i)
  let elsewhere := fun (s t : State) (line : Nat) =>
    ∀ a, a / 64 ≠ line → look 0 t.dev.bytes a = look 0 s.dev.bytes a ∧ look 0 t.lineKey (a / 64) = look 0 s.lineKey (a / 64)
  (∀ (rid pa : Nat) (s : State) (r : Request), AtDie s rid r pa → 0 < r.len → r.len ≤ 16 → pa % 64 + r.len ≤ 64 →
    (∀ k lc, r.op = .ld k lc → ∃ t v, exec (.deviceRead rid) s = .next t ∧ t.dev = s.dev ∧ Answers s t r v 0 ∧ v.psn = false ∧
      v.tag = (k == 5 && lc && r.otag.getD (look false s.dev.tags (pa / 16))) ∧
      ∀ i < 16, v.bits.toNat / 256 ^ i % 256 = if i < r.len then ((find r.own i).getD (keyedByte s r.ten (pa + i))).toNat else 0) ∧
    (∀ fn b c, r.op = .amo fn b c → fn ≤ 10 → b < 2 ^ (8 * r.len) → s.dev.wf = true → canonical 0 s.lineKey = true → keyed s r.ten →
      s.stale.contains (stripeOf pa) = false →
      let old := devRead s r.ten pa r.len
      ∃ t, exec (.deviceAtomic rid) s = .next t ∧ devRead t r.ten pa r.len = amoLeaves fn (8 * r.len) old b c % 2 ^ (8 * r.len) ∧
        (∀ a, a / 64 = pa / 64 → a < pa ∨ pa + r.len ≤ a → keyedByte t r.ten a = keyedByte s r.ten a) ∧ elsewhere s t (pa / 64) ∧
        Answers s t r (RegVal.ofNat old) (if fn = 10 then (addF32 old b).2 else 0))) ∧
  (∀ (k : Nat) (s : State) (d : DevStore), s.stores[k]? = some d → storeReady s d = true → d.grd = [] → toPeer d.line = false → s.dev.wf = true →
    canonical 0 s.lineKey = true → rising 0 d.bytes = true → (∀ kb ∈ d.bytes, kb.1 < 64) → keyed s d.ten → LineClean s d.line →
      ∃ t, exec (.deviceStore k) s = .next t ∧ t.stores = s.stores.erase d ∧
        (∀ i < 64, keyedByte t d.ten (64 * d.line + i) = (find d.bytes i).getD (keyedByte s d.ten (64 * d.line + i))) ∧
        look 0 t.lineKey d.line = look 0 s.keys d.ten ∧ elsewhere s t d.line ∧ diffLeft s t (64 * d.line) d.id) ∧
  (∀ (k : Nat) (s : State) (d : ParityDiff), s.diffs[k]? = some d → canonical 0 s.parity = true → canonical 0 s.parSyn = true →
    rising 0 d.bytes = true →
    let words := ∀ kb ∈ d.bytes, synKind (look 0 s.parSyn ((localAddr d.pa + kb.1) / 8)) ≠ .bad
    let reads := fun (u : State) (a : Nat) => correctedByte u.parity u.parSyn a
    (d.poor = false → words → ∃ t, exec (.parityDifference k) s = .next t ∧ t.diffs = s.diffs.erase d ∧ t.stale = s.stale ∧
      (∀ i, reads t (localAddr d.pa + i) = reads s (localAddr d.pa + i) ^^^ (find d.bytes i).getD 0) ∧
      ∀ a < localAddr d.pa, reads t a = reads s a) ∧
    (d.poor = true ∨ ¬words → ∃ t, exec (.parityDifference k) s = .next t ∧ t.diffs = s.diffs.erase d ∧ t.parity = s.parity ∧
      stripeOf d.pa ∈ t.stale)) ∧
  (∀ (k w : Nat) (s : State), s.rebuilds[k]? = some w → s.stale.contains (stripeOf (8 * w)) = true →
    exec (.reconstruction k) s = .next s) ∧
  (∀ (k w : Nat) (s : State), s.rebuilds[k]? = some w → s.stale.contains (stripeOf (8 * w)) = false →
    s.lost.contains (dataStack (8 * w)) = false → synKind (look 0 s.dev.syn w) = .bad → s.dev.wf = true → canonical 0 s.parity = true →
    canonical 0 s.parSyn = true →
    ∃ t, exec (.reconstruction k) s = .next t ∧ t.rebuilds = s.rebuilds.erase w ∧
      ∀ v ∈ unitWords w,
        (synKind (look 0 s.dev.syn v) ≠ .poison → canRebuild s v = true → look 0 t.dev.syn v = 0 ∧ ∀ i < 8, look 0 t.dev.bytes (8 * v + i) =
          ((List.range 15).filter (· != unitOf (8 * v + i))).foldl (fun x j => x ^^^ unitByte s (stripeOf (8 * v + i)) j ((8 * v + i) % 512))
            (parityByte s (8 * v + i))) ∧
        (synKind (look 0 s.dev.syn v) = .bad → canRebuild s v = false → look 0 t.dev.syn v = 0xFF ∧
          ∃ ia, (3, 64 * (v / 8) % 2 ^ 64, ia) ∈ t.hawk.evHeld)) ∧
  ∀ (k stripe : Nat) (s : State), s.stale[k]? = some stripe → s.diffs = [] → s.dev.wf = true → canonical 0 s.parity = true →
    canonical 0 s.parSyn = true →
    (∀ i < 960, synKind (look 0 s.dev.syn (stripe * 960 + i)) ≠ .bad ∧ s.lost.contains (dataStack (8 * (stripe * 960 + i))) = false) →
      ∃ t, exec (.parityResync k) s = .next t ∧ t.stale = s.stale.erase stripe ∧
        (∀ a, correctedByte t.dev.bytes t.dev.syn a = correctedByte s.dev.bytes s.dev.syn a) ∧
        (∀ i < 512, look 0 t.parity (stripe * 512 + i) = (List.range 15).foldl (fun x j => x ^^^ unitByte s stripe j i) 0) ∧
        ∀ a, a < stripe * 512 ∨ stripe * 512 + 512 ≤ a → look 0 t.parity a = look 0 s.parity a

/-! ## Order between agents -/

/-- R52, R62, R65, R66, R132, R133, R137, R261-R263: markers and their acknowledgements, the operations of a sweep in the order (core,
slot), special registers written at its close, commits, which each cluster applies in a moment of its own, invalidations and lines of the
match cache. Which line leaves a full match cache (log 75) and what a `tlbi` awaits (log 39) are the model's choices. -/
def Obligations.MarkersSweepsAndInvalidations : Prop :=
  (∀ (g plane stack : Nat) (s : State) (f : FenceWait), (s.slot g).fence = some f →
    let with_ := fun (m a : List (Nat × Nat)) => s.onSlot g fun x => { x with fence := some { f with markers := m, acks := a } }
    ((plane, stack) ∈ f.markers → markerReady s (dieOf (clusterOf g)) f.since plane stack = true →
      exec (.fenceMarker g plane stack) s = .next (with_ (f.markers.erase (plane, stack)) (f.acks ++ [(plane, stack)]))) ∧
    exec (.markerAck g plane stack) s = .next (with_ f.markers (f.acks.erase (plane, stack)))) ∧
  (∀ s : State,
    exec .sweepClose s = .next { (heldScOps s).foldl performSc s with sweep := (s.sweep + 1) % 2 ^ 32 } ∧
    (heldScOps s).Perm (s.net.filter fun r => r.phase == .sent && r.cls == .sc) ∧ (heldScOps s).Pairwise fun a b => a.slot ≤ b.slot) ∧
  (∀ (s : State) (r : Request) (spr : Nat) (v : W64), r.op = .mts spr v →
    let t := performSc s r
    let p := partOf s r.slot
    let n := v.toNat
    (∀ q ∈ t.net, q.id ≠ r.id) ∧
    (spr = 0x016 → (t.part p).tgrant = n / 4 % 2 ^ 62 * 4) ∧
    (spr = 0x100 → (t.part p).asid = n % 2 ^ 16) ∧
    (spr = 0x101 → (t.part p).s1root = n / 2 ^ 12 % 2 ^ 45 * 2 ^ 12) ∧
    (spr = 0x102 → (t.part p).s2root = n / 2 ^ 12 % 2 ^ 28 * 2 ^ 12) ∧
    (spr = 0x103 → (t.part p).trapq = n / 2 ^ 63 % 2 * 2 ^ 63 + n / 2 ^ 59 % 16 * 2 ^ 59 + n / 2 ^ 49 % 2 ^ 10 * 2 ^ 49 + n / 2 ^ 5 % 2 ^ 16 * 2 ^ 5
      + (s.part p).trapq / 2 ^ 21 % 2 ^ 15 * 2 ^ 21) ∧
    (spr = 0x104 → (t.cluster (clusterOf r.slot)).retryq = n / 2 ^ 63 % 2 * 2 ^ 63 + n / 2 ^ 59 % 16 * 2 ^ 59 + n / 2 ^ 6 % 2 ^ 15 * 2 ^ 6
      + (s.cluster (clusterOf r.slot)).retryq / 2 ^ 21 % 2 ^ 15 * 2 ^ 21) ∧
    (spr = 0x105 → (t.part p).cmap = n / 2 ^ 39 % 2 ^ 9 * 2 ^ 39 + n / 2 ^ 30 % 2 ^ 9 * 2 ^ 30 + n / 2 ^ 15 % 2 ^ 15 * 2 ^ 15 ∧
      ∀ cl < 384, look [] (t.cluster cl).maps p = (List.range (n / 2 ^ 39 % 2 ^ 9 + 1)).map fun i =>
        sramRead s (n / 2 ^ 30 % 2 ^ 9) (n / 2 ^ 15 % 2 ^ 15 * 64 + 2 * i) 2)) ∧
  (∀ (k : Nat) (s : State) (c : Commit),
    let i := k % s.commits.length
    let v := devSettle { s with commits := s.commits.erase c } (forwardPa { s with commits := s.commits.erase c } c.hdr) 8
    let waits := ∃ gx ∈ s.slots, ∃ w b, gx.2.pin = some (c.hdr, w, b) ∧ w ≠ c.ver
    s.commits[i]? = some c →
    (∀ cl, c.todo[k / s.commits.length]? = some cl →
      ((∃ d ∈ s.commits.take i, cl ∈ d.todo) → exec (.commitComplete k) s = .next s) ∧
      ((∀ d ∈ s.commits.take i, cl ∉ d.todo) → exec (.commitComplete k) s =
        .next { learnVer s cl c.hdr c.ver c.act with commits := s.commits.set i { c with todo := c.todo.erase cl } })) ∧
    (c.todo = [] →
      (waits → exec (.commitComplete k) s = .next s) ∧
      (¬waits → exec (.commitComplete k) s = .next (pushResult
        (devWrite v c.ten c.hdr (bytesOf 8 (setFld (tableDw0 (devRead v c.ten c.hdr 8)) 29 1 0)) false) c.slot
        { dst := c.dst, val := RegVal.ofNat c.ver, flags := 0, cls := some .sc, rid := c.rid, after := none })))) ∧
  (∀ (k : Nat) (s : State) (v : Inval), s.invals[k]? = some v →
    let earlier := fun (g id : Nat) => partOf s g = v.part ∧ id < v.since
    let busy := (∃ r ∈ s.net, earlier r.slot r.id ∧ ((r.phase = .sent ∧ ∃ pa, r.tgt = .dev pa) ∨ (r.phase = .walk ∧ r.noTlb = true))) ∨
      (∃ d ∈ s.stores, earlier d.slot d.id ∧ toPeer d.line = false) ∨ (∃ d ∈ s.diffs, earlier d.slot d.id) ∨
      (∃ c ∈ s.commits, earlier c.slot c.rid) ∨ (∃ gx ∈ s.slots, ∃ p ∈ gx.2.ports, ∃ e ∈ p.2.outQ, e.via.any v.covers = true) ∨ ∃ w ∈ s.walks, w.isEng = false ∧ earlier w.owner w.id ∧ w.phase = .walk ∧ w.noTlb = true
    (busy → exec (.tlbiComplete k) s = .next s) ∧
    (¬busy → exec (.tlbiComplete k) s = .next { s with
      invals := s.invals.erase v
      walks := s.walks.filter fun w => !(w.noTlb && decide (w.id < v.since) && w.got.any v.covers) })) ∧
  ∀ (g : Nat) (s u : State) (xs : List MByte),
    let cl := clusterOf g
    let b : Sender := { threadSender s g with own := false }
    let joins := fun (t : State) (l : MatchLine) => exec (.matchCacheFill g) s = .next (t.onCluster cl fun c =>
      if l.idx = 0 then { c with hdrLines := c.hdrLines ++ [l] }
      else { c with lines := (c.lines ++ [l]).drop (c.lines.length + 1 - 1024) })
    walking s g = false →
    (∀ hdr va, (s.slot g).status = .parked (.table hdr va) → find (s.cluster cl).known hdr = none → readSpan s b va 64 = (.ok xs, u) →
      let ver := numOf xs / 2 ^ 32 % 2 ^ 32
      joins (learnVer u cl hdr ver (numOf xs % 2)) { hdr := hdr, ver := ver, idx := 0, ten := b.ten, data := numOf xs, psn := anyPsn xs }) ∧
    ∀ hdr ver idx ten va len, (s.slot g).status = .parked (.tableLine hdr ver (idx + 1) ten va len) →
      (∀ l ∈ (s.cluster cl).lines, ¬(l.hdr = hdr ∧ l.ver = ver ∧ l.idx = idx + 1 ∧ l.ten = ten)) → readSpan s b va len = (.ok xs, u) →
        joins u { hdr := hdr, ver := ver, idx := idx + 1, ten := ten, data := numOf xs, psn := anyPsn xs }

/-- R76-R80, R262, R352, R359, R360: a walk that has a page walker finishes: it gives a translation that holds the address and grants the
access, installs it in TLBs of their sizes, or uses it for this access alone where a `tlbi` overtook it, and lets the access go on; a walk
that fails parks its access for the retry ring, or traps ACCESS where the ring is not valid; an entry is written at the head of the ring
when it is empty. -/
def Obligations.WalksAndRetryEntries : Prop :=
  (∀ (s : State) (part asid va need : Nat) (user : Bool) (e : TlbEntry), need < 8 → walkTables s part asid va need user = .inr e →
    e.part = part ∧ e.asid = asid ∧ (∃ k, 12 ≤ k ∧ e.size = 2 ^ k) ∧ e.va ≤ va ∧ va < e.va + e.size ∧ e.va % e.size = 0 ∧
      e.perm &&& need = need ∧ (user = true → bitAt e.perm 3 = true) ∧ e.pa + (va - e.va) < 720 * 2 ^ 30) ∧
  (∀ (k : Nat) (s : State) (r : Request), (walkingReqs s)[k]? = some r →
    let b := threadSender s r.slot
    let need := reqNeed r.op
    let u := settleTables s b.part r.ea
    let res : WalkFault ⊕ TlbEntry := match tlbHit u b.cl b.core b.part b.asid r.ea need b.user with
      | some e => .inr e
      | none => walkTables u b.part b.asid r.ea need b.user
    (walkReady s k = false → exec (.pageWalkComplete k) s = .next s) ∧
    (walkReady s k = true →
      (∀ e, res = .inr e →
        (r.noTlb = false → exec (.pageWalkComplete k) s = .next (resumeReq (installTlb u b.cl b.core need e) r)) ∧
        (r.noTlb = true → exec (.pageWalkComplete k) s = .next (resumeAt u r (.dev (e.at r.ea)) (some e)))) ∧
      ∀ f, res = .inl f →
        (ringValid u b.cl = false → exec (.pageWalkComplete k) s = .next (failParked u r .access 0)) ∧
        (ringValid u b.cl = true → exec (.pageWalkComplete k) s = .next (State.bump (parkRetry { u with net := u.net.map fun p =>
          if p.id = r.id then { r with phase := .held, fault := f.code, ia := f.ia, since := u.nextId } else p } r.slot r.ofs))))) ∧
  (∀ (n : Nat) (l : List TlbEntry) (e : TlbEntry), l.length ≤ n → 0 < n →
    (joinTlb n l e).length ≤ n ∧ e ∈ joinTlb n l e ∧ ∀ x ∈ joinTlb n l e, x = e ∨ x ∈ l) ∧
  (∀ (s : State) (r : Request) (t : Target) (e : Option TlbEntry), locate s r.slot r.ea r.reach (reqNeed r.op) = some (.at_ t e) →
    ((dispatchReq (dropReq s r) r t e).slot r.slot).status = .ready → resumeReq s r = dispatchReq (dropReq s r) r t e) ∧
  (∀ (cl : Nat) (s : State) (r : Request), oldestHeld s cl = (some r, none) →
    let q := (s.cluster cl).retryq
    let ofs := q / 2 ^ 6 % 2 ^ 15 * 64 + 64 * (q / 2 ^ 21 % 2 ^ 15)
    (ringValid s cl = false → exec (.retryEntryWrite cl) s = .next (failParked s r .access 0)) ∧
    (ringValid s cl = true → clusterOf r.slot = cl → bitAt (sramRead s cl ofs 8) 63 = true → exec (.retryEntryWrite cl) s = .next s) ∧
    (ringValid s cl = true → clusterOf r.slot = cl → bitAt (sramRead s cl ofs 8) 63 = false → s.sram.wf = true →
      ∃ t, exec (.retryEntryWrite cl) s = .next t ∧ sramFull t cl ofs = true ∧
        (let w := sramRead t cl ofs 8
         w / 2 ^ 62 = 2 ∧ w / 2 ^ 60 % 4 = reqKind r.op ∧ w / 2 ^ 36 % 2 ^ 12 = (s.slot r.slot).ten % 2 ^ 12 ∧
           w / 2 ^ 18 % 2 ^ 18 = hwid r.slot % 2 ^ 18 ∧ w / 2 ^ 12 % 2 ^ 6 = r.dst % 2 ^ 6 ∧ w % 2 ^ 12 = r.ofs % 2 ^ 12) ∧
        sramRead t cl (ofs + 8) 8 = r.ea % 2 ^ 57 ∧ sramRead t cl (ofs + 16) 8 = (partOf s r.slot * 2 ^ 16 + asidOf s (partOf s r.slot)) % 2 ^ 64 ∧
        sramRead t cl (ofs + 24) 8 = r.ia % 2 ^ 64 ∧ sramRead t cl (ofs + 32) 8 = (reqData r.op).1 % 2 ^ 64 ∧
        (t.cluster cl).retryq / 2 ^ 21 % 2 ^ 15 = (q / 2 ^ 21 % 2 ^ 15 + 1) % ringSize (q / 2 ^ 59 % 2 ^ 4) 8 % 2 ^ 15 ∧
        (∀ p ∈ s.net, p.id = r.id → { r with phase := .ring (ofs % 2 ^ 21) } ∈ t.net)))

/-- R109, R125, R202, R214-R217, R223, R224, R238: elements of streams, appended ones in any order that their bytes allow, a block in
accesses of 16 bytes; the words that a sequencer sends; and the blocks of an `oload`, which land one by one. -/
def Obligations.StreamsSequencersAndLoads : Prop :=
  (∀ (g p k : Nat) (s : State), p < 64 →
    let q := (s.slot g).port p
    let arrives := exec (.streamElementArrival g (p + 64 * k)) s
    (q.outQ ≠ [] → mayWrite s g p k = false → arrives = .next s) ∧
    (∀ e, q.outQ[k]? = some e → mayWrite s g p k = true →
      let left := fun l => setPort s g p { q with outQ := l }
      (e.len ≤ 16 ∨ elemRefused s g e = true → arrives = .next (writeElem (left (q.outQ.eraseIdx k)) g e)) ∧
      (16 < e.len → elemRefused s g e = false → arrives = .next (writeElem (left (q.outQ.set k
          { e with tgt := e.tgt.plus 16, ea := e.ea + 16, len := e.len - 16, data := e.data / 2 ^ 128 })) g
          { e with len := 16, data := e.data % 2 ^ 128, grd := [] }))) ∧
    (q.outQ = [] → mayFetch s g p = true →
      let ea := q.addrOf q.nextIn
      let had := q.part.length
      let n := min 16 (q.size - had)
      let gets := fun (u : State) (f : Fetched) => arrives = .next (setPort u g p
        { (u.slot g).port p with
          fetched := ((u.slot g).port p).fetched ++ [f], part := [], nextIn := ((u.slot g).port p).nextIn + 1 })
      (∀ c, capCheck q.cap ea q.size permR q.size = some c → gets s { data := 0, psn := false, cause := some c }) ∧
      (capCheck q.cap ea q.size permR q.size = none →
        (∀ xs u, readSpan s (threadSender s g) (ea + had) n = (.ok xs, u) →
          let r := (u.slot g).port p
          let ys := r.part ++ xs
          (ys.length < r.size → arrives = .next (setPort u g p { r with part := ys })) ∧
          (r.size ≤ ys.length → gets u { data := numOf ys, psn := anyPsn ys, cause := none })) ∧
        ∀ u, readSpan s (threadSender s g) (ea + had) n = (.fail, u) → gets u { data := 0, psn := false, cause := some .access }))) ∧
  (∀ (core : Nat) (s : State) (b : SeqBody), (s.core core).seq = some b → canSend s core = true →
    (∀ i u t, seqWord b s = .ok i u → sendOp u b i = .ok () t →
      exec (.sequencerSend core) s = .next (t.onCore core fun c => { c with seq := nextSend b })) ∧
    (∀ i u c n, seqWord b s = .ok i u → sendOp u b i = .trap c n →
      exec (.sequencerSend core) s = .next (seqFail s b.slot c (b.rep.ofs + 1 + b.word) b.rep n))) ∧
  (∀ b : SeqBody, nextSend b =
    if b.word + 1 < b.rep.len then some { b with word := b.word + 1 }
    else if b.rep.j + 1 < b.rep.count then some { b with word := 0, rep := { b.rep with j := b.rep.j + 1 } } else none) ∧
  ∀ (core k i : Nat) (s u : State) (j : OloadJob) (xs : List MByte),
    let n := (s.core core).oloads.length
    (s.core core).oloads[k % n]? = some j → (j.reading s)[k / n]? = some i → oloadReady s j i = true →
    j.res < 16 → i < 256 → canonical 0 (u.core core).opmem = true → rising 0 (u.core core).hdrs = true →
    readSpan s (opSender s j.slot j.since) (j.cap.addr + 64 * i) 64 = (.ok xs, u) →
      let left := j.left.erase i
      let bad := j.psn || anyPsn xs
      ∃ t, exec (.oloadComplete core k) s = .next t ∧
        (left ≠ [] → (t.core core).hdrs = (u.core core).hdrs ∧
          (t.core core).oloads = (u.core core).oloads.map fun o => if o = j then { j with left := left, psn := bad } else o) ∧
        (left = [] → (t.core core).oloads = (u.core core).oloads.erase j) ∧
        (left ≠ [] ∨ bad = false → ∀ a < 64, look 0 (t.core core).opmem (16384 * j.res + 64 * i + a) = (xs.getD a (0, false)).1) ∧
        (left = [] → bad = false →
          let h := ((t.core core).hdr j.res).toNat
          let sva := if isGlobal j.cap.addr then j.desc.toNat / 2 ^ 64 % 2 ^ 57 else j.cap.addr % 2 ^ 57
          h.testBit 63 = true ∧ h / 2 ^ 60 % 8 = j.desc.toNat / 2 ^ 18 % 8 ∧ (t.core core).hdr j.res = makeHdr sva true
            (j.desc.toNat / 2 ^ 18 % 8) (j.desc.toNat % 256) (j.desc.toNat / 2 ^ 8 % 4) (j.desc.toNat / 2 ^ 10 % 256)) ∧
        (left = [] → bad = true → (t.core core).hdrs = (u.core core).hdrs ∧ (t.slot j.slot).deferred.isSome = true)

/-! ## The control window, rotation and handover -/

/-- R296, R298, R299, R303, R304, R306, R389, R396: a store to a control word takes its fields when the writer may store it and its limits
hold, and otherwise changes nothing. -/
def Obligations.ControlWordsAreStored : Prop :=
  ∀ (cl val prv part : Nat) (s : State),
    let c := s.cluster cl
    let mine := 2 ≤ prv ∨ (prv = 1 ∧ part = ownerOf s cl)
    (∀ q < 16,
      let old := look 0 c.queues q
      let free := fun (x : Nat) => masked x [(59, 4), (57, 2), (54, 2), (42, 12), (34, 8), (7, 14), (112, 6)]
      let en := bitAt val 63 = true
      let legal := mine ∧ (en → 1 ≤ val / 2 ^ 59 % 16 ∧ val / 2 ^ 59 % 16 ≤ 8) ∧ val / 2 ^ 57 % 4 ≤ prv ∧ val / 2 ^ 57 % 4 ≠ 3 ∧
        val / 2 ^ 34 % 2 ^ 8 = ownerOf s cl ∧ (bitAt old 63 = true → free val = free old)
      (legal → ∃ t, exec (.queueWordStore cl q val prv part) s = .next t ∧
        (∀ p, p ≠ q → look 0 (t.cluster cl).queues p = look 0 c.queues p) ∧
        look 0 (t.cluster cl).queues q =
          masked val [(63, 1), (59, 4), (57, 2), (56, 1), (54, 2), (42, 12), (34, 8), (7, 14), (112, 6), (111, 1), (110, 1)]
            + (if bitAt val 63 ∧ bitAt old 63 = false then 0 else old / 2 ^ 120 % 2 ^ 8) * 2 ^ 120) ∧
      (¬legal → exec (.queueWordStore cl q val prv part) s = .next s)) ∧
    (let idle := mine ∧ c.usedRecs = [] ∧ c.usedCtx = []
     (idle → val / 2 ^ 6 % 2 ^ 15 + val / 2 ^ 32 % 2 ^ 15 + 1 ≤ 2 ^ 15 → exec (.poolWordStore cl 0x518 val prv part) s =
       .next (s.onCluster cl fun c => { c with recPool := masked val [(63, 1), (32, 15), (6, 15)] })) ∧
     (idle → 1024 * (val / 2 ^ 10 % 2 ^ 30 + val / 2 ^ 40 % 2 ^ 23 + 1) ≤ devLimit → exec (.poolWordStore cl 0x520 val prv part) s =
       .next (s.onCluster cl fun c => { c with ctxPool := masked val [(63, 1), (40, 23), (10, 30)] })) ∧
     (¬idle → ∀ ofs, exec (.poolWordStore cl ofs val prv part) s = .next s)) ∧
    (∀ n < 8,
      let d := s.die (dieOf cl)
      let old := look 0 d.cocoons n
      let new := masked val [(63, 1), (48, 8), (12, 4), (8, 4), (4, 3), (0, 3)]
      let legal := new / 2 ^ 8 % 16 ≤ new / 2 ^ 12 % 16 ∧ new % 8 ≤ new / 2 ^ 4 % 8 ∧ new / 2 ^ 12 % 16 ≤ 11 ∧
        (∀ k ∈ cocoonClusters (dieOf cl) new, owned s k = true ∧ ownerOf s k = new / 2 ^ 48 % 2 ^ 8) ∧
        ∀ kw ∈ d.cocoons, kw.1 ≠ n → bitAt kw.2 63 = true → cocoonsMeet kw.2 new = false
      (2 ≤ prv → legal → old / 2 ^ 61 % 4 = 0 → exec (.cocoonWordStore cl n val prv part) s =
        .next (s.setDie (dieOf cl) { d with cocoons := ins d.cocoons n (new + old / 2 ^ 40 % 2 ^ 8 * 2 ^ 40 + 0 * 2 ^ 61) })) ∧
      (prv = 0 ∨ ¬legal ∨ old / 2 ^ 61 % 4 = 1 → exec (.cocoonWordStore cl n val prv part) s = .next s)) ∧
    (let p := val % 2 ^ 9
     let far := fun (a b : Nat) => a + 2 ≤ b ∨ b + 2 ≤ a
     let legal := p < 384 ∧ dieOf p = dieOf cl ∧ owned s p = true ∧ ownerOf s p = ownerOf s cl ∧
       (far (p % 96 % 12) (cl % 96 % 12) ∨ far (p % 96 / 12) (cl % 96 / 12)) ∧ (cocoonOf s p).isSome = true ∧ (cocoonOf s cl).isSome = true
     (mine → (bitAt val 63 = true → legal) → exec (.pairWordStore cl val prv part) s =
       .next (s.onCluster cl fun c => { c with pairW := masked val [(63, 1), (0, 9)] })) ∧
     (¬mine ∨ (bitAt val 63 = true ∧ ¬legal) → exec (.pairWordStore cl val prv part) s = .next s)) ∧
    (∀ w ∈ ([(0x300, 1, fun c => { c with trace := masked val [(63, 1), (62, 1), (40, 4), (21, 15), (4, 17)] }),
             (0x400, 2, fun c => { c with perm := setFld c.perm 0 64 val }), (0x408, 2, fun c => { c with perm := setFld c.perm 64 64 val }),
             (0x410, 2, fun c => { c with perm := setFld c.perm 128 64 val }), (0x418, 2, fun c => { c with perm := setFld c.perm 192 64 val }),
             (0x420, 2, fun c => { c with perm := setFld c.perm 256 64 val }), (0x428, 2, fun c => { c with perm := setFld c.perm 320 64 val }),
             (0x510, 1, fun c => { c with saveBase := masked val [(63, 1), (12, 28)] }),
             (0x528, 1, fun c => { c with wvWord := masked val [(63, 1), (41, 9), (9, 12)] }),
             (0x548, 2, fun c => { c with hand1 := val % 2 ^ 64 }), (0x550, 2, fun c => { c with hand2 := val % 2 ^ 64 })] :
             List (Nat × Nat × (Cluster → Cluster))),
      ((if w.2.1 = 1 then mine else 2 ≤ prv) → exec (.controlWordWrite cl w.1 8 val prv part) s = .next (s.onCluster cl w.2.2)) ∧
      (¬(if w.2.1 = 1 then mine else 2 ≤ prv) → exec (.controlWordWrite cl w.1 8 val prv part) s = .next s)) ∧
    (2 ≤ prv → cocoonOf s cl = none → exec (.controlWordWrite cl 0x440 8 val prv part) s =
      .next (s.onCluster cl fun c => { c with owner := masked val [(63, 1), (54, 2), (0, 8)] })) ∧
    (∀ ofs size, ofs < 0x1000 → size ≠ 8 ∨ ofs % 8 ≠ 0 → exec (.controlWordWrite cl ofs size val prv part) s = .next s)

/-- R308-R312, R365: a store to the rotation word, whose rotation stays ended once it has ended; the visit of a slot; a store to handover
doubleword 0 and the last steps of a handover. -/
def Obligations.RotationAndHandover : Prop :=
  (∀ (cl val : Nat) (s : State),
    let w := masked val [(63, 1), (25, 1), (24, 1), (12, 12), (0, 12)]
    let kept := if bitAt val 24 then (s.cluster cl).heldSet.filter (· != val % 2 ^ 12) else (s.cluster cl).heldSet
    let rout := val / 2 ^ 12 % 2 ^ 12
    let held := if bitAt val 25 ∧ rout ∉ kept then kept ++ [rout] else kept
    (rotating s cl = true → exec (.rotationStart cl val) s = .next s) ∧
    (rotating s cl = false →
      (bitAt val 63 = false → exec (.rotationStart cl val) s = .next (s.onCluster cl fun c => { c with rotation := w })) ∧
      (bitAt val 63 = true → held.length ≤ 4 →
        exec (.rotationStart cl val) s = .next (s.onCluster cl fun c => { c with rotation := w, heldSet := held, visited := [] })) ∧
      (bitAt val 63 = true → 4 < held.length → exec (.rotationStart cl val) s = .next s))) ∧
  (∀ (cl : Nat) (s : State), rotating s cl = false → bitAt (ctlWord s cl 0x500) 63 = false ∧ rotating (endRotation s cl) cl = false ∧
    bitAt ((endRotation s cl).cluster cl).rotation 63 = false) ∧
  (∀ (g : Nat) (s : State), handoverReady s g = true →
    ((s.slot g).status = .handover → exec (.slotHandover g) s = .next (finishVisit s g)) ∧
    ((s.slot g).status ≠ .handover →
      (leaves s g = false ∨ cannotSave s g = true →
        exec (.slotHandover g) s = .next (s.onCluster (clusterOf g) fun c => { c with visited := g :: c.visited })) ∧
      (leaves s g = true → cannotSave s g = false → quiet (beginVisit s g) g = false ∨ walking (beginVisit s g) g = true →
        exec (.slotHandover g) s = .next (beginVisit s g)) ∧
      (leaves s g = true → cannotSave s g = false → quiet (beginVisit s g) g = true → walking (beginVisit s g) g = false →
        exec (.slotHandover g) s = .next (finishVisit (beginVisit s g) g)))) ∧
  (∀ (g : Nat) (s : State), (s.slot g).trap = none → (s.slot g).deferred = none → holdsAny s g = false →
    (∀ p ∈ (s.slot g).ports, p.2.outQ = []) → s.sram.wf = true → (s.slot g).recOfs % 64 = 0 → (∀ o ∈ (s.cluster (clusterOf g)).run, o % 64 = 0) →
    let t := finishVisit s g
    let x := s.slot g
    t.slot g = Slot.reset ∧ x.recOfs ∈ (t.cluster (clusterOf g)).run ∧ find t.contexts x.ctxPa = some x.ctx ∧
      recState t (clusterOf g) x.recOfs = 1 ∧ recDw t (clusterOf g) x.recOfs 0 % 2 ^ 24 = x.blk % 2 ^ 24 ∧
      recDw t (clusterOf g) x.recOfs 0 / 2 ^ 24 % 2 ^ 12 = min (x.ofs + x.skip) 4095 ∧ recDw t (clusterOf g) x.recOfs 3 = x.p0.toNat) ∧
  ∀ (cl val : Nat) (s : State),
    let c := s.cluster cl
    let w := masked val [(63, 1), (17, 1), (16, 1), (8, 8), (0, 8)]
    (bitAt c.hand0 63 = false →
      (bitAt val 63 = false → exec (.clusterHandover cl val) s = .next (s.onCluster cl fun c => { c with hand0 := w })) ∧
      (bitAt val 63 = true →
        ((bitAt val 17 = true ∧ ∃ kl ∈ c.launches, kl.2.used = true ∧ kl.2.part = val / 2 ^ 8 % 2 ^ 8) →
          exec (.clusterHandover cl val) s = .next (s.onCluster cl fun c => { c with hand0 := setFld w 63 1 0 + 2 ^ 61 })) ∧
        (¬(bitAt val 17 = true ∧ ∃ kl ∈ c.launches, kl.2.used = true ∧ kl.2.part = val / 2 ^ 8 % 2 ^ 8) →
          exec (.clusterHandover cl val) s = .next ((endRotation s cl).onCluster cl fun c => { c with hand0 := w, visited := [] })))) ∧
    (bitAt c.hand0 63 = true →
      (moveReady s cl = false → exec (.clusterHandover cl val) s = .next s) ∧
      (moveReady s cl = true → ∃ t, exec (.clusterHandover cl val) s = .next t ∧
        (t.cluster cl).owner % 2 ^ 8 = c.hand0 % 2 ^ 8 ∧ bitAt (t.cluster cl).hand0 63 = false))

/-! ## Links -/

/-- R18, R70, R75, R297, R300-R302, R312, R314, R319, R369, R403, R404: a write and a read of a virtual function reach only what its
partition maps, and wait where its cluster is being handed over; a request of another part arrives over a port that carries traffic,
scale-out has no atomics, and the entry of the access-control table that decides as it arrives grants any other, which may wait from then
on, or it is refused and reported; the function-level reset. -/
def Obligations.LinksReachWhatTheyMay : Prop :=
  let gives := fun (s u : State) (vf : Nat) (rd : Bool) (tag status v : Nat) =>
    u = { s with vfReply := s.vfReply ++ [{ vf := vf, rd := rd, tag := tag, status := status, val := v }] }
  (∀ (vf addr len data tags part vc ofs cl : Nat) (full : Bool) (s : State), s.hawk.booted = true → vfPart s vf = some part →
    placeOf addr len = .sram 0x3FFFF vc ofs → linkCluster s part vc = some cl → nacked s cl = false → 0 < len →
      (heldAt s part noCluster cl = true → exec (.vfPostedWrite vf addr len data tags full) s = .next s) ∧
      (heldAt s part noCluster cl = false →
        (∀ q, (queuesHit s cl ofs len).find? (fun q => !vfMayWrite s cl vf q) = some q →
          exec (.vfPostedWrite vf addr len data tags full) s = .next (dropQueueWrite s cl q addr vf)) ∧
        ((queuesHit s cl ofs len).find? (fun q => !vfMayWrite s cl vf q) = none → s.sram.wf = true →
          (∀ w ∈ wordsOf (sramKey cl ofs) len, look 0 s.sram.syn w = 0) →
          ∃ t, exec (.vfPostedWrite vf addr len data tags full) s = .next t ∧ sramRead t cl ofs len = data % 2 ^ (8 * len) ∧
            (∀ a, a < sramKey cl ofs ∨ sramKey cl ofs + len ≤ a → sramByte t a = sramByte s a) ∧
            ∀ a, sramKey cl ofs ≤ a → a < sramKey cl ofs + len → t.sram.tagAt a = true →
              ∃ k, sramKey cl (16 * k) / 16 = a / 16 ∧ capField s cl ((List.range 16).filter (vfMayWrite s cl vf)) k = true))) ∧
  (∀ (vf tag addr len data tags : Nat) (full : Bool) (s : State),
    (s.hawk.booted = false → exec (.vfPostedWrite vf addr len data tags full) s = .next s ∧
      exec (.vfTaggedRead vf tag addr len) s = .next s) ∧
    (s.hawk.booted = true → vfPart s vf = none →
      (∃ u, exec (.vfPostedWrite vf addr len data tags full) s = .next u ∧ gives s u vf false 0 1 0) ∧
      ∃ u, exec (.vfTaggedRead vf tag addr len) s = .next u ∧ gives s u vf true (tag % 256) 1 0)) ∧
  (∀ (vf tag addr len part vc ofs cl : Nat) (s : State), s.hawk.booted = true → vfPart s vf = some part → 0 < len →
    placeOf addr len = .sram 0x3FFFF vc ofs → linkCluster s part vc = some cl →
      (nacked s cl = true → ∃ u, exec (.vfTaggedRead vf tag addr len) s = .next u ∧ gives s u vf true (tag % 256) 2 0) ∧
      (nacked s cl = false → heldAt s part noCluster cl = true → exec (.vfTaggedRead vf tag addr len) s = .next s) ∧
      (nacked s cl = false → heldAt s part noCluster cl = false →
        (∀ w ∈ wordsOf (sramKey cl ofs) len, look 0 s.sram.syn w = 0) → s.sram.wf = true →
        ∃ u, exec (.vfTaggedRead vf tag addr len) s = .next u ∧
          gives { s with free := s.free + len } u vf true (tag % 256) 0 (sramRead s cl ofs len))) ∧
  (∀ (via : PeerRoute) (ten kind addr len data : Nat) (s : State),
    (len = 0 ∨ peerFrom s via ten = none → exec (.peerRequest via ten kind addr len data) s = .next s) ∧
    ∀ c t, peerFrom s via ten = some (c, t) → 0 < len →
      let up := decide (via.port < 36)
      let decides := s.acl.find? fun ke => aclFor c t ke.2 && aclMatches s up kind (placeOf addr len) len ke.2
      let refused := exec (.peerRequest via ten kind addr len data) s =
        .next (peerAnswer (refusePeer s c t kind addr) c t kind none)
      (kind = 2 → 36 ≤ via.port → exec (.peerRequest via ten kind addr len data) s =
        .next { s with peerOut := s.peerOut ++ [{ chip := c, ten := t, ok := false, val := 0 }] }) ∧
      (kind ≠ 2 ∨ via.port < 36 →
        (decides = none → refused) ∧
        ∀ ke, decides = some ke →
          (aclGrants s up kind (placeOf addr len) len ke.2 = false → refused) ∧
          (aclGrants s up kind (placeOf addr len) len ke.2 = true →
            (peerHeld s ke.2 kind addr len data = true ∨ peerBehind s.peerIn c t addr len = true →
              exec (.peerRequest via ten kind addr len data) s = .next { s with peerIn := s.peerIn ++
                [{ chip := c, ten := t, kind := kind, addr := addr, len := len, data := data, entry := ke.2 }] }) ∧
            (peerHeld s ke.2 kind addr len data = false → peerBehind s.peerIn c t addr len = false →
              (∀ k vc ofs cl, placeOf addr len = .sram k vc ofs → aclCluster s ke.2 vc = some cl →
                exec (.peerRequest via ten kind addr len data) s = .next (peerSram s c t kind cl ofs len addr data)) ∧
              ∀ k num ofs, placeOf addr len = .exported k num ofs → exec (.peerRequest via ten kind addr len data) s =
                .next (peerExport s c t kind (ke.2 / 2 ^ 21 % 2 ^ 8) num ofs len data))))) ∧
  (∀ (via : PeerRoute) (ten : Nat) (s : State),
    (portLive s via.port = false → peerFrom s via ten = none) ∧
    (portLive s via.port = true → via.port < 36 → peerFrom s via ten = some (via.chip, ten)) ∧
    (portLive s via.port = true → 36 ≤ via.port → ∀ c t, peerFrom s via ten = some (c, t) →
      ∃ q ∈ s.hawk.qps, q.qp = via.qp ∧ q.port + 36 = via.port ∧ q.chip = c ∧ q.ten = t)) ∧
  ∀ (vf : Nat) (s : State),
    (vfPart s vf = none → exec (.functionLevelReset vf) s = .next s) ∧
    ∀ part, vfPart s vf = some part →
      (flrWaits s (clustersOf s part) = true → exec (.functionLevelReset vf) s = .next s) ∧
      (flrWaits s (clustersOf s part) = false → ∃ t, exec (.functionLevelReset vf) s = .next t ∧
        ∀ cl ∈ clustersOf s part, (t.cluster cl).usedCtx = [] ∧ (t.cluster cl).launches = [] ∧ (t.cluster cl).tiles = [] ∧
          (t.cluster cl).tlb = [] ∧ (t.cluster cl).lines = [] ∧ (t.cluster cl).hdrLines = [] ∧ (t.cluster cl).owner = (s.cluster cl).owner)

/-! ## Host firmware and containment -/

/-- R314-R320, R402: boot, the management requests with their results, the doorbell, what the window reads as, and the event ring. -/
def Obligations.ManagementRequestsAreServed : Prop :=
  let free := fun (s : State) (i : MgmtReq) => s.hawk.booted = true ∧ (s.hawk.go = true → pendingRequest s = some i)
  let answers := fun (i : Instr) (s t : State) (code seq rst len body : Nat) => ∃ u, exec i s = .next u ∧
    u = { t with hawk :=
            { t.hawk with
                response := if rst = 0 then body else 0, respCode := code, respLen := if rst = 0 then len else 0,
                respSeq := seq % 2 ^ 32, respRst := rst, go := false, irqs := t.hawk.irqs + 1 } }
  (∀ (s : State) (q : Nat),
    ((s.hawk.go = true → pendingRequest s = some (.status q)) → answers (.status q) s s 1 q 0 8 (statusWord s)) ∧
    (s.hawk.booted = false → exec (.idkey q) s = .next s ∧ exec (.reset q) s = .next s) ∧
    (s.hawk.go = true → pendingRequest s ≠ some (.status q) → exec (.status q) s = .next s) ∧
    (free s (.idkey q) → answers (.idkey q) s s 3 q 0 1312 (Config.identityKey % 2 ^ (8 * 1312))) ∧
    (∀ d, free s (.extend q d) →
      answers (.extend q d) s { s with hawk := { s.hawk with m3 := sha3 (bytesOf 32 s.hawk.m3.toNat ++ bytesOf 32 (BitVec.ofNat 256 d).toNat) } }
        4 q 0 0 0) ∧
    (∀ n, free s (.attest q n) →
      let b := bytesOf 32 n ++ bytesOf 32 s.hawk.m0.toNat ++ bytesOf 32 s.hawk.m1.toNat ++ bytesOf 32 s.hawk.m2.toNat ++ bytesOf 32 s.hawk.m3.toNat
        ++ bytesOf 8 0x7F ++ bytesOf 32 (sha3 (bytesOf 1312 Config.identityKey)).toNat ++ bytesOf 4 s.keys.length ++ bytesOf 4 0
      answers (.attest q n) s s 2 q 0 0xA44 (leNum b + Config.sign (sha3 b) % 2 ^ (8 * 2420) * 2 ^ (8 * 0xD0))) ∧
    (∀ ofs total len data, free s (.fwchunk q ofs total len data) →
      let i := Instr.fwchunk q ofs total len data
      let got := s.hawk.fwBytes ++ bytesOf len data
      (4064 < len ∨ total < ofs + len → answers i s s 16 q 2 0 0) ∧
      (len ≤ 4064 → ofs + len ≤ total →
        (ofs ≠ s.hawk.fwBytes.length → answers i s s 16 q 3 0 0) ∧
        (ofs = s.hawk.fwBytes.length →
          (ofs + len < total → answers i s { s with hawk := { s.hawk with fwBytes := got } } 16 q 0 0 0) ∧
          (ofs + len = total → Config.signatureGood got = false → answers i s s 16 q 4 0 0) ∧
          (ofs + len = total → Config.signatureGood got = true → answers i s
            { s with hawk := { s.hawk with fwBytes := [], m2 := sha3 (bytesOf 32 s.hawk.m2.toNat ++ bytesOf 32 (sha3 got).toNat) } } 16 q 0 0 0)))) ∧
    (∀ c, free s (.setchip q c) →
      (0x3FFFE < c → answers (.setchip q c) s s 17 q 2 0 0) ∧
      (c ≤ 0x3FFFE → s.chip ≠ 0x3FFFF → answers (.setchip q c) s s 17 q 3 0 0) ∧
      (c ≤ 0x3FFFE → s.chip = 0x3FFFF → answers (.setchip q c) s { s with chip := c } 17 q 0 0 0)) ∧
    (∀ vf part, free s (.bindvf q vf part) →
      (63 < vf ∨ (255 < part ∧ part ≠ 0xFFFF) → answers (.bindvf q vf part) s s 18 q 2 0 0) ∧
      (vf ≤ 63 → part ≤ 255 ∨ part = 0xFFFF → vfOutstanding s vf = true → answers (.bindvf q vf part) s s 18 q 3 0 0) ∧
      (vf ≤ 63 → part = 0xFFFF → vfOutstanding s vf = false → answers (.bindvf q vf part) s (unbindVf s vf) 18 q 0 0 0) ∧
      (vf ≤ 63 → part ≤ 255 → (s.part part).vf ≠ none → answers (.bindvf q vf part) s s 18 q 3 0 0) ∧
      (vf ≤ 63 → part ≤ 255 → (s.part part).vf = none → vfOutstanding s vf = false → ∃ t, exec (.bindvf q vf part) s = .next t ∧ (t.part part).vf = some vf ∧
        t.hawk.respRst = 0)) ∧
    (∀ ten, free s (.keyinstall q ten) →
      (4095 < ten → answers (.keyinstall q ten) s s 32 q 2 0 0) ∧
      (ten ≤ 4095 → look 0 s.keys ten ≠ 0 → answers (.keyinstall q ten) s s 32 q 3 0 0) ∧
      (ten ≤ 4095 → look 0 s.keys ten = 0 → ∃ t, exec (.keyinstall q ten) s = .next t ∧ hasKey t ten = true ∧
        (∀ k, k ≠ ten → look 0 t.keys k = look 0 s.keys k) ∧ t.hawk.respRst = 0)) ∧
    (∀ ten, free s (.keyerase q ten) →
      (4095 < ten → answers (.keyerase q ten) s s 33 q 2 0 0) ∧
      (ten ≤ 4095 → look 0 s.keys ten = 0 → answers (.keyerase q ten) s s 33 q 3 0 0) ∧
      (ten ≤ 4095 → look 0 s.keys ten ≠ 0 → rising 0 s.keys = true → ∃ t, exec (.keyerase q ten) s = .next t ∧ hasKey t ten = false ∧
        (∀ k, k ≠ ten → look 0 t.keys k = look 0 s.keys k) ∧ t.hawk.respRst = 0)) ∧
    (∀ c mac ip, free s (.addrmap q c mac ip) →
      (2 ^ 18 ≤ c → answers (.addrmap q c mac ip) s s 48 q 2 0 0) ∧
      (c < 2 ^ 18 → s.hawk.addrMap.length < 4096 → answers (.addrmap q c mac ip) s
        { s with hawk := { s.hawk with addrMap := ins s.hawk.addrMap c (mac % 2 ^ 48, ip % 2 ^ 128) } } 48 q 0 0 0) ∧
      (c < 2 ^ 18 → 4096 ≤ s.hawk.addrMap.length → find s.hawk.addrMap c = none → answers (.addrmap q c mac ip) s s 48 q 3 0 0)) ∧
    (∀ n port cls ten c e psn, free s (.qpset q n port cls ten c e psn) →
      let i := Instr.qpset q n port cls ten c e psn
      let new : QueuePair := { qp := n, port := port, cls := cls, ten := ten, chip := c, peerQp := e % 2 ^ 32, psn := psn % 2 ^ 32 }
      let fits := n < 2 ^ 24 ∧ port ≤ 7 ∧ cls ≤ 3 ∧ ten ≤ 4095 ∧ c < 2 ^ 18
      let clash := find s.hawk.addrMap c = none ∨ (∃ p ∈ s.hawk.qps, p.qp = n) ∨ 1024 ≤ (s.hawk.qps.filter fun p => p.port == port).length
      (¬fits → answers i s s 49 q 2 0 0) ∧ (fits → clash → answers i s s 49 q 3 0 0) ∧
      (fits → ¬clash → answers i s { s with hawk := { s.hawk with qps := s.hawk.qps ++ [new] } } 49 q 0 0 0)) ∧
    (∀ n port, free s (.qpclear q n port) →
      let i := Instr.qpclear q n port
      (7 < port → answers i s s 50 q 2 0 0) ∧
      (port ≤ 7 → (∀ p ∈ s.hawk.qps, ¬(p.qp = n ∧ p.port = port)) → answers i s s 50 q 3 0 0) ∧
      (port ≤ 7 → (∃ p ∈ s.hawk.qps, p.qp = n ∧ p.port = port) → answers i s
        { s with hawk := { s.hawk with qps := s.hawk.qps.filter fun p => !(p.qp == n && p.port == port) } } 50 q 0 0 0)) ∧
    (free s (.reset q) → answers (.reset q) s (bootFrom s s.hawk.image.1 s.hawk.image.2) 64 q 0 0 0)) ∧
  (∀ (len image : Nat) (s : State), ∃ t, exec (.powerOnBoot len image) s = .next t ∧
    t.slots = [] ∧ t.cores = [] ∧ t.clusters = [] ∧ t.engines = [] ∧ t.parts = [] ∧ t.keys = [] ∧ t.sram = Store.reset ∧ t.net = [] ∧
    t.chip = 0x3FFFF ∧ t.hawk.booted = (Config.signatureGood (bytesOf len image) && Config.trainingGood s.free && Config.trainingGood (s.free + 1)) ∧
    t.hawk.m2 = 0 ∧ t.hawk.m3 = 0 ∧
    (Config.signatureGood (bytesOf len image) = false → t.hawk.m0 = 0 ∧ t.hawk.m1 = 0) ∧
    (Config.signatureGood (bytesOf len image) = true → t.hawk.m0 = sha3 (bytesOf 32 0 ++ bytesOf 32 (sha3 (bytesOf len image)).toNat))) ∧
  (∀ (ofs len data : Nat) (s : State),
    (ofs + len ≤ 8 → s.hawk.go = true → exec (.managementWindowWrite ofs len data) s = .next s) ∧
    (ofs = 0 → len = 8 → s.hawk.go = false → bitAt data 63 = false → exec (.managementWindowWrite ofs len data) s =
      .next { s with hawk := { s.hawk with doorSeq := data % 2 ^ 32 } }) ∧
    (0x1000 ≤ ofs → ofs + len ≤ 0x2000 → exec (.managementWindowWrite ofs len data) s =
      .next { s with hawk := { s.hawk with request := wrN s.hawk.request (ofs - 0x1000) len data } }) ∧
    (ofs = 0 → len = 8 → s.hawk.go = false → bitAt data 63 = true →
      (s.hawk.booted = true → ∃ t, exec (.managementWindowWrite ofs len data) s = .next t ∧
        t.hawk.doorSeq = data % 2 ^ 32 ∧ ((∃ i, bufferRequest s = .inr i) → t.hawk.go = true) ∧
        (∀ rst, bufferRequest s = .inl rst → t.hawk.go = false ∧ t.hawk.respRst = rst)) ∧
      (s.hawk.booted = false →
        (∀ q, bufferRequest s = .inr (.status q) → ∃ t, exec (.managementWindowWrite ofs len data) s = .next t ∧ t.hawk.go = true) ∧
        ((∀ q, bufferRequest s ≠ .inr (.status q)) → exec (.managementWindowWrite ofs len data) s = .next s))) ∧
    ∀ n < 256, ∀ e, ofs = 0x4000 + 64 * n → len = 8 → bitAt data 63 = false → find s.hawk.ring n = some e → rising 0 s.hawk.ring = true →
      ∃ t, exec (.managementWindowWrite ofs len data) s = .next t ∧ find t.hawk.ring n = some { e with ev := false } ∧
        ∀ m, m ≠ n → find t.hawk.ring m = find s.hawk.ring m) ∧
  (∀ s : State,
    (∀ i < 8, windowByte s i = (s.hawk.doorSeq + if s.hawk.go then 2 ^ 63 else 0) / 2 ^ (8 * i) % 2 ^ 8 ∧
      windowByte s (8 + i) = statusWord s / 2 ^ (8 * i) % 2 ^ 8 ∧ windowByte s (0x10 + i) = s.hawk.evHead / 2 ^ (8 * i) % 2 ^ 8) ∧
    (∀ i < 0x1000, windowByte s (0x1000 + i) = (look 0 s.hawk.request i).toNat) ∧
    (∀ i < s.hawk.respLen, i + 16 < 0x2000 → windowByte s (0x2010 + i) = s.hawk.response / 2 ^ (8 * i) % 2 ^ 8) ∧
    (s.hawk.respRst < 256 → windowByte s 0x2008 = s.hawk.respRst) ∧
    ∀ n < 256, ∀ e, find s.hawk.ring n = some e → windowByte s (0x4000 + 64 * n + 7) / 2 ^ 7 = (if e.ev then 1 else 0)) ∧
  ∀ (k d1 d2 : Nat) (rest : List (Nat × Nat × Nat)) (s : State), s.hawk.evHeld = (k, d1, d2) :: rest →
    let h := s.hawk
    ((∀ e, find h.ring h.evHead = some e → e.ev = false) → exec .monitorEvent s = .next
      { s with hawk :=
          { h with
              ring := ins h.ring h.evHead { ev := true, kind := k, seq := h.evSeq, d1 := d1, d2 := d2 },
              evHead := (h.evHead + 1) % 256, evSeq := (h.evSeq + 1) % 2 ^ 32, evHeld := rest, irqs := h.irqs + 1 } }) ∧
    ((∃ e, find h.ring h.evHead = some e ∧ e.ev = true) → exec .monitorEvent s = .next s)

/-- R302, R316, R321, R322, R377-R382, R390-R402: clock steps, link keys, lost stacks and planes, excluded dies, fenced cocoons, soft
errors, and the comparison of paired messages. -/
def Obligations.FaultsAreContained : Prop :=
  (∀ (die temp stack rail slow : Nat) (s : State), 4 ≤ die ∨ (s.die die).excluded = true →
    ∃ t, exec (.monitorSample die temp stack rail slow) s = .next t ∧ t.stackHot = (if stack < 90 then 0 else 1 + (stack - 90) / 2) ∧
      t.partStep = min 5 (s.partStep + (t.stackHot - s.stackHot))) ∧
  (∀ (die temp stack rail slow : Nat) (s : State), die < 4 → (s.die die).excluded = false → stack < 90 → s.partStep ≤ 5 →
    let cool := { s with stackHot := 0 }
    let run := exec (.monitorSample die temp stack rail slow) s
    (110 ≤ temp → run = .next (excludeDie cool die 1)) ∧ (temp < 110 → 80 ≤ rail → run = .next (excludeDie cool die 2)) ∧
    (temp < 110 → rail < 80 → ∃ t, run = .next t ∧ (t.die die).hot = (if temp < 95 then 0 else 1 + (temp - 95) / 2) ∧
      (t.die die).rail = decide (30 ≤ rail) ∧
      (temp < 95 → rail < 30 → slow < 50 → (s.die die).step ≤ 5 → (s.die die).capStep ≤ (s.die die).step → (t.die die).step = (s.die die).step) ∧
      (95 ≤ temp → temp < 97 → rail < 30 → slow < 50 → (s.die die).hot = 0 → (s.die die).step < 5 → (s.die die).capStep ≤ (s.die die).step →
        (t.die die).step = (s.die die).step + 1))) ∧
  (∀ (die : Nat) (s : State), (s.die die).calm = false → exec (.clockStepClimb die) s = .next s) ∧
  (∀ (die : Nat) (s : State), die < 4 → (s.die die).excluded = false → (s.die die).calm = true → s.partStep < (s.die die).step →
    (s.die die).step ≤ 5 → ∃ t, exec (.clockStepClimb die) s = .next t ∧ (t.die die).step = (s.die die).step - 1 ∧ ∀ d, d ≠ die → t.die d = s.die d) ∧
  (∀ (port : Nat) (s : State),
    (port < 36 → port ∈ s.hawk.portUp → rising 0 s.hawk.linkKeys = true → ∃ t, exec (.linkKeyRenewal port) s = .next t ∧
      look 0 t.hawk.linkKeys port = (if Config.exchangeGood (s.keySeq + 1) then s.keySeq + 1 else 0) ∧ t.keySeq = s.keySeq + 1) ∧
    (port < 44 → port ∉ s.hawk.portUp → rising 0 s.hawk.linkKeys = true → ∃ t, exec (.scalePortLinkChange port true) s = .next t ∧
      t.hawk.portUp = port :: s.hawk.portUp ∧
      (port < 36 → look 0 t.hawk.linkKeys port = (if Config.exchangeGood (s.keySeq + 1) then s.keySeq + 1 else 0) ∧
        (Config.exchangeGood (s.keySeq + 1) = false → portLive t port = false))) ∧
    (port < 44 → ∃ t, exec (.scalePortLinkChange port false) s = .next t ∧ port ∉ t.hawk.portUp ∧
      ∀ p, p ≠ port → (p ∈ t.hawk.portUp ↔ p ∈ s.hawk.portUp))) ∧
  (∀ (stack : Nat) (s : State), stack < 16 → stack ∉ s.lost → ∃ t, exec (.stackLoss stack) s = .next t ∧ t.lost = s.lost ++ [stack] ∧
    t.hawk.rrq = true ∧ (s.lost ≠ [] → t.stopped = true) ∧ (s.lost = [] → t.stopped = s.stopped)) ∧
  (∀ (plane : Nat) (s : State), plane ∈ s.planes → ∃ t, exec (.planeLoss plane) s = .next t ∧ t.planes = s.planes.erase plane ∧
    t.hawk.rrq = true ∧ (s.planes.erase plane = [] → t.stopped = true) ∧ (s.planes.erase plane ≠ [] → t.stopped = s.stopped)) ∧
  (∀ (die cause : Nat) (s : State), die < 4 → (s.die die).excluded = false → ∃ t, exec (.dieExclusion die cause) s = .next t ∧
    (t.die die).excluded = true ∧ t.hawk.rrq = true ∧ (∀ gx ∈ t.slots, dieOf (clusterOf gx.1) ≠ die) ∧
    ∀ cl, dieOf cl = die → (t.cluster cl).usedRecs = [] ∧ (t.cluster cl).run = [] ∧ (t.cluster cl).owner = (s.cluster cl).owner) ∧
  (∀ (die n cause : Nat) (s : State), die < 4 → n < 8 →
    let w := look 0 (s.die die).cocoons n
    (bitAt w 63 = false ∨ w / 2 ^ 61 % 4 ≠ 0 → exec (.cocoonFencing die n cause) s = .next s) ∧
    (bitAt w 63 = true → w / 2 ^ 61 % 4 = 0 → ∃ t, exec (.cocoonFencing die n cause) s = .next t ∧
      look 0 (t.die die).cocoons n / 2 ^ 61 % 4 = 2 ∧ look 0 (t.die die).cocoons n / 2 ^ 40 % 2 ^ 8 = (w / 2 ^ 40 % 2 ^ 8 + 1) % 2 ^ 8 ∧
      ∀ cl ∈ cocoonClusters die w, (t.cluster cl).usedRecs = [] ∧ (t.cluster cl).owner = (s.cluster cl).owner ∧
        (∀ o < 2 ^ 21, sramByte t (sramKey cl o) = 0) ∧ ∀ q, bitAt (look 0 (t.cluster cl).queues q) 63 = false)) ∧
  (∀ (kind place idx bit : Nat) (s : State),
    (kind ≤ 3 → exec (.softError kind place idx bit true) s = .next s) ∧
    (bit < 72 → place < 49152 → (s.slot place).status ≠ .idle → 1 ≤ idx → idx ≤ 47 → ∃ t, exec (.softError 0 place idx bit false) s = .next t ∧
      ((t.slot place).ctx.reg idx).psn = true ∧ t.free = s.free + 1) ∧
    (bit < 72 → exec (.softError 1 place idx bit false) s = .next (s.onCore place fun c => { c with opPsn := idx % 2 ^ 15 :: c.opPsn })) ∧
    (bit < 72 → exec (.softError 2 place idx bit false) s = .next (s.onCore place fun c => { c with accPsn := idx % 2 ^ 15 :: c.accPsn })) ∧
    (bit < 72 → idx < 2 ^ 18 → ∃ t, exec (.softError 3 place idx bit false) s = .next t ∧ t.sram.poisoned (sramKey place (8 * idx)) 8 = true ∧
      t.sram.bytes = s.sram.bytes) ∧
    (place < 384 → ∀ fixable, exec (.softError 4 place idx bit fixable) s =
      .next (s.onCluster place fun c => { c with tlb := c.tlb.eraseIdx idx })) ∧
    (∀ core fixable, place = 384 + core → exec (.softError 4 place idx bit fixable) s = .next (s.onCore core fun c =>
      if idx < 1024 then { c with dtlb := c.dtlb.eraseIdx idx } else { c with itlb := c.itlb.eraseIdx (idx - 1024) })) ∧
    (∀ fixable, exec (.softError 5 place idx bit fixable) s = .next (s.onCluster place fun c =>
      if idx < c.lines.length then { c with lines := c.lines.eraseIdx idx }
      else { c with hdrLines := c.hdrLines.eraseIdx (idx - c.lines.length) })) ∧
    (bit < 72 → ∀ d, s.diffs[place]? = some d → ∃ t, exec (.softError 6 place idx bit false) s = .next t ∧
      t.diffs[place]? = some { d with poor := true } ∧ ∀ j, j ≠ place → t.diffs[j]? = s.diffs[j]?)) ∧
  ∀ (k : Nat) (s : State) (p : Pair), s.pairs[k]? = some p →
    (p.msgP = [] ∨ p.msgS = [] → exec (.pairedMessageCompare k) s = .next s) ∧
    ∀ a as b bs, p.msgP = a :: as → p.msgS = b :: bs →
      let h := fun (old : W64) (m : List W64) => hashMsg (p.n + 1) old m
      let after := { p with n := p.n + 1, hp := h p.hp a, hs := h p.hs b, msgP := as, msgS := bs, goP := p.goP || as.isEmpty
                            goS := p.goS || bs.isEmpty }
      (h p.hp a = h p.hs b → as = [] ∨ bs = [] → exec (.pairedMessageCompare k) s = .next { s with pairs := s.pairs.set k after }) ∧
      (h p.hp a ≠ h p.hs b → exec (.pairedMessageCompare k) s = .next (fenceAround (fenceAround s p.pcl) p.scl))


/-! ## The step, the encoding and the memories -/

/-- R143-R150, R354: words written out from the encoding tables decode to their instructions; reserved words to none. -/
def Obligations.DecodesWrittenWords : Prop :=
  decodeTableWord 64 0x03041000FFFFFFFF = some (.addi ⟨false, 1, 1, false, 0xFFFFFFFF⟩) ∧
  decodeTableWord 64 0x0210108000000000 = some (.mul ⟨false, 4, 1, 2⟩) ∧
  decodeTableWord 64 0x0120414618000000 = some (.sel ⟨false, 8, 4, 5, 6⟩) ∧
  decodeTableWord 64 0x2065060000000000 = some (.cadd ⟨false, 25, 16, 24⟩) ∧
  decodeTableWord 64 0x371C100000100000 = some (.vcvt ⟨false, 7, 1, 0, 0, 1, 0, false, false, 0⟩) ∧
  decodeTableWord 64 0xFC00000008000000 = some (.halt true) ∧
  decodeTableWord 64 0 = none ∧ decodeTableWord 64 0x0120414617000000 = none ∧ decodeTableWord 64 0x7F00000000000000 = none ∧
  decodeTableWord 64 0x65C0A0C000D00000 = none ∧ decodeTableWord 64 0x0210108000000001 = none ∧ decodeTableWord 64 0x02F0108000000000 = none

/-- R143-R150: the word of a well-formed instruction decodes to that instruction, and a word that decodes is the word of what it
decodes to. -/
def Obligations.EncodeAndDecodeAgree : Prop :=
  (∀ (i : Instr) (w : Nat), i.wf = true → encode i = some w → decodeWord w = .ok i) ∧
  ∀ (w : Nat) (i : Instr), decodeWord w = .ok i → encode i = some w ∧ i.wf = true

/-- R35, R48, R151, R152: the turn of a slot fetches the word at its offset and runs what it decodes to; a word that is none, or whose
block ends before an `end`, traps ILLEGAL. -/
def Obligations.StepRunsTheDecodedWord : Prop :=
  (∀ (s : State) (g : Nat), chooseMove s = some (.slot g) → primaryOf s g = none →
    let s0 := { s with sched := s.sched.tail }
    let u := { s0 with cur := g }.onCore (coreOf g) fun c => { c with last := g % 16 }
    let x := u.slot g
    let ofs := min x.ofs 4095
    let unsent := fun (n : Nat) => match (u.core (coreOf g)).seq with | some b => b.slot == g && b.num == n | none => false
    let kept := fun (w : WalkJob) => w.isEng || w.owner != g || w.phase != .done || match w.num with
      | none => w.ofs == x.ofs
      | some n => opLive u g n || unsent n
    let v := { u with walks := u.walks.filter kept }.onSlot g fun x => { x with status := .ready, mark := false, ofs := ofs }
    let after := fun (o : Host.Outcome State Fault Refusal) => match o with
      | .next t => Host.Outcome.next (if s.pairs = [] then t else followAll s0 t none)
      | o => o
    x.status ≠ .parked .restore → x.deferred = none → x.skip = 0 → x.ctx.rep.active = false →
    ∀ d v1 w v2, blockDesc v = .ok d v1 → ofs < d.2 → codeWord v1 d ofs = .ok w v2 →
      (∀ i, decodeWord w = .ok i → ofs + 1 < d.2 ∨ isEndWord w = true → step s = after (exec i v2)) ∧
      ((∃ e, decodeWord w = .error e) ∨ (d.2 ≤ ofs + 1 ∧ isEndWord w = false) → step s = after (.next (trapHere v g .illegal 0)))) ∧
  ∀ (s s' : State) (ofs cl o : Nat) (e : Option TlbEntry),
    let ea := (codeCap s s.cur).addr + ofs
    capCheck (codeCap s s.cur) ea 8 permX 8 = none → findAt s ea 8 4 3 3 = .ok (.sram cl o, e) s' → nacked s' cl = false →
      s'.sram.wf = true → (∀ w ∈ wordsOf (sramKey cl o) 8, look 0 s'.sram.syn w = 0) →
      codeDw s ofs = .ok (wordOfBytes ((List.range 8).map fun k => sramByte s' (sramKey cl o + k))) s'

/-- R48, R314, R318, R379: no word and no step of an agent stops the machine. A part that has stopped serves the status request that is
posted, takes nothing else from outside but a status request, a write of the management window and a new power-on (log 56), drops
everything else, and does nothing while nothing comes. -/
def Obligations.ThePartNeverStops : Prop :=
  (∀ (i : Instr) (s : State), ∃ t, exec i s = .next t) ∧
  (∀ s : State, Runs s) ∧
  (∀ s : State, s.stopped = true →
    let idle := { s with sched := s.sched.tail }
    let after := fun (o : Host.Outcome State Fault Refusal) => match o with
      | .next t => Host.Outcome.next (if s.pairs = [] then t else followAll idle t none)
      | o => o
    (s.inbox = [] → requestDue s = false → step s = .next idle) ∧
    (s.inbox = [] → requestDue s = true → ∀ q, bufferRequest s = .inr (.status q) → step s = after (exec (.status q) idle)) ∧
    ∀ i rest, s.inbox = i :: rest → requestDue s = false →
      step s = after (if whenStopped i = true then exec i { idle with inbox := rest } else .next { idle with inbox := rest })) ∧
  ∀ i : Instr, whenStopped i = true ↔
    (∃ q, i = .status q) ∨ (∃ len image, i = .powerOnBoot len image) ∨ ∃ ofs len data, i = .managementWindowWrite ofs len data

/-- R75, R82, R93, R371: every memory keeps its canonical form in every step. -/
def Obligations.MemoryStaysCanonical : Prop := ∀ s t : State, Memory.wf s = true → step s = .next t → Memory.wf t = true

/-- R315, R43: what the part holds after boot. -/
def Obligations.ResetValues : Prop :=
  let r := State.reset
  Memory.wf r = true ∧ (∀ k, sramByte r k = 0 ∧ r.sram.tagAt k = false ∧ look false r.sram.full k = false) ∧
  (∀ cl, (r.cluster cl).owner = 0 ∧ (∀ q, look 0 (r.cluster cl).queues q = 0) ∧ (∀ p, allowed r cl p = (cl == p)) ∧ (∀ n, tileOf r cl n = 0) ∧
    (∀ n, look 0 (r.cluster cl).pats n = 0) ∧ (r.cluster cl).trace = 0 ∧ (r.cluster cl).tlb = [] ∧ (r.cluster cl).lines = [] ∧
    (r.cluster cl).run = [] ∧ (r.cluster cl).usedRecs = [] ∧ (r.cluster cl).hand0 = 0) ∧
  r.weights = 0x01010101 ∧ r.acl = [] ∧ r.sweep = 0 ∧ (∀ e, (r.engine e).kicks = [] ∧ (r.engine e).cmds = [] ∧ (r.engine e).done = 0) ∧
  (∀ c n, find (r.core c).holder n = none ∧ look 0 (r.core c).hdrs n = 0 ∧ look 0 (r.core c).acc n = 0 ∧ look false (r.core c).accInt n = false) ∧
  (∀ g, (r.slot g).status = .idle) ∧ Context.new.felim = 4096

/-- R155, R156: the frame of the words that compute. Beside its destination, the flags and its sources' ports, a word that computes leaves
every register, slot, core, cluster and memory of the part as it was; only an appended element of a destination that is a port enters
what the thread has on its way. -/
def Obligations.ComputeWordsFrame : Prop :=
  let frame := fun (i : Instr) (fs : List Nat) (d : Nat) (ok : State → Prop) =>
    ∀ s places t u, Ready s fs d places t → ok s → exec i s = .next u → ComputeFrame s u fs d
  let any := fun (_ : State) => True
  (∀ m s fs d v fl places t, Ready s fs d places t → ComputeFrame s (wrote m s.cur fs d v fl places t) fs d) ∧
  (∀ o : R3, ∀ i ∈ [Instr.add o, .sub o, .and o, .or o, .xor o, .andn o, .orn o, .xnor o, .shl o, .shr o, .sra o, .rotl o, .rotr o, .min o, .max o,
      .minu o, .maxu o, .cmpeq o, .cmpne o, .cmplt o, .cmpltu o, .cmple o, .cmpleu o, .mul o, .mulh o, .mulhu o], frame i [o.a, o.b] o.d any) ∧
  (∀ o : R3, ∀ i ∈ [Instr.div o, .divu o, .rem o, .remu o], frame i [o.a, o.b] o.d fun s => srcInt s [o.a, o.b] 1 ≠ 0) ∧
  (∀ o : R2, ∀ i ∈ [Instr.clz o, .ctz o, .popc o, .bswap o, .abs o, .neg o, .mov o], frame i [o.a] o.d any) ∧
  (∀ o : R4, ∀ i ∈ [Instr.sel o, .madd o, .hmix o], frame i [o.a, o.b, o.c] o.d any) ∧
  (∀ o : ImmOp, ∀ i ∈ [Instr.addi o, .andi o, .ori o, .xori o, .shli o, .shri o, .srai o, .cmpeqi o, .cmplti o, .cmpltui o, .mini o, .maxi o],
    frame i [o.a] o.d any) ∧
  (∀ o : LiOp, frame (.li o) [] o.d any) ∧
  ∀ o : FieldOp, ∀ i ∈ [Instr.ext o, .extS o], frame i [o.a] o.d any
end

