-- ==== Sys2Proof/Laws/Sparse.lean ====
section
/-! SUPPORT. Sparse lists: what is read after a write, and the canonical form that every operation keeps. -/

namespace Sys2Proof.Machine

section Look

variable {α : Type} (d : α)

/-- A table reads at a key what was listed there, and everywhere else what it read before. -/
theorem look_ins (m : Sparse α) (j i : Nat) (v : α) : look d (ins m j v) i = if i = j then v else look d m i := by
  induction m with
  | nil => by_cases h : i = j <;> simp [ins, look, h]
  | cons kw m ih =>
    obtain ⟨k, w⟩ := kw
    by_cases h1 : j < k
    · by_cases h : i = j
      · simp [ins, look, h, h1]
      · by_cases h2 : i < j
        · have : i < k := by omega
          simp [ins, look, h, h1, h2, this]
        · simp [ins, look, h, h1, h2]
    · by_cases h2 : j = k
      · subst h2
        by_cases h : i = j
        · simp [ins, look, h]
        · simp [ins, look, h]
      · by_cases h : i = j
        · subst h
          simp [ins, look, h1, h2, ih]
        · simp [ins, look, h1, h2, ih, h]

@[simp] theorem look_ins_self (m : Sparse α) (j : Nat) (v : α) : look d (ins m j v) j = v := by simp [look_ins]

theorem look_ins_other (m : Sparse α) {j i : Nat} (v : α) (h : i ≠ j) : look d (ins m j v) i = look d m i := by
  simp [look_ins, h]

/-- As `look_ins`, where being listed matters. -/
theorem find_ins (m : Sparse α) (j i : Nat) (v : α) : find (ins m j v) i = if i = j then some v else find m i := by
  induction m with
  | nil => by_cases h : i = j <;> simp [ins, find, h]
  | cons kw m ih =>
    obtain ⟨k, w⟩ := kw
    by_cases h1 : j < k
    · by_cases h : i = j
      · simp [ins, find, h, h1]
      · by_cases h2 : i < j
        · have : i < k := by omega
          simp [ins, find, h, h1, h2, this]
        · simp [ins, find, h, h1, h2]
    · by_cases h2 : j = k
      · subst h2
        by_cases h : i = j
        · simp [ins, find, h]
        · simp [ins, find, h]
      · by_cases h : i = j
        · subst h
          simp [ins, find, h1, h2, ih]
        · simp [ins, find, h1, h2, ih, h]

end Look

/-! ## The canonical form -/

section Rising

variable {α : Type}

theorem rising_mono {m : Sparse α} {a b : Nat} (h : a ≤ b) (hb : rising b m = true) : rising a m = true := by
  cases m with
  | nil => rfl
  | cons kw m =>
    obtain ⟨k, w⟩ := kw
    simp only [rising, Bool.and_eq_true, decide_eq_true_eq] at *
    exact ⟨by omega, hb.2⟩

theorem rising_ins {m : Sparse α} {lo j : Nat} (v : α) (hj : lo ≤ j) (h : rising lo m = true) : rising lo (ins m j v) = true := by
  induction m generalizing lo with
  | nil => simp [ins, rising, hj]
  | cons kw m ih =>
    obtain ⟨k, w⟩ := kw
    simp only [rising, Bool.and_eq_true, decide_eq_true_eq] at h
    by_cases h1 : j < k
    · simp [ins, rising, h1, hj, h.2]
    · by_cases h2 : j = k
      · subst h2; simp [ins, rising, h.1, h.2]
      · have : k + 1 ≤ j := by omega
        simp [ins, rising, h1, h2, h.1, ih this h.2]

theorem rising_del {m : Sparse α} {lo : Nat} (j : Nat) (h : rising lo m = true) : rising lo (del m j) = true := by
  induction m generalizing lo with
  | nil => rfl
  | cons kw m ih =>
    obtain ⟨k, w⟩ := kw
    simp only [rising, Bool.and_eq_true, decide_eq_true_eq] at h
    by_cases h1 : j < k
    · simp [del, rising, h1, h.1, h.2]
    · by_cases h2 : j = k
      · simp only [del, h2, Nat.lt_irrefl, if_false, if_true]
        exact rising_mono (by omega) h.2
      · simp [del, rising, h1, h2, h.1, ih h.2]

theorem rising_filter {m : Sparse α} {lo : Nat} (p : Nat × α → Bool) (h : rising lo m = true) : rising lo (m.filter p) = true := by
  induction m generalizing lo with
  | nil => rfl
  | cons kw m ih =>
    obtain ⟨k, w⟩ := kw
    simp only [rising, Bool.and_eq_true, decide_eq_true_eq] at h
    by_cases hp : p (k, w) = true
    · simp [hp, rising, h.1, ih h.2]
    · simp only [hp, List.filter_cons, if_false, Bool.false_eq_true]
      exact rising_mono (by omega) (ih h.2)

theorem rising_append {m n : Sparse α} {lo hi : Nat} (hlo : lo ≤ hi) (hm : rising lo m = true) (hk : ∀ kv ∈ m, kv.1 < hi) (hn : rising hi n = true) :
    rising lo (m ++ n) = true := by
  induction m generalizing lo with
  | nil => exact rising_mono hlo hn
  | cons kw m ih =>
    obtain ⟨k, w⟩ := kw
    simp only [rising, Bool.and_eq_true, decide_eq_true_eq] at hm
    have hkk : k < hi := hk (k, w) (by simp)
    simp only [List.cons_append, rising, Bool.and_eq_true, decide_eq_true_eq]
    exact ⟨hm.1, ih (by omega) hm.2 (fun kv h => hk kv (by simp [h]))⟩

theorem rising_above {m : Sparse α} {lo a : Nat} (h : rising lo m = true) (hk : ∀ kv ∈ m, a ≤ kv.1) : rising a m = true := by
  cases m with
  | nil => rfl
  | cons kw m =>
    obtain ⟨k, w⟩ := kw
    simp only [rising, Bool.and_eq_true, decide_eq_true_eq] at *
    exact ⟨hk (k, w) (by simp), h.2⟩

end Rising

section Canonical

variable {α : Type} [DecidableEq α] (d : α)

theorem canonical_iff (m : Sparse α) : canonical d m = true ↔ rising 0 m = true ∧ ∀ kv ∈ m, kv.2 ≠ d := by
  simp [canonical, List.all_eq_true]

@[simp] theorem canonical_nil : canonical d ([] : Sparse α) = true := rfl

omit [DecidableEq α] in
theorem mem_ins {m : Sparse α} {j : Nat} {v : α} {kv : Nat × α} (h : kv ∈ ins m j v) : kv = (j, v) ∨ kv.2 = v ∨ kv ∈ m := by
  induction m with
  | nil => simp [ins] at h; exact .inl h
  | cons kw m ih =>
    obtain ⟨k, w⟩ := kw
    simp only [ins] at h
    split at h
    · simp at h; rcases h with h | h | h <;> simp [h]
    · split at h
      · simp at h; rcases h with h | h <;> simp [h]
      · simp at h
        rcases h with h | h
        · simp [h]
        · rcases ih h with h | h | h <;> simp [h]

omit [DecidableEq α] in
theorem mem_del {m : Sparse α} {j : Nat} {kv : Nat × α} (h : kv ∈ del m j) : kv ∈ m := by
  induction m with
  | nil => simp [del] at h
  | cons kw m ih =>
    obtain ⟨k, w⟩ := kw
    simp only [del] at h
    split at h
    · exact h
    · split at h
      · simp [h]
      · simp at h; rcases h with h | h <;> simp [h, ih]

theorem canonical_put {m : Sparse α} (j : Nat) (v : α) (h : canonical d m = true) : canonical d (put d m j v) = true := by
  rw [canonical_iff] at *
  unfold put
  split
  · exact ⟨rising_del j h.1, fun kv hkv => h.2 kv (mem_del hkv)⟩
  · rename_i hv
    refine ⟨rising_ins v (Nat.zero_le j) h.1, fun kv hkv => ?_⟩
    rcases mem_ins hkv with hk | hk | hk
    · simp [hk, hv]
    · simp [hk, hv]
    · exact h.2 kv hk

theorem canonical_del {m : Sparse α} (j : Nat) (h : canonical d m = true) : canonical d (del m j) = true := by
  rw [canonical_iff] at *
  exact ⟨rising_del j h.1, fun kv hkv => h.2 kv (mem_del hkv)⟩

theorem canonical_filter {m : Sparse α} (p : Nat × α → Bool) (h : canonical d m = true) : canonical d (m.filter p) = true := by
  rw [canonical_iff] at *
  exact ⟨rising_filter p h.1, fun kv hkv => h.2 kv (List.mem_of_mem_filter hkv)⟩

theorem canonical_listed (a : Nat) (vs : List α) : rising a (listed d a vs) = true ∧ ∀ kv ∈ listed d a vs, kv.2 ≠ d ∧ kv.1 < a + vs.length := by
  induction vs generalizing a with
  | nil => simp [listed, rising]
  | cons v vs ih =>
    simp only [listed]
    split
    · refine ⟨rising_mono (by omega) (ih (a + 1)).1, fun kv hkv => ?_⟩
      have := (ih (a + 1)).2 kv hkv
      exact ⟨this.1, by simp; omega⟩
    · rename_i hv
      refine ⟨by simp [rising, (ih (a + 1)).1], fun kv hkv => ?_⟩
      simp at hkv
      rcases hkv with h | h
      · simp [h, hv]
      · have := (ih (a + 1)).2 kv h
        exact ⟨this.1, by simp; omega⟩

theorem canonical_setRange {m : Sparse α} (a : Nat) (vs : List α) (h : canonical d m = true) :
    canonical d (setRange d m a vs) = true := by
  rw [canonical_iff] at *
  have hl := canonical_listed d a vs
  refine ⟨?_, fun kv hkv => ?_⟩
  · unfold setRange
    rw [List.append_assoc]
    refine rising_append (Nat.zero_le a) (rising_filter _ h.1) (fun kv hkv => by simpa using (List.mem_filter.mp hkv).2) ?_
    refine rising_append (hi := a + vs.length) (by omega) hl.1 (fun kv hkv => (hl.2 kv hkv).2) ?_
    exact rising_above (rising_filter _ h.1) (fun kv hkv => by simpa using (List.mem_filter.mp hkv).2)
  · simp only [setRange, List.mem_append, List.mem_filter] at hkv
    rcases hkv with (hkv | hkv) | hkv
    · exact h.2 kv hkv.1
    · exact (hl.2 kv hkv).1
    · exact h.2 kv hkv.1

theorem canonical_foldl_put {β : Type} (l : List β) (k : β → Nat) (v : Sparse α → β → α) {m : Sparse α} (h : canonical d m = true) :
    canonical d (l.foldl (fun m b => put d m (k b) (v m b)) m) = true := by
  induction l generalizing m with
  | nil => exact h
  | cons b l ih => exact ih (canonical_put d _ _ h)

end Canonical

/-! ## Reading after writing in canonical form -/

section ReadWrite

variable {α : Type} (d : α)

/-- A key below every entry is not listed. -/
theorem look_below {m : Sparse α} {lo j : Nat} (h : rising lo m = true) (hj : j < lo) : look d m j = d := by
  cases m with
  | nil => rfl
  | cons kw m =>
    obtain ⟨k, w⟩ := kw
    simp only [rising, Bool.and_eq_true, decide_eq_true_eq] at h
    have : j < k := by omega
    simp [look, this]

theorem look_del {m : Sparse α} {lo : Nat} (j i : Nat) (h : rising lo m = true) : look d (del m j) i = if i = j then d else look d m i := by
  induction m generalizing lo with
  | nil => simp [del, look]
  | cons kw m ih =>
    obtain ⟨k, w⟩ := kw
    simp only [rising, Bool.and_eq_true, decide_eq_true_eq] at h
    by_cases h1 : j < k
    · by_cases hi : i = j
      · subst hi; simp [del, look, h1]
      · simp [del, h1, hi]
    · by_cases h2 : j = k
      · subst h2
        by_cases hi : i = j
        · subst hi; simp [del, look_below d h.2]
        · by_cases h3 : i < j
          · simp [del, look, hi, h3, look_below d h.2 (show i < j + 1 by omega)]
          · simp [del, look, hi, h3]
      · by_cases h3 : i < k
        · have : i ≠ j := by omega
          simp [del, look, h1, h2, h3, this]
        · by_cases h4 : i = k
          · have : i ≠ j := by omega
            have h5 : ¬ k = j := by omega
            simp [del, look, h1, h2, h4, h5]
          · simp [del, look, h1, h2, h3, h4, ih h.2]

/-- A memory in canonical form reads at an address what was written there, and everywhere else what it read before. -/
theorem look_put [DecidableEq α] {m : Sparse α} (j i : Nat) (v : α) (h : canonical d m = true) :
    look d (put d m j v) i = if i = j then v else look d m i := by
  rw [canonical_iff] at h
  unfold put
  split
  · rename_i hv; rw [look_del d j i h.1]; split <;> simp [hv]
  · rw [look_ins]

theorem look_filter {m : Sparse α} {lo : Nat} (p : Nat → Bool) (i : Nat) (h : rising lo m = true) :
    look d (m.filter fun kv => p kv.1) i = if p i then look d m i else d := by
  induction m generalizing lo with
  | nil => simp [look]
  | cons kw m ih =>
    obtain ⟨k, w⟩ := kw
    simp only [rising, Bool.and_eq_true, decide_eq_true_eq] at h
    by_cases hp : p k = true
    · simp only [List.filter_cons, hp, if_true, look]
      by_cases h1 : i < k
      · simp [h1]
      · by_cases h2 : i = k
        · subst h2; simp [hp]
        · simp [h1, h2, ih h.2]
    · simp only [List.filter_cons, hp, if_false, Bool.false_eq_true, ih h.2, look]
      by_cases h1 : i < k
      · simp [h1, look_below d h.2 (show i < k + 1 by omega)]
      · by_cases h2 : i = k
        · subst h2; simp [hp]
        · simp [h1, h2]

theorem look_append {m n : Sparse α} {lo hi : Nat} (i : Nat) (hm : rising lo m = true) (hk : ∀ kv ∈ m, kv.1 < hi) (hn : rising hi n = true) :
    look d (m ++ n) i = if i < hi then look d m i else look d n i := by
  induction m generalizing lo with
  | nil =>
    by_cases h : i < hi
    · simp [h, look, look_below d hn h]
    · simp [h]
  | cons kw m ih =>
    obtain ⟨k, w⟩ := kw
    simp only [rising, Bool.and_eq_true, decide_eq_true_eq] at hm
    have hkk : k < hi := hk (k, w) (by simp)
    simp only [List.cons_append, look, ih hm.2 (fun kv h => hk kv (by simp [h]))]
    by_cases h1 : i < k
    · have : i < hi := by omega
      simp [h1, this]
    · by_cases h2 : i = k
      · subst h2; simp [hkk]
      · simp [h1, h2]

theorem look_listed [DecidableEq α] (a i : Nat) (vs : List α) (h : a ≤ i) : look d (listed d a vs) i = vs.getD (i - a) d := by
  induction vs generalizing a with
  | nil => simp [listed, look]
  | cons v vs ih =>
    by_cases h1 : i = a
    · subst h1
      simp only [listed]
      split
      · rename_i hv
        simp [look_below d (canonical_listed d (i + 1) vs).1 (show i < i + 1 by omega), hv]
      · simp [look]
    · have h2 : a + 1 ≤ i := by omega
      have h3 : i - a = (i - (a + 1)) + 1 := by omega
      simp only [listed]
      split
      · rw [ih (a + 1) h2, h3]; simp
      · have h4 : ¬ i < a := by omega
        simp only [look, h4, if_false, h1]
        rw [ih (a + 1) h2, h3]; simp

/-- A memory in canonical form reads in a range what was written over it, and outside the range what it read before. -/
theorem look_setRange [DecidableEq α] {m : Sparse α} (a i : Nat) (vs : List α) (h : canonical d m = true) :
    look d (setRange d m a vs) i = if a ≤ i ∧ i < a + vs.length then vs.getD (i - a) d else look d m i := by
  have hc := (canonical_iff d m).mp h
  have hl := canonical_listed d a vs
  have hr : rising (a + vs.length) (m.filter fun kv => decide (a + vs.length ≤ kv.1)) = true :=
    rising_above (rising_filter _ hc.1) (fun kv hkv => by simpa using (List.mem_filter.mp hkv).2)
  unfold setRange
  rw [List.append_assoc, look_append d (hi := a) i (rising_filter _ hc.1) (fun kv hkv => by simpa using (List.mem_filter.mp hkv).2)
    (rising_append (hi := a + vs.length) (by omega) hl.1 (fun kv hkv => (hl.2 kv hkv).2) hr)]
  by_cases h1 : i < a
  · have h2 : ¬ (a ≤ i ∧ i < a + vs.length) := by omega
    rw [if_pos h1, if_neg h2, look_filter d (fun k => decide (k < a)) i hc.1]; simp [h1]
  · rw [if_neg h1, look_append d (hi := a + vs.length) i hl.1 (fun kv hkv => (hl.2 kv hkv).2) hr]
    by_cases h2 : i < a + vs.length
    · rw [if_pos h2, if_pos ⟨by omega, h2⟩, look_listed d a i vs (by omega)]
    · have h3 : ¬ (a ≤ i ∧ i < a + vs.length) := by omega
      rw [if_neg h2, if_neg h3, look_filter d (fun k => decide (a + vs.length ≤ k)) i hc.1]; simp; omega

theorem look_dropBelow {m : Sparse α} {a i : Nat} (h : a ≤ i) : look d (dropBelow a m) i = look d m i := by
  induction m with
  | nil => rfl
  | cons kw m ih =>
    obtain ⟨k, w⟩ := kw
    by_cases h1 : k < a
    · have h2 : ¬ i < k := by omega
      have h3 : ¬ i = k := by omega
      simp [dropBelow, look, h1, h2, h3, ih]
    · simp [dropBelow, h1]

theorem rising_dropBelow {m : Sparse α} {a lo : Nat} (h : rising lo m = true) : rising a (dropBelow a m) = true := by
  induction m generalizing lo with
  | nil => rfl
  | cons kw m ih =>
    obtain ⟨k, w⟩ := kw
    simp only [rising, Bool.and_eq_true, decide_eq_true_eq] at h
    by_cases h1 : k < a
    · simp [dropBelow, h1, ih h.2]
    · simp only [dropBelow, h1, if_false, rising, Bool.and_eq_true, decide_eq_true_eq]
      exact ⟨by omega, h.2⟩

/-- Reading a range is reading each of its keys. -/
theorem rangeOf_eq_map (n a : Nat) {m : Sparse α} {lo : Nat} (h : rising lo m = true) :
    rangeOf d n a m = (List.range' a n).map (look d m) := by
  induction n generalizing a m lo with
  | zero => rfl
  | succ n ih =>
    rw [List.range'_succ, List.map_cons, ← look_dropBelow d (Nat.le_refl a)]
    have hd := rising_dropBelow (a := a) h
    have hmap : (List.range' (a + 1) n).map (look d m) = (List.range' (a + 1) n).map (look d (dropBelow a m)) := by
      refine List.map_congr_left fun i hi => ?_
      rw [look_dropBelow d]; simp at hi; omega
    rw [hmap]
    unfold rangeOf
    cases hm : dropBelow a m with
    | nil => simp [look, ih (a + 1) (m := []) (lo := 0) rfl]
    | cons kw r =>
      obtain ⟨k, w⟩ := kw
      rw [hm] at hd
      have hd' := hd
      simp only [rising, Bool.and_eq_true, decide_eq_true_eq] at hd
      by_cases hk : k = a
      · subst hk
        simp only [if_true, look, Nat.lt_irrefl, if_false]
        rw [ih (k + 1) hd.2]
        congr 1
        refine List.map_congr_left fun i hi => ?_
        simp at hi
        have h1 : ¬ i < k := by omega
        have h2 : ¬ i = k := by omega
        simp [h1, h2]
      · have h1 : a < k := by omega
        simp only [hk, if_false, look, h1, if_true]
        rw [ih (a + 1) hd']
        rfl

theorem length_rangeOf (n a : Nat) (m : Sparse α) : (rangeOf d n a m).length = n := by
  induction n generalizing a m with
  | zero => rfl
  | succ n ih =>
    unfold rangeOf
    split
    · split <;> simp [ih]
    · simp [ih]

/-- A range reads what was written over it. -/
theorem rangeOf_setRange_same [DecidableEq α] {m : Sparse α} (a : Nat) (vs : List α) (h : canonical d m = true) :
    rangeOf d vs.length a (setRange d m a vs) = vs := by
  have hs := (canonical_iff d _).mp (canonical_setRange d a vs h)
  rw [rangeOf_eq_map d vs.length a hs.1]
  refine List.ext_getElem (by simp) fun i h1 h2 => ?_
  have h3 : i < vs.length := by simpa using h2
  simp [look_setRange d a (a + i) vs h, h3]

/-- A range that does not meet a written one reads what it read before. -/
theorem rangeOf_setRange_apart [DecidableEq α] {m : Sparse α} (a b n : Nat) (vs : List α) (h : canonical d m = true)
    (hab : b + n ≤ a ∨ a + vs.length ≤ b) : rangeOf d n b (setRange d m a vs) = rangeOf d n b m := by
  have hc := (canonical_iff d m).mp h
  have hs := (canonical_iff d _).mp (canonical_setRange d a vs h)
  rw [rangeOf_eq_map d n b hs.1, rangeOf_eq_map d n b hc.1]
  refine List.map_congr_left fun i hi => ?_
  simp at hi
  have : ¬ (a ≤ i ∧ i < a + vs.length) := by omega
  simp [look_setRange d a i vs h, this]

end ReadWrite

/-! ## Numbers as bytes -/

@[simp] theorem length_bytesOf (n v : Nat) : (bytesOf n v).length = n := by
  induction n generalizing v with
  | zero => rfl
  | succ n ih => simp [bytesOf, ih]

theorem ofBytes_bytesOf (n v : Nat) : ofBytes (bytesOf n v) = v % 256 ^ n := by
  induction n generalizing v with
  | zero => simp [bytesOf, ofBytes, Nat.mod_one]
  | succ n ih =>
    rw [Nat.pow_succ', Nat.mod_mul, ← ih]
    rfl

/-- A number reads back from the bytes that it was written to. -/
theorem rdN_wrN_same {m : List Host.Cell} (a n v : Nat) (h : canonical 0 m = true) : rdN (wrN m a n v) a n = v % 256 ^ n := by
  have := rangeOf_setRange_same (0 : BitVec 8) a (bytesOf n v) h
  rw [length_bytesOf] at this
  simp only [rdN, wrN, this, ofBytes_bytesOf]

theorem rdN_wrN_apart {m : List Host.Cell} (a n v b k : Nat) (h : canonical 0 m = true) (hab : b + k ≤ a ∨ a + n ≤ b) :
    rdN (wrN m a n v) b k = rdN m b k := by
  simp only [rdN, wrN, rangeOf_setRange_apart (0 : BitVec 8) a b k (bytesOf n v) h (by simpa using hab)]

theorem canonical_wrN {m : List Host.Cell} (a n v : Nat) (h : canonical 0 m = true) : canonical 0 (wrN m a n v) = true :=
  canonical_setRange 0 a (bytesOf n v) h

theorem canonical_wrListed {m : List Host.Cell} (base : Nat) (bs : Sparse (BitVec 8)) (h : canonical 0 m = true) :
    canonical 0 (wrListed m base bs) = true := by
  induction bs generalizing m with
  | nil => exact h
  | cons kb bs ih => exact ih (canonical_put 0 _ _ h)

/-! ## Stores -/

theorem Store.wf_iff (st : Store) : st.wf = true ↔ canonical 0 st.bytes = true ∧ canonical false st.tags = true
    ∧ canonical false st.full = true ∧ canonical 0 st.syn = true := by
  simp [Store.wf, and_assoc]

theorem Store.wf_reset : Store.reset.wf = true := rfl

theorem Store.wf_settle {st : Store} (w : Nat) (h : st.wf = true) : (st.settle w).wf = true := by
  rw [Store.wf_iff] at *
  unfold Store.settle
  split
  · dsimp only
    refine ⟨?_, h.2.1, h.2.2.1, canonical_put 0 _ _ h.2.2.2⟩
    split
    · exact canonical_wrN _ _ _ h.1
    · exact h.1
  · exact h

theorem Store.wf_settleAll {st : Store} (a n : Nat) (h : st.wf = true) : (st.settleAll a n).wf = true := by
  unfold Store.settleAll
  induction wordsOf a n generalizing st with
  | nil => exact h
  | cons w ws ih => exact ih (Store.wf_settle w h)

theorem Store.wf_write {st : Store} (a n v : Nat) (h : st.wf = true) : (st.write a n v).wf = true := by
  have hs := (Store.wf_iff _).mp (Store.wf_settleAll a n h)
  rw [Store.wf_iff]
  exact ⟨canonical_wrN a n v hs.1, canonical_foldl_put false _ (fun g => g) (fun _ _ => false) hs.2.1, hs.2.2.1,
    canonical_foldl_put 0 _ (fun w => w) (fun _ w => synAfter (st.settleAll a n) a n w) hs.2.2.2⟩

theorem Store.wf_writeTagged {st : Store} (a v : Nat) (tag : Bool) (h : st.wf = true) : (st.writeTagged a v tag).wf = true := by
  have hs := (Store.wf_iff _).mp (Store.wf_write a 16 v h)
  rw [Store.wf_iff]
  exact ⟨hs.1, canonical_put false _ _ hs.2.1, hs.2.2.1, hs.2.2.2⟩

theorem Store.wf_setFull {st : Store} (a : Nat) (f : Bool) (h : st.wf = true) : (st.setFull a f).wf = true := by
  rw [Store.wf_iff] at *
  exact ⟨h.1, h.2.1, canonical_put false _ _ h.2.2.1, h.2.2.2⟩

theorem Store.wf_makePoison {st : Store} (a n : Nat) (h : st.wf = true) : (st.makePoison a n).wf = true := by
  rw [Store.wf_iff] at *
  exact ⟨h.1, h.2.1, h.2.2.1, canonical_foldl_put 0 _ (fun w => w) (fun _ _ => 0xFF) h.2.2.2⟩

theorem Store.wf_scrub {st : Store} (a n : Nat) (h : st.wf = true) : (st.scrub a n).wf = true := by
  rw [Store.wf_iff] at *
  exact ⟨canonical_filter 0 _ h.1, canonical_filter false _ h.2.1, canonical_filter false _ h.2.2.1, canonical_filter 0 _ h.2.2.2⟩

end Sys2Proof.Machine
end

