-- ==== Sys2Proof/Laws/State.lean ====
section
/-! SUPPORT. What each update of the state changes and leaves alone: one equation for each field under each update. -/

namespace Sys2Proof.Machine

/-! ## `State.setSlot` -/

@[simp] theorem State.setSlot_cur (s : State) (g : Nat) (x : Slot) : (s.setSlot g x).cur = s.cur := rfl
@[simp] theorem State.setSlot_sched (s : State) (g : Nat) (x : Slot) : (s.setSlot g x).sched = s.sched := rfl
@[simp] theorem State.setSlot_inbox (s : State) (g : Nat) (x : Slot) : (s.setSlot g x).inbox = s.inbox := rfl
@[simp] theorem State.setSlot_free (s : State) (g : Nat) (x : Slot) : (s.setSlot g x).free = s.free := rfl
@[simp] theorem State.setSlot_nextId (s : State) (g : Nat) (x : Slot) : (s.setSlot g x).nextId = s.nextId := rfl
@[simp] theorem State.setSlot_cores (s : State) (g : Nat) (x : Slot) : (s.setSlot g x).cores = s.cores := rfl
@[simp] theorem State.setSlot_clusters (s : State) (g : Nat) (x : Slot) : (s.setSlot g x).clusters = s.clusters := rfl
@[simp] theorem State.setSlot_dies (s : State) (g : Nat) (x : Slot) : (s.setSlot g x).dies = s.dies := rfl
@[simp] theorem State.setSlot_parts (s : State) (g : Nat) (x : Slot) : (s.setSlot g x).parts = s.parts := rfl
@[simp] theorem State.setSlot_engines (s : State) (g : Nat) (x : Slot) : (s.setSlot g x).engines = s.engines := rfl
@[simp] theorem State.setSlot_contexts (s : State) (g : Nat) (x : Slot) : (s.setSlot g x).contexts = s.contexts := rfl
@[simp] theorem State.setSlot_cached (s : State) (g : Nat) (x : Slot) : (s.setSlot g x).cached = s.cached := rfl
@[simp] theorem State.setSlot_products (s : State) (g : Nat) (x : Slot) : (s.setSlot g x).products = s.products := rfl
@[simp] theorem State.setSlot_openVals (s : State) (g : Nat) (x : Slot) : (s.setSlot g x).openVals = s.openVals := rfl
@[simp] theorem State.setSlot_sram (s : State) (g : Nat) (x : Slot) : (s.setSlot g x).sram = s.sram := rfl
@[simp] theorem State.setSlot_dev (s : State) (g : Nat) (x : Slot) : (s.setSlot g x).dev = s.dev := rfl
@[simp] theorem State.setSlot_lineKey (s : State) (g : Nat) (x : Slot) : (s.setSlot g x).lineKey = s.lineKey := rfl
@[simp] theorem State.setSlot_parity (s : State) (g : Nat) (x : Slot) : (s.setSlot g x).parity = s.parity := rfl
@[simp] theorem State.setSlot_parSyn (s : State) (g : Nat) (x : Slot) : (s.setSlot g x).parSyn = s.parSyn := rfl
@[simp] theorem State.setSlot_stale (s : State) (g : Nat) (x : Slot) : (s.setSlot g x).stale = s.stale := rfl
@[simp] theorem State.setSlot_rebuilds (s : State) (g : Nat) (x : Slot) : (s.setSlot g x).rebuilds = s.rebuilds := rfl
@[simp] theorem State.setSlot_net (s : State) (g : Nat) (x : Slot) : (s.setSlot g x).net = s.net := rfl
@[simp] theorem State.setSlot_walks (s : State) (g : Nat) (x : Slot) : (s.setSlot g x).walks = s.walks := rfl
@[simp] theorem State.setSlot_stores (s : State) (g : Nat) (x : Slot) : (s.setSlot g x).stores = s.stores := rfl
@[simp] theorem State.setSlot_diffs (s : State) (g : Nat) (x : Slot) : (s.setSlot g x).diffs = s.diffs := rfl
@[simp] theorem State.setSlot_invals (s : State) (g : Nat) (x : Slot) : (s.setSlot g x).invals = s.invals := rfl
@[simp] theorem State.setSlot_commits (s : State) (g : Nat) (x : Slot) : (s.setSlot g x).commits = s.commits := rfl
@[simp] theorem State.setSlot_reports (s : State) (g : Nat) (x : Slot) : (s.setSlot g x).reports = s.reports := rfl
@[simp] theorem State.setSlot_decs (s : State) (g : Nat) (x : Slot) : (s.setSlot g x).decs = s.decs := rfl
@[simp] theorem State.setSlot_pairs (s : State) (g : Nat) (x : Slot) : (s.setSlot g x).pairs = s.pairs := rfl
@[simp] theorem State.setSlot_sweep (s : State) (g : Nat) (x : Slot) : (s.setSlot g x).sweep = s.sweep := rfl
@[simp] theorem State.setSlot_chip (s : State) (g : Nat) (x : Slot) : (s.setSlot g x).chip = s.chip := rfl
@[simp] theorem State.setSlot_weights (s : State) (g : Nat) (x : Slot) : (s.setSlot g x).weights = s.weights := rfl
@[simp] theorem State.setSlot_planes (s : State) (g : Nat) (x : Slot) : (s.setSlot g x).planes = s.planes := rfl
@[simp] theorem State.setSlot_lost (s : State) (g : Nat) (x : Slot) : (s.setSlot g x).lost = s.lost := rfl
@[simp] theorem State.setSlot_retired (s : State) (g : Nat) (x : Slot) : (s.setSlot g x).retired = s.retired := rfl
@[simp] theorem State.setSlot_pageErrs (s : State) (g : Nat) (x : Slot) : (s.setSlot g x).pageErrs = s.pageErrs := rfl
@[simp] theorem State.setSlot_acl (s : State) (g : Nat) (x : Slot) : (s.setSlot g x).acl = s.acl := rfl
@[simp] theorem State.setSlot_keys (s : State) (g : Nat) (x : Slot) : (s.setSlot g x).keys = s.keys := rfl
@[simp] theorem State.setSlot_keySeq (s : State) (g : Nat) (x : Slot) : (s.setSlot g x).keySeq = s.keySeq := rfl
@[simp] theorem State.setSlot_stopped (s : State) (g : Nat) (x : Slot) : (s.setSlot g x).stopped = s.stopped := rfl
@[simp] theorem State.setSlot_partStep (s : State) (g : Nat) (x : Slot) : (s.setSlot g x).partStep = s.partStep := rfl
@[simp] theorem State.setSlot_stackHot (s : State) (g : Nat) (x : Slot) : (s.setSlot g x).stackHot = s.stackHot := rfl
@[simp] theorem State.setSlot_vfIrqs (s : State) (g : Nat) (x : Slot) : (s.setSlot g x).vfIrqs = s.vfIrqs := rfl
@[simp] theorem State.setSlot_vfReply (s : State) (g : Nat) (x : Slot) : (s.setSlot g x).vfReply = s.vfReply := rfl
@[simp] theorem State.setSlot_peerOut (s : State) (g : Nat) (x : Slot) : (s.setSlot g x).peerOut = s.peerOut := rfl
@[simp] theorem State.setSlot_hawk (s : State) (g : Nat) (x : Slot) : (s.setSlot g x).hawk = s.hawk := rfl

/-! ## `State.setCore` -/

@[simp] theorem State.setCore_cur (s : State) (c : Nat) (x : Core) : (s.setCore c x).cur = s.cur := rfl
@[simp] theorem State.setCore_sched (s : State) (c : Nat) (x : Core) : (s.setCore c x).sched = s.sched := rfl
@[simp] theorem State.setCore_inbox (s : State) (c : Nat) (x : Core) : (s.setCore c x).inbox = s.inbox := rfl
@[simp] theorem State.setCore_free (s : State) (c : Nat) (x : Core) : (s.setCore c x).free = s.free := rfl
@[simp] theorem State.setCore_nextId (s : State) (c : Nat) (x : Core) : (s.setCore c x).nextId = s.nextId := rfl
@[simp] theorem State.setCore_slots (s : State) (c : Nat) (x : Core) : (s.setCore c x).slots = s.slots := rfl
@[simp] theorem State.setCore_clusters (s : State) (c : Nat) (x : Core) : (s.setCore c x).clusters = s.clusters := rfl
@[simp] theorem State.setCore_dies (s : State) (c : Nat) (x : Core) : (s.setCore c x).dies = s.dies := rfl
@[simp] theorem State.setCore_parts (s : State) (c : Nat) (x : Core) : (s.setCore c x).parts = s.parts := rfl
@[simp] theorem State.setCore_engines (s : State) (c : Nat) (x : Core) : (s.setCore c x).engines = s.engines := rfl
@[simp] theorem State.setCore_contexts (s : State) (c : Nat) (x : Core) : (s.setCore c x).contexts = s.contexts := rfl
@[simp] theorem State.setCore_cached (s : State) (c : Nat) (x : Core) : (s.setCore c x).cached = s.cached := rfl
@[simp] theorem State.setCore_products (s : State) (c : Nat) (x : Core) : (s.setCore c x).products = s.products := rfl
@[simp] theorem State.setCore_openVals (s : State) (c : Nat) (x : Core) : (s.setCore c x).openVals = s.openVals := rfl
@[simp] theorem State.setCore_sram (s : State) (c : Nat) (x : Core) : (s.setCore c x).sram = s.sram := rfl
@[simp] theorem State.setCore_dev (s : State) (c : Nat) (x : Core) : (s.setCore c x).dev = s.dev := rfl
@[simp] theorem State.setCore_lineKey (s : State) (c : Nat) (x : Core) : (s.setCore c x).lineKey = s.lineKey := rfl
@[simp] theorem State.setCore_parity (s : State) (c : Nat) (x : Core) : (s.setCore c x).parity = s.parity := rfl
@[simp] theorem State.setCore_parSyn (s : State) (c : Nat) (x : Core) : (s.setCore c x).parSyn = s.parSyn := rfl
@[simp] theorem State.setCore_stale (s : State) (c : Nat) (x : Core) : (s.setCore c x).stale = s.stale := rfl
@[simp] theorem State.setCore_rebuilds (s : State) (c : Nat) (x : Core) : (s.setCore c x).rebuilds = s.rebuilds := rfl
@[simp] theorem State.setCore_net (s : State) (c : Nat) (x : Core) : (s.setCore c x).net = s.net := rfl
@[simp] theorem State.setCore_walks (s : State) (c : Nat) (x : Core) : (s.setCore c x).walks = s.walks := rfl
@[simp] theorem State.setCore_stores (s : State) (c : Nat) (x : Core) : (s.setCore c x).stores = s.stores := rfl
@[simp] theorem State.setCore_diffs (s : State) (c : Nat) (x : Core) : (s.setCore c x).diffs = s.diffs := rfl
@[simp] theorem State.setCore_invals (s : State) (c : Nat) (x : Core) : (s.setCore c x).invals = s.invals := rfl
@[simp] theorem State.setCore_commits (s : State) (c : Nat) (x : Core) : (s.setCore c x).commits = s.commits := rfl
@[simp] theorem State.setCore_reports (s : State) (c : Nat) (x : Core) : (s.setCore c x).reports = s.reports := rfl
@[simp] theorem State.setCore_decs (s : State) (c : Nat) (x : Core) : (s.setCore c x).decs = s.decs := rfl
@[simp] theorem State.setCore_pairs (s : State) (c : Nat) (x : Core) : (s.setCore c x).pairs = s.pairs := rfl
@[simp] theorem State.setCore_sweep (s : State) (c : Nat) (x : Core) : (s.setCore c x).sweep = s.sweep := rfl
@[simp] theorem State.setCore_chip (s : State) (c : Nat) (x : Core) : (s.setCore c x).chip = s.chip := rfl
@[simp] theorem State.setCore_weights (s : State) (c : Nat) (x : Core) : (s.setCore c x).weights = s.weights := rfl
@[simp] theorem State.setCore_planes (s : State) (c : Nat) (x : Core) : (s.setCore c x).planes = s.planes := rfl
@[simp] theorem State.setCore_lost (s : State) (c : Nat) (x : Core) : (s.setCore c x).lost = s.lost := rfl
@[simp] theorem State.setCore_retired (s : State) (c : Nat) (x : Core) : (s.setCore c x).retired = s.retired := rfl
@[simp] theorem State.setCore_pageErrs (s : State) (c : Nat) (x : Core) : (s.setCore c x).pageErrs = s.pageErrs := rfl
@[simp] theorem State.setCore_acl (s : State) (c : Nat) (x : Core) : (s.setCore c x).acl = s.acl := rfl
@[simp] theorem State.setCore_keys (s : State) (c : Nat) (x : Core) : (s.setCore c x).keys = s.keys := rfl
@[simp] theorem State.setCore_keySeq (s : State) (c : Nat) (x : Core) : (s.setCore c x).keySeq = s.keySeq := rfl
@[simp] theorem State.setCore_stopped (s : State) (c : Nat) (x : Core) : (s.setCore c x).stopped = s.stopped := rfl
@[simp] theorem State.setCore_partStep (s : State) (c : Nat) (x : Core) : (s.setCore c x).partStep = s.partStep := rfl
@[simp] theorem State.setCore_stackHot (s : State) (c : Nat) (x : Core) : (s.setCore c x).stackHot = s.stackHot := rfl
@[simp] theorem State.setCore_vfIrqs (s : State) (c : Nat) (x : Core) : (s.setCore c x).vfIrqs = s.vfIrqs := rfl
@[simp] theorem State.setCore_vfReply (s : State) (c : Nat) (x : Core) : (s.setCore c x).vfReply = s.vfReply := rfl
@[simp] theorem State.setCore_peerOut (s : State) (c : Nat) (x : Core) : (s.setCore c x).peerOut = s.peerOut := rfl
@[simp] theorem State.setCore_hawk (s : State) (c : Nat) (x : Core) : (s.setCore c x).hawk = s.hawk := rfl

/-! ## `State.setCluster` -/

@[simp] theorem State.setCluster_cur (s : State) (cl : Nat) (x : Cluster) : (s.setCluster cl x).cur = s.cur := rfl
@[simp] theorem State.setCluster_sched (s : State) (cl : Nat) (x : Cluster) : (s.setCluster cl x).sched = s.sched := rfl
@[simp] theorem State.setCluster_inbox (s : State) (cl : Nat) (x : Cluster) : (s.setCluster cl x).inbox = s.inbox := rfl
@[simp] theorem State.setCluster_free (s : State) (cl : Nat) (x : Cluster) : (s.setCluster cl x).free = s.free := rfl
@[simp] theorem State.setCluster_nextId (s : State) (cl : Nat) (x : Cluster) : (s.setCluster cl x).nextId = s.nextId := rfl
@[simp] theorem State.setCluster_slots (s : State) (cl : Nat) (x : Cluster) : (s.setCluster cl x).slots = s.slots := rfl
@[simp] theorem State.setCluster_cores (s : State) (cl : Nat) (x : Cluster) : (s.setCluster cl x).cores = s.cores := rfl
@[simp] theorem State.setCluster_dies (s : State) (cl : Nat) (x : Cluster) : (s.setCluster cl x).dies = s.dies := rfl
@[simp] theorem State.setCluster_parts (s : State) (cl : Nat) (x : Cluster) : (s.setCluster cl x).parts = s.parts := rfl
@[simp] theorem State.setCluster_engines (s : State) (cl : Nat) (x : Cluster) : (s.setCluster cl x).engines = s.engines := rfl
@[simp] theorem State.setCluster_contexts (s : State) (cl : Nat) (x : Cluster) : (s.setCluster cl x).contexts = s.contexts := rfl
@[simp] theorem State.setCluster_cached (s : State) (cl : Nat) (x : Cluster) : (s.setCluster cl x).cached = s.cached := rfl
@[simp] theorem State.setCluster_products (s : State) (cl : Nat) (x : Cluster) : (s.setCluster cl x).products = s.products := rfl
@[simp] theorem State.setCluster_openVals (s : State) (cl : Nat) (x : Cluster) : (s.setCluster cl x).openVals = s.openVals := rfl
@[simp] theorem State.setCluster_sram (s : State) (cl : Nat) (x : Cluster) : (s.setCluster cl x).sram = s.sram := rfl
@[simp] theorem State.setCluster_dev (s : State) (cl : Nat) (x : Cluster) : (s.setCluster cl x).dev = s.dev := rfl
@[simp] theorem State.setCluster_lineKey (s : State) (cl : Nat) (x : Cluster) : (s.setCluster cl x).lineKey = s.lineKey := rfl
@[simp] theorem State.setCluster_parity (s : State) (cl : Nat) (x : Cluster) : (s.setCluster cl x).parity = s.parity := rfl
@[simp] theorem State.setCluster_parSyn (s : State) (cl : Nat) (x : Cluster) : (s.setCluster cl x).parSyn = s.parSyn := rfl
@[simp] theorem State.setCluster_stale (s : State) (cl : Nat) (x : Cluster) : (s.setCluster cl x).stale = s.stale := rfl
@[simp] theorem State.setCluster_rebuilds (s : State) (cl : Nat) (x : Cluster) : (s.setCluster cl x).rebuilds = s.rebuilds := rfl
@[simp] theorem State.setCluster_net (s : State) (cl : Nat) (x : Cluster) : (s.setCluster cl x).net = s.net := rfl
@[simp] theorem State.setCluster_walks (s : State) (cl : Nat) (x : Cluster) : (s.setCluster cl x).walks = s.walks := rfl
@[simp] theorem State.setCluster_stores (s : State) (cl : Nat) (x : Cluster) : (s.setCluster cl x).stores = s.stores := rfl
@[simp] theorem State.setCluster_diffs (s : State) (cl : Nat) (x : Cluster) : (s.setCluster cl x).diffs = s.diffs := rfl
@[simp] theorem State.setCluster_invals (s : State) (cl : Nat) (x : Cluster) : (s.setCluster cl x).invals = s.invals := rfl
@[simp] theorem State.setCluster_commits (s : State) (cl : Nat) (x : Cluster) : (s.setCluster cl x).commits = s.commits := rfl
@[simp] theorem State.setCluster_reports (s : State) (cl : Nat) (x : Cluster) : (s.setCluster cl x).reports = s.reports := rfl
@[simp] theorem State.setCluster_decs (s : State) (cl : Nat) (x : Cluster) : (s.setCluster cl x).decs = s.decs := rfl
@[simp] theorem State.setCluster_pairs (s : State) (cl : Nat) (x : Cluster) : (s.setCluster cl x).pairs = s.pairs := rfl
@[simp] theorem State.setCluster_sweep (s : State) (cl : Nat) (x : Cluster) : (s.setCluster cl x).sweep = s.sweep := rfl
@[simp] theorem State.setCluster_chip (s : State) (cl : Nat) (x : Cluster) : (s.setCluster cl x).chip = s.chip := rfl
@[simp] theorem State.setCluster_weights (s : State) (cl : Nat) (x : Cluster) : (s.setCluster cl x).weights = s.weights := rfl
@[simp] theorem State.setCluster_planes (s : State) (cl : Nat) (x : Cluster) : (s.setCluster cl x).planes = s.planes := rfl
@[simp] theorem State.setCluster_lost (s : State) (cl : Nat) (x : Cluster) : (s.setCluster cl x).lost = s.lost := rfl
@[simp] theorem State.setCluster_retired (s : State) (cl : Nat) (x : Cluster) : (s.setCluster cl x).retired = s.retired := rfl
@[simp] theorem State.setCluster_pageErrs (s : State) (cl : Nat) (x : Cluster) : (s.setCluster cl x).pageErrs = s.pageErrs := rfl
@[simp] theorem State.setCluster_acl (s : State) (cl : Nat) (x : Cluster) : (s.setCluster cl x).acl = s.acl := rfl
@[simp] theorem State.setCluster_keys (s : State) (cl : Nat) (x : Cluster) : (s.setCluster cl x).keys = s.keys := rfl
@[simp] theorem State.setCluster_keySeq (s : State) (cl : Nat) (x : Cluster) : (s.setCluster cl x).keySeq = s.keySeq := rfl
@[simp] theorem State.setCluster_stopped (s : State) (cl : Nat) (x : Cluster) : (s.setCluster cl x).stopped = s.stopped := rfl
@[simp] theorem State.setCluster_partStep (s : State) (cl : Nat) (x : Cluster) : (s.setCluster cl x).partStep = s.partStep := rfl
@[simp] theorem State.setCluster_stackHot (s : State) (cl : Nat) (x : Cluster) : (s.setCluster cl x).stackHot = s.stackHot := rfl
@[simp] theorem State.setCluster_vfIrqs (s : State) (cl : Nat) (x : Cluster) : (s.setCluster cl x).vfIrqs = s.vfIrqs := rfl
@[simp] theorem State.setCluster_vfReply (s : State) (cl : Nat) (x : Cluster) : (s.setCluster cl x).vfReply = s.vfReply := rfl
@[simp] theorem State.setCluster_peerOut (s : State) (cl : Nat) (x : Cluster) : (s.setCluster cl x).peerOut = s.peerOut := rfl
@[simp] theorem State.setCluster_hawk (s : State) (cl : Nat) (x : Cluster) : (s.setCluster cl x).hawk = s.hawk := rfl

/-! ## `State.setDie` -/

@[simp] theorem State.setDie_cur (s : State) (d : Nat) (x : Die) : (s.setDie d x).cur = s.cur := rfl
@[simp] theorem State.setDie_sched (s : State) (d : Nat) (x : Die) : (s.setDie d x).sched = s.sched := rfl
@[simp] theorem State.setDie_inbox (s : State) (d : Nat) (x : Die) : (s.setDie d x).inbox = s.inbox := rfl
@[simp] theorem State.setDie_free (s : State) (d : Nat) (x : Die) : (s.setDie d x).free = s.free := rfl
@[simp] theorem State.setDie_nextId (s : State) (d : Nat) (x : Die) : (s.setDie d x).nextId = s.nextId := rfl
@[simp] theorem State.setDie_slots (s : State) (d : Nat) (x : Die) : (s.setDie d x).slots = s.slots := rfl
@[simp] theorem State.setDie_cores (s : State) (d : Nat) (x : Die) : (s.setDie d x).cores = s.cores := rfl
@[simp] theorem State.setDie_clusters (s : State) (d : Nat) (x : Die) : (s.setDie d x).clusters = s.clusters := rfl
@[simp] theorem State.setDie_parts (s : State) (d : Nat) (x : Die) : (s.setDie d x).parts = s.parts := rfl
@[simp] theorem State.setDie_engines (s : State) (d : Nat) (x : Die) : (s.setDie d x).engines = s.engines := rfl
@[simp] theorem State.setDie_contexts (s : State) (d : Nat) (x : Die) : (s.setDie d x).contexts = s.contexts := rfl
@[simp] theorem State.setDie_cached (s : State) (d : Nat) (x : Die) : (s.setDie d x).cached = s.cached := rfl
@[simp] theorem State.setDie_products (s : State) (d : Nat) (x : Die) : (s.setDie d x).products = s.products := rfl
@[simp] theorem State.setDie_openVals (s : State) (d : Nat) (x : Die) : (s.setDie d x).openVals = s.openVals := rfl
@[simp] theorem State.setDie_sram (s : State) (d : Nat) (x : Die) : (s.setDie d x).sram = s.sram := rfl
@[simp] theorem State.setDie_dev (s : State) (d : Nat) (x : Die) : (s.setDie d x).dev = s.dev := rfl
@[simp] theorem State.setDie_lineKey (s : State) (d : Nat) (x : Die) : (s.setDie d x).lineKey = s.lineKey := rfl
@[simp] theorem State.setDie_parity (s : State) (d : Nat) (x : Die) : (s.setDie d x).parity = s.parity := rfl
@[simp] theorem State.setDie_parSyn (s : State) (d : Nat) (x : Die) : (s.setDie d x).parSyn = s.parSyn := rfl
@[simp] theorem State.setDie_stale (s : State) (d : Nat) (x : Die) : (s.setDie d x).stale = s.stale := rfl
@[simp] theorem State.setDie_rebuilds (s : State) (d : Nat) (x : Die) : (s.setDie d x).rebuilds = s.rebuilds := rfl
@[simp] theorem State.setDie_net (s : State) (d : Nat) (x : Die) : (s.setDie d x).net = s.net := rfl
@[simp] theorem State.setDie_walks (s : State) (d : Nat) (x : Die) : (s.setDie d x).walks = s.walks := rfl
@[simp] theorem State.setDie_stores (s : State) (d : Nat) (x : Die) : (s.setDie d x).stores = s.stores := rfl
@[simp] theorem State.setDie_diffs (s : State) (d : Nat) (x : Die) : (s.setDie d x).diffs = s.diffs := rfl
@[simp] theorem State.setDie_invals (s : State) (d : Nat) (x : Die) : (s.setDie d x).invals = s.invals := rfl
@[simp] theorem State.setDie_commits (s : State) (d : Nat) (x : Die) : (s.setDie d x).commits = s.commits := rfl
@[simp] theorem State.setDie_reports (s : State) (d : Nat) (x : Die) : (s.setDie d x).reports = s.reports := rfl
@[simp] theorem State.setDie_decs (s : State) (d : Nat) (x : Die) : (s.setDie d x).decs = s.decs := rfl
@[simp] theorem State.setDie_pairs (s : State) (d : Nat) (x : Die) : (s.setDie d x).pairs = s.pairs := rfl
@[simp] theorem State.setDie_sweep (s : State) (d : Nat) (x : Die) : (s.setDie d x).sweep = s.sweep := rfl
@[simp] theorem State.setDie_chip (s : State) (d : Nat) (x : Die) : (s.setDie d x).chip = s.chip := rfl
@[simp] theorem State.setDie_weights (s : State) (d : Nat) (x : Die) : (s.setDie d x).weights = s.weights := rfl
@[simp] theorem State.setDie_planes (s : State) (d : Nat) (x : Die) : (s.setDie d x).planes = s.planes := rfl
@[simp] theorem State.setDie_lost (s : State) (d : Nat) (x : Die) : (s.setDie d x).lost = s.lost := rfl
@[simp] theorem State.setDie_retired (s : State) (d : Nat) (x : Die) : (s.setDie d x).retired = s.retired := rfl
@[simp] theorem State.setDie_pageErrs (s : State) (d : Nat) (x : Die) : (s.setDie d x).pageErrs = s.pageErrs := rfl
@[simp] theorem State.setDie_acl (s : State) (d : Nat) (x : Die) : (s.setDie d x).acl = s.acl := rfl
@[simp] theorem State.setDie_keys (s : State) (d : Nat) (x : Die) : (s.setDie d x).keys = s.keys := rfl
@[simp] theorem State.setDie_keySeq (s : State) (d : Nat) (x : Die) : (s.setDie d x).keySeq = s.keySeq := rfl
@[simp] theorem State.setDie_stopped (s : State) (d : Nat) (x : Die) : (s.setDie d x).stopped = s.stopped := rfl
@[simp] theorem State.setDie_partStep (s : State) (d : Nat) (x : Die) : (s.setDie d x).partStep = s.partStep := rfl
@[simp] theorem State.setDie_stackHot (s : State) (d : Nat) (x : Die) : (s.setDie d x).stackHot = s.stackHot := rfl
@[simp] theorem State.setDie_vfIrqs (s : State) (d : Nat) (x : Die) : (s.setDie d x).vfIrqs = s.vfIrqs := rfl
@[simp] theorem State.setDie_vfReply (s : State) (d : Nat) (x : Die) : (s.setDie d x).vfReply = s.vfReply := rfl
@[simp] theorem State.setDie_peerOut (s : State) (d : Nat) (x : Die) : (s.setDie d x).peerOut = s.peerOut := rfl
@[simp] theorem State.setDie_hawk (s : State) (d : Nat) (x : Die) : (s.setDie d x).hawk = s.hawk := rfl

/-! ## `State.setPart` -/

@[simp] theorem State.setPart_cur (s : State) (p : Nat) (x : Partition) : (s.setPart p x).cur = s.cur := rfl
@[simp] theorem State.setPart_sched (s : State) (p : Nat) (x : Partition) : (s.setPart p x).sched = s.sched := rfl
@[simp] theorem State.setPart_inbox (s : State) (p : Nat) (x : Partition) : (s.setPart p x).inbox = s.inbox := rfl
@[simp] theorem State.setPart_free (s : State) (p : Nat) (x : Partition) : (s.setPart p x).free = s.free := rfl
@[simp] theorem State.setPart_nextId (s : State) (p : Nat) (x : Partition) : (s.setPart p x).nextId = s.nextId := rfl
@[simp] theorem State.setPart_slots (s : State) (p : Nat) (x : Partition) : (s.setPart p x).slots = s.slots := rfl
@[simp] theorem State.setPart_cores (s : State) (p : Nat) (x : Partition) : (s.setPart p x).cores = s.cores := rfl
@[simp] theorem State.setPart_clusters (s : State) (p : Nat) (x : Partition) : (s.setPart p x).clusters = s.clusters := rfl
@[simp] theorem State.setPart_dies (s : State) (p : Nat) (x : Partition) : (s.setPart p x).dies = s.dies := rfl
@[simp] theorem State.setPart_engines (s : State) (p : Nat) (x : Partition) : (s.setPart p x).engines = s.engines := rfl
@[simp] theorem State.setPart_contexts (s : State) (p : Nat) (x : Partition) : (s.setPart p x).contexts = s.contexts := rfl
@[simp] theorem State.setPart_cached (s : State) (p : Nat) (x : Partition) : (s.setPart p x).cached = s.cached := rfl
@[simp] theorem State.setPart_products (s : State) (p : Nat) (x : Partition) : (s.setPart p x).products = s.products := rfl
@[simp] theorem State.setPart_openVals (s : State) (p : Nat) (x : Partition) : (s.setPart p x).openVals = s.openVals := rfl
@[simp] theorem State.setPart_sram (s : State) (p : Nat) (x : Partition) : (s.setPart p x).sram = s.sram := rfl
@[simp] theorem State.setPart_dev (s : State) (p : Nat) (x : Partition) : (s.setPart p x).dev = s.dev := rfl
@[simp] theorem State.setPart_lineKey (s : State) (p : Nat) (x : Partition) : (s.setPart p x).lineKey = s.lineKey := rfl
@[simp] theorem State.setPart_parity (s : State) (p : Nat) (x : Partition) : (s.setPart p x).parity = s.parity := rfl
@[simp] theorem State.setPart_parSyn (s : State) (p : Nat) (x : Partition) : (s.setPart p x).parSyn = s.parSyn := rfl
@[simp] theorem State.setPart_stale (s : State) (p : Nat) (x : Partition) : (s.setPart p x).stale = s.stale := rfl
@[simp] theorem State.setPart_rebuilds (s : State) (p : Nat) (x : Partition) : (s.setPart p x).rebuilds = s.rebuilds := rfl
@[simp] theorem State.setPart_net (s : State) (p : Nat) (x : Partition) : (s.setPart p x).net = s.net := rfl
@[simp] theorem State.setPart_walks (s : State) (p : Nat) (x : Partition) : (s.setPart p x).walks = s.walks := rfl
@[simp] theorem State.setPart_stores (s : State) (p : Nat) (x : Partition) : (s.setPart p x).stores = s.stores := rfl
@[simp] theorem State.setPart_diffs (s : State) (p : Nat) (x : Partition) : (s.setPart p x).diffs = s.diffs := rfl
@[simp] theorem State.setPart_invals (s : State) (p : Nat) (x : Partition) : (s.setPart p x).invals = s.invals := rfl
@[simp] theorem State.setPart_commits (s : State) (p : Nat) (x : Partition) : (s.setPart p x).commits = s.commits := rfl
@[simp] theorem State.setPart_reports (s : State) (p : Nat) (x : Partition) : (s.setPart p x).reports = s.reports := rfl
@[simp] theorem State.setPart_decs (s : State) (p : Nat) (x : Partition) : (s.setPart p x).decs = s.decs := rfl
@[simp] theorem State.setPart_pairs (s : State) (p : Nat) (x : Partition) : (s.setPart p x).pairs = s.pairs := rfl
@[simp] theorem State.setPart_sweep (s : State) (p : Nat) (x : Partition) : (s.setPart p x).sweep = s.sweep := rfl
@[simp] theorem State.setPart_chip (s : State) (p : Nat) (x : Partition) : (s.setPart p x).chip = s.chip := rfl
@[simp] theorem State.setPart_weights (s : State) (p : Nat) (x : Partition) : (s.setPart p x).weights = s.weights := rfl
@[simp] theorem State.setPart_planes (s : State) (p : Nat) (x : Partition) : (s.setPart p x).planes = s.planes := rfl
@[simp] theorem State.setPart_lost (s : State) (p : Nat) (x : Partition) : (s.setPart p x).lost = s.lost := rfl
@[simp] theorem State.setPart_retired (s : State) (p : Nat) (x : Partition) : (s.setPart p x).retired = s.retired := rfl
@[simp] theorem State.setPart_pageErrs (s : State) (p : Nat) (x : Partition) : (s.setPart p x).pageErrs = s.pageErrs := rfl
@[simp] theorem State.setPart_acl (s : State) (p : Nat) (x : Partition) : (s.setPart p x).acl = s.acl := rfl
@[simp] theorem State.setPart_keys (s : State) (p : Nat) (x : Partition) : (s.setPart p x).keys = s.keys := rfl
@[simp] theorem State.setPart_keySeq (s : State) (p : Nat) (x : Partition) : (s.setPart p x).keySeq = s.keySeq := rfl
@[simp] theorem State.setPart_stopped (s : State) (p : Nat) (x : Partition) : (s.setPart p x).stopped = s.stopped := rfl
@[simp] theorem State.setPart_partStep (s : State) (p : Nat) (x : Partition) : (s.setPart p x).partStep = s.partStep := rfl
@[simp] theorem State.setPart_stackHot (s : State) (p : Nat) (x : Partition) : (s.setPart p x).stackHot = s.stackHot := rfl
@[simp] theorem State.setPart_vfIrqs (s : State) (p : Nat) (x : Partition) : (s.setPart p x).vfIrqs = s.vfIrqs := rfl
@[simp] theorem State.setPart_vfReply (s : State) (p : Nat) (x : Partition) : (s.setPart p x).vfReply = s.vfReply := rfl
@[simp] theorem State.setPart_peerOut (s : State) (p : Nat) (x : Partition) : (s.setPart p x).peerOut = s.peerOut := rfl
@[simp] theorem State.setPart_hawk (s : State) (p : Nat) (x : Partition) : (s.setPart p x).hawk = s.hawk := rfl

/-! ## `State.setEngine` -/

@[simp] theorem State.setEngine_cur (s : State) (e : Nat) (x : Engine) : (s.setEngine e x).cur = s.cur := rfl
@[simp] theorem State.setEngine_sched (s : State) (e : Nat) (x : Engine) : (s.setEngine e x).sched = s.sched := rfl
@[simp] theorem State.setEngine_inbox (s : State) (e : Nat) (x : Engine) : (s.setEngine e x).inbox = s.inbox := rfl
@[simp] theorem State.setEngine_free (s : State) (e : Nat) (x : Engine) : (s.setEngine e x).free = s.free := rfl
@[simp] theorem State.setEngine_nextId (s : State) (e : Nat) (x : Engine) : (s.setEngine e x).nextId = s.nextId := rfl
@[simp] theorem State.setEngine_slots (s : State) (e : Nat) (x : Engine) : (s.setEngine e x).slots = s.slots := rfl
@[simp] theorem State.setEngine_cores (s : State) (e : Nat) (x : Engine) : (s.setEngine e x).cores = s.cores := rfl
@[simp] theorem State.setEngine_clusters (s : State) (e : Nat) (x : Engine) : (s.setEngine e x).clusters = s.clusters := rfl
@[simp] theorem State.setEngine_dies (s : State) (e : Nat) (x : Engine) : (s.setEngine e x).dies = s.dies := rfl
@[simp] theorem State.setEngine_parts (s : State) (e : Nat) (x : Engine) : (s.setEngine e x).parts = s.parts := rfl
@[simp] theorem State.setEngine_contexts (s : State) (e : Nat) (x : Engine) : (s.setEngine e x).contexts = s.contexts := rfl
@[simp] theorem State.setEngine_cached (s : State) (e : Nat) (x : Engine) : (s.setEngine e x).cached = s.cached := rfl
@[simp] theorem State.setEngine_products (s : State) (e : Nat) (x : Engine) : (s.setEngine e x).products = s.products := rfl
@[simp] theorem State.setEngine_openVals (s : State) (e : Nat) (x : Engine) : (s.setEngine e x).openVals = s.openVals := rfl
@[simp] theorem State.setEngine_sram (s : State) (e : Nat) (x : Engine) : (s.setEngine e x).sram = s.sram := rfl
@[simp] theorem State.setEngine_dev (s : State) (e : Nat) (x : Engine) : (s.setEngine e x).dev = s.dev := rfl
@[simp] theorem State.setEngine_lineKey (s : State) (e : Nat) (x : Engine) : (s.setEngine e x).lineKey = s.lineKey := rfl
@[simp] theorem State.setEngine_parity (s : State) (e : Nat) (x : Engine) : (s.setEngine e x).parity = s.parity := rfl
@[simp] theorem State.setEngine_parSyn (s : State) (e : Nat) (x : Engine) : (s.setEngine e x).parSyn = s.parSyn := rfl
@[simp] theorem State.setEngine_stale (s : State) (e : Nat) (x : Engine) : (s.setEngine e x).stale = s.stale := rfl
@[simp] theorem State.setEngine_rebuilds (s : State) (e : Nat) (x : Engine) : (s.setEngine e x).rebuilds = s.rebuilds := rfl
@[simp] theorem State.setEngine_net (s : State) (e : Nat) (x : Engine) : (s.setEngine e x).net = s.net := rfl
@[simp] theorem State.setEngine_walks (s : State) (e : Nat) (x : Engine) : (s.setEngine e x).walks = s.walks := rfl
@[simp] theorem State.setEngine_stores (s : State) (e : Nat) (x : Engine) : (s.setEngine e x).stores = s.stores := rfl
@[simp] theorem State.setEngine_diffs (s : State) (e : Nat) (x : Engine) : (s.setEngine e x).diffs = s.diffs := rfl
@[simp] theorem State.setEngine_invals (s : State) (e : Nat) (x : Engine) : (s.setEngine e x).invals = s.invals := rfl
@[simp] theorem State.setEngine_commits (s : State) (e : Nat) (x : Engine) : (s.setEngine e x).commits = s.commits := rfl
@[simp] theorem State.setEngine_reports (s : State) (e : Nat) (x : Engine) : (s.setEngine e x).reports = s.reports := rfl
@[simp] theorem State.setEngine_decs (s : State) (e : Nat) (x : Engine) : (s.setEngine e x).decs = s.decs := rfl
@[simp] theorem State.setEngine_pairs (s : State) (e : Nat) (x : Engine) : (s.setEngine e x).pairs = s.pairs := rfl
@[simp] theorem State.setEngine_sweep (s : State) (e : Nat) (x : Engine) : (s.setEngine e x).sweep = s.sweep := rfl
@[simp] theorem State.setEngine_chip (s : State) (e : Nat) (x : Engine) : (s.setEngine e x).chip = s.chip := rfl
@[simp] theorem State.setEngine_weights (s : State) (e : Nat) (x : Engine) : (s.setEngine e x).weights = s.weights := rfl
@[simp] theorem State.setEngine_planes (s : State) (e : Nat) (x : Engine) : (s.setEngine e x).planes = s.planes := rfl
@[simp] theorem State.setEngine_lost (s : State) (e : Nat) (x : Engine) : (s.setEngine e x).lost = s.lost := rfl
@[simp] theorem State.setEngine_retired (s : State) (e : Nat) (x : Engine) : (s.setEngine e x).retired = s.retired := rfl
@[simp] theorem State.setEngine_pageErrs (s : State) (e : Nat) (x : Engine) : (s.setEngine e x).pageErrs = s.pageErrs := rfl
@[simp] theorem State.setEngine_acl (s : State) (e : Nat) (x : Engine) : (s.setEngine e x).acl = s.acl := rfl
@[simp] theorem State.setEngine_keys (s : State) (e : Nat) (x : Engine) : (s.setEngine e x).keys = s.keys := rfl
@[simp] theorem State.setEngine_keySeq (s : State) (e : Nat) (x : Engine) : (s.setEngine e x).keySeq = s.keySeq := rfl
@[simp] theorem State.setEngine_stopped (s : State) (e : Nat) (x : Engine) : (s.setEngine e x).stopped = s.stopped := rfl
@[simp] theorem State.setEngine_partStep (s : State) (e : Nat) (x : Engine) : (s.setEngine e x).partStep = s.partStep := rfl
@[simp] theorem State.setEngine_stackHot (s : State) (e : Nat) (x : Engine) : (s.setEngine e x).stackHot = s.stackHot := rfl
@[simp] theorem State.setEngine_vfIrqs (s : State) (e : Nat) (x : Engine) : (s.setEngine e x).vfIrqs = s.vfIrqs := rfl
@[simp] theorem State.setEngine_vfReply (s : State) (e : Nat) (x : Engine) : (s.setEngine e x).vfReply = s.vfReply := rfl
@[simp] theorem State.setEngine_peerOut (s : State) (e : Nat) (x : Engine) : (s.setEngine e x).peerOut = s.peerOut := rfl
@[simp] theorem State.setEngine_hawk (s : State) (e : Nat) (x : Engine) : (s.setEngine e x).hawk = s.hawk := rfl

/-! ## `State.setLaunch` -/

@[simp] theorem State.setLaunch_cur (s : State) (cl lid : Nat) (l : Launch) : (s.setLaunch cl lid l).cur = s.cur := rfl
@[simp] theorem State.setLaunch_sched (s : State) (cl lid : Nat) (l : Launch) : (s.setLaunch cl lid l).sched = s.sched := rfl
@[simp] theorem State.setLaunch_inbox (s : State) (cl lid : Nat) (l : Launch) : (s.setLaunch cl lid l).inbox = s.inbox := rfl
@[simp] theorem State.setLaunch_free (s : State) (cl lid : Nat) (l : Launch) : (s.setLaunch cl lid l).free = s.free := rfl
@[simp] theorem State.setLaunch_nextId (s : State) (cl lid : Nat) (l : Launch) : (s.setLaunch cl lid l).nextId = s.nextId := rfl
@[simp] theorem State.setLaunch_slots (s : State) (cl lid : Nat) (l : Launch) : (s.setLaunch cl lid l).slots = s.slots := rfl
@[simp] theorem State.setLaunch_cores (s : State) (cl lid : Nat) (l : Launch) : (s.setLaunch cl lid l).cores = s.cores := rfl
@[simp] theorem State.setLaunch_dies (s : State) (cl lid : Nat) (l : Launch) : (s.setLaunch cl lid l).dies = s.dies := rfl
@[simp] theorem State.setLaunch_parts (s : State) (cl lid : Nat) (l : Launch) : (s.setLaunch cl lid l).parts = s.parts := rfl
@[simp] theorem State.setLaunch_engines (s : State) (cl lid : Nat) (l : Launch) : (s.setLaunch cl lid l).engines = s.engines := rfl
@[simp] theorem State.setLaunch_contexts (s : State) (cl lid : Nat) (l : Launch) : (s.setLaunch cl lid l).contexts = s.contexts := rfl
@[simp] theorem State.setLaunch_cached (s : State) (cl lid : Nat) (l : Launch) : (s.setLaunch cl lid l).cached = s.cached := rfl
@[simp] theorem State.setLaunch_products (s : State) (cl lid : Nat) (l : Launch) : (s.setLaunch cl lid l).products = s.products := rfl
@[simp] theorem State.setLaunch_openVals (s : State) (cl lid : Nat) (l : Launch) : (s.setLaunch cl lid l).openVals = s.openVals := rfl
@[simp] theorem State.setLaunch_sram (s : State) (cl lid : Nat) (l : Launch) : (s.setLaunch cl lid l).sram = s.sram := rfl
@[simp] theorem State.setLaunch_dev (s : State) (cl lid : Nat) (l : Launch) : (s.setLaunch cl lid l).dev = s.dev := rfl
@[simp] theorem State.setLaunch_lineKey (s : State) (cl lid : Nat) (l : Launch) : (s.setLaunch cl lid l).lineKey = s.lineKey := rfl
@[simp] theorem State.setLaunch_parity (s : State) (cl lid : Nat) (l : Launch) : (s.setLaunch cl lid l).parity = s.parity := rfl
@[simp] theorem State.setLaunch_parSyn (s : State) (cl lid : Nat) (l : Launch) : (s.setLaunch cl lid l).parSyn = s.parSyn := rfl
@[simp] theorem State.setLaunch_stale (s : State) (cl lid : Nat) (l : Launch) : (s.setLaunch cl lid l).stale = s.stale := rfl
@[simp] theorem State.setLaunch_rebuilds (s : State) (cl lid : Nat) (l : Launch) : (s.setLaunch cl lid l).rebuilds = s.rebuilds := rfl
@[simp] theorem State.setLaunch_net (s : State) (cl lid : Nat) (l : Launch) : (s.setLaunch cl lid l).net = s.net := rfl
@[simp] theorem State.setLaunch_walks (s : State) (cl lid : Nat) (l : Launch) : (s.setLaunch cl lid l).walks = s.walks := rfl
@[simp] theorem State.setLaunch_stores (s : State) (cl lid : Nat) (l : Launch) : (s.setLaunch cl lid l).stores = s.stores := rfl
@[simp] theorem State.setLaunch_diffs (s : State) (cl lid : Nat) (l : Launch) : (s.setLaunch cl lid l).diffs = s.diffs := rfl
@[simp] theorem State.setLaunch_invals (s : State) (cl lid : Nat) (l : Launch) : (s.setLaunch cl lid l).invals = s.invals := rfl
@[simp] theorem State.setLaunch_commits (s : State) (cl lid : Nat) (l : Launch) : (s.setLaunch cl lid l).commits = s.commits := rfl
@[simp] theorem State.setLaunch_reports (s : State) (cl lid : Nat) (l : Launch) : (s.setLaunch cl lid l).reports = s.reports := rfl
@[simp] theorem State.setLaunch_decs (s : State) (cl lid : Nat) (l : Launch) : (s.setLaunch cl lid l).decs = s.decs := rfl
@[simp] theorem State.setLaunch_pairs (s : State) (cl lid : Nat) (l : Launch) : (s.setLaunch cl lid l).pairs = s.pairs := rfl
@[simp] theorem State.setLaunch_sweep (s : State) (cl lid : Nat) (l : Launch) : (s.setLaunch cl lid l).sweep = s.sweep := rfl
@[simp] theorem State.setLaunch_chip (s : State) (cl lid : Nat) (l : Launch) : (s.setLaunch cl lid l).chip = s.chip := rfl
@[simp] theorem State.setLaunch_weights (s : State) (cl lid : Nat) (l : Launch) : (s.setLaunch cl lid l).weights = s.weights := rfl
@[simp] theorem State.setLaunch_planes (s : State) (cl lid : Nat) (l : Launch) : (s.setLaunch cl lid l).planes = s.planes := rfl
@[simp] theorem State.setLaunch_lost (s : State) (cl lid : Nat) (l : Launch) : (s.setLaunch cl lid l).lost = s.lost := rfl
@[simp] theorem State.setLaunch_retired (s : State) (cl lid : Nat) (l : Launch) : (s.setLaunch cl lid l).retired = s.retired := rfl
@[simp] theorem State.setLaunch_pageErrs (s : State) (cl lid : Nat) (l : Launch) : (s.setLaunch cl lid l).pageErrs = s.pageErrs := rfl
@[simp] theorem State.setLaunch_acl (s : State) (cl lid : Nat) (l : Launch) : (s.setLaunch cl lid l).acl = s.acl := rfl
@[simp] theorem State.setLaunch_keys (s : State) (cl lid : Nat) (l : Launch) : (s.setLaunch cl lid l).keys = s.keys := rfl
@[simp] theorem State.setLaunch_keySeq (s : State) (cl lid : Nat) (l : Launch) : (s.setLaunch cl lid l).keySeq = s.keySeq := rfl
@[simp] theorem State.setLaunch_stopped (s : State) (cl lid : Nat) (l : Launch) : (s.setLaunch cl lid l).stopped = s.stopped := rfl
@[simp] theorem State.setLaunch_partStep (s : State) (cl lid : Nat) (l : Launch) : (s.setLaunch cl lid l).partStep = s.partStep := rfl
@[simp] theorem State.setLaunch_stackHot (s : State) (cl lid : Nat) (l : Launch) : (s.setLaunch cl lid l).stackHot = s.stackHot := rfl
@[simp] theorem State.setLaunch_vfIrqs (s : State) (cl lid : Nat) (l : Launch) : (s.setLaunch cl lid l).vfIrqs = s.vfIrqs := rfl
@[simp] theorem State.setLaunch_vfReply (s : State) (cl lid : Nat) (l : Launch) : (s.setLaunch cl lid l).vfReply = s.vfReply := rfl
@[simp] theorem State.setLaunch_peerOut (s : State) (cl lid : Nat) (l : Launch) : (s.setLaunch cl lid l).peerOut = s.peerOut := rfl
@[simp] theorem State.setLaunch_hawk (s : State) (cl lid : Nat) (l : Launch) : (s.setLaunch cl lid l).hawk = s.hawk := rfl

/-! ## `State.onSlot` -/

@[simp] theorem State.onSlot_cur (s : State) (g : Nat) (f : Slot → Slot) : (s.onSlot g f).cur = s.cur := rfl
@[simp] theorem State.onSlot_sched (s : State) (g : Nat) (f : Slot → Slot) : (s.onSlot g f).sched = s.sched := rfl
@[simp] theorem State.onSlot_inbox (s : State) (g : Nat) (f : Slot → Slot) : (s.onSlot g f).inbox = s.inbox := rfl
@[simp] theorem State.onSlot_free (s : State) (g : Nat) (f : Slot → Slot) : (s.onSlot g f).free = s.free := rfl
@[simp] theorem State.onSlot_nextId (s : State) (g : Nat) (f : Slot → Slot) : (s.onSlot g f).nextId = s.nextId := rfl
@[simp] theorem State.onSlot_cores (s : State) (g : Nat) (f : Slot → Slot) : (s.onSlot g f).cores = s.cores := rfl
@[simp] theorem State.onSlot_clusters (s : State) (g : Nat) (f : Slot → Slot) : (s.onSlot g f).clusters = s.clusters := rfl
@[simp] theorem State.onSlot_dies (s : State) (g : Nat) (f : Slot → Slot) : (s.onSlot g f).dies = s.dies := rfl
@[simp] theorem State.onSlot_parts (s : State) (g : Nat) (f : Slot → Slot) : (s.onSlot g f).parts = s.parts := rfl
@[simp] theorem State.onSlot_engines (s : State) (g : Nat) (f : Slot → Slot) : (s.onSlot g f).engines = s.engines := rfl
@[simp] theorem State.onSlot_contexts (s : State) (g : Nat) (f : Slot → Slot) : (s.onSlot g f).contexts = s.contexts := rfl
@[simp] theorem State.onSlot_cached (s : State) (g : Nat) (f : Slot → Slot) : (s.onSlot g f).cached = s.cached := rfl
@[simp] theorem State.onSlot_products (s : State) (g : Nat) (f : Slot → Slot) : (s.onSlot g f).products = s.products := rfl
@[simp] theorem State.onSlot_openVals (s : State) (g : Nat) (f : Slot → Slot) : (s.onSlot g f).openVals = s.openVals := rfl
@[simp] theorem State.onSlot_sram (s : State) (g : Nat) (f : Slot → Slot) : (s.onSlot g f).sram = s.sram := rfl
@[simp] theorem State.onSlot_dev (s : State) (g : Nat) (f : Slot → Slot) : (s.onSlot g f).dev = s.dev := rfl
@[simp] theorem State.onSlot_lineKey (s : State) (g : Nat) (f : Slot → Slot) : (s.onSlot g f).lineKey = s.lineKey := rfl
@[simp] theorem State.onSlot_parity (s : State) (g : Nat) (f : Slot → Slot) : (s.onSlot g f).parity = s.parity := rfl
@[simp] theorem State.onSlot_parSyn (s : State) (g : Nat) (f : Slot → Slot) : (s.onSlot g f).parSyn = s.parSyn := rfl
@[simp] theorem State.onSlot_stale (s : State) (g : Nat) (f : Slot → Slot) : (s.onSlot g f).stale = s.stale := rfl
@[simp] theorem State.onSlot_rebuilds (s : State) (g : Nat) (f : Slot → Slot) : (s.onSlot g f).rebuilds = s.rebuilds := rfl
@[simp] theorem State.onSlot_net (s : State) (g : Nat) (f : Slot → Slot) : (s.onSlot g f).net = s.net := rfl
@[simp] theorem State.onSlot_walks (s : State) (g : Nat) (f : Slot → Slot) : (s.onSlot g f).walks = s.walks := rfl
@[simp] theorem State.onSlot_stores (s : State) (g : Nat) (f : Slot → Slot) : (s.onSlot g f).stores = s.stores := rfl
@[simp] theorem State.onSlot_diffs (s : State) (g : Nat) (f : Slot → Slot) : (s.onSlot g f).diffs = s.diffs := rfl
@[simp] theorem State.onSlot_invals (s : State) (g : Nat) (f : Slot → Slot) : (s.onSlot g f).invals = s.invals := rfl
@[simp] theorem State.onSlot_commits (s : State) (g : Nat) (f : Slot → Slot) : (s.onSlot g f).commits = s.commits := rfl
@[simp] theorem State.onSlot_reports (s : State) (g : Nat) (f : Slot → Slot) : (s.onSlot g f).reports = s.reports := rfl
@[simp] theorem State.onSlot_decs (s : State) (g : Nat) (f : Slot → Slot) : (s.onSlot g f).decs = s.decs := rfl
@[simp] theorem State.onSlot_pairs (s : State) (g : Nat) (f : Slot → Slot) : (s.onSlot g f).pairs = s.pairs := rfl
@[simp] theorem State.onSlot_sweep (s : State) (g : Nat) (f : Slot → Slot) : (s.onSlot g f).sweep = s.sweep := rfl
@[simp] theorem State.onSlot_chip (s : State) (g : Nat) (f : Slot → Slot) : (s.onSlot g f).chip = s.chip := rfl
@[simp] theorem State.onSlot_weights (s : State) (g : Nat) (f : Slot → Slot) : (s.onSlot g f).weights = s.weights := rfl
@[simp] theorem State.onSlot_planes (s : State) (g : Nat) (f : Slot → Slot) : (s.onSlot g f).planes = s.planes := rfl
@[simp] theorem State.onSlot_lost (s : State) (g : Nat) (f : Slot → Slot) : (s.onSlot g f).lost = s.lost := rfl
@[simp] theorem State.onSlot_retired (s : State) (g : Nat) (f : Slot → Slot) : (s.onSlot g f).retired = s.retired := rfl
@[simp] theorem State.onSlot_pageErrs (s : State) (g : Nat) (f : Slot → Slot) : (s.onSlot g f).pageErrs = s.pageErrs := rfl
@[simp] theorem State.onSlot_acl (s : State) (g : Nat) (f : Slot → Slot) : (s.onSlot g f).acl = s.acl := rfl
@[simp] theorem State.onSlot_keys (s : State) (g : Nat) (f : Slot → Slot) : (s.onSlot g f).keys = s.keys := rfl
@[simp] theorem State.onSlot_keySeq (s : State) (g : Nat) (f : Slot → Slot) : (s.onSlot g f).keySeq = s.keySeq := rfl
@[simp] theorem State.onSlot_stopped (s : State) (g : Nat) (f : Slot → Slot) : (s.onSlot g f).stopped = s.stopped := rfl
@[simp] theorem State.onSlot_partStep (s : State) (g : Nat) (f : Slot → Slot) : (s.onSlot g f).partStep = s.partStep := rfl
@[simp] theorem State.onSlot_stackHot (s : State) (g : Nat) (f : Slot → Slot) : (s.onSlot g f).stackHot = s.stackHot := rfl
@[simp] theorem State.onSlot_vfIrqs (s : State) (g : Nat) (f : Slot → Slot) : (s.onSlot g f).vfIrqs = s.vfIrqs := rfl
@[simp] theorem State.onSlot_vfReply (s : State) (g : Nat) (f : Slot → Slot) : (s.onSlot g f).vfReply = s.vfReply := rfl
@[simp] theorem State.onSlot_peerOut (s : State) (g : Nat) (f : Slot → Slot) : (s.onSlot g f).peerOut = s.peerOut := rfl
@[simp] theorem State.onSlot_hawk (s : State) (g : Nat) (f : Slot → Slot) : (s.onSlot g f).hawk = s.hawk := rfl

/-! ## `State.onCore` -/

@[simp] theorem State.onCore_cur (s : State) (c : Nat) (f : Core → Core) : (s.onCore c f).cur = s.cur := rfl
@[simp] theorem State.onCore_sched (s : State) (c : Nat) (f : Core → Core) : (s.onCore c f).sched = s.sched := rfl
@[simp] theorem State.onCore_inbox (s : State) (c : Nat) (f : Core → Core) : (s.onCore c f).inbox = s.inbox := rfl
@[simp] theorem State.onCore_free (s : State) (c : Nat) (f : Core → Core) : (s.onCore c f).free = s.free := rfl
@[simp] theorem State.onCore_nextId (s : State) (c : Nat) (f : Core → Core) : (s.onCore c f).nextId = s.nextId := rfl
@[simp] theorem State.onCore_slots (s : State) (c : Nat) (f : Core → Core) : (s.onCore c f).slots = s.slots := rfl
@[simp] theorem State.onCore_clusters (s : State) (c : Nat) (f : Core → Core) : (s.onCore c f).clusters = s.clusters := rfl
@[simp] theorem State.onCore_dies (s : State) (c : Nat) (f : Core → Core) : (s.onCore c f).dies = s.dies := rfl
@[simp] theorem State.onCore_parts (s : State) (c : Nat) (f : Core → Core) : (s.onCore c f).parts = s.parts := rfl
@[simp] theorem State.onCore_engines (s : State) (c : Nat) (f : Core → Core) : (s.onCore c f).engines = s.engines := rfl
@[simp] theorem State.onCore_contexts (s : State) (c : Nat) (f : Core → Core) : (s.onCore c f).contexts = s.contexts := rfl
@[simp] theorem State.onCore_cached (s : State) (c : Nat) (f : Core → Core) : (s.onCore c f).cached = s.cached := rfl
@[simp] theorem State.onCore_products (s : State) (c : Nat) (f : Core → Core) : (s.onCore c f).products = s.products := rfl
@[simp] theorem State.onCore_openVals (s : State) (c : Nat) (f : Core → Core) : (s.onCore c f).openVals = s.openVals := rfl
@[simp] theorem State.onCore_sram (s : State) (c : Nat) (f : Core → Core) : (s.onCore c f).sram = s.sram := rfl
@[simp] theorem State.onCore_dev (s : State) (c : Nat) (f : Core → Core) : (s.onCore c f).dev = s.dev := rfl
@[simp] theorem State.onCore_lineKey (s : State) (c : Nat) (f : Core → Core) : (s.onCore c f).lineKey = s.lineKey := rfl
@[simp] theorem State.onCore_parity (s : State) (c : Nat) (f : Core → Core) : (s.onCore c f).parity = s.parity := rfl
@[simp] theorem State.onCore_parSyn (s : State) (c : Nat) (f : Core → Core) : (s.onCore c f).parSyn = s.parSyn := rfl
@[simp] theorem State.onCore_stale (s : State) (c : Nat) (f : Core → Core) : (s.onCore c f).stale = s.stale := rfl
@[simp] theorem State.onCore_rebuilds (s : State) (c : Nat) (f : Core → Core) : (s.onCore c f).rebuilds = s.rebuilds := rfl
@[simp] theorem State.onCore_net (s : State) (c : Nat) (f : Core → Core) : (s.onCore c f).net = s.net := rfl
@[simp] theorem State.onCore_walks (s : State) (c : Nat) (f : Core → Core) : (s.onCore c f).walks = s.walks := rfl
@[simp] theorem State.onCore_stores (s : State) (c : Nat) (f : Core → Core) : (s.onCore c f).stores = s.stores := rfl
@[simp] theorem State.onCore_diffs (s : State) (c : Nat) (f : Core → Core) : (s.onCore c f).diffs = s.diffs := rfl
@[simp] theorem State.onCore_invals (s : State) (c : Nat) (f : Core → Core) : (s.onCore c f).invals = s.invals := rfl
@[simp] theorem State.onCore_commits (s : State) (c : Nat) (f : Core → Core) : (s.onCore c f).commits = s.commits := rfl
@[simp] theorem State.onCore_reports (s : State) (c : Nat) (f : Core → Core) : (s.onCore c f).reports = s.reports := rfl
@[simp] theorem State.onCore_decs (s : State) (c : Nat) (f : Core → Core) : (s.onCore c f).decs = s.decs := rfl
@[simp] theorem State.onCore_pairs (s : State) (c : Nat) (f : Core → Core) : (s.onCore c f).pairs = s.pairs := rfl
@[simp] theorem State.onCore_sweep (s : State) (c : Nat) (f : Core → Core) : (s.onCore c f).sweep = s.sweep := rfl
@[simp] theorem State.onCore_chip (s : State) (c : Nat) (f : Core → Core) : (s.onCore c f).chip = s.chip := rfl
@[simp] theorem State.onCore_weights (s : State) (c : Nat) (f : Core → Core) : (s.onCore c f).weights = s.weights := rfl
@[simp] theorem State.onCore_planes (s : State) (c : Nat) (f : Core → Core) : (s.onCore c f).planes = s.planes := rfl
@[simp] theorem State.onCore_lost (s : State) (c : Nat) (f : Core → Core) : (s.onCore c f).lost = s.lost := rfl
@[simp] theorem State.onCore_retired (s : State) (c : Nat) (f : Core → Core) : (s.onCore c f).retired = s.retired := rfl
@[simp] theorem State.onCore_pageErrs (s : State) (c : Nat) (f : Core → Core) : (s.onCore c f).pageErrs = s.pageErrs := rfl
@[simp] theorem State.onCore_acl (s : State) (c : Nat) (f : Core → Core) : (s.onCore c f).acl = s.acl := rfl
@[simp] theorem State.onCore_keys (s : State) (c : Nat) (f : Core → Core) : (s.onCore c f).keys = s.keys := rfl
@[simp] theorem State.onCore_keySeq (s : State) (c : Nat) (f : Core → Core) : (s.onCore c f).keySeq = s.keySeq := rfl
@[simp] theorem State.onCore_stopped (s : State) (c : Nat) (f : Core → Core) : (s.onCore c f).stopped = s.stopped := rfl
@[simp] theorem State.onCore_partStep (s : State) (c : Nat) (f : Core → Core) : (s.onCore c f).partStep = s.partStep := rfl
@[simp] theorem State.onCore_stackHot (s : State) (c : Nat) (f : Core → Core) : (s.onCore c f).stackHot = s.stackHot := rfl
@[simp] theorem State.onCore_vfIrqs (s : State) (c : Nat) (f : Core → Core) : (s.onCore c f).vfIrqs = s.vfIrqs := rfl
@[simp] theorem State.onCore_vfReply (s : State) (c : Nat) (f : Core → Core) : (s.onCore c f).vfReply = s.vfReply := rfl
@[simp] theorem State.onCore_peerOut (s : State) (c : Nat) (f : Core → Core) : (s.onCore c f).peerOut = s.peerOut := rfl
@[simp] theorem State.onCore_hawk (s : State) (c : Nat) (f : Core → Core) : (s.onCore c f).hawk = s.hawk := rfl

/-! ## `State.onCluster` -/

@[simp] theorem State.onCluster_cur (s : State) (cl : Nat) (f : Cluster → Cluster) : (s.onCluster cl f).cur = s.cur := rfl
@[simp] theorem State.onCluster_sched (s : State) (cl : Nat) (f : Cluster → Cluster) : (s.onCluster cl f).sched = s.sched := rfl
@[simp] theorem State.onCluster_inbox (s : State) (cl : Nat) (f : Cluster → Cluster) : (s.onCluster cl f).inbox = s.inbox := rfl
@[simp] theorem State.onCluster_free (s : State) (cl : Nat) (f : Cluster → Cluster) : (s.onCluster cl f).free = s.free := rfl
@[simp] theorem State.onCluster_nextId (s : State) (cl : Nat) (f : Cluster → Cluster) : (s.onCluster cl f).nextId = s.nextId := rfl
@[simp] theorem State.onCluster_slots (s : State) (cl : Nat) (f : Cluster → Cluster) : (s.onCluster cl f).slots = s.slots := rfl
@[simp] theorem State.onCluster_cores (s : State) (cl : Nat) (f : Cluster → Cluster) : (s.onCluster cl f).cores = s.cores := rfl
@[simp] theorem State.onCluster_dies (s : State) (cl : Nat) (f : Cluster → Cluster) : (s.onCluster cl f).dies = s.dies := rfl
@[simp] theorem State.onCluster_parts (s : State) (cl : Nat) (f : Cluster → Cluster) : (s.onCluster cl f).parts = s.parts := rfl
@[simp] theorem State.onCluster_engines (s : State) (cl : Nat) (f : Cluster → Cluster) : (s.onCluster cl f).engines = s.engines := rfl
@[simp] theorem State.onCluster_contexts (s : State) (cl : Nat) (f : Cluster → Cluster) : (s.onCluster cl f).contexts = s.contexts := rfl
@[simp] theorem State.onCluster_cached (s : State) (cl : Nat) (f : Cluster → Cluster) : (s.onCluster cl f).cached = s.cached := rfl
@[simp] theorem State.onCluster_products (s : State) (cl : Nat) (f : Cluster → Cluster) : (s.onCluster cl f).products = s.products := rfl
@[simp] theorem State.onCluster_openVals (s : State) (cl : Nat) (f : Cluster → Cluster) : (s.onCluster cl f).openVals = s.openVals := rfl
@[simp] theorem State.onCluster_sram (s : State) (cl : Nat) (f : Cluster → Cluster) : (s.onCluster cl f).sram = s.sram := rfl
@[simp] theorem State.onCluster_dev (s : State) (cl : Nat) (f : Cluster → Cluster) : (s.onCluster cl f).dev = s.dev := rfl
@[simp] theorem State.onCluster_lineKey (s : State) (cl : Nat) (f : Cluster → Cluster) : (s.onCluster cl f).lineKey = s.lineKey := rfl
@[simp] theorem State.onCluster_parity (s : State) (cl : Nat) (f : Cluster → Cluster) : (s.onCluster cl f).parity = s.parity := rfl
@[simp] theorem State.onCluster_parSyn (s : State) (cl : Nat) (f : Cluster → Cluster) : (s.onCluster cl f).parSyn = s.parSyn := rfl
@[simp] theorem State.onCluster_stale (s : State) (cl : Nat) (f : Cluster → Cluster) : (s.onCluster cl f).stale = s.stale := rfl
@[simp] theorem State.onCluster_rebuilds (s : State) (cl : Nat) (f : Cluster → Cluster) : (s.onCluster cl f).rebuilds = s.rebuilds := rfl
@[simp] theorem State.onCluster_net (s : State) (cl : Nat) (f : Cluster → Cluster) : (s.onCluster cl f).net = s.net := rfl
@[simp] theorem State.onCluster_walks (s : State) (cl : Nat) (f : Cluster → Cluster) : (s.onCluster cl f).walks = s.walks := rfl
@[simp] theorem State.onCluster_stores (s : State) (cl : Nat) (f : Cluster → Cluster) : (s.onCluster cl f).stores = s.stores := rfl
@[simp] theorem State.onCluster_diffs (s : State) (cl : Nat) (f : Cluster → Cluster) : (s.onCluster cl f).diffs = s.diffs := rfl
@[simp] theorem State.onCluster_invals (s : State) (cl : Nat) (f : Cluster → Cluster) : (s.onCluster cl f).invals = s.invals := rfl
@[simp] theorem State.onCluster_commits (s : State) (cl : Nat) (f : Cluster → Cluster) : (s.onCluster cl f).commits = s.commits := rfl
@[simp] theorem State.onCluster_reports (s : State) (cl : Nat) (f : Cluster → Cluster) : (s.onCluster cl f).reports = s.reports := rfl
@[simp] theorem State.onCluster_decs (s : State) (cl : Nat) (f : Cluster → Cluster) : (s.onCluster cl f).decs = s.decs := rfl
@[simp] theorem State.onCluster_pairs (s : State) (cl : Nat) (f : Cluster → Cluster) : (s.onCluster cl f).pairs = s.pairs := rfl
@[simp] theorem State.onCluster_sweep (s : State) (cl : Nat) (f : Cluster → Cluster) : (s.onCluster cl f).sweep = s.sweep := rfl
@[simp] theorem State.onCluster_chip (s : State) (cl : Nat) (f : Cluster → Cluster) : (s.onCluster cl f).chip = s.chip := rfl
@[simp] theorem State.onCluster_weights (s : State) (cl : Nat) (f : Cluster → Cluster) : (s.onCluster cl f).weights = s.weights := rfl
@[simp] theorem State.onCluster_planes (s : State) (cl : Nat) (f : Cluster → Cluster) : (s.onCluster cl f).planes = s.planes := rfl
@[simp] theorem State.onCluster_lost (s : State) (cl : Nat) (f : Cluster → Cluster) : (s.onCluster cl f).lost = s.lost := rfl
@[simp] theorem State.onCluster_retired (s : State) (cl : Nat) (f : Cluster → Cluster) : (s.onCluster cl f).retired = s.retired := rfl
@[simp] theorem State.onCluster_pageErrs (s : State) (cl : Nat) (f : Cluster → Cluster) : (s.onCluster cl f).pageErrs = s.pageErrs := rfl
@[simp] theorem State.onCluster_acl (s : State) (cl : Nat) (f : Cluster → Cluster) : (s.onCluster cl f).acl = s.acl := rfl
@[simp] theorem State.onCluster_keys (s : State) (cl : Nat) (f : Cluster → Cluster) : (s.onCluster cl f).keys = s.keys := rfl
@[simp] theorem State.onCluster_keySeq (s : State) (cl : Nat) (f : Cluster → Cluster) : (s.onCluster cl f).keySeq = s.keySeq := rfl
@[simp] theorem State.onCluster_stopped (s : State) (cl : Nat) (f : Cluster → Cluster) : (s.onCluster cl f).stopped = s.stopped := rfl
@[simp] theorem State.onCluster_partStep (s : State) (cl : Nat) (f : Cluster → Cluster) : (s.onCluster cl f).partStep = s.partStep := rfl
@[simp] theorem State.onCluster_stackHot (s : State) (cl : Nat) (f : Cluster → Cluster) : (s.onCluster cl f).stackHot = s.stackHot := rfl
@[simp] theorem State.onCluster_vfIrqs (s : State) (cl : Nat) (f : Cluster → Cluster) : (s.onCluster cl f).vfIrqs = s.vfIrqs := rfl
@[simp] theorem State.onCluster_vfReply (s : State) (cl : Nat) (f : Cluster → Cluster) : (s.onCluster cl f).vfReply = s.vfReply := rfl
@[simp] theorem State.onCluster_peerOut (s : State) (cl : Nat) (f : Cluster → Cluster) : (s.onCluster cl f).peerOut = s.peerOut := rfl
@[simp] theorem State.onCluster_hawk (s : State) (cl : Nat) (f : Cluster → Cluster) : (s.onCluster cl f).hawk = s.hawk := rfl

/-! ## `State.bump` -/

@[simp] theorem State.bump_cur (s : State) : (s.bump).cur = s.cur := rfl
@[simp] theorem State.bump_sched (s : State) : (s.bump).sched = s.sched := rfl
@[simp] theorem State.bump_inbox (s : State) : (s.bump).inbox = s.inbox := rfl
@[simp] theorem State.bump_free (s : State) : (s.bump).free = s.free := rfl
@[simp] theorem State.bump_slots (s : State) : (s.bump).slots = s.slots := rfl
@[simp] theorem State.bump_cores (s : State) : (s.bump).cores = s.cores := rfl
@[simp] theorem State.bump_clusters (s : State) : (s.bump).clusters = s.clusters := rfl
@[simp] theorem State.bump_dies (s : State) : (s.bump).dies = s.dies := rfl
@[simp] theorem State.bump_parts (s : State) : (s.bump).parts = s.parts := rfl
@[simp] theorem State.bump_engines (s : State) : (s.bump).engines = s.engines := rfl
@[simp] theorem State.bump_contexts (s : State) : (s.bump).contexts = s.contexts := rfl
@[simp] theorem State.bump_cached (s : State) : (s.bump).cached = s.cached := rfl
@[simp] theorem State.bump_products (s : State) : (s.bump).products = s.products := rfl
@[simp] theorem State.bump_openVals (s : State) : (s.bump).openVals = s.openVals := rfl
@[simp] theorem State.bump_sram (s : State) : (s.bump).sram = s.sram := rfl
@[simp] theorem State.bump_dev (s : State) : (s.bump).dev = s.dev := rfl
@[simp] theorem State.bump_lineKey (s : State) : (s.bump).lineKey = s.lineKey := rfl
@[simp] theorem State.bump_parity (s : State) : (s.bump).parity = s.parity := rfl
@[simp] theorem State.bump_parSyn (s : State) : (s.bump).parSyn = s.parSyn := rfl
@[simp] theorem State.bump_stale (s : State) : (s.bump).stale = s.stale := rfl
@[simp] theorem State.bump_rebuilds (s : State) : (s.bump).rebuilds = s.rebuilds := rfl
@[simp] theorem State.bump_net (s : State) : (s.bump).net = s.net := rfl
@[simp] theorem State.bump_walks (s : State) : (s.bump).walks = s.walks := rfl
@[simp] theorem State.bump_stores (s : State) : (s.bump).stores = s.stores := rfl
@[simp] theorem State.bump_diffs (s : State) : (s.bump).diffs = s.diffs := rfl
@[simp] theorem State.bump_invals (s : State) : (s.bump).invals = s.invals := rfl
@[simp] theorem State.bump_commits (s : State) : (s.bump).commits = s.commits := rfl
@[simp] theorem State.bump_reports (s : State) : (s.bump).reports = s.reports := rfl
@[simp] theorem State.bump_decs (s : State) : (s.bump).decs = s.decs := rfl
@[simp] theorem State.bump_pairs (s : State) : (s.bump).pairs = s.pairs := rfl
@[simp] theorem State.bump_sweep (s : State) : (s.bump).sweep = s.sweep := rfl
@[simp] theorem State.bump_chip (s : State) : (s.bump).chip = s.chip := rfl
@[simp] theorem State.bump_weights (s : State) : (s.bump).weights = s.weights := rfl
@[simp] theorem State.bump_planes (s : State) : (s.bump).planes = s.planes := rfl
@[simp] theorem State.bump_lost (s : State) : (s.bump).lost = s.lost := rfl
@[simp] theorem State.bump_retired (s : State) : (s.bump).retired = s.retired := rfl
@[simp] theorem State.bump_pageErrs (s : State) : (s.bump).pageErrs = s.pageErrs := rfl
@[simp] theorem State.bump_acl (s : State) : (s.bump).acl = s.acl := rfl
@[simp] theorem State.bump_keys (s : State) : (s.bump).keys = s.keys := rfl
@[simp] theorem State.bump_keySeq (s : State) : (s.bump).keySeq = s.keySeq := rfl
@[simp] theorem State.bump_stopped (s : State) : (s.bump).stopped = s.stopped := rfl
@[simp] theorem State.bump_partStep (s : State) : (s.bump).partStep = s.partStep := rfl
@[simp] theorem State.bump_stackHot (s : State) : (s.bump).stackHot = s.stackHot := rfl
@[simp] theorem State.bump_vfIrqs (s : State) : (s.bump).vfIrqs = s.vfIrqs := rfl
@[simp] theorem State.bump_vfReply (s : State) : (s.bump).vfReply = s.vfReply := rfl
@[simp] theorem State.bump_peerOut (s : State) : (s.bump).peerOut = s.peerOut := rfl
@[simp] theorem State.bump_hawk (s : State) : (s.bump).hawk = s.hawk := rfl

@[simp] theorem State.bump_nextId (s : State) : s.bump.nextId = s.nextId + 1 := rfl

/-! ## Reading a part after an update of one -/

theorem State.slot_setSlot (s : State) (g i : Nat) (x : Slot) : (s.setSlot g x).slot i = if i = g then x else s.slot i :=
  look_ins _ _ _ _ _

@[simp] theorem State.slot_setSlot_self (s : State) (g : Nat) (x : Slot) : (s.setSlot g x).slot g = x := by
  simp [State.slot_setSlot]

theorem State.slot_setSlot_other (s : State) {g i : Nat} (x : Slot) (h : i ≠ g) : (s.setSlot g x).slot i = s.slot i := by
  simp [State.slot_setSlot, h]

@[simp] theorem State.slot_onSlot_self (s : State) (g : Nat) (f : Slot → Slot) : (s.onSlot g f).slot g = f (s.slot g) := by
  simp [State.onSlot]

theorem State.slot_onSlot_other (s : State) {g i : Nat} (f : Slot → Slot) (h : i ≠ g) : (s.onSlot g f).slot i = s.slot i := by
  simp [State.onSlot, State.slot_setSlot, h]

@[simp] theorem State.slot_setCore (s : State) (c : Nat) (x : Core) (i : Nat) : (s.setCore c x).slot i = s.slot i := rfl
@[simp] theorem State.slot_setCluster (s : State) (cl : Nat) (x : Cluster) (i : Nat) : (s.setCluster cl x).slot i = s.slot i := rfl
@[simp] theorem State.slot_setDie (s : State) (d : Nat) (x : Die) (i : Nat) : (s.setDie d x).slot i = s.slot i := rfl
@[simp] theorem State.slot_setPart (s : State) (p : Nat) (x : Partition) (i : Nat) : (s.setPart p x).slot i = s.slot i := rfl
@[simp] theorem State.slot_setEngine (s : State) (e : Nat) (x : Engine) (i : Nat) : (s.setEngine e x).slot i = s.slot i := rfl
@[simp] theorem State.slot_setLaunch (s : State) (cl lid : Nat) (l : Launch) (i : Nat) : (s.setLaunch cl lid l).slot i = s.slot i := rfl
@[simp] theorem State.slot_onCore (s : State) (c : Nat) (f : Core → Core) (i : Nat) : (s.onCore c f).slot i = s.slot i := rfl
@[simp] theorem State.slot_onCluster (s : State) (cl : Nat) (f : Cluster → Cluster) (i : Nat) : (s.onCluster cl f).slot i = s.slot i := rfl
@[simp] theorem State.slot_bump (s : State) (i : Nat) : (s.bump).slot i = s.slot i := rfl

theorem State.core_setCore (s : State) (c i : Nat) (x : Core) : (s.setCore c x).core i = if i = c then x else s.core i :=
  look_ins _ _ _ _ _

@[simp] theorem State.core_setCore_self (s : State) (c : Nat) (x : Core) : (s.setCore c x).core c = x := by
  simp [State.core_setCore]

theorem State.core_setCore_other (s : State) {c i : Nat} (x : Core) (h : i ≠ c) : (s.setCore c x).core i = s.core i := by
  simp [State.core_setCore, h]

@[simp] theorem State.core_onCore_self (s : State) (c : Nat) (f : Core → Core) : (s.onCore c f).core c = f (s.core c) := by
  simp [State.onCore]

theorem State.core_onCore_other (s : State) {c i : Nat} (f : Core → Core) (h : i ≠ c) : (s.onCore c f).core i = s.core i := by
  simp [State.onCore, State.core_setCore, h]

@[simp] theorem State.core_setSlot (s : State) (g : Nat) (x : Slot) (i : Nat) : (s.setSlot g x).core i = s.core i := rfl
@[simp] theorem State.core_setCluster (s : State) (cl : Nat) (x : Cluster) (i : Nat) : (s.setCluster cl x).core i = s.core i := rfl
@[simp] theorem State.core_setDie (s : State) (d : Nat) (x : Die) (i : Nat) : (s.setDie d x).core i = s.core i := rfl
@[simp] theorem State.core_setPart (s : State) (p : Nat) (x : Partition) (i : Nat) : (s.setPart p x).core i = s.core i := rfl
@[simp] theorem State.core_setEngine (s : State) (e : Nat) (x : Engine) (i : Nat) : (s.setEngine e x).core i = s.core i := rfl
@[simp] theorem State.core_setLaunch (s : State) (cl lid : Nat) (l : Launch) (i : Nat) : (s.setLaunch cl lid l).core i = s.core i := rfl
@[simp] theorem State.core_onSlot (s : State) (g : Nat) (f : Slot → Slot) (i : Nat) : (s.onSlot g f).core i = s.core i := rfl
@[simp] theorem State.core_onCluster (s : State) (cl : Nat) (f : Cluster → Cluster) (i : Nat) : (s.onCluster cl f).core i = s.core i := rfl
@[simp] theorem State.core_bump (s : State) (i : Nat) : (s.bump).core i = s.core i := rfl

theorem State.cluster_setCluster (s : State) (cl i : Nat) (x : Cluster) : (s.setCluster cl x).cluster i = if i = cl then x else s.cluster i :=
  look_ins _ _ _ _ _

@[simp] theorem State.cluster_setCluster_self (s : State) (cl : Nat) (x : Cluster) : (s.setCluster cl x).cluster cl = x := by
  simp [State.cluster_setCluster]

theorem State.cluster_setCluster_other (s : State) {cl i : Nat} (x : Cluster) (h : i ≠ cl) : (s.setCluster cl x).cluster i = s.cluster i := by
  simp [State.cluster_setCluster, h]

@[simp] theorem State.cluster_onCluster_self (s : State) (cl : Nat) (f : Cluster → Cluster) : (s.onCluster cl f).cluster cl = f (s.cluster cl) := by
  simp [State.onCluster]

theorem State.cluster_onCluster_other (s : State) {cl i : Nat} (f : Cluster → Cluster) (h : i ≠ cl) : (s.onCluster cl f).cluster i = s.cluster i := by
  simp [State.onCluster, State.cluster_setCluster, h]

@[simp] theorem State.cluster_setSlot (s : State) (g : Nat) (x : Slot) (i : Nat) : (s.setSlot g x).cluster i = s.cluster i := rfl
@[simp] theorem State.cluster_setCore (s : State) (c : Nat) (x : Core) (i : Nat) : (s.setCore c x).cluster i = s.cluster i := rfl
@[simp] theorem State.cluster_setDie (s : State) (d : Nat) (x : Die) (i : Nat) : (s.setDie d x).cluster i = s.cluster i := rfl
@[simp] theorem State.cluster_setPart (s : State) (p : Nat) (x : Partition) (i : Nat) : (s.setPart p x).cluster i = s.cluster i := rfl
@[simp] theorem State.cluster_setEngine (s : State) (e : Nat) (x : Engine) (i : Nat) : (s.setEngine e x).cluster i = s.cluster i := rfl
@[simp] theorem State.cluster_onSlot (s : State) (g : Nat) (f : Slot → Slot) (i : Nat) : (s.onSlot g f).cluster i = s.cluster i := rfl
@[simp] theorem State.cluster_onCore (s : State) (c : Nat) (f : Core → Core) (i : Nat) : (s.onCore c f).cluster i = s.cluster i := rfl
@[simp] theorem State.cluster_bump (s : State) (i : Nat) : (s.bump).cluster i = s.cluster i := rfl

theorem State.die_setDie (s : State) (d i : Nat) (x : Die) : (s.setDie d x).die i = if i = d then x else s.die i :=
  look_ins _ _ _ _ _

@[simp] theorem State.die_setDie_self (s : State) (d : Nat) (x : Die) : (s.setDie d x).die d = x := by
  simp [State.die_setDie]

theorem State.die_setDie_other (s : State) {d i : Nat} (x : Die) (h : i ≠ d) : (s.setDie d x).die i = s.die i := by
  simp [State.die_setDie, h]

@[simp] theorem State.die_setSlot (s : State) (g : Nat) (x : Slot) (i : Nat) : (s.setSlot g x).die i = s.die i := rfl
@[simp] theorem State.die_setCore (s : State) (c : Nat) (x : Core) (i : Nat) : (s.setCore c x).die i = s.die i := rfl
@[simp] theorem State.die_setCluster (s : State) (cl : Nat) (x : Cluster) (i : Nat) : (s.setCluster cl x).die i = s.die i := rfl
@[simp] theorem State.die_setPart (s : State) (p : Nat) (x : Partition) (i : Nat) : (s.setPart p x).die i = s.die i := rfl
@[simp] theorem State.die_setEngine (s : State) (e : Nat) (x : Engine) (i : Nat) : (s.setEngine e x).die i = s.die i := rfl
@[simp] theorem State.die_setLaunch (s : State) (cl lid : Nat) (l : Launch) (i : Nat) : (s.setLaunch cl lid l).die i = s.die i := rfl
@[simp] theorem State.die_onSlot (s : State) (g : Nat) (f : Slot → Slot) (i : Nat) : (s.onSlot g f).die i = s.die i := rfl
@[simp] theorem State.die_onCore (s : State) (c : Nat) (f : Core → Core) (i : Nat) : (s.onCore c f).die i = s.die i := rfl
@[simp] theorem State.die_onCluster (s : State) (cl : Nat) (f : Cluster → Cluster) (i : Nat) : (s.onCluster cl f).die i = s.die i := rfl
@[simp] theorem State.die_bump (s : State) (i : Nat) : (s.bump).die i = s.die i := rfl

theorem State.part_setPart (s : State) (p i : Nat) (x : Partition) : (s.setPart p x).part i = if i = p then x else s.part i :=
  look_ins _ _ _ _ _

@[simp] theorem State.part_setPart_self (s : State) (p : Nat) (x : Partition) : (s.setPart p x).part p = x := by
  simp [State.part_setPart]

theorem State.part_setPart_other (s : State) {p i : Nat} (x : Partition) (h : i ≠ p) : (s.setPart p x).part i = s.part i := by
  simp [State.part_setPart, h]

@[simp] theorem State.part_setSlot (s : State) (g : Nat) (x : Slot) (i : Nat) : (s.setSlot g x).part i = s.part i := rfl
@[simp] theorem State.part_setCore (s : State) (c : Nat) (x : Core) (i : Nat) : (s.setCore c x).part i = s.part i := rfl
@[simp] theorem State.part_setCluster (s : State) (cl : Nat) (x : Cluster) (i : Nat) : (s.setCluster cl x).part i = s.part i := rfl
@[simp] theorem State.part_setDie (s : State) (d : Nat) (x : Die) (i : Nat) : (s.setDie d x).part i = s.part i := rfl
@[simp] theorem State.part_setEngine (s : State) (e : Nat) (x : Engine) (i : Nat) : (s.setEngine e x).part i = s.part i := rfl
@[simp] theorem State.part_setLaunch (s : State) (cl lid : Nat) (l : Launch) (i : Nat) : (s.setLaunch cl lid l).part i = s.part i := rfl
@[simp] theorem State.part_onSlot (s : State) (g : Nat) (f : Slot → Slot) (i : Nat) : (s.onSlot g f).part i = s.part i := rfl
@[simp] theorem State.part_onCore (s : State) (c : Nat) (f : Core → Core) (i : Nat) : (s.onCore c f).part i = s.part i := rfl
@[simp] theorem State.part_onCluster (s : State) (cl : Nat) (f : Cluster → Cluster) (i : Nat) : (s.onCluster cl f).part i = s.part i := rfl
@[simp] theorem State.part_bump (s : State) (i : Nat) : (s.bump).part i = s.part i := rfl

theorem State.engine_setEngine (s : State) (e i : Nat) (x : Engine) : (s.setEngine e x).engine i = if i = e then x else s.engine i :=
  look_ins _ _ _ _ _

@[simp] theorem State.engine_setEngine_self (s : State) (e : Nat) (x : Engine) : (s.setEngine e x).engine e = x := by
  simp [State.engine_setEngine]

theorem State.engine_setEngine_other (s : State) {e i : Nat} (x : Engine) (h : i ≠ e) : (s.setEngine e x).engine i = s.engine i := by
  simp [State.engine_setEngine, h]

@[simp] theorem State.engine_setSlot (s : State) (g : Nat) (x : Slot) (i : Nat) : (s.setSlot g x).engine i = s.engine i := rfl
@[simp] theorem State.engine_setCore (s : State) (c : Nat) (x : Core) (i : Nat) : (s.setCore c x).engine i = s.engine i := rfl
@[simp] theorem State.engine_setCluster (s : State) (cl : Nat) (x : Cluster) (i : Nat) : (s.setCluster cl x).engine i = s.engine i := rfl
@[simp] theorem State.engine_setDie (s : State) (d : Nat) (x : Die) (i : Nat) : (s.setDie d x).engine i = s.engine i := rfl
@[simp] theorem State.engine_setPart (s : State) (p : Nat) (x : Partition) (i : Nat) : (s.setPart p x).engine i = s.engine i := rfl
@[simp] theorem State.engine_setLaunch (s : State) (cl lid : Nat) (l : Launch) (i : Nat) : (s.setLaunch cl lid l).engine i = s.engine i := rfl
@[simp] theorem State.engine_onSlot (s : State) (g : Nat) (f : Slot → Slot) (i : Nat) : (s.onSlot g f).engine i = s.engine i := rfl
@[simp] theorem State.engine_onCore (s : State) (c : Nat) (f : Core → Core) (i : Nat) : (s.onCore c f).engine i = s.engine i := rfl
@[simp] theorem State.engine_onCluster (s : State) (cl : Nat) (f : Cluster → Cluster) (i : Nat) : (s.onCluster cl f).engine i = s.engine i := rfl
@[simp] theorem State.engine_bump (s : State) (i : Nat) : (s.bump).engine i = s.engine i := rfl

end Sys2Proof.Machine
end

