-- ==== Sys2Proof/Laws/Memory.lean ====
section
/-! SUPPORT. Every memory operation keeps the canonical form of the part's memories, and what is read after a write. -/

namespace Sys2Proof.Machine

/-! ## The form, field by field -/

theorem Memory.wf_iff (s : State) : Memory.wf s = true ↔ s.sram.wf = true ∧ s.dev.wf = true ∧ canonical 0 s.parity = true
    ∧ canonical 0 s.parSyn = true := by
  simp [Memory.wf, and_assoc]

/-- A change that leaves the four memories alone keeps the form. -/
theorem Memory.wf_congr {s t : State} (h1 : t.sram = s.sram) (h2 : t.dev = s.dev) (h3 : t.parity = s.parity) (h4 : t.parSyn = s.parSyn) :
    Memory.wf t = Memory.wf s := by
  simp [Memory.wf, h1, h2, h3, h4]

@[simp] theorem Memory.wf_setSlot (s : State) (g : Nat) (x : Slot) : Memory.wf (s.setSlot g x) = Memory.wf s := rfl
@[simp] theorem Memory.wf_setCore (s : State) (c : Nat) (x : Core) : Memory.wf (s.setCore c x) = Memory.wf s := rfl
@[simp] theorem Memory.wf_setCluster (s : State) (cl : Nat) (x : Cluster) : Memory.wf (s.setCluster cl x) = Memory.wf s := rfl
@[simp] theorem Memory.wf_setDie (s : State) (d : Nat) (x : Die) : Memory.wf (s.setDie d x) = Memory.wf s := rfl
@[simp] theorem Memory.wf_setPart (s : State) (p : Nat) (x : Partition) : Memory.wf (s.setPart p x) = Memory.wf s := rfl
@[simp] theorem Memory.wf_setEngine (s : State) (e : Nat) (x : Engine) : Memory.wf (s.setEngine e x) = Memory.wf s := rfl
@[simp] theorem Memory.wf_setLaunch (s : State) (cl lid : Nat) (l : Launch) : Memory.wf (s.setLaunch cl lid l) = Memory.wf s := rfl
@[simp] theorem Memory.wf_onSlot (s : State) (g : Nat) (f : Slot → Slot) : Memory.wf (s.onSlot g f) = Memory.wf s := rfl
@[simp] theorem Memory.wf_onCore (s : State) (c : Nat) (f : Core → Core) : Memory.wf (s.onCore c f) = Memory.wf s := rfl
@[simp] theorem Memory.wf_onCluster (s : State) (cl : Nat) (f : Cluster → Cluster) : Memory.wf (s.onCluster cl f) = Memory.wf s := rfl
@[simp] theorem Memory.wf_bump (s : State) : Memory.wf s.bump = Memory.wf s := rfl

theorem Store.wf_of {b : List Host.Cell} {t f : Sparse Bool} {y : Sparse (BitVec 8)} (h1 : canonical 0 b = true)
    (h2 : canonical false t = true) (h3 : canonical false f = true) (h4 : canonical 0 y = true) : Store.wf ⟨b, t, f, y⟩ = true :=
  (Store.wf_iff _).mpr ⟨h1, h2, h3, h4⟩

theorem canonical_foldl {α β : Type} [DecidableEq α] (d : α) (l : List β) (f : Sparse α → β → Sparse α)
    (hf : ∀ m b, canonical d m = true → canonical d (f m b) = true) {m : Sparse α} (h : canonical d m = true) :
    canonical d (l.foldl f m) = true := by
  induction l generalizing m with
  | nil => exact h
  | cons b l ih => exact ih (hf m b h)

theorem canonical_ite {α : Type} [DecidableEq α] (d : α) {c : Prop} [Decidable c] {m n : Sparse α} (hm : canonical d m = true)
    (hn : canonical d n = true) : canonical d (if c then m else n) = true := by
  split <;> assumption

/-! ## Writes of global SRAM -/

theorem Memory.wf_setSram {s : State} {st : Store} (h : Memory.wf s = true) (hs : st.wf = true) :
    Memory.wf { s with sram := st } = true := by
  rw [Memory.wf_iff] at *
  exact ⟨hs, h.2⟩

theorem Memory.wf_setDev {s : State} {st : Store} (h : Memory.wf s = true) (hs : st.wf = true) :
    Memory.wf { s with dev := st } = true := by
  rw [Memory.wf_iff] at *
  exact ⟨h.1, hs, h.2.2⟩

theorem Memory.wf_sramWrite {s : State} (cl ofs n v : Nat) (h : Memory.wf s = true) : Memory.wf (sramWrite s cl ofs n v) = true :=
  Memory.wf_setSram h (Store.wf_write _ _ _ ((Memory.wf_iff s).mp h).1)

theorem Memory.wf_sramWriteCap {s : State} (cl ofs : Nat) (v : RegVal) (h : Memory.wf s = true) :
    Memory.wf (sramWriteCap s cl ofs v) = true :=
  Memory.wf_setSram h (Store.wf_writeTagged _ _ _ ((Memory.wf_iff s).mp h).1)

theorem Memory.wf_setWordFull {s : State} (cl ofs : Nat) (f : Bool) (h : Memory.wf s = true) :
    Memory.wf (setWordFull s cl ofs f) = true := by
  unfold setWordFull
  split
  · exact h
  · exact Memory.wf_setSram (s := s.setCluster cl _) (by simpa using h) (Store.wf_setFull _ _ ((Memory.wf_iff s).mp h).1)

theorem Memory.wf_fillWord {s : State} (cl ofs v : Nat) (h : Memory.wf s = true) : Memory.wf (fillWord s cl ofs v) = true :=
  Memory.wf_setWordFull cl ofs true (Memory.wf_sramWrite cl ofs 8 v h)

theorem Memory.wf_faultEntry {s : State} (cl fsrc fcode ten fseq addr aux : Nat) (h : Memory.wf s = true) :
    Memory.wf (faultEntry s cl fsrc fcode ten fseq addr aux) = true := by
  unfold faultEntry
  dsimp only
  split
  · simpa using h
  · rw [Memory.wf_setCluster]
    exact Memory.wf_fillWord _ _ _ (Memory.wf_sramWrite _ _ _ _ (Memory.wf_sramWrite _ _ _ _ (Memory.wf_sramWrite _ _ _ _ h)))

theorem Memory.wf_dropQueueWrite {s : State} (cl q addr src : Nat) (h : Memory.wf s = true) :
    Memory.wf (dropQueueWrite s cl q addr src) = true :=
  Memory.wf_faultEntry _ _ _ _ _ _ _ h

theorem Memory.wf_traceStore {s : State} (cl ofs core slot chip : Nat) (h : Memory.wf s = true) :
    Memory.wf (traceStore s cl ofs core slot chip) = true := by
  unfold traceStore
  dsimp only
  split
  · exact h
  · rw [Memory.wf_setCluster]
    exact Memory.wf_sramWrite _ _ _ _ (Memory.wf_sramWrite _ _ _ _ h)

theorem Memory.wf_traceFrom {s : State} (g cl ofs : Nat) (h : Memory.wf s = true) : Memory.wf (traceFrom s g cl ofs) = true := by
  unfold traceFrom
  split
  · exact h
  · exact Memory.wf_traceStore _ _ _ _ _ h

/-! ## Device memory -/

/-- A fold of steps that each keep the form keeps it. -/
theorem Memory.wf_foldl {β : Type} (l : List β) (f : State → β → State) (hf : ∀ s b, Memory.wf s = true → Memory.wf (f s b) = true)
    {s : State} (h : Memory.wf s = true) : Memory.wf (l.foldl f s) = true := by
  induction l generalizing s with
  | nil => exact h
  | cons b l ih => exact ih (hf s b h)

theorem Memory.wf_countError {s : State} (w : Nat) (h : Memory.wf s = true) : Memory.wf (countError s w) = true := by
  unfold countError
  dsimp only
  split <;> exact h

theorem Memory.wf_reportLost {s : State} (pa : Nat) (h : Memory.wf s = true) : Memory.wf (reportLost s pa) = true := by
  unfold reportLost
  split
  · dsimp only
    split
    · exact Memory.wf_faultEntry _ _ _ _ _ _ _ h
    · exact h
  · exact h

theorem Memory.wf_loseWords {s : State} (ws : List Nat) (h : Memory.wf s = true) : Memory.wf (loseWords s ws) = true := by
  have hs := (Store.wf_iff _).mp ((Memory.wf_iff s).mp h).2.1
  exact Memory.wf_foldl _ _ (fun _ _ ht => Memory.wf_reportLost _ ht)
    (Memory.wf_setDev h (Store.wf_of hs.1 hs.2.1 hs.2.2.1 (canonical_foldl 0 _ _ (fun m b hm => canonical_put 0 _ _ hm) hs.2.2.2)))

theorem Memory.wf_correctWord {s : State} (w : Nat) (h : Memory.wf s = true) : Memory.wf (correctWord s w) = true := by
  unfold correctWord
  split
  · exact Memory.wf_countError w (Memory.wf_setDev h (Store.wf_settle w ((Memory.wf_iff s).mp h).2.1))
  · exact h

theorem Memory.wf_setParity {s : State} {m : List Host.Cell} {y : Sparse (BitVec 8)} (h : Memory.wf s = true) (hm : canonical 0 m = true)
    (hy : canonical 0 y = true) : Memory.wf { s with parity := m, parSyn := y } = true := by
  rw [Memory.wf_iff] at *
  exact ⟨h.1, h.2.1, hm, hy⟩

theorem Memory.wf_correctParity {s : State} (k : Nat) (h : Memory.wf s = true) : Memory.wf (correctParity s k) = true := by
  have hs := (Memory.wf_iff s).mp h
  unfold correctParity
  split
  · exact Memory.wf_setParity h (canonical_ite 0 (canonical_wrN _ _ _ hs.2.2.1) hs.2.2.1) (canonical_put 0 _ _ hs.2.2.2)
  · exact h

theorem Memory.wf_correctRow {s : State} (w : Nat) (h : Memory.wf s = true) : Memory.wf (correctRow s w) = true :=
  Memory.wf_correctParity _ (Memory.wf_foldl _ _ (fun _ v ht => Memory.wf_correctWord v ht) h)

theorem Memory.wf_rebuildWord {s : State} (w : Nat) (h : Memory.wf s = true) : Memory.wf (rebuildWord s w) = true := by
  have hs := (Store.wf_iff _).mp ((Memory.wf_iff s).mp h).2.1
  have h1 := fun v : Nat => Memory.wf_setDev h (Store.wf_of (canonical_wrN (8 * w) 8 v hs.1) hs.2.1 hs.2.2.1 (canonical_put 0 w 0 hs.2.2.2))
  unfold rebuildWord
  generalize ofBytes _ = v
  have h2 := h1 v
  cases synKind (look 0 s.dev.syn w) == .bad
  · exact h2
  · exact Memory.wf_countError w h2

theorem Memory.wf_rebuildUnit {s : State} (w : Nat) (h : Memory.wf s = true) : Memory.wf (rebuildUnit s w) = true := by
  have h1 := Memory.wf_foldl (unitWords w) correctRow (fun _ v ht => Memory.wf_correctRow v ht) h
  unfold rebuildUnit
  dsimp only
  refine Memory.wf_loseWords _ ?_
  split
  · exact h1
  · exact Memory.wf_foldl _ _ (fun _ v ht => Memory.wf_rebuildWord v ht) h1

theorem Memory.wf_settleWord {s : State} (w : Nat) (h : Memory.wf s = true) : Memory.wf (settleWord s w) = true := by
  unfold settleWord
  split
  · exact Memory.wf_rebuildUnit w h
  · split
    · exact Memory.wf_correctWord w h
    · exact Memory.wf_rebuildUnit w h
    · exact h

theorem Memory.wf_devSettle {s : State} (pa n : Nat) (h : Memory.wf s = true) : Memory.wf (devSettle s pa n) = true :=
  Memory.wf_foldl _ _ (fun _ _ hs => Memory.wf_settleWord _ hs) h

theorem Memory.wf_applyDiff {s : State} (d : ParityDiff) (h : Memory.wf s = true) : Memory.wf (applyDiff s d) = true := by
  unfold applyDiff
  dsimp only
  split
  · exact h
  · have h1 := Memory.wf_foldl d.bytes (fun t kb => correctParity t ((localAddr d.pa + kb.1) / 8)) (fun _ _ ht => Memory.wf_correctParity _ ht) h
    generalize List.foldl (fun t kb => correctParity t ((localAddr d.pa + kb.1) / 8)) s d.bytes = t at h1 ⊢
    have ht := (Memory.wf_iff t).mp h1
    exact Memory.wf_setParity h1 (canonical_foldl 0 _ _ (fun m b hm => canonical_put 0 _ _ hm) ht.2.2.1) ht.2.2.2

theorem Memory.wf_putStored {s : State} (id slot die pa : Nat) (bs : Sparse (BitVec 8)) (h : Memory.wf s = true) :
    Memory.wf (putStored s id slot die pa bs).1 = true := by
  have hd := (Store.wf_iff _).mp ((Memory.wf_iff s).mp h).2.1
  have hb := Memory.wf_setDev h (Store.wf_of (canonical_wrListed pa bs hd.1) hd.2.1 hd.2.2.1 hd.2.2.2)
  unfold putStored
  dsimp only
  split
  · exact hb
  · split
    · exact Memory.wf_applyDiff _ h
    · exact hb

theorem Memory.wf_writeLine {s : State} (id slot die ten line : Nat) (bs : Sparse (BitVec 8)) (tags : Nat) (h : Memory.wf s = true) :
    Memory.wf (writeLine s id slot die ten line bs tags).1 = true := by
  unfold writeLine
  generalize forwardPa s (64 * line) / 64 = l
  dsimp only
  have h1 := Memory.wf_foldl (List.range 8) (fun t i => settleWord t (8 * l + i)) (fun _ _ hs => Memory.wf_settleWord _ hs) h
  generalize List.foldl (fun t i => settleWord t (8 * l + i)) s (List.range 8) = t at h1 ⊢
  have hd := (Store.wf_iff _).mp ((Memory.wf_iff t).mp h1).2.1
  refine Memory.wf_putStored _ _ _ _ _ ((Memory.wf_congr rfl rfl rfl rfl).trans (Memory.wf_setDev h1 (Store.wf_of hd.1
    (canonical_foldl false _ _ (fun m b hm => canonical_ite false (canonical_put false _ _ hm) hm) hd.2.1) hd.2.2.1
    (canonical_foldl 0 _ _ (fun m b hm => canonical_put 0 _ _ hm) hd.2.2.2))))

theorem Memory.wf_performLine {s : State} (id slot die ten line : Nat) (bs : Sparse (BitVec 8)) (tags : Nat) (h : Memory.wf s = true) :
    Memory.wf (performLine s id slot die ten line bs tags) = true := by
  have h1 := Memory.wf_writeLine id slot die ten line bs tags h
  unfold performLine
  generalize writeLine s id slot die ten line bs tags = r at h1 ⊢
  exact (Memory.wf_congr rfl rfl rfl rfl).trans h1

theorem Memory.wf_devWrite {s : State} (ten pa : Nat) (bs : List (BitVec 8)) (tag : Bool) (h : Memory.wf s = true) :
    Memory.wf (devWrite s ten pa bs tag) = true := by
  refine Memory.wf_foldl _ _ (fun t lm ht => ?_) h
  have hw := Memory.wf_writeLine 0 t.cur 0 ten lm.1 lm.2 (if tag then 0xF else 0) ht
  unfold settled
  split
  · exact Memory.wf_applyDiff _ hw
  · exact hw

theorem Memory.wf_diagLine {s : State} (id slot die pa v : Nat) (syn : BitVec 8) (par : Bool) (h : Memory.wf s = true) :
    Memory.wf (diagLine s id slot die pa v syn par) = true := by
  have hs := (Memory.wf_iff s).mp h
  have h1 := Memory.wf_putStored id slot die (pa / 64 * 64) (bytesAt (pa % 64) 8 v) h
  have hd := (Store.wf_iff _).mp ((Memory.wf_iff _).mp h1).2.1
  unfold diagLine
  split
  · exact Memory.wf_setParity h (canonical_wrN _ _ _ hs.2.2.1) (canonical_put 0 _ _ hs.2.2.2)
  · exact (Memory.wf_congr rfl rfl rfl rfl).trans
      (Memory.wf_setDev h1 (Store.wf_of hd.1 (canonical_put false _ _ hd.2.1) hd.2.2.1 (canonical_put 0 _ _ hd.2.2.2)))

/-! ## Ranges -/

theorem Store.wf_poisonAt {st : Store} (a : Nat) (xs : List MByte) (h : st.wf = true) : (poisonAt st a xs).wf = true := by
  unfold poisonAt
  induction xs.zipIdx generalizing st with
  | nil => exact h
  | cons x l ih =>
    refine ih ?_
    dsimp only
    split
    · exact Store.wf_makePoison _ _ h
    · exact h

theorem Memory.wf_readPiece {s : State} (b : Sender) (ea len : Nat) (h : Memory.wf s = true) :
    Memory.wf (readPiece s b ea len).2 = true := by
  unfold readPiece
  split
  · exact h
  · split <;> exact h
  · split
    · exact h
    · exact Memory.wf_setSram h (Store.wf_settleAll _ _ ((Memory.wf_iff s).mp h).1)
  · exact Memory.wf_devSettle _ _ h
  · split <;> exact h
  · exact h

theorem Memory.wf_readPieces {s : State} (b : Sender) (ps : List (Nat × Nat)) (h : Memory.wf s = true) :
    Memory.wf (readPieces s b ps).2 = true := by
  induction ps generalizing s with
  | nil => exact h
  | cons p ps ih =>
    obtain ⟨ea, len⟩ := p
    have h1 := Memory.wf_readPiece b ea len h
    unfold readPieces
    split
    · rename_i xs t ht
      rw [ht] at h1
      have h2 := ih h1
      split
      · rename_i ys u hu
        rw [hu] at h2
        exact h2
      · exact h2
    · exact h1

theorem Memory.wf_readSpan {s : State} (b : Sender) (ea len : Nat) (h : Memory.wf s = true) : Memory.wf (readSpan s b ea len).2 = true :=
  Memory.wf_readPieces b _ h

theorem Memory.wf_countGuarded {s : State} (cl part : Nat) (rs : List Nat) (h : Memory.wf s = true) :
    Memory.wf (countGuarded s cl part rs) = true := by
  unfold countGuarded
  dsimp only
  split
  · exact h
  · split
    · exact h
    · exact Memory.wf_foldl _ _ (fun _ _ hs => Memory.wf_sramWrite _ _ _ _ hs) h

theorem Memory.wf_writeOnly {s : State} {r : State × Option Nat} (b : Sender) (src : Nat × Nat) (ea : Nat) (xs : List MByte)
    (h : Memory.wf s = true) (hr : writeOnly s b src ea xs = some r) : Memory.wf r.1 = true := by
  unfold writeOnly at hr
  dsimp only at hr
  split at hr
  · split at hr
    · cases hr
    · split at hr
      · cases hr; exact Memory.wf_dropQueueWrite _ _ _ _ h
      · rename_i p o _ _ _ _ _
        cases hr
        have h1 := Memory.wf_sramWrite p o xs.length (numOf xs) h
        have h2 := Memory.wf_setSram h1 (Store.wf_poisonAt (sramKey p o) xs ((Memory.wf_iff _).mp h1).1)
        dsimp only
        split
        · exact h2
        · exact Memory.wf_traceStore _ _ _ _ _ h2
  · rename_i pa _ _
    have h1 := Memory.wf_devWrite b.ten pa (xs.map (·.1)) false h
    generalize devWrite s b.ten pa (xs.map (·.1)) false = t at h1 hr
    cases hr
    exact Memory.wf_setDev h1 (Store.wf_poisonAt (forwardPa t pa) xs ((Memory.wf_iff _).mp h1).2.1)
  · cases hr; exact h
  · split at hr
    · cases hr; exact h
    · cases hr
  · cases hr

theorem Memory.wf_writePiece {s t : State} (b : Sender) (src : Nat × Nat) (ea : Nat) (xs : List MByte) (h : Memory.wf s = true)
    (ht : writePiece s b src ea xs = some t) : Memory.wf t = true := by
  obtain ⟨r, hr, rfl⟩ := Option.map_eq_some_iff.mp ht
  have h1 := Memory.wf_writeOnly b src ea xs h hr
  split
  · exact Memory.wf_countGuarded _ _ _ h1
  · exact h1

theorem Memory.wf_writeRange {s : State} (b : Sender) (src : Nat × Nat) (ea : Nat) (xs : List MByte) (h : Memory.wf s = true) :
    Memory.wf (writeRange s b src ea xs).2 = true := by
  unfold writeRange
  dsimp only
  have key : ∀ (l : List (Nat × Nat)) (acc : Bool × State × List MByte), Memory.wf acc.2.1 = true →
      Memory.wf (l.foldl (fun (acc : Bool × State × List MByte) p =>
        if !acc.1 then acc
        else
          match writePiece acc.2.1 b src p.1 (acc.2.2.take p.2) with
          | some s => (true, s, acc.2.2.drop p.2)
          | none => (false, acc.2.1, [])) acc).2.1 = true := by
    intro l
    induction l with
    | nil => exact fun acc ha => ha
    | cons p l ih =>
      intro acc ha
      refine ih _ ?_
      dsimp only
      split
      · exact ha
      · split
        · rename_i t ht
          exact Memory.wf_writePiece b src _ _ ha ht
        · exact ha
  exact key _ _ h

/-! ## Reading after writing -/

/-- Whether a word is free of an error that a read corrects (R371). -/
def Store.sound (st : Store) (w : Nat) : Prop := ∀ k, synKind (look 0 st.syn w) ≠ .fix k

theorem Store.settleAll_sound {st : Store} (a n : Nat) (h : ∀ w ∈ wordsOf a n, st.sound w) : st.settleAll a n = st := by
  unfold Store.settleAll
  generalize wordsOf a n = l at h
  induction l with
  | nil => rfl
  | cons w l ih =>
    have hw : st.settle w = st := by
      unfold Store.settle
      split
      · exact absurd ‹_› (h w (by simp) _)
      · rfl
    rw [List.foldl_cons, hw]
    exact ih fun v hv => h v (by simp [hv])

theorem look_foldl_put (l : List Nat) (f : Nat → BitVec 8) {m : Sparse (BitVec 8)} (i : Nat) (h : canonical 0 m = true) :
    look 0 (l.foldl (fun t w => put 0 t w (f w)) m) i = if i ∈ l then f i else look 0 m i := by
  induction l generalizing m with
  | nil => simp
  | cons w l ih =>
    rw [List.foldl_cons, ih (canonical_put 0 _ _ h), look_put 0 _ _ _ h]
    by_cases hi : i ∈ l <;> by_cases hw : i = w <;> simp [hi, hw]

/-- A write leaves the words of its range sound, and the others as they were. -/
theorem Store.sound_write {st : Store} (a n v w : Nat) (h : st.wf = true) (hw : w ∈ wordsOf a n ∨ (st.settleAll a n).sound w) :
    (st.write a n v).sound w := by
  have hc := ((Store.wf_iff _).mp (Store.wf_settleAll a n h)).2.2.2
  unfold Store.sound Store.write
  dsimp only
  rw [look_foldl_put _ _ _ hc]
  split
  · intro k
    unfold synAfter
    split
    · simp [synKind]
    · split <;> simp [synKind]
  · exact hw.resolve_left ‹_›

/-- A number written to a slice reads back, and sound bytes elsewhere read as before (R3). -/
theorem sramRead_sramWrite_apart {s : State} (cl ofs n v cl' ofs' k : Nat) (h : Memory.wf s = true)
    (hs : s.sram.settleAll (sramKey cl ofs) n = s.sram) (hk : ∀ w ∈ wordsOf (sramKey cl' ofs') k, s.sram.sound w)
    (ha : sramKey cl' ofs' + k ≤ sramKey cl ofs ∨ sramKey cl ofs + n ≤ sramKey cl' ofs') :
    sramRead (sramWrite s cl ofs n v) cl' ofs' k = sramRead s cl' ofs' k := by
  have hc := ((Store.wf_iff _).mp ((Memory.wf_iff s).mp h).1).1
  have h1 := Store.settleAll_sound _ _ hk
  have h2 := Store.settleAll_sound (st := s.sram.write (sramKey cl ofs) n v) _ _ fun w hw =>
    Store.sound_write _ n v w ((Memory.wf_iff s).mp h).1 (.inr (by rw [hs]; exact hk w hw))
  simp only [sramRead, sramWrite, h1, h2]
  simp only [Store.read, Store.write, hs]
  exact rdN_wrN_apart _ _ _ _ _ hc ha

theorem sramRead_sramWrite_same {s : State} (cl ofs n v : Nat) (h : Memory.wf s = true) :
    sramRead (sramWrite s cl ofs n v) cl ofs n = v % 256 ^ n := by
  have hw := ((Memory.wf_iff s).mp h).1
  have h2 := Store.settleAll_sound (st := s.sram.write (sramKey cl ofs) n v) _ _ fun w hm =>
    Store.sound_write _ n v w hw (.inl hm)
  have hc := ((Store.wf_iff _).mp (Store.wf_settleAll (sramKey cl ofs) n hw)).1
  simp only [sramRead, sramWrite, h2]
  exact rdN_wrN_same _ _ _ hc

end Sys2Proof.Machine
end

