-- ==== Sys2Proof/Laws/Ops.lean ====
section
/-! SUPPORT. What the shared operations of a word come to: one lemma for each way in which a word issues, traps or waits, and for the
registers that it reads and writes. -/

namespace Sys2Proof.Machine

/-! ## One operation after another -/

@[simp] theorem Res.bind_ok {α β : Type} (a : α) (s : State) (f : α → State → Res β) : (Res.ok a s).bind f = f a s := rfl
@[simp] theorem Res.bind_trap {α β : Type} (c : Cause) (n : Nat) (f : α → State → Res β) : (Res.trap c n).bind f = .trap c n := rfl
@[simp] theorem Res.bind_wait {α β : Type} (w : Wait) (s : State) (f : α → State → Res β) : (Res.wait w s).bind f = .wait w s := rfl

/-! ## Issue -/

@[simp] theorem issue_ok (m : Bool) (s t : State) : issue m s (.ok () t) = .next (issued m s.cur t) := rfl
@[simp] theorem issue_trap (m : Bool) (s : State) (c : Cause) (n : Nat) : issue m s (.trap c n) = .next (trapHere s s.cur c n) := rfl
@[simp] theorem issue_wait (m : Bool) (s t : State) (w : Wait) :
    issue m s (.wait w t) = .next (t.onSlot s.cur fun x => { x with status := .parked w, mark := false }) := rfl

@[simp] theorem issueOwn_ok (s t : State) : issueOwn s (.ok () t) = .next t := rfl
@[simp] theorem issueOwn_trap (s : State) (c : Cause) (n : Nat) : issueOwn s (.trap c n) = .next (trapHere s s.cur c n) := rfl
@[simp] theorem issueOwn_wait (s t : State) (w : Wait) :
    issueOwn s (.wait w t) = .next (t.onSlot s.cur fun x => { x with status := .parked w, mark := false }) := rfl

/-- A word never stops the machine: it completes, traps or parks. -/
theorem issue_next (m : Bool) (s : State) (r : Res Unit) : ∃ t, issue m s r = .next t := by cases r <;> exact ⟨_, rfl⟩

theorem issueOwn_next (s : State) (r : Res Unit) : ∃ t, issueOwn s r = .next t := by cases r <;> exact ⟨_, rfl⟩

/-! ## Words that compute -/

/-- A word that computes completes when it is ready and its function gives a value. -/
theorem issue_compute {m : Bool} {s t : State} {fs : List Nat} {d : Nat} {f : List RegVal → Cause ⊕ (RegVal × Nat)} {v : RegVal}
    {fl : Nat} {places : List OutElem} (h : Ready s fs d places t) (hf : f (values s fs) = .inr (v, fl)) :
    issue m s (compute s fs d f) = .next (wrote m s.cur fs d v fl places t) := by
  unfold compute
  rw [h.src]
  simp only [Res.bind_ok]
  unfold values at hf
  rw [hf]
  dsimp only
  rw [h.dst]
  rfl

/-- A word that computes traps with the cause that its function gives. -/
theorem issue_compute_trap {m : Bool} {s : State} {fs : List Nat} {d : Nat} {f : List RegVal → Cause ⊕ (RegVal × Nat)} {c : Cause}
    (h : checkSrc s s.cur fs d = .ok () s) (hf : f (values s fs) = .inl c) :
    issue m s (compute s fs d f) = .next (trapHere s s.cur c 0) := by
  unfold compute
  rw [h]
  simp only [Res.bind_ok]
  unfold values at hf
  rw [hf]
  rfl

theorem issue_computeVal {m : Bool} {s t : State} {fs : List Nat} {d : Nat} {f : List RegVal → RegVal} {places : List OutElem}
    (h : Ready s fs d places t) :
    issue m s (computeVal s fs d f) = .next (wrote m s.cur fs d (f (values s fs)) 0 places t) := issue_compute h rfl

@[simp] theorem values_one (s : State) (a : Nat) : values s [a] = [fieldVal s s.cur [a] 0] := rfl
@[simp] theorem values_two (s : State) (a b : Nat) : values s [a, b] = [fieldVal s s.cur [a, b] 0, fieldVal s s.cur [a, b] 1] := rfl
@[simp] theorem values_three (s : State) (a b c : Nat) :
    values s [a, b, c] = [fieldVal s s.cur [a, b, c] 0, fieldVal s s.cur [a, b, c] 1, fieldVal s s.cur [a, b, c] 2] := rfl

/-- A source that is a register and not a port reads its register. -/
theorem fieldVal_reg {s : State} {g i : Nat} {fs : List Nat} (h : ¬(48 ≤ fs.getD i 0 ∧ fs.getD i 0 ≤ 55)) :
    fieldVal s g fs i = readReg s g (fs.getD i 0) := by
  unfold fieldVal
  simp only [if_neg h]

/-! ## Registers -/

/-- Writing a register is seen in that register and in no other; a destination of `gz` discards (R156). -/
theorem readReg_writeReg (s : State) (g d r : Nat) (v : RegVal) (hr : r ≠ 59) :
    readReg (writeReg s g d v) g r = if r = d ∧ 1 ≤ d ∧ d ≤ 47 then v else readReg s g r := by
  unfold writeReg
  by_cases hd : 1 ≤ d ∧ d ≤ 47
  · simp only [if_pos hd]
    unfold readReg
    by_cases h0 : r = 0
    · subst h0
      have : ¬(0 = d ∧ 1 ≤ d ∧ d ≤ 47) := by omega
      simp [this]
    · by_cases h47 : r ≤ 47
      · simp only [if_neg h0, if_pos h47, State.onSlot, State.slot_setSlot_self, Context.reg, look_ins]
        by_cases h : r = d
        · simp [h, hd.1, hd.2]
        · simp [h]
      · have : ¬(r = d ∧ 1 ≤ d ∧ d ≤ 47) := by omega
        simp only [if_neg h0, if_neg h47, if_neg this, if_neg hr, State.onSlot, State.slot_setSlot_self]
  · simp [hd]

/-- Writing a register of a slot leaves every other slot. -/
theorem slot_writeReg_other (s : State) {g h : Nat} (d : Nat) (v : RegVal) (hg : h ≠ g) : (writeReg s g d v).slot h = s.slot h := by
  unfold writeReg
  split
  · exact State.slot_setSlot_other s _ hg
  · rfl

end Sys2Proof.Machine
end

