-- ==== Sys2Proof/Laws/PerInstr.lean ====
section
/-! SUPPORT. One lemma for each constructor: the word of a well-formed instruction has 64 bits (09_encoding R143); the steps of other agents
have no word. -/

namespace Sys2Proof.Laws.Fits

set_option Elab.async false
set_option linter.unusedSimpArgs false

/-- The word of an instruction that is well formed has 64 bits. -/
def Statement (i : Instr) : Prop := i.wf = true → ∀ w, encode i = some w → w < 2 ^ 64

theorem reg_lt (r : Nat) (h : isReg r = true) : r < 64 := Nat.lt_trans (of_decide_eq_true h) (by decide)
theorem dst_lt (r : Nat) (h : isDst r = true) : r < 64 := Nat.lt_trans (of_decide_eq_true h) (by decide)
theorem gen_lt (r : Nat) (h : isGen r = true) : r < 64 := Nat.lt_trans (of_decide_eq_true h) (by decide)
theorem port_lt (r : Nat) (h : isPort r = true) : r < 64 := Nat.lt_of_le_of_lt (of_decide_eq_true h).2 (by decide)
theorem bit_le (b : Bool) : bit b ≤ 1 := by cases b <;> decide

theorem and_l {a b : Bool} (h : (a && b) = true) : a = true := ((Bool.and_eq_true a b).mp h).1
theorem and_r {a b : Bool} (h : (a && b) = true) : b = true := ((Bool.and_eq_true a b).mp h).2

/-- The high half of a word and a low half fit into 64 bits. -/
theorem word_lt {op d a b c x : Nat} (s : Bool) (ho : op < 128) (hd : d < 64) (ha : a < 64) (hb : b < 64) (hc : c < 64) (hx : x < 2 ^ 32) :
    word op s d a b c + x < 2 ^ 64 := by
  have : (if s then 2 ^ 63 else 0) ≤ 2 ^ 63 := by cases s <;> decide
  simp only [word]
  omega

theorem word_lt' {op d a b c : Nat} (s : Bool) (ho : op < 128) (hd : d < 64) (ha : a < 64) (hb : b < 64) (hc : c < 64) :
    word op s d a b c < 2 ^ 64 := by
  have h := word_lt (x := 0) s ho hd ha hb hc (by decide)
  rwa [Nat.add_zero] at h

section formats

variable {op fn : Nat} {p : Nat → Bool} (hp : ∀ r, p r = true → r < 64) (ho : op < 128) (hf : fn < 256)
include ho hf

include hp in
theorem r3 {o : R3} (h : (p o.d && isReg o.a && isReg o.b) = true) : putR3 op fn o < 2 ^ 64 :=
  word_lt _ ho (hp _ (and_l (and_l h))) (reg_lt _ (and_r (and_l h))) (reg_lt _ (and_r h)) (by decide) (by omega)

include hp in
theorem r2 {o : R2} (h : (p o.d && isReg o.a) = true) : putR2 op fn o < 2 ^ 64 :=
  word_lt _ ho (hp _ (and_l h)) (reg_lt _ (and_r h)) (by decide) (by decide) (by omega)

include hp in
theorem r4 {o : R4} (h : (p o.d && isReg o.a && isReg o.b && isReg o.c) = true) : putR4 op fn o < 2 ^ 64 :=
  word_lt _ ho (hp _ (and_l (and_l (and_l h)))) (reg_lt _ (and_r (and_l (and_l h)))) (reg_lt _ (and_r (and_l h))) (reg_lt _ (and_r h)) (by omega)

theorem imm {o : ImmOp} {n : Nat} (hn : n ≤ 2 ^ 32) (hf : fn < 16) (h : (isDst o.d && isReg o.a && decide (o.imm < n)) = true) :
    putImm op fn o < 2 ^ 64 := by
  have h1 := dst_lt _ (and_l (and_l h))
  have h2 := reg_lt _ (and_r (and_l h))
  have h3 := of_decide_eq_true (and_r h)
  have h4 := bit_le o.w
  have : (if o.s then 2 ^ 63 else 0) ≤ 2 ^ 63 := by cases o.s <;> decide
  simp only [putImm, word]
  omega

include hp in
theorem liF {o : LiOp} (hf : fn < 16) (h : (p o.d && decide (o.imm < 2 ^ 32)) = true) : putLi op fn o < 2 ^ 64 := by
  have h1 := hp _ (and_l h)
  have h3 := of_decide_eq_true (and_r h)
  have : (if o.s then 2 ^ 63 else 0) ≤ 2 ^ 63 := by cases o.s <;> decide
  simp only [putLi, word]
  omega

include hp in
theorem field {o : FieldOp} (hf : fn < 16)
    (h : (p o.d && isReg o.a && decide (o.pos < 64) && decide (o.wm1 < 64) && decide (o.pos + o.wm1 + 1 ≤ 64)) = true) : putField op fn o < 2 ^ 64 := by
  have h1 := hp _ (and_l (and_l (and_l (and_l h))))
  have h2 := reg_lt _ (and_r (and_l (and_l (and_l h))))
  have h3 := of_decide_eq_true (and_r h)
  have : (if o.s then 2 ^ 63 else 0) ≤ 2 ^ 63 := by cases o.s <;> decide
  simp only [putField, word]
  omega

theorem skip {o : SkipOp} (hf : fn < 16) (h : (isReg o.a && decide (1 ≤ o.n) && decide (o.n ≤ 15)) = true) : putSkip op fn o < 2 ^ 64 := by
  have h2 := reg_lt _ (and_l (and_l h))
  have h3 := of_decide_eq_true (and_r h)
  have : (if o.s then 2 ^ 63 else 0) ≤ 2 ^ 63 := by cases o.s <;> decide
  simp only [putSkip, word]
  omega

theorem capImm {o : CapImmOp} {n : Nat} (hn : n ≤ 2 ^ 32) (hf : fn < 16) (h : (isDst o.d && isReg o.a && decide (o.imm < n)) = true) :
    putCapImm op fn o < 2 ^ 64 := by
  have h1 := dst_lt _ (and_l (and_l h))
  have h2 := reg_lt _ (and_r (and_l h))
  have h3 := of_decide_eq_true (and_r h)
  have : (if o.s then 2 ^ 63 else 0) ≤ 2 ^ 63 := by cases o.s <;> decide
  simp only [putCapImm, word]
  omega

omit ho in
theorem vec_low {o : VecOp} (hr : o.rnd ≤ 3) (hk : o.k < 64) (ht : o.ty ≤ 10) :
    fn * 2 ^ 24 + o.ty * 2 ^ 20 + o.rnd * 2 ^ 18 + bit o.me * 2 ^ 17 + bit o.mz * 2 ^ 16 + o.k * 2 ^ 10 < 2 ^ 32 := by
  have := bit_le o.me
  have := bit_le o.mz
  omega

theorem vec_of {o : VecOp} (hd : o.d < 64) (ha : o.a < 64) (hb : o.b < 64) (hc : o.c < 64) (hr : o.rnd ≤ 3) (hk : o.k < 64) (ht : o.ty ≤ 10) :
    putVec op fn o < 2 ^ 64 := by
  have h := word_lt o.s ho hd ha hb hc (vec_low hf hr hk ht)
  simpa only [putVec, Nat.add_assoc] using h

theorem vec {o : VecOp} {n : Nat} {ty : Nat → Bool} {rnd : RndRule} {mask : MaskRule} (ht : ∀ t, ty t = true → t ≤ 10)
    (h : vecWf ty rnd mask n o = true) : putVec op fn o < 2 ^ 64 := by
  simp only [vecWf, maskWf, Bool.and_eq_true] at h
  obtain ⟨⟨⟨⟨⟨⟨⟨⟨hd, ha⟩, hb⟩, hc⟩, hy⟩, hr⟩, -⟩, ⟨⟨-, hk⟩, -⟩⟩, -⟩ := h
  have hb : o.b < 64 := by split at hb; exact reg_lt _ hb; exact of_decide_eq_true hb ▸ (by decide)
  have hc : o.c < 64 := by split at hc; exact reg_lt _ hc; exact of_decide_eq_true hc ▸ (by decide)
  exact vec_of ho hf (dst_lt _ hd) (reg_lt _ ha) hb hc (of_decide_eq_true hr) (gen_lt _ hk) (ht _ hy)

theorem cvt {o : VecOp} (h : cvtWf o = true) : putVec op fn o < 2 ^ 64 := by
  simp only [cvtWf, maskWf, Bool.and_eq_true] at h
  obtain ⟨⟨⟨⟨⟨⟨⟨hd, ha⟩, hb⟩, hc⟩, hy⟩, hr⟩, ⟨⟨-, hk⟩, -⟩⟩, -⟩ := h
  exact vec_of ho hf (dst_lt _ hd) (reg_lt _ ha) (reg_lt _ hb) (Nat.lt_of_le_of_lt (of_decide_eq_true hc) (by decide)) (of_decide_eq_true hr)
    (gen_lt _ hk) (of_decide_eq_true hy)

theorem mat {o : MatOperand} (h : matWf o = true) (hc : o.c < 64) : putMat op fn o < 2 ^ 64 := by
  simp only [matWf, Bool.and_eq_true, decide_eq_true_eq] at h
  have hb := bit_le o.z
  have h := word_lt o.s ho (d := o.acc) (a := o.a) (b := o.b) (c := o.c) (x := fn * 2 ^ 24 + o.swz * 2 ^ 21 + bit o.z * 2 ^ 20) (by omega) (by omega)
    (by omega) hc (by omega)
  simpa only [putMat, Nat.add_assoc] using h

end formats

theorem amo {fn : Nat} {o : AmoOp} (hf : fn < 256) (h : amoWf o = true) (hc : o.c < 64) : putAmo fn o < 2 ^ 64 := by
  simp only [amoWf, Bool.and_eq_true, decide_eq_true_eq] at h
  have : (if o.dbl then 3 else 2) ≤ 3 := by cases o.dbl <;> decide
  have h := word_lt (op := 101) o.s (by decide) (gen_lt _ h.1.1.1) (reg_lt _ h.1.1.2) (reg_lt _ h.1.2) hc
    (x := fn * 2 ^ 24 + (if o.dbl then 3 else 2) * 2 ^ 22 + o.ord * 2 ^ 20) (by omega)
  simpa only [putAmo, Nat.add_assoc] using h

theorem mem {op : Nat} {o : MemOperand} (ho : op < 128) (h : memWf o = true) (hd : o.d < 64) : putMem op o < 2 ^ 64 := by
  simp only [memWf, Bool.and_eq_true, decide_eq_true_eq] at h
  have h1 := reg_lt _ h.1.1.1.1.1
  have h2 := reg_lt _ h.1.1.1.1.2
  have hb := bit_le o.rx
  have : (if o.s then 2 ^ 63 else 0) ≤ 2 ^ 63 := by cases o.s <;> decide
  simp only [putMem, word]
  omega

theorem eng {id fn : Nat} {o : EngOp} (hi : id < 32) (hf : fn < 128) (h : (isGen o.d && isReg o.a && isReg o.b) = true) : putEng id fn o < 2 ^ 64 := by
  have h1 := gen_lt _ (and_l (and_l h))
  have h2 := reg_lt _ (and_r (and_l h))
  have h3 := reg_lt _ (and_r h)
  have hb := bit_le o.rel
  have : (if o.s then 2 ^ 63 else 0) ≤ 2 ^ 63 := by cases o.s <;> decide
  simp only [putEng, word]
  omega

theorem engOne_reg {o : EngOp} (h : engOne o = true) : (isGen o.d && isReg o.a && isReg o.b) = true := by
  simp only [engOne, Bool.and_eq_true, decide_eq_true_eq] at h ⊢
  exact ⟨h.1, by rw [h.2]; rfl⟩

theorem engNone_reg {o : EngOp} (h : engNone o = true) : (isGen o.d && isReg o.a && isReg o.b) = true := by
  simp only [engNone, Bool.and_eq_true, decide_eq_true_eq] at h
  simp [h, isReg]

theorem putSel_lt {x : Sel} (h : selWf x = true) : putSel x < 2 ^ 12 := by
  simp only [selWf] at h
  split at h
  · simp only [Bool.and_eq_true, decide_eq_true_eq] at h
    simp only [putSel]
    omega
  · simp only [Bool.and_eq_true, decide_eq_true_eq] at h
    have h1 := reg_lt _ h.1.1
    have h2 : x.wc = 1 ∨ x.wc = 2 ∨ x.wc = 3 := by omega
    have h3 := h.2
    simp only [putSel]
    rcases h2 with h2 | h2 | h2 <;> rw [h2] at h3 <;> simp only [selWidth] at h3 <;> omega

theorem any_le (t : Nat) (h : anyType t = true) : t ≤ 10 := of_decide_eq_true h
theorem float_le (t : Nat) (h : floatType t = true) : t ≤ 10 := Nat.le_trans (of_decide_eq_true h) (by decide)
theorem int_le (t : Nat) (h : intType t = true) : t ≤ 10 := (of_decide_eq_true h).2
theorem f32_le (t : Nat) (h : isF32 t = true) : t ≤ 10 := of_decide_eq_true h ▸ (by decide)

/-! ## The constructors -/

theorem add (o : R3) : Statement (.add o) := fun h _ e => Option.some.inj e ▸ r3 dst_lt (by decide) (by decide) h
theorem sub (o : R3) : Statement (.sub o) := fun h _ e => Option.some.inj e ▸ r3 dst_lt (by decide) (by decide) h
theorem and (o : R3) : Statement (.and o) := fun h _ e => Option.some.inj e ▸ r3 dst_lt (by decide) (by decide) h
theorem or (o : R3) : Statement (.or o) := fun h _ e => Option.some.inj e ▸ r3 dst_lt (by decide) (by decide) h
theorem xor (o : R3) : Statement (.xor o) := fun h _ e => Option.some.inj e ▸ r3 dst_lt (by decide) (by decide) h
theorem andn (o : R3) : Statement (.andn o) := fun h _ e => Option.some.inj e ▸ r3 dst_lt (by decide) (by decide) h
theorem orn (o : R3) : Statement (.orn o) := fun h _ e => Option.some.inj e ▸ r3 dst_lt (by decide) (by decide) h
theorem xnor (o : R3) : Statement (.xnor o) := fun h _ e => Option.some.inj e ▸ r3 dst_lt (by decide) (by decide) h
theorem shl (o : R3) : Statement (.shl o) := fun h _ e => Option.some.inj e ▸ r3 dst_lt (by decide) (by decide) h
theorem shr (o : R3) : Statement (.shr o) := fun h _ e => Option.some.inj e ▸ r3 dst_lt (by decide) (by decide) h
theorem sra (o : R3) : Statement (.sra o) := fun h _ e => Option.some.inj e ▸ r3 dst_lt (by decide) (by decide) h
theorem rotl (o : R3) : Statement (.rotl o) := fun h _ e => Option.some.inj e ▸ r3 dst_lt (by decide) (by decide) h
theorem rotr (o : R3) : Statement (.rotr o) := fun h _ e => Option.some.inj e ▸ r3 dst_lt (by decide) (by decide) h
theorem min (o : R3) : Statement (.min o) := fun h _ e => Option.some.inj e ▸ r3 dst_lt (by decide) (by decide) h
theorem max (o : R3) : Statement (.max o) := fun h _ e => Option.some.inj e ▸ r3 dst_lt (by decide) (by decide) h
theorem minu (o : R3) : Statement (.minu o) := fun h _ e => Option.some.inj e ▸ r3 dst_lt (by decide) (by decide) h
theorem maxu (o : R3) : Statement (.maxu o) := fun h _ e => Option.some.inj e ▸ r3 dst_lt (by decide) (by decide) h
theorem cmpeq (o : R3) : Statement (.cmpeq o) := fun h _ e => Option.some.inj e ▸ r3 dst_lt (by decide) (by decide) h
theorem cmpne (o : R3) : Statement (.cmpne o) := fun h _ e => Option.some.inj e ▸ r3 dst_lt (by decide) (by decide) h
theorem cmplt (o : R3) : Statement (.cmplt o) := fun h _ e => Option.some.inj e ▸ r3 dst_lt (by decide) (by decide) h
theorem cmpltu (o : R3) : Statement (.cmpltu o) := fun h _ e => Option.some.inj e ▸ r3 dst_lt (by decide) (by decide) h
theorem cmple (o : R3) : Statement (.cmple o) := fun h _ e => Option.some.inj e ▸ r3 dst_lt (by decide) (by decide) h
theorem cmpleu (o : R3) : Statement (.cmpleu o) := fun h _ e => Option.some.inj e ▸ r3 dst_lt (by decide) (by decide) h
theorem sel (o : R4) : Statement (.sel o) := fun h _ e => Option.some.inj e ▸ r4 dst_lt (by decide) (by decide) h
theorem clz (o : R2) : Statement (.clz o) := fun h _ e => Option.some.inj e ▸ r2 dst_lt (by decide) (by decide) h
theorem ctz (o : R2) : Statement (.ctz o) := fun h _ e => Option.some.inj e ▸ r2 dst_lt (by decide) (by decide) h
theorem popc (o : R2) : Statement (.popc o) := fun h _ e => Option.some.inj e ▸ r2 dst_lt (by decide) (by decide) h
theorem bswap (o : R2) : Statement (.bswap o) := fun h _ e => Option.some.inj e ▸ r2 dst_lt (by decide) (by decide) h
theorem abs (o : R2) : Statement (.abs o) := fun h _ e => Option.some.inj e ▸ r2 dst_lt (by decide) (by decide) h
theorem neg (o : R2) : Statement (.neg o) := fun h _ e => Option.some.inj e ▸ r2 dst_lt (by decide) (by decide) h
theorem mul (o : R3) : Statement (.mul o) := fun h _ e => Option.some.inj e ▸ r3 dst_lt (by decide) (by decide) h
theorem mulh (o : R3) : Statement (.mulh o) := fun h _ e => Option.some.inj e ▸ r3 dst_lt (by decide) (by decide) h
theorem mulhu (o : R3) : Statement (.mulhu o) := fun h _ e => Option.some.inj e ▸ r3 dst_lt (by decide) (by decide) h
theorem div (o : R3) : Statement (.div o) := fun h _ e => Option.some.inj e ▸ r3 dst_lt (by decide) (by decide) h
theorem divu (o : R3) : Statement (.divu o) := fun h _ e => Option.some.inj e ▸ r3 dst_lt (by decide) (by decide) h
theorem rem (o : R3) : Statement (.rem o) := fun h _ e => Option.some.inj e ▸ r3 dst_lt (by decide) (by decide) h
theorem remu (o : R3) : Statement (.remu o) := fun h _ e => Option.some.inj e ▸ r3 dst_lt (by decide) (by decide) h
theorem madd (o : R4) : Statement (.madd o) := fun h _ e => Option.some.inj e ▸ r4 dst_lt (by decide) (by decide) h
theorem addi (o : ImmOp) : Statement (.addi o) := fun h _ e => Option.some.inj e ▸ imm (by decide) (by decide) (by decide) (by decide) h
theorem andi (o : ImmOp) : Statement (.andi o) := fun h _ e => Option.some.inj e ▸ imm (by decide) (by decide) (by decide) (by decide) h
theorem ori (o : ImmOp) : Statement (.ori o) := fun h _ e => Option.some.inj e ▸ imm (by decide) (by decide) (by decide) (by decide) h
theorem xori (o : ImmOp) : Statement (.xori o) := fun h _ e => Option.some.inj e ▸ imm (by decide) (by decide) (by decide) (by decide) h
theorem shli (o : ImmOp) : Statement (.shli o) := fun h _ e => Option.some.inj e ▸ imm (by decide) (by decide) (by split <;> decide) (by decide) h
theorem shri (o : ImmOp) : Statement (.shri o) := fun h _ e => Option.some.inj e ▸ imm (by decide) (by decide) (by split <;> decide) (by decide) h
theorem srai (o : ImmOp) : Statement (.srai o) := fun h _ e => Option.some.inj e ▸ imm (by decide) (by decide) (by split <;> decide) (by decide) h
theorem cmpeqi (o : ImmOp) : Statement (.cmpeqi o) := fun h _ e => Option.some.inj e ▸ imm (by decide) (by decide) (by decide) (by decide) h
theorem cmplti (o : ImmOp) : Statement (.cmplti o) := fun h _ e => Option.some.inj e ▸ imm (by decide) (by decide) (by decide) (by decide) h
theorem cmpltui (o : ImmOp) : Statement (.cmpltui o) := fun h _ e => Option.some.inj e ▸ imm (by decide) (by decide) (by decide) (by decide) h
theorem mini (o : ImmOp) : Statement (.mini o) := fun h _ e => Option.some.inj e ▸ imm (by decide) (by decide) (by decide) (by decide) h
theorem maxi (o : ImmOp) : Statement (.maxi o) := fun h _ e => Option.some.inj e ▸ imm (by decide) (by decide) (by decide) (by decide) h
theorem li (o : LiOp) : Statement (.li o) := fun h _ e => Option.some.inj e ▸ liF dst_lt (by decide) (by decide) (by decide) h
theorem liq1 (o : LiOp) : Statement (.liq1 o) := fun h _ e => Option.some.inj e ▸ liF gen_lt (by decide) (by decide) (by decide) h
theorem liq2 (o : LiOp) : Statement (.liq2 o) := fun h _ e => Option.some.inj e ▸ liF gen_lt (by decide) (by decide) (by decide) h
theorem liq3 (o : LiOp) : Statement (.liq3 o) := fun h _ e => Option.some.inj e ▸ liF gen_lt (by decide) (by decide) (by decide) h
theorem ext (o : FieldOp) : Statement (.ext o) := fun h _ e => Option.some.inj e ▸ field dst_lt (by decide) (by decide) (by decide) h
theorem extS (o : FieldOp) : Statement (.extS o) := fun h _ e => Option.some.inj e ▸ field dst_lt (by decide) (by decide) (by decide) h
theorem ins (o : FieldOp) : Statement (.ins o) := fun h _ e => Option.some.inj e ▸ field gen_lt (by decide) (by decide) (by decide) h
theorem skipZ (o : SkipOp) : Statement (.skipZ o) := fun h _ e => Option.some.inj e ▸ skip (by decide) (by decide) (by decide) h
theorem skipNz (o : SkipOp) : Statement (.skipNz o) := fun h _ e => Option.some.inj e ▸ skip (by decide) (by decide) (by decide) h
theorem skipNeg (o : SkipOp) : Statement (.skipNeg o) := fun h _ e => Option.some.inj e ▸ skip (by decide) (by decide) (by decide) h
theorem skipNneg (o : SkipOp) : Statement (.skipNneg o) := fun h _ e => Option.some.inj e ▸ skip (by decide) (by decide) (by decide) h
theorem rank (o : R3) : Statement (.rank o) := fun h _ e => Option.some.inj e ▸ r3 gen_lt (by decide) (by decide) h
theorem selb (o : R3) : Statement (.selb o) := fun h _ e => Option.some.inj e ▸ r3 gen_lt (by decide) (by decide) h
theorem hmix (o : R4) : Statement (.hmix o) := fun h _ e => Option.some.inj e ▸ r4 dst_lt (by decide) (by decide) h
theorem mov (o : R2) : Statement (.mov o) := fun h _ e => Option.some.inj e ▸ r2 dst_lt (by decide) (by decide) h
theorem cadd (o : R3) : Statement (.cadd o) := fun h _ e => Option.some.inj e ▸ r3 dst_lt (by decide) (by decide) h
theorem cbnd (o : R3) : Statement (.cbnd o) := fun h _ e => Option.some.inj e ▸ r3 dst_lt (by decide) (by decide) h
theorem cbndX (o : R3) : Statement (.cbndX o) := fun h _ e => Option.some.inj e ▸ r3 dst_lt (by decide) (by decide) h
theorem cperm (o : R3) : Statement (.cperm o) := fun h _ e => Option.some.inj e ▸ r3 dst_lt (by decide) (by decide) h
theorem cclr (o : R2) : Statement (.cclr o) := fun h _ e => Option.some.inj e ▸ r2 dst_lt (by decide) (by decide) h
theorem cgetAddr (o : R2) : Statement (.cgetAddr o) := fun h _ e => Option.some.inj e ▸ r2 dst_lt (by decide) (by decide) h
theorem cgetBase (o : R2) : Statement (.cgetBase o) := fun h _ e => Option.some.inj e ▸ r2 dst_lt (by decide) (by decide) h
theorem cgetTop (o : R2) : Statement (.cgetTop o) := fun h _ e => Option.some.inj e ▸ r2 dst_lt (by decide) (by decide) h
theorem cgetPerm (o : R2) : Statement (.cgetPerm o) := fun h _ e => Option.some.inj e ▸ r2 dst_lt (by decide) (by decide) h
theorem cgetTag (o : R2) : Statement (.cgetTag o) := fun h _ e => Option.some.inj e ▸ r2 dst_lt (by decide) (by decide) h
theorem csub (o : R3) : Statement (.csub o) := fun h _ e => Option.some.inj e ▸ r3 dst_lt (by decide) (by decide) h
theorem ccmp (o : R3) : Statement (.ccmp o) := fun h _ e => Option.some.inj e ▸ r3 dst_lt (by decide) (by decide) h
theorem cseal (o : R3) : Statement (.cseal o) := fun h _ e => Option.some.inj e ▸ r3 dst_lt (by decide) (by decide) h
theorem cunseal (o : R3) : Statement (.cunseal o) := fun h _ e => Option.some.inj e ▸ r3 dst_lt (by decide) (by decide) h
theorem caddI (o : CapImmOp) : Statement (.caddI o) := fun h _ e => Option.some.inj e ▸ capImm (by decide) (by decide) (by decide) (by decide) h
theorem cpermI (o : CapImmOp) : Statement (.cpermI o) := fun h _ e => Option.some.inj e ▸ capImm (by decide) (by decide) (by decide) (by decide) h
theorem cbndI (o : CapImmOp) : Statement (.cbndI o) := fun h _ e => Option.some.inj e ▸ capImm (by decide) (by decide) (by decide) (by decide) h
theorem vadd (o : VecOp) : Statement (.vadd o) := fun h _ e => Option.some.inj e ▸ vec (by decide) (by decide) any_le h
theorem vsub (o : VecOp) : Statement (.vsub o) := fun h _ e => Option.some.inj e ▸ vec (by decide) (by decide) any_le h
theorem vmul (o : VecOp) : Statement (.vmul o) := fun h _ e => Option.some.inj e ▸ vec (by decide) (by decide) any_le h
theorem vmin (o : VecOp) : Statement (.vmin o) := fun h _ e => Option.some.inj e ▸ vec (by decide) (by decide) any_le h
theorem vmax (o : VecOp) : Statement (.vmax o) := fun h _ e => Option.some.inj e ▸ vec (by decide) (by decide) any_le h
theorem vabs (o : VecOp) : Statement (.vabs o) := fun h _ e => Option.some.inj e ▸ vec (by decide) (by decide) any_le h
theorem vneg (o : VecOp) : Statement (.vneg o) := fun h _ e => Option.some.inj e ▸ vec (by decide) (by decide) any_le h
theorem vdiv (o : VecOp) : Statement (.vdiv o) := fun h _ e => Option.some.inj e ▸ vec (by decide) (by decide) float_le h
theorem vsqrt (o : VecOp) : Statement (.vsqrt o) := fun h _ e => Option.some.inj e ▸ vec (by decide) (by decide) float_le h
theorem vand (o : VecOp) : Statement (.vand o) := fun h _ e => Option.some.inj e ▸ vec (by decide) (by decide) any_le h
theorem vor (o : VecOp) : Statement (.vor o) := fun h _ e => Option.some.inj e ▸ vec (by decide) (by decide) any_le h
theorem vxor (o : VecOp) : Statement (.vxor o) := fun h _ e => Option.some.inj e ▸ vec (by decide) (by decide) any_le h
theorem vshl (o : VecOp) : Statement (.vshl o) := fun h _ e => Option.some.inj e ▸ vec (by decide) (by decide) int_le h
theorem vshr (o : VecOp) : Statement (.vshr o) := fun h _ e => Option.some.inj e ▸ vec (by decide) (by decide) int_le h
theorem vsra (o : VecOp) : Statement (.vsra o) := fun h _ e => Option.some.inj e ▸ vec (by decide) (by decide) int_le h
theorem vfma (o : VecOp) : Statement (.vfma o) := fun h _ e => Option.some.inj e ▸ vec (by decide) (by decide) float_le h
theorem vfms (o : VecOp) : Statement (.vfms o) := fun h _ e => Option.some.inj e ▸ vec (by decide) (by decide) float_le h
theorem vfnma (o : VecOp) : Statement (.vfnma o) := fun h _ e => Option.some.inj e ▸ vec (by decide) (by decide) float_le h
theorem vcmpEq (o : VecOp) : Statement (.vcmpEq o) := fun h _ e => Option.some.inj e ▸ vec (by decide) (by decide) any_le h
theorem vcmpNe (o : VecOp) : Statement (.vcmpNe o) := fun h _ e => Option.some.inj e ▸ vec (by decide) (by decide) any_le h
theorem vcmpLt (o : VecOp) : Statement (.vcmpLt o) := fun h _ e => Option.some.inj e ▸ vec (by decide) (by decide) any_le h
theorem vcmpLe (o : VecOp) : Statement (.vcmpLe o) := fun h _ e => Option.some.inj e ▸ vec (by decide) (by decide) any_le h
theorem vcmpGt (o : VecOp) : Statement (.vcmpGt o) := fun h _ e => Option.some.inj e ▸ vec (by decide) (by decide) any_le h
theorem vcmpGe (o : VecOp) : Statement (.vcmpGe o) := fun h _ e => Option.some.inj e ▸ vec (by decide) (by decide) any_le h
theorem vcmpUn (o : VecOp) : Statement (.vcmpUn o) := fun h _ e => Option.some.inj e ▸ vec (by decide) (by decide) float_le h
theorem vsel (o : VecOp) : Statement (.vsel o) := fun h _ e => Option.some.inj e ▸ vec (by decide) (by decide) any_le h
theorem vredsum (o : VecOp) : Statement (.vredsum o) := fun h _ e => Option.some.inj e ▸ vec (by decide) (by decide) any_le h
theorem vredmax (o : VecOp) : Statement (.vredmax o) := fun h _ e => Option.some.inj e ▸ vec (by decide) (by decide) any_le h
theorem vredmin (o : VecOp) : Statement (.vredmin o) := fun h _ e => Option.some.inj e ▸ vec (by decide) (by decide) any_le h
theorem vredargmax (o : VecOp) : Statement (.vredargmax o) := fun h _ e => Option.some.inj e ▸ vec (by decide) (by decide) float_le h
theorem vshuf (o : VecOp) : Statement (.vshuf o) := fun h _ e => Option.some.inj e ▸ vec (by decide) (by decide) any_le h
theorem vbcast (o : VecOp) : Statement (.vbcast o) := fun h _ e => Option.some.inj e ▸ vec (by decide) (by decide) any_le h
theorem vins (o : VecOp) : Statement (.vins o) := fun h _ e => Option.some.inj e ▸ vec (by decide) (by decide) any_le (and_l h)
theorem vext (o : VecOp) : Statement (.vext o) := fun h _ e => Option.some.inj e ▸ vec (by decide) (by decide) any_le h
theorem vexp2 (o : VecOp) : Statement (.vexp2 o) := fun h _ e => Option.some.inj e ▸ vec (by decide) (by decide) float_le h
theorem vlog2 (o : VecOp) : Statement (.vlog2 o) := fun h _ e => Option.some.inj e ▸ vec (by decide) (by decide) float_le h
theorem vrcp (o : VecOp) : Statement (.vrcp o) := fun h _ e => Option.some.inj e ▸ vec (by decide) (by decide) float_le h
theorem vrsqrt (o : VecOp) : Statement (.vrsqrt o) := fun h _ e => Option.some.inj e ▸ vec (by decide) (by decide) float_le h
theorem vtanh (o : VecOp) : Statement (.vtanh o) := fun h _ e => Option.some.inj e ▸ vec (by decide) (by decide) float_le h
theorem vsig (o : VecOp) : Statement (.vsig o) := fun h _ e => Option.some.inj e ▸ vec (by decide) (by decide) float_le h
theorem vgelu (o : VecOp) : Statement (.vgelu o) := fun h _ e => Option.some.inj e ▸ vec (by decide) (by decide) float_le h
theorem vcvt (o : VecOp) : Statement (.vcvt o) := fun h _ e => Option.some.inj e ▸ cvt (by decide) (by decide) h
theorem vcvtI (o : VecOp) : Statement (.vcvtI o) := fun h _ e => Option.some.inj e ▸ cvt (by decide) (by decide) h
theorem smerge (o : VecOp) : Statement (.smerge o) := fun h _ e => Option.some.inj e ▸ vec (by decide) (by decide) f32_le h
theorem ldB (o : MemOperand) : Statement (.ldB o) := by
  intro h w e
  cases e
  simp only [Instr.wf, Bool.and_eq_true, decide_eq_true_eq] at h
  exact mem (by decide) h.1.1 (gen_lt _ h.1.2)
theorem ldH (o : MemOperand) : Statement (.ldH o) := by
  intro h w e
  cases e
  simp only [Instr.wf, Bool.and_eq_true, decide_eq_true_eq] at h
  exact mem (by decide) h.1.1 (gen_lt _ h.1.2)
theorem ldW (o : MemOperand) : Statement (.ldW o) := by
  intro h w e
  cases e
  simp only [Instr.wf, Bool.and_eq_true, decide_eq_true_eq] at h
  exact mem (by decide) h.1.1 (gen_lt _ h.1.2)
theorem ldD (o : MemOperand) : Statement (.ldD o) := by
  intro h w e
  cases e
  simp only [Instr.wf, Bool.and_eq_true, decide_eq_true_eq] at h
  exact mem (by decide) h.1.1 (gen_lt _ h.1.2)
theorem ldQ (o : MemOperand) : Statement (.ldQ o) := by
  intro h w e
  cases e
  simp only [Instr.wf, Bool.and_eq_true, decide_eq_true_eq] at h
  exact mem (by decide) h.1.1 (gen_lt _ h.1.2)
theorem ldC (o : MemOperand) : Statement (.ldC o) := by
  intro h w e
  cases e
  simp only [Instr.wf, Bool.and_eq_true, decide_eq_true_eq] at h
  exact mem (by decide) h.1.1 (gen_lt _ h.1.2)
theorem stB (o : MemOperand) : Statement (.stB o) := by
  intro h w e
  cases e
  simp only [Instr.wf, Bool.and_eq_true, decide_eq_true_eq] at h
  exact mem (by decide) h.1.1 (reg_lt _ h.1.2)
theorem stH (o : MemOperand) : Statement (.stH o) := by
  intro h w e
  cases e
  simp only [Instr.wf, Bool.and_eq_true, decide_eq_true_eq] at h
  exact mem (by decide) h.1.1 (reg_lt _ h.1.2)
theorem stW (o : MemOperand) : Statement (.stW o) := by
  intro h w e
  cases e
  simp only [Instr.wf, Bool.and_eq_true, decide_eq_true_eq] at h
  exact mem (by decide) h.1.1 (reg_lt _ h.1.2)
theorem stD (o : MemOperand) : Statement (.stD o) := by
  intro h w e
  cases e
  simp only [Instr.wf, Bool.and_eq_true, decide_eq_true_eq] at h
  exact mem (by decide) h.1.1 (reg_lt _ h.1.2)
theorem stQ (o : MemOperand) : Statement (.stQ o) := by
  intro h w e
  cases e
  simp only [Instr.wf, Bool.and_eq_true, decide_eq_true_eq] at h
  exact mem (by decide) h.1.1 (reg_lt _ h.1.2)
theorem stC (o : MemOperand) : Statement (.stC o) := by
  intro h w e
  cases e
  simp only [Instr.wf, Bool.and_eq_true, decide_eq_true_eq] at h
  exact mem (by decide) h.1.1 (reg_lt _ h.1.2)
theorem ldfe (o : MemOperand) : Statement (.ldfe o) := by
  intro h w e
  cases e
  simp only [Instr.wf, Bool.and_eq_true, decide_eq_true_eq] at h
  exact mem (by decide) h.1.1.1 (gen_lt _ h.1.1.2)
theorem ldff (o : MemOperand) : Statement (.ldff o) := by
  intro h w e
  cases e
  simp only [Instr.wf, Bool.and_eq_true, decide_eq_true_eq] at h
  exact mem (by decide) h.1.1.1 (gen_lt _ h.1.1.2)
theorem stef (o : MemOperand) : Statement (.stef o) := by
  intro h w e
  cases e
  simp only [Instr.wf, Bool.and_eq_true, decide_eq_true_eq] at h
  exact mem (by decide) h.1.1.1 (reg_lt _ h.1.1.2)
theorem stfill (o : MemOperand) : Statement (.stfill o) := by
  intro h w e
  cases e
  simp only [Instr.wf, Bool.and_eq_true, decide_eq_true_eq] at h
  exact mem (by decide) h.1.1.1 (reg_lt _ h.1.1.2)
theorem fectlRead (o : MemOperand) : Statement (.fectlRead o) := by
  intro h w e
  cases e
  simp only [Instr.wf, Bool.and_eq_true, decide_eq_true_eq] at h
  exact mem (by decide) h.1.1.1.1.1 (gen_lt _ h.1.1.1.1.2)
theorem fectlEmpty (o : MemOperand) : Statement (.fectlEmpty o) := by
  intro h w e
  cases e
  simp only [Instr.wf, Bool.and_eq_true, decide_eq_true_eq] at h
  exact mem (by decide) h.1.1.1.1.1 (h.1.1.1.1.2 ▸ by decide)
theorem fectlFull (o : MemOperand) : Statement (.fectlFull o) := by
  intro h w e
  cases e
  simp only [Instr.wf, Bool.and_eq_true, decide_eq_true_eq] at h
  exact mem (by decide) h.1.1.1.1.1 (h.1.1.1.1.2 ▸ by decide)
theorem amoAdd (o : AmoOp) : Statement (.amoAdd o) := by
  intro h w e
  cases e
  simp only [Instr.wf, Bool.and_eq_true, decide_eq_true_eq] at h
  exact amo (by decide) h.1 (h.2 ▸ by decide)
theorem amoAnd (o : AmoOp) : Statement (.amoAnd o) := by
  intro h w e
  cases e
  simp only [Instr.wf, Bool.and_eq_true, decide_eq_true_eq] at h
  exact amo (by decide) h.1 (h.2 ▸ by decide)
theorem amoOr (o : AmoOp) : Statement (.amoOr o) := by
  intro h w e
  cases e
  simp only [Instr.wf, Bool.and_eq_true, decide_eq_true_eq] at h
  exact amo (by decide) h.1 (h.2 ▸ by decide)
theorem amoXor (o : AmoOp) : Statement (.amoXor o) := by
  intro h w e
  cases e
  simp only [Instr.wf, Bool.and_eq_true, decide_eq_true_eq] at h
  exact amo (by decide) h.1 (h.2 ▸ by decide)
theorem amoMin (o : AmoOp) : Statement (.amoMin o) := by
  intro h w e
  cases e
  simp only [Instr.wf, Bool.and_eq_true, decide_eq_true_eq] at h
  exact amo (by decide) h.1 (h.2 ▸ by decide)
theorem amoMax (o : AmoOp) : Statement (.amoMax o) := by
  intro h w e
  cases e
  simp only [Instr.wf, Bool.and_eq_true, decide_eq_true_eq] at h
  exact amo (by decide) h.1 (h.2 ▸ by decide)
theorem amoMinu (o : AmoOp) : Statement (.amoMinu o) := by
  intro h w e
  cases e
  simp only [Instr.wf, Bool.and_eq_true, decide_eq_true_eq] at h
  exact amo (by decide) h.1 (h.2 ▸ by decide)
theorem amoMaxu (o : AmoOp) : Statement (.amoMaxu o) := by
  intro h w e
  cases e
  simp only [Instr.wf, Bool.and_eq_true, decide_eq_true_eq] at h
  exact amo (by decide) h.1 (h.2 ▸ by decide)
theorem amoSwap (o : AmoOp) : Statement (.amoSwap o) := by
  intro h w e
  cases e
  simp only [Instr.wf, Bool.and_eq_true, decide_eq_true_eq] at h
  exact amo (by decide) h.1 (h.2 ▸ by decide)
theorem amoCas (o : AmoOp) : Statement (.amoCas o) := by
  intro h w e
  cases e
  simp only [Instr.wf, Bool.and_eq_true, decide_eq_true_eq] at h
  exact amo (by decide) h.1 (reg_lt _ h.2)
theorem amoFaddF32 (o : AmoOp) : Statement (.amoFaddF32 o) := by
  intro h w e
  cases e
  simp only [Instr.wf, Bool.and_eq_true, decide_eq_true_eq] at h
  exact amo (by decide) h.1.1 (h.1.2 ▸ by decide)
theorem fenceRw (o : FenceOp) : Statement (.fenceRw o) := by
  intro h w e
  cases e
  simp only [Instr.wf, Bool.and_eq_true, decide_eq_true_eq] at h
  have : (if o.s then 2 ^ 63 else 0) ≤ 2 ^ 63 := by cases o.s <;> decide
  simp only [word]
  omega
theorem fenceX (o : FenceOp) : Statement (.fenceX o) := by
  intro h w e
  cases e
  simp only [Instr.wf, Bool.and_eq_true, decide_eq_true_eq] at h
  have : (if o.s then 2 ^ 63 else 0) ≤ 2 ^ 63 := by cases o.s <;> decide
  simp only [word]
  omega
theorem fenceM (o : FenceOp) : Statement (.fenceM o) := by
  intro h w e
  cases e
  simp only [Instr.wf, Bool.and_eq_true, decide_eq_true_eq] at h
  have : (if o.s then 2 ^ 63 else 0) ≤ 2 ^ 63 := by cases o.s <;> decide
  simp only [word]
  omega
theorem sbindIn (o : BindOp) : Statement (.sbindIn o) := by
  intro h w e
  cases e
  simp only [Instr.wf, Bool.and_eq_true, decide_eq_true_eq] at h
  have h0 := port_lt _ h.1.1.1.1
  have h1 := reg_lt _ h.1.1.1.2
  have h3 := reg_lt _ h.1.2
  have : (if o.s then 2 ^ 63 else 0) ≤ 2 ^ 63 := by cases o.s <;> decide
  simp only [word]
  omega
theorem sbindOut (o : BindOp) : Statement (.sbindOut o) := by
  intro h w e
  cases e
  simp only [Instr.wf, Bool.and_eq_true, decide_eq_true_eq] at h
  have h0 := port_lt _ h.1.1.1.1
  have h1 := reg_lt _ h.1.1.1.2
  have h3 := reg_lt _ h.1.2
  have : (if o.s then 2 ^ 63 else 0) ≤ 2 ^ 63 := by cases o.s <;> decide
  simp only [word]
  omega
theorem sunbind (s : Bool) (port : Nat) : Statement (.sunbind s port) := by
  intro h w e
  cases e
  simp only [Instr.wf, Bool.and_eq_true, decide_eq_true_eq] at h
  have h0 := port_lt _ h
  have : (if s then 2 ^ 63 else 0) ≤ 2 ^ 63 := by cases s <;> decide
  simp only [word]
  omega
theorem sstat (s : Bool) (d port : Nat) : Statement (.sstat s d port) := by
  intro h w e
  cases e
  simp only [Instr.wf, Bool.and_eq_true, decide_eq_true_eq] at h
  have h0 := gen_lt _ h.1
  have h1 := port_lt _ h.2
  have : (if s then 2 ^ 63 else 0) ≤ 2 ^ 63 := by cases s <;> decide
  simp only [word]
  omega
theorem rep (o : RepOp) : Statement (.rep o) := by
  intro h w e
  cases e
  simp only [Instr.wf, Bool.and_eq_true, decide_eq_true_eq] at h
  have h0 := reg_lt _ h.1.1.1
  have hx : 2 ^ (4 * (o.lenm1 + 1)) ≤ 2 ^ 32 := Nat.pow_le_pow_right (by decide) (by omega)
  have : (if o.s then 2 ^ 63 else 0) ≤ 2 ^ 63 := by cases o.s <;> decide
  simp only [word]
  omega
theorem mma (o : MatOperand) : Statement (.mma o) := by
  intro h w e
  cases e
  simp only [Instr.wf, Bool.and_eq_true, decide_eq_true_eq] at h
  exact mat (by decide) (by decide) h.1 (by omega)
theorem mmq (o : MatOperand) : Statement (.mmq o) := by
  intro h w e
  cases e
  simp only [Instr.wf, Bool.and_eq_true, decide_eq_true_eq] at h
  exact mat (by decide) (by decide) h.1 (by omega)
theorem mml (o : MatOperand) : Statement (.mml o) := by
  intro h w e
  cases e
  simp only [Instr.wf, Bool.and_eq_true, decide_eq_true_eq] at h
  exact mat (by decide) (by decide) h.1.1.1 (by omega)
theorem mmd (o : MatOperand) : Statement (.mmd o) := by
  intro h w e
  cases e
  simp only [Instr.wf, Bool.and_eq_true, decide_eq_true_eq] at h
  exact mat (by decide) (by decide) h.1.1.1 (by omega)
theorem mmdFull (o : MatOperand) : Statement (.mmdFull o) := by
  intro h w e
  cases e
  simp only [Instr.wf, Bool.and_eq_true, decide_eq_true_eq] at h
  exact mat (by decide) (by decide) h.1.1.1 (by omega)
theorem rinit (s : Bool) (a b : Nat) : Statement (.rinit s a b) := by
  intro h w e
  cases e
  simp only [Instr.wf, Bool.and_eq_true, decide_eq_true_eq] at h
  have h0 := reg_lt _ h.1
  have h1 := reg_lt _ h.2
  have : (if s then 2 ^ 63 else 0) ≤ 2 ^ 63 := by cases s <;> decide
  simp only [word]
  omega
theorem rinval (s : Bool) (a : Nat) : Statement (.rinval s a) := by
  intro h w e
  cases e
  simp only [Instr.wf, Bool.and_eq_true, decide_eq_true_eq] at h
  have h0 := reg_lt _ h
  have : (if s then 2 ^ 63 else 0) ≤ 2 ^ 63 := by cases s <;> decide
  simp only [word]
  omega
theorem rstat (s : Bool) (d a : Nat) : Statement (.rstat s d a) := by
  intro h w e
  cases e
  simp only [Instr.wf, Bool.and_eq_true, decide_eq_true_eq] at h
  have h0 := gen_lt _ h.1.1
  have h2 := reg_lt _ h.2
  have : (if s then 2 ^ 63 else 0) ≤ 2 ^ 63 := by cases s <;> decide
  simp only [word]
  omega
theorem maccSt (o : MaccStOp) : Statement (.maccSt o) := by
  intro h w e
  cases e
  simp only [Instr.wf, Bool.and_eq_true, decide_eq_true_eq] at h
  have h1 := reg_lt _ h.1.1.2
  have h2 := reg_lt _ h.1.2
  have hfmt : o.fmt < 256 := by
    simp only [storeFormat, narrowFloat, narrowInt, Bool.or_eq_true, Bool.and_eq_true, decide_eq_true_eq] at h
    omega
  have : (if o.s then 2 ^ 63 else 0) ≤ 2 ^ 63 := by cases o.s <;> decide
  simp only [word]
  omega
theorem maccZ (s : Bool) (acc : Nat) : Statement (.maccZ s acc) := by
  intro h w e
  cases e
  simp only [Instr.wf, Bool.and_eq_true, decide_eq_true_eq] at h
  have : (if s then 2 ^ 63 else 0) ≤ 2 ^ 63 := by cases s <;> decide
  simp only [word]
  omega
theorem mqfin (s : Bool) (acc slot swz : Nat) : Statement (.mqfin s acc slot swz) := by
  intro h w e
  cases e
  simp only [Instr.wf, Bool.and_eq_true, decide_eq_true_eq] at h
  have : (if s then 2 ^ 63 else 0) ≤ 2 ^ 63 := by cases s <;> decide
  simp only [word]
  omega
theorem oclaim (s : Bool) (res : Nat) : Statement (.oclaim s res) := by
  intro h w e
  cases e
  simp only [Instr.wf, Bool.and_eq_true, decide_eq_true_eq] at h
  have : (if s then 2 ^ 63 else 0) ≤ 2 ^ 63 := by cases s <;> decide
  simp only [word]
  omega
theorem orel (s : Bool) (res : Nat) : Statement (.orel s res) := by
  intro h w e
  cases e
  simp only [Instr.wf, Bool.and_eq_true, decide_eq_true_eq] at h
  have : (if s then 2 ^ 63 else 0) ≤ 2 ^ 63 := by cases s <;> decide
  simp only [word]
  omega
theorem oload (s : Bool) (slot a b : Nat) : Statement (.oload s slot a b) := by
  intro h w e
  cases e
  simp only [Instr.wf, Bool.and_eq_true, decide_eq_true_eq] at h
  have h1 := reg_lt _ h.1.1.1.2
  have h3 := reg_lt _ h.1.2
  have : (if s then 2 ^ 63 else 0) ≤ 2 ^ 63 := by cases s <;> decide
  simp only [word]
  omega
theorem ostat (s : Bool) (d res : Nat) : Statement (.ostat s d res) := by
  intro h w e
  cases e
  simp only [Instr.wf, Bool.and_eq_true, decide_eq_true_eq] at h
  have h0 := gen_lt _ h.1.1
  have : (if s then 2 ^ 63 else 0) ≤ 2 ^ 63 := by cases s <;> decide
  simp only [word]
  omega
theorem tdef (s : Bool) (tile a b : Nat) : Statement (.tdef s tile a b) := by
  intro h w e
  cases e
  simp only [Instr.wf, Bool.and_eq_true, decide_eq_true_eq] at h
  have h1 := reg_lt _ h.1.2
  have h2 := reg_lt _ h.2
  have : (if s then 2 ^ 63 else 0) ≤ 2 ^ 63 := by cases s <;> decide
  simp only [word]
  omega
theorem tstate (s : Bool) (d tile : Nat) : Statement (.tstate s d tile) := by
  intro h w e
  cases e
  simp only [Instr.wf, Bool.and_eq_true, decide_eq_true_eq] at h
  have h0 := gen_lt _ h.1.1
  have : (if s then 2 ^ 63 else 0) ≤ 2 ^ 63 := by cases s <;> decide
  simp only [word]
  omega
theorem tset (s : Bool) (tile b : Nat) : Statement (.tset s tile b) := by
  intro h w e
  cases e
  simp only [Instr.wf, Bool.and_eq_true, decide_eq_true_eq] at h
  have h1 := reg_lt _ h.2
  have : (if s then 2 ^ 63 else 0) ≤ 2 ^ 63 := by cases s <;> decide
  simp only [word]
  omega
theorem tfree (s : Bool) (tile : Nat) : Statement (.tfree s tile) := by
  intro h w e
  cases e
  simp only [Instr.wf, Bool.and_eq_true, decide_eq_true_eq] at h
  have : (if s then 2 ^ 63 else 0) ≤ 2 ^ 63 := by cases s <;> decide
  simp only [word]
  omega
theorem endBlk (o : EndOp) : Statement (.endBlk o) := by
  intro h w e
  cases e
  simp only [Instr.wf, Bool.and_eq_true, decide_eq_true_eq] at h
  have h0 := putSel_lt h.1.1.1.1.2
  have h1 := putSel_lt h.1.1.1.2
  have h2 := putSel_lt h.1.1.2
  have h3 := putSel_lt h.1.2
  have : (if o.s then 2 ^ 63 else 0) ≤ 2 ^ 63 := by cases o.s <;> decide
  omega
theorem matchKey (s : Bool) (d a table : Nat) : Statement (.matchKey s d a table) := by
  intro h w e
  cases e
  simp only [Instr.wf, Bool.and_eq_true, decide_eq_true_eq] at h
  have h0 := gen_lt _ h.1.1
  have h1 := reg_lt _ h.1.2
  have : (if s then 2 ^ 63 else 0) ≤ 2 ^ 63 := by cases s <;> decide
  simp only [word]
  omega
theorem tblWr (s : Bool) (table a b c : Nat) : Statement (.tblWr s table a b c) := by
  intro h w e
  cases e
  simp only [Instr.wf, Bool.and_eq_true, decide_eq_true_eq] at h
  have h1 := reg_lt _ h.1.1.2
  have h2 := reg_lt _ h.1.2
  have h3 := reg_lt _ h.2
  have : (if s then 2 ^ 63 else 0) ≤ 2 ^ 63 := by cases s <;> decide
  simp only [word]
  omega
theorem tblCommit (s : Bool) (d table a : Nat) : Statement (.tblCommit s d table a) := by
  intro h w e
  cases e
  simp only [Instr.wf, Bool.and_eq_true, decide_eq_true_eq] at h
  have h0 := gen_lt _ h.1.1
  have h2 := reg_lt _ h.2
  have : (if s then 2 ^ 63 else 0) ≤ 2 ^ 63 := by cases s <;> decide
  simp only [word]
  omega
theorem tblRd (s : Bool) (d table a b : Nat) : Statement (.tblRd s d table a b) := by
  intro h w e
  cases e
  simp only [Instr.wf, Bool.and_eq_true, decide_eq_true_eq] at h
  have h0 := gen_lt _ h.1.1.1
  have h2 := reg_lt _ h.1.2
  have h3 := reg_lt _ h.2
  have : (if s then 2 ^ 63 else 0) ≤ 2 ^ 63 := by cases s <;> decide
  simp only [word]
  omega
theorem tblSync (s : Bool) (table a : Nat) : Statement (.tblSync s table a) := by
  intro h w e
  cases e
  simp only [Instr.wf, Bool.and_eq_true, decide_eq_true_eq] at h
  have h1 := reg_lt _ h.2
  have : (if s then 2 ^ 63 else 0) ≤ 2 ^ 63 := by cases s <;> decide
  simp only [word]
  omega
theorem spawn (o : R4) : Statement (.spawn o) := fun h _ e => Option.some.inj e ▸ r4 gen_lt (by decide) (by decide) h
theorem dec (s : Bool) (a b : Nat) : Statement (.dec s a b) := by
  intro h w e
  cases e
  simp only [Instr.wf, Bool.and_eq_true, decide_eq_true_eq] at h
  have h0 := reg_lt _ h.1
  have h1 := reg_lt _ h.2
  have : (if s then 2 ^ 63 else 0) ≤ 2 ^ 63 := by cases s <;> decide
  simp only [word]
  omega
theorem tget (o : R2) : Statement (.tget o) := fun h _ e => Option.some.inj e ▸ r2 gen_lt (by decide) (by decide) h
theorem tsetCnt (s : Bool) (a b : Nat) : Statement (.tsetCnt s a b) := by
  intro h w e
  cases e
  simp only [Instr.wf, Bool.and_eq_true, decide_eq_true_eq] at h
  have h0 := reg_lt _ h.1
  have h1 := reg_lt _ h.2
  have : (if s then 2 ^ 63 else 0) ≤ 2 ^ 63 := by cases s <;> decide
  simp only [word]
  omega
theorem mfs (s : Bool) (d spr : Nat) : Statement (.mfs s d spr) := by
  intro h w e
  cases e
  simp only [Instr.wf, Bool.and_eq_true, decide_eq_true_eq] at h
  have h0 := gen_lt _ h.1
  have hspr : spr < 512 := by
    simp only [isSpr, Bool.or_eq_true, Bool.and_eq_true, decide_eq_true_eq] at h
    omega
  have : (if s then 2 ^ 63 else 0) ≤ 2 ^ 63 := by cases s <;> decide
  simp only [word]
  omega
theorem mts (s : Bool) (spr a : Nat) : Statement (.mts s spr a) := by
  intro h w e
  cases e
  simp only [Instr.wf, Bool.and_eq_true, decide_eq_true_eq] at h
  have h1 := reg_lt _ h.2
  have hspr : spr < 512 := by
    simp only [isSpr, Bool.or_eq_true, Bool.and_eq_true, decide_eq_true_eq] at h
    omega
  have : (if s then 2 ^ 63 else 0) ≤ 2 ^ 63 := by cases s <;> decide
  simp only [word]
  omega
theorem tlbi (s : Bool) (a b : Nat) : Statement (.tlbi s a b) := by
  intro h w e
  cases e
  simp only [Instr.wf, Bool.and_eq_true, decide_eq_true_eq] at h
  have h0 := reg_lt _ h.1
  have h1 := reg_lt _ h.2
  have : (if s then 2 ^ 63 else 0) ≤ 2 ^ 63 := by cases s <;> decide
  simp only [word]
  omega
theorem tlbsync (s : Bool) : Statement (.tlbsync s) := by
  intro h w e
  cases e
  simp only [Instr.wf, Bool.and_eq_true, decide_eq_true_eq] at h
  have : (if s then 2 ^ 63 else 0) ≤ 2 ^ 63 := by cases s <;> decide
  simp only [word]
  omega
theorem portwr (s : Bool) (a b c : Nat) : Statement (.portwr s a b c) := by
  intro h w e
  cases e
  simp only [Instr.wf, Bool.and_eq_true, decide_eq_true_eq] at h
  have h0 := reg_lt _ h.1.1
  have h1 := reg_lt _ h.1.2
  have h2 := reg_lt _ h.2
  have : (if s then 2 ^ 63 else 0) ≤ 2 ^ 63 := by cases s <;> decide
  simp only [word]
  omega
theorem portfail (s : Bool) (a b : Nat) : Statement (.portfail s a b) := by
  intro h w e
  cases e
  simp only [Instr.wf, Bool.and_eq_true, decide_eq_true_eq] at h
  have h0 := reg_lt _ h.1
  have h1 := reg_lt _ h.2
  have : (if s then 2 ^ 63 else 0) ≤ 2 ^ 63 := by cases s <;> decide
  simp only [word]
  omega
theorem diagSt (s : Bool) (a b c : Nat) : Statement (.diagSt s a b c) := by
  intro h w e
  cases e
  simp only [Instr.wf, Bool.and_eq_true, decide_eq_true_eq] at h
  have h0 := reg_lt _ h.1.1
  have h1 := reg_lt _ h.1.2
  have h2 := reg_lt _ h.2
  have : (if s then 2 ^ 63 else 0) ≤ 2 ^ 63 := by cases s <;> decide
  simp only [word]
  omega
theorem trap (s : Bool) (a : Nat) : Statement (.trap s a) := by
  intro h w e
  cases e
  simp only [Instr.wf, Bool.and_eq_true, decide_eq_true_eq] at h
  have h0 := reg_lt _ h
  have : (if s then 2 ^ 63 else 0) ≤ 2 ^ 63 := by cases s <;> decide
  simp only [word]
  omega
theorem halt (s : Bool) : Statement (.halt s) := by
  intro h w e
  cases e
  simp only [Instr.wf, Bool.and_eq_true, decide_eq_true_eq] at h
  have : (if s then 2 ^ 63 else 0) ≤ 2 ^ 63 := by cases s <;> decide
  simp only [word]
  omega
theorem copyXfer (o : EngOp) : Statement (.copyXfer o) := fun h _ e => Option.some.inj e ▸ eng (by decide) (by decide) h
theorem copyFill (o : EngOp) : Statement (.copyFill o) := fun h _ e => Option.some.inj e ▸ eng (by decide) (by decide) h
theorem copyRwrite (o : EngOp) : Statement (.copyRwrite o) := fun h _ e => Option.some.inj e ▸ eng (by decide) (by decide) (engOne_reg h)
theorem copyRread (o : EngOp) : Statement (.copyRread o) := fun h _ e => Option.some.inj e ▸ eng (by decide) (by decide) h
theorem copyRsend (o : EngOp) : Statement (.copyRsend o) := fun h _ e => Option.some.inj e ▸ eng (by decide) (by decide) (engOne_reg h)
theorem copyRemap (o : EngOp) : Statement (.copyRemap o) := fun h _ e => Option.some.inj e ▸ eng (by decide) (by decide) (engOne_reg h)
theorem copyStat (o : EngOp) : Statement (.copyStat o) := fun h _ e => Option.some.inj e ▸ eng (by decide) (by decide) (engNone_reg h)
theorem distDeal (o : EngOp) : Statement (.distDeal o) := fun h _ e => Option.some.inj e ▸ eng (by decide) (by decide) (engOne_reg h)
theorem distCfg (o : EngOp) : Statement (.distCfg o) := fun h _ e => Option.some.inj e ▸ eng (by decide) (by decide) h
theorem distStat (o : EngOp) : Statement (.distStat o) := fun h _ e => Option.some.inj e ▸ eng (by decide) (by decide) (engNone_reg h)
theorem collAllreduce (o : EngOp) : Statement (.collAllreduce o) := fun h _ e => Option.some.inj e ▸ eng (by decide) (by decide) h
theorem collReduce (o : EngOp) : Statement (.collReduce o) := fun h _ e => Option.some.inj e ▸ eng (by decide) (by decide) h
theorem collBcast (o : EngOp) : Statement (.collBcast o) := fun h _ e => Option.some.inj e ▸ eng (by decide) (by decide) h
theorem collAllgather (o : EngOp) : Statement (.collAllgather o) := fun h _ e => Option.some.inj e ▸ eng (by decide) (by decide) h
theorem collStat (o : EngOp) : Statement (.collStat o) := fun h _ e => Option.some.inj e ▸ eng (by decide) (by decide) (engNone_reg h)
theorem ctxSave (o : EngOp) : Statement (.ctxSave o) := fun h _ e => Option.some.inj e ▸ eng (by decide) (by decide) h
theorem ctxRestore (o : EngOp) : Statement (.ctxRestore o) := fun h _ e => Option.some.inj e ▸ eng (by decide) (by decide) (engOne_reg h)
theorem ctxScrub (o : EngOp) : Statement (.ctxScrub o) := fun h _ e => Option.some.inj e ▸ eng (by decide) (by decide) (engOne_reg h)
theorem ctxStat (o : EngOp) : Statement (.ctxStat o) := fun h _ e => Option.some.inj e ▸ eng (by decide) (by decide) (engNone_reg h)
theorem gateRun (o : EngOp) : Statement (.gateRun o) := fun h _ e => Option.some.inj e ▸ eng (by decide) (by decide) (engOne_reg h)
theorem gateStat (o : EngOp) : Statement (.gateStat o) := fun h _ e => Option.some.inj e ▸ eng (by decide) (by decide) (engNone_reg h)
theorem dispatchStat (o : EngOp) : Statement (.dispatchStat o) := fun h _ e => Option.some.inj e ▸ eng (by decide) (by decide) (engNone_reg h)
theorem combineStat (o : EngOp) : Statement (.combineStat o) := fun h _ e => Option.some.inj e ▸ eng (by decide) (by decide) (engNone_reg h)
theorem acceptLaunch (cl q : Nat) : Statement (.acceptLaunch cl q) := fun _ _ e => nomatch e
theorem createContinuation (cl lid : Nat) : Statement (.createContinuation cl lid) := fun _ _ e => nomatch e
theorem retirementReport (k : Nat) : Statement (.retirementReport k) := fun _ _ e => nomatch e
theorem successorDecrement (k : Nat) : Statement (.successorDecrement k) := fun _ _ e => nomatch e
theorem takeRunListHead (cl : Nat) : Statement (.takeRunListHead cl) := fun _ _ e => nomatch e
theorem resultReturn (g k : Nat) : Statement (.resultReturn g k) := fun _ _ e => nomatch e
theorem waitListRecheck (cl : Nat) : Statement (.waitListRecheck cl) := fun _ _ e => nomatch e
theorem felimitTrap (rid : Nat) : Statement (.felimitTrap rid) := fun _ _ e => nomatch e
theorem waitListEntryFreed (cl : Nat) : Statement (.waitListEntryFreed cl) := fun _ _ e => nomatch e
theorem matchCacheFill (g : Nat) : Statement (.matchCacheFill g) := fun _ _ e => nomatch e
theorem commitComplete (k : Nat) : Statement (.commitComplete k) := fun _ _ e => nomatch e
theorem sweepClose : Statement (.sweepClose) := fun _ _ e => nomatch e
theorem sequencerSend (core : Nat) : Statement (.sequencerSend core) := fun _ _ e => nomatch e
theorem matrixOpComplete (core k : Nat) : Statement (.matrixOpComplete core k) := fun _ _ e => nomatch e
theorem oloadComplete (core k : Nat) : Statement (.oloadComplete core k) := fun _ _ e => nomatch e
theorem trapDelivery (g : Nat) : Statement (.trapDelivery g) := fun _ _ e => nomatch e
theorem handlerEntryWrite (part : Nat) : Statement (.handlerEntryWrite part) := fun _ _ e => nomatch e
theorem pageWalkComplete (k : Nat) : Statement (.pageWalkComplete k) := fun _ _ e => nomatch e
theorem retryEntryWrite (cl : Nat) : Statement (.retryEntryWrite cl) := fun _ _ e => nomatch e
theorem tlbiComplete (k : Nat) : Statement (.tlbiComplete k) := fun _ _ e => nomatch e
theorem streamElementArrival (g port : Nat) : Statement (.streamElementArrival g port) := fun _ _ e => nomatch e
theorem sramRequest (rid : Nat) : Statement (.sramRequest rid) := fun _ _ e => nomatch e
theorem deviceStore (k : Nat) : Statement (.deviceStore k) := fun _ _ e => nomatch e
theorem parityDifference (k : Nat) : Statement (.parityDifference k) := fun _ _ e => nomatch e
theorem deviceRead (rid : Nat) : Statement (.deviceRead rid) := fun _ _ e => nomatch e
theorem reconstruction (k : Nat) : Statement (.reconstruction k) := fun _ _ e => nomatch e
theorem deviceAtomic (rid : Nat) : Statement (.deviceAtomic rid) := fun _ _ e => nomatch e
theorem fenceMarker (g plane stack : Nat) : Statement (.fenceMarker g plane stack) := fun _ _ e => nomatch e
theorem markerAck (g plane stack : Nat) : Statement (.markerAck g plane stack) := fun _ _ e => nomatch e
theorem parityResync (k : Nat) : Statement (.parityResync k) := fun _ _ e => nomatch e
theorem engineKickAccept (e : Nat) : Statement (.engineKickAccept e) := fun _ _ e => nomatch e
theorem engineCommandComplete (e : Nat) : Statement (.engineCommandComplete e) := fun _ _ e => nomatch e
theorem engineAccessFailed (e cause : Nat) : Statement (.engineAccessFailed e cause) := fun _ _ e => nomatch e
theorem dispatchStage (die : Nat) : Statement (.dispatchStage die) := fun _ _ e => nomatch e
theorem productSpawn (die : Nat) : Statement (.productSpawn die) := fun _ _ e => nomatch e
theorem combineStage (die : Nat) : Statement (.combineStage die) := fun _ _ e => nomatch e
theorem rotationStart (cl val : Nat) : Statement (.rotationStart cl val) := fun _ _ e => nomatch e
theorem slotHandover (g : Nat) : Statement (.slotHandover g) := fun _ _ e => nomatch e
theorem clusterHandover (cl val : Nat) : Statement (.clusterHandover cl val) := fun _ _ e => nomatch e
theorem queueWordStore (cl q val prv part : Nat) : Statement (.queueWordStore cl q val prv part) := fun _ _ e => nomatch e
theorem poolWordStore (cl ofs val prv part : Nat) : Statement (.poolWordStore cl ofs val prv part) := fun _ _ e => nomatch e
theorem cocoonWordStore (cl n val prv part : Nat) : Statement (.cocoonWordStore cl n val prv part) := fun _ _ e => nomatch e
theorem pairWordStore (cl val prv part : Nat) : Statement (.pairWordStore cl val prv part) := fun _ _ e => nomatch e
theorem controlWordWrite (cl ofs size val prv part : Nat) : Statement (.controlWordWrite cl ofs size val prv part) := fun _ _ e => nomatch e
theorem vfPostedWrite (vf addr len data tags : Nat) (full : Bool) : Statement (.vfPostedWrite vf addr len data tags full) := fun _ _ e => nomatch e
theorem vfTaggedRead (vf tag addr len : Nat) : Statement (.vfTaggedRead vf tag addr len) := fun _ _ e => nomatch e
theorem peerRequest (via : PeerRoute) (ten kind addr len data : Nat) : Statement (.peerRequest via ten kind addr len data) := fun _ _ e => nomatch e
theorem functionLevelReset (vf : Nat) : Statement (.functionLevelReset vf) := fun _ _ e => nomatch e
theorem status (seq : Nat) : Statement (.status seq) := fun _ _ e => nomatch e
theorem attest (seq nonce : Nat) : Statement (.attest seq nonce) := fun _ _ e => nomatch e
theorem idkey (seq : Nat) : Statement (.idkey seq) := fun _ _ e => nomatch e
theorem extend (seq digest : Nat) : Statement (.extend seq digest) := fun _ _ e => nomatch e
theorem fwchunk (seq ofs total len data : Nat) : Statement (.fwchunk seq ofs total len data) := fun _ _ e => nomatch e
theorem setchip (seq chip : Nat) : Statement (.setchip seq chip) := fun _ _ e => nomatch e
theorem bindvf (seq vf part : Nat) : Statement (.bindvf seq vf part) := fun _ _ e => nomatch e
theorem keyinstall (seq ten : Nat) : Statement (.keyinstall seq ten) := fun _ _ e => nomatch e
theorem keyerase (seq ten : Nat) : Statement (.keyerase seq ten) := fun _ _ e => nomatch e
theorem addrmap (seq chip mac ip : Nat) : Statement (.addrmap seq chip mac ip) := fun _ _ e => nomatch e
theorem qpset (seq qp port cls ten chip peerQp psn : Nat) : Statement (.qpset seq qp port cls ten chip peerQp psn) := fun _ _ e => nomatch e
theorem qpclear (seq qp port : Nat) : Statement (.qpclear seq qp port) := fun _ _ e => nomatch e
theorem reset (seq : Nat) : Statement (.reset seq) := fun _ _ e => nomatch e
theorem powerOnBoot (len image : Nat) : Statement (.powerOnBoot len image) := fun _ _ e => nomatch e
theorem monitorEvent : Statement (.monitorEvent) := fun _ _ e => nomatch e
theorem monitorSample (die : Nat) (temp stackTemp railDrop oscSlow : Nat) : Statement (.monitorSample die temp stackTemp railDrop oscSlow) := fun _ _ e => nomatch e
theorem clockStepClimb (die : Nat) : Statement (.clockStepClimb die) := fun _ _ e => nomatch e
theorem linkKeyRenewal (port : Nat) : Statement (.linkKeyRenewal port) := fun _ _ e => nomatch e
theorem stackLoss (stack : Nat) : Statement (.stackLoss stack) := fun _ _ e => nomatch e
theorem planeLoss (plane : Nat) : Statement (.planeLoss plane) := fun _ _ e => nomatch e
theorem dieExclusion (die cause : Nat) : Statement (.dieExclusion die cause) := fun _ _ e => nomatch e
theorem cocoonFencing (die n cause : Nat) : Statement (.cocoonFencing die n cause) := fun _ _ e => nomatch e
theorem discardReport (k : Nat) : Statement (.discardReport k) := fun _ _ e => nomatch e
theorem pairedMessageCompare (k : Nat) : Statement (.pairedMessageCompare k) := fun _ _ e => nomatch e
theorem softError (kind place idx bit : Nat) (fixable : Bool) : Statement (.softError kind place idx bit fixable) := fun _ _ e => nomatch e
theorem scalePortLinkChange (port : Nat) (up : Bool) : Statement (.scalePortLinkChange port up) := fun _ _ e => nomatch e
theorem managementWindowWrite (ofs len data : Nat) : Statement (.managementWindowWrite ofs len data) := fun _ _ e => nomatch e

end Sys2Proof.Laws.Fits
end

