-- ==== Sys2Proof/Laws/Vector.lean ====
section
/-! SUPPORT. Lanes of a register: what joining lanes holds in each lane, and what a lane-wise word writes. -/

namespace Sys2Proof.Machine

/-- Digits in base `2 ^ w`, lowest first, as the fold of `ofLanes` joins them from lane `i` on. -/
def joined (w : Nat) : Nat → List Nat → Nat
  | _, [] => 0
  | i, x :: xs => x % 2 ^ w * 2 ^ (w * i) + joined w (i + 1) xs

theorem foldl_joined (w : Nat) : ∀ (xs : List Nat) (i acc : Nat),
    (xs.zipIdx i).foldl (fun a xi => a + xi.1 % 2 ^ w * 2 ^ (w * xi.2)) acc = acc + joined w i xs
  | [], _, _ => by simp [joined]
  | x :: xs, i, acc => by
    simp only [List.zipIdx_cons, List.foldl_cons, joined]
    rw [foldl_joined w xs (i + 1)]
    omega

theorem joined_shift (w : Nat) : ∀ (xs : List Nat) (i : Nat), joined w (i + 1) xs = 2 ^ w * joined w i xs
  | [], _ => by simp [joined]
  | x :: xs, i => by
    simp only [joined]
    rw [joined_shift w xs (i + 1)]
    have : 2 ^ (w * (i + 1)) = 2 ^ (w * i) * 2 ^ w := by rw [Nat.mul_succ, Nat.pow_add]
    rw [this]; ring

theorem joined_lt (w : Nat) : ∀ xs : List Nat, joined w 0 xs < 2 ^ (w * xs.length)
  | [] => by simp [joined]
  | x :: xs => by
    simp only [joined, joined_shift, List.length_cons, Nat.mul_zero, Nat.pow_zero, Nat.mul_one]
    have h1 : x % 2 ^ w < 2 ^ w := Nat.mod_lt _ (Nat.two_pow_pos w)
    have h2 := joined_lt w xs
    have h3 : 2 ^ (w * (xs.length + 1)) = 2 ^ w * 2 ^ (w * xs.length) := by
      rw [Nat.mul_succ, Nat.pow_add, Nat.mul_comm]
    rw [h3]
    calc x % 2 ^ w + 2 ^ w * joined w 0 xs < 2 ^ w * (joined w 0 xs + 1) := by rw [Nat.mul_succ]; omega
      _ ≤ 2 ^ w * 2 ^ (w * xs.length) := Nat.mul_le_mul_left _ h2

theorem joined_digit (w : Nat) : ∀ (xs : List Nat) (k : Nat) (h : k < xs.length),
    joined w 0 xs / 2 ^ (w * k) % 2 ^ w = xs[k] % 2 ^ w
  | x :: xs, 0, _ => by simp [joined, joined_shift, Nat.add_mul_mod_self_left]
  | x :: xs, k + 1, h => by
    have hk : k < xs.length := by simpa using h
    simp only [joined, joined_shift, Nat.mul_zero, Nat.pow_zero, Nat.mul_one, List.getElem_cons_succ]
    rw [Nat.mul_succ, Nat.pow_add, Nat.mul_comm (2 ^ (w * k)), ← Nat.div_div_eq_div_mul,
      Nat.add_mul_div_left _ _ (Nat.two_pow_pos w), Nat.div_eq_of_lt (Nat.mod_lt _ (Nat.two_pow_pos w)), Nat.zero_add]
    exact joined_digit w xs k hk

theorem laneBits_cases (ty : Nat) : laneBits ty = 8 ∨ laneBits ty = 16 ∨ laneBits ty = 32 ∨ laneBits ty = 64 := by
  unfold laneBits; split <;> simp

/-- The lanes fill a register. -/
theorem laneBits_mul_laneCount (ty : Nat) : laneBits ty * laneCount ty = 128 := by
  unfold laneCount; rcases laneBits_cases ty with h | h | h | h <;> rw [h]

theorem ofLanes_eq (ty : Nat) (xs : List Nat) : ofLanes ty xs = RegVal.ofNat (joined (laneBits ty) 0 xs) := by
  unfold ofLanes
  rw [show xs.zipIdx = xs.zipIdx 0 from rfl, foldl_joined, Nat.zero_add]

/-- Lane `k` of joined lanes is the `k`-th of them, cut to the lane's width. -/
theorem laneOf_ofLanes (ty : Nat) (xs : List Nat) (k : Nat) (hx : xs.length = laneCount ty) (hk : k < laneCount ty) :
    laneOf ty (ofLanes ty xs) k = (xs[k]'(hx ▸ hk)) % 2 ^ laneBits ty := by
  have hlt := joined_lt (laneBits ty) xs
  rw [hx, laneBits_mul_laneCount] at hlt
  rw [ofLanes_eq, laneOf, RegVal.ofNat, BitVec.toNat_ofNat, Nat.mod_eq_of_lt hlt, fld]
  exact joined_digit (laneBits ty) xs k (hx ▸ hk)

theorem ofLanes_tag (ty : Nat) (xs : List Nat) : (ofLanes ty xs).tag = false := rfl
theorem ofLanes_psn (ty : Nat) (xs : List Nat) : (ofLanes ty xs).psn = false := rfl

/-- A lane of a register fits its width. -/
theorem laneOf_lt (ty : Nat) (v : RegVal) (k : Nat) : laneOf ty v k < 2 ^ laneBits ty := by
  unfold laneOf fld; exact Nat.mod_lt _ (Nat.two_pow_pos _)

/-- Flags of lanes, where some lanes raise none, are those of the others. -/
theorem allFlags_filter (p : Nat → Bool) (f : Nat → Nat) (l : List Nat) (a : Nat) :
    (l.map fun k => if p k then f k else 0).foldl (fun x y => x ||| y) a = ((l.filter p).map f).foldl (fun x y => x ||| y) a := by
  induction l generalizing a with
  | nil => rfl
  | cons k l ih =>
    by_cases h : p k
    · simp [h, ih]
    · simp [h, ih]

/-- The values of the fields of a vector word, by position. -/
theorem values_getD (s : State) (fs : List Nat) (i : Nat) (h : i < fs.length) :
    (values s fs).getD i RegVal.zero = fieldVal s s.cur fs i := by
  unfold values
  rw [List.getD_eq_getElem?_getD, List.getElem?_map, List.getElem?_range h]
  rfl

theorem values_length (s : State) (fs : List Nat) : (values s fs).length = fs.length := by simp [values]

theorem getD_map_range {β : Type} (f : Nat → β) (n k : Nat) (d : β) (h : k < n) : ((List.range n).map f).getD k d = f k := by
  rw [List.getD_eq_getElem?_getD, List.getElem?_map, List.getElem?_range h]; rfl

/-- A field that a word does not have reads as zero. -/
theorem fieldVal_none (s : State) (g : Nat) (fs : List Nat) (i : Nat) (h : fs.length ≤ i) : fieldVal s g fs i = RegVal.zero := by
  have h0 : fs.getD i 0 = 0 := by rw [List.getD_eq_getElem?_getD, List.getElem?_eq_none h]; rfl
  unfold fieldVal readReg
  simp only [h0]
  rfl

theorem values_getD_all (s : State) (fs : List Nat) (i : Nat) : (values s fs).getD i RegVal.zero = fieldVal s s.cur fs i := by
  by_cases h : i < fs.length
  · exact values_getD s fs i h
  · rw [fieldVal_none s s.cur fs i (Nat.le_of_not_lt h), List.getD_eq_getElem?_getD, List.getElem?_eq_none]
    · rfl
    · rw [values_length]; exact Nat.le_of_not_lt h

/-- What `laneMap` writes: a lane-wise result (R183). -/
theorem laneMap_lanes (o : VecOp) (n : Nat) (s : State) (f : Nat → Nat × Nat) :
    LanesAre o n s (laneMap o n (values s (vecFields o n)) f).1 (laneMap o n (values s (vecFields o n)) f).2 f := by
  have hon : ∀ k, enabled o n (values s (vecFields o n)) k = laneOn o (vecFields o n) n s k := by
    intro k; unfold enabled laneOn srcInt; rw [values_getD_all]
  unfold laneMap
  refine ⟨rfl, rfl, fun k hk => ?_, ?_⟩
  · dsimp only
    rw [laneOf_ofLanes _ _ _ (by simp) hk]
    simp only [List.getElem_map, List.getElem_range, hon]
    by_cases h : laneOn o (vecFields o n) n s k
    · simp [h]
    · simp only [h, Bool.false_eq_true, if_false, idleLane]
      by_cases hz : o.mz
      · simp [hz]
      · simp only [hz, Bool.false_eq_true, if_false]
        rw [values_getD_all, Nat.mod_eq_of_lt (laneOf_lt _ _ _)]
  · dsimp only
    rw [allFlags, ← allFlags_filter, List.foldl_map, List.foldl_map]
    congr 1
    funext a k
    simp only [hon]
    by_cases h : laneOn o (vecFields o n) n s k <;> simp [h]

end Sys2Proof.Machine
end

