-- ==== Sys2Proof/Tests/Slice0.lean ====
section
/-! SUPPORT. Tests: words decoded, ill-formed terms refused, single steps on small states, and witnesses of the hypotheses of the
statements. -/

set_option Elab.async false

namespace Sys2Proof.Tests
open Machine

/-! ## Words decoded

Each word is written from the encoding tables of 09_encoding and the sections it names. -/

/-- R143, R144, R146: IALU, OP 0x01. -/
theorem test_decode_IALU :
    [0x0110518000000000, 0x8110518001000000, 0x0110518002000000, 0x8110518003000000, 0x0110518004000000, 0x8110518005000000,
     0x0110518006000000, 0x8110518007000000, 0x0110518008000000, 0x8110518009000000, 0x011051800A000000, 0x811051800B000000,
     0x011051800C000000, 0x811051800D000000, 0x011051800E000000, 0x811051800F000000, 0x0110518010000000, 0x8110518011000000,
     0x0110518012000000, 0x8110518013000000, 0x0110518014000000, 0x8110518015000000, 0x0110518016000000, 0x0110518718000000,
     0x8110500019000000, 0x011050001A000000, 0x811050001B000000, 0x011050001C000000, 0x811050001D000000, 0x011050001E000000].map (decodeTableWord 64) =
      [some (.add ⟨false, 4, 5, 6⟩), some (.sub ⟨true, 4, 5, 6⟩), some (.and ⟨false, 4, 5, 6⟩), some (.or ⟨true, 4, 5, 6⟩),
       some (.xor ⟨false, 4, 5, 6⟩), some (.andn ⟨true, 4, 5, 6⟩), some (.orn ⟨false, 4, 5, 6⟩), some (.xnor ⟨true, 4, 5, 6⟩),
       some (.shl ⟨false, 4, 5, 6⟩), some (.shr ⟨true, 4, 5, 6⟩), some (.sra ⟨false, 4, 5, 6⟩), some (.rotl ⟨true, 4, 5, 6⟩),
       some (.rotr ⟨false, 4, 5, 6⟩), some (.min ⟨true, 4, 5, 6⟩), some (.max ⟨false, 4, 5, 6⟩), some (.minu ⟨true, 4, 5, 6⟩),
       some (.maxu ⟨false, 4, 5, 6⟩), some (.cmpeq ⟨true, 4, 5, 6⟩), some (.cmpne ⟨false, 4, 5, 6⟩), some (.cmplt ⟨true, 4, 5, 6⟩),
       some (.cmpltu ⟨false, 4, 5, 6⟩), some (.cmple ⟨true, 4, 5, 6⟩), some (.cmpleu ⟨false, 4, 5, 6⟩), some (.sel ⟨false, 4, 5, 6, 7⟩),
       some (.clz ⟨true, 4, 5⟩), some (.ctz ⟨false, 4, 5⟩), some (.popc ⟨true, 4, 5⟩), some (.bswap ⟨false, 4, 5⟩),
       some (.abs ⟨true, 4, 5⟩), some (.neg ⟨false, 4, 5⟩)] := by decide +kernel

/-- R143, R144, R146: IMUL, OP 0x02. -/
theorem test_decode_IMUL :
    [0x0210518000000000, 0x8210518001000000, 0x0210518002000000, 0x8210518003000000, 0x0210518004000000, 0x8210518005000000,
     0x0210518006000000, 0x8210518707000000].map (decodeTableWord 64) =
      [some (.mul ⟨false, 4, 5, 6⟩), some (.mulh ⟨true, 4, 5, 6⟩), some (.mulhu ⟨false, 4, 5, 6⟩), some (.div ⟨true, 4, 5, 6⟩),
       some (.divu ⟨false, 4, 5, 6⟩), some (.rem ⟨true, 4, 5, 6⟩), some (.remu ⟨false, 4, 5, 6⟩), some (.madd ⟨true, 4, 5, 6, 7⟩)] := by decide +kernel

/-- R143, R144, R146: BITMAP, OP 0x07. -/
theorem test_decode_BITMAP :
    [0x0710518000000000, 0x8710518001000000].map (decodeTableWord 64) =
      [some (.rank ⟨false, 4, 5, 6⟩), some (.selb ⟨true, 4, 5, 6⟩)] := by decide +kernel

/-- R143, R144, R146: HMIX, OP 0x08. -/
theorem test_decode_HMIX :
    [0x0810518700000000].map (decodeTableWord 64) =
      [some (.hmix ⟨false, 4, 5, 6, 7⟩)] := by decide +kernel

/-- R143, R144, R146: MOV, OP 0x09. -/
theorem test_decode_MOV :
    [0x0910500000000000].map (decodeTableWord 64) =
      [some (.mov ⟨false, 4, 5⟩)] := by decide +kernel

/-- R143, R144, R146: CAP, OP 0x20. -/
theorem test_decode_CAP :
    [0x2010518000000000, 0xA010518001000000, 0x2010518002000000, 0xA010518003000000, 0x2010500004000000, 0xA010500005000000,
     0x2010500006000000, 0xA010500007000000, 0x2010500008000000, 0xA010500009000000, 0x201051800A000000, 0xA01051800B000000,
     0x201051800C000000, 0xA01051800D000000].map (decodeTableWord 64) =
      [some (.cadd ⟨false, 4, 5, 6⟩), some (.cbnd ⟨true, 4, 5, 6⟩), some (.cbndX ⟨false, 4, 5, 6⟩), some (.cperm ⟨true, 4, 5, 6⟩),
       some (.cclr ⟨false, 4, 5⟩), some (.cgetAddr ⟨true, 4, 5⟩), some (.cgetBase ⟨false, 4, 5⟩), some (.cgetTop ⟨true, 4, 5⟩),
       some (.cgetPerm ⟨false, 4, 5⟩), some (.cgetTag ⟨true, 4, 5⟩), some (.csub ⟨false, 4, 5, 6⟩), some (.ccmp ⟨true, 4, 5, 6⟩),
       some (.cseal ⟨false, 4, 5, 6⟩), some (.cunseal ⟨true, 4, 5, 6⟩)] := by decide +kernel

/-- R147: IALUI, OP 0x03. -/
theorem test_decode_IALUI :
    [0x0310500000000001, 0x0310510100000002, 0x0310520000000003, 0x0310530100000004, 0x0310540000000005, 0x0310550100000006,
     0x0310560000000007, 0x0310570100000008, 0x0310580000000009, 0x031059010000000A, 0x03105A000000000B, 0x03105B010000000C].map (decodeTableWord 64) =
      [some (.addi ⟨false, 4, 5, false, 1⟩), some (.andi ⟨false, 4, 5, true, 2⟩), some (.ori ⟨false, 4, 5, false, 3⟩), some (.xori ⟨false, 4, 5, true, 4⟩),
       some (.shli ⟨false, 4, 5, false, 5⟩), some (.shri ⟨false, 4, 5, true, 6⟩), some (.srai ⟨false, 4, 5, false, 7⟩), some (.cmpeqi ⟨false, 4, 5, true, 8⟩),
       some (.cmplti ⟨false, 4, 5, false, 9⟩), some (.cmpltui ⟨false, 4, 5, true, 10⟩), some (.mini ⟨false, 4, 5, false, 11⟩), some (.maxi ⟨false, 4, 5, true, 12⟩)] := by decide +kernel

/-- R147: LI, OP 0x04. -/
theorem test_decode_LI :
    [0x0424000080000001, 0x0424010080000001, 0x0424020080000001, 0x0424030080000001].map (decodeTableWord 64) =
      [some (.li ⟨false, 9, 0x80000001⟩), some (.liq1 ⟨false, 9, 0x80000001⟩), some (.liq2 ⟨false, 9, 0x80000001⟩), some (.liq3 ⟨false, 9, 0x80000001⟩)] := by decide +kernel

/-- R147: BITF, OP 0x05. -/
theorem test_decode_BITF :
    [0x8524300000000B32, 0x8524310000000B32, 0x8524320000000B32].map (decodeTableWord 64) =
      [some (.ext ⟨true, 9, 3, 50, 11⟩), some (.extS ⟨true, 9, 3, 50, 11⟩), some (.ins ⟨true, 9, 3, 50, 11⟩)] := by decide +kernel

/-- R147: SKIP, OP 0x06. -/
theorem test_decode_SKIP :
    [0x060030000000000F, 0x060031000000000E, 0x060032000000000D, 0x060033000000000C].map (decodeTableWord 64) =
      [some (.skipZ ⟨false, 3, 15⟩), some (.skipNz ⟨false, 3, 14⟩), some (.skipNeg ⟨false, 3, 13⟩), some (.skipNneg ⟨false, 3, 12⟩)] := by decide +kernel

/-- R147: CAPI, OP 0x21. -/
theorem test_decode_CAPI :
    [0x21083000000007FF, 0x21083100000007FF, 0x21083200000007FF].map (decodeTableWord 64) =
      [some (.caddI ⟨false, 2, 3, 0x7FF⟩), some (.cpermI ⟨false, 2, 3, 0x7FF⟩), some (.cbndI ⟨false, 2, 3, 0x7FF⟩)] := by decide +kernel

/-- R148: VARITH, OP 0x30. -/
theorem test_decode_VARITH :
    [0x300C108000131800, 0x300C108001131800, 0x300C108002131800, 0x300C108003131800, 0x300C108004131800, 0x300C100005131800,
     0x300C100006131800, 0x300C108007131800, 0x300C100008131800, 0x300C108009131800, 0x300C10800A131800, 0x300C10800B131800,
     0x300C10800C531800, 0x300C10800D531800, 0x300C10800E531800].map (decodeTableWord 64) =
      [some (.vadd ⟨false, 3, 1, 2, 0, 1, 0, true, true, 6⟩), some (.vsub ⟨false, 3, 1, 2, 0, 1, 0, true, true, 6⟩), some (.vmul ⟨false, 3, 1, 2, 0, 1, 0, true, true, 6⟩), some (.vmin ⟨false, 3, 1, 2, 0, 1, 0, true, true, 6⟩),
       some (.vmax ⟨false, 3, 1, 2, 0, 1, 0, true, true, 6⟩), some (.vabs ⟨false, 3, 1, 0, 0, 1, 0, true, true, 6⟩), some (.vneg ⟨false, 3, 1, 0, 0, 1, 0, true, true, 6⟩), some (.vdiv ⟨false, 3, 1, 2, 0, 1, 0, true, true, 6⟩),
       some (.vsqrt ⟨false, 3, 1, 0, 0, 1, 0, true, true, 6⟩), some (.vand ⟨false, 3, 1, 2, 0, 1, 0, true, true, 6⟩), some (.vor ⟨false, 3, 1, 2, 0, 1, 0, true, true, 6⟩), some (.vxor ⟨false, 3, 1, 2, 0, 1, 0, true, true, 6⟩),
       some (.vshl ⟨false, 3, 1, 2, 0, 5, 0, true, true, 6⟩), some (.vshr ⟨false, 3, 1, 2, 0, 5, 0, true, true, 6⟩), some (.vsra ⟨false, 3, 1, 2, 0, 5, 0, true, true, 6⟩)] := by decide +kernel

/-- R148: VFMA, OP 0x31. -/
theorem test_decode_VFMA :
    [0x310C108800031800, 0x310C108801031800, 0x310C108802031800].map (decodeTableWord 64) =
      [some (.vfma ⟨false, 3, 1, 2, 8, 0, 0, true, true, 6⟩), some (.vfms ⟨false, 3, 1, 2, 8, 0, 0, true, true, 6⟩), some (.vfnma ⟨false, 3, 1, 2, 8, 0, 0, true, true, 6⟩)] := by decide +kernel

/-- R148: VCMP, OP 0x32. -/
theorem test_decode_VCMP :
    [0x320C108000131800, 0x320C108001131800, 0x320C108002131800, 0x320C108003131800, 0x320C108004131800, 0x320C108005131800,
     0x320C108006131800].map (decodeTableWord 64) =
      [some (.vcmpEq ⟨false, 3, 1, 2, 0, 1, 0, true, true, 6⟩), some (.vcmpNe ⟨false, 3, 1, 2, 0, 1, 0, true, true, 6⟩), some (.vcmpLt ⟨false, 3, 1, 2, 0, 1, 0, true, true, 6⟩), some (.vcmpLe ⟨false, 3, 1, 2, 0, 1, 0, true, true, 6⟩),
       some (.vcmpGt ⟨false, 3, 1, 2, 0, 1, 0, true, true, 6⟩), some (.vcmpGe ⟨false, 3, 1, 2, 0, 1, 0, true, true, 6⟩), some (.vcmpUn ⟨false, 3, 1, 2, 0, 1, 0, true, true, 6⟩)] := by decide +kernel

/-- R148: VSEL, OP 0x33. -/
theorem test_decode_VSEL :
    [0x330C108800131800].map (decodeTableWord 64) =
      [some (.vsel ⟨false, 3, 1, 2, 8, 1, 0, true, true, 6⟩)] := by decide +kernel

/-- R148: VRED, OP 0x34. -/
theorem test_decode_VRED :
    [0x340C100000121800, 0x340C100001121800, 0x340C100002121800, 0x340C108803021800].map (decodeTableWord 64) =
      [some (.vredsum ⟨false, 3, 1, 0, 0, 1, 0, true, false, 6⟩), some (.vredmax ⟨false, 3, 1, 0, 0, 1, 0, true, false, 6⟩), some (.vredmin ⟨false, 3, 1, 0, 0, 1, 0, true, false, 6⟩), some (.vredargmax ⟨false, 3, 1, 2, 8, 0, 0, true, false, 6⟩)] := by decide +kernel

/-- R148: VPERM, OP 0x35. -/
theorem test_decode_VPERM :
    [0x350C108000331800, 0x350C100001331800, 0x350C108002300000, 0x350C108003300000].map (decodeTableWord 64) =
      [some (.vshuf ⟨false, 3, 1, 2, 0, 3, 0, true, true, 6⟩), some (.vbcast ⟨false, 3, 1, 0, 0, 3, 0, true, true, 6⟩), some (.vins ⟨false, 3, 1, 2, 0, 3, 0, false, false, 0⟩), some (.vext ⟨false, 3, 1, 2, 0, 3, 0, false, false, 0⟩)] := by decide +kernel

/-- R148: VSPEC, OP 0x36. -/
theorem test_decode_VSPEC :
    [0x360C100000031800, 0x360C100001031800, 0x360C100002031800, 0x360C100003031800, 0x360C100004031800, 0x360C100005031800,
     0x360C100006031800].map (decodeTableWord 64) =
      [some (.vexp2 ⟨false, 3, 1, 0, 0, 0, 0, true, true, 6⟩), some (.vlog2 ⟨false, 3, 1, 0, 0, 0, 0, true, true, 6⟩), some (.vrcp ⟨false, 3, 1, 0, 0, 0, 0, true, true, 6⟩), some (.vrsqrt ⟨false, 3, 1, 0, 0, 0, 0, true, true, 6⟩),
       some (.vtanh ⟨false, 3, 1, 0, 0, 0, 0, true, true, 6⟩), some (.vsig ⟨false, 3, 1, 0, 0, 0, 0, true, true, 6⟩), some (.vgelu ⟨false, 3, 1, 0, 0, 0, 0, true, true, 6⟩)] := by decide +kernel

/-- R148: VCVT, OP 0x37. -/
theorem test_decode_VCVT :
    [0x370C1081000B1800, 0x370C1081010B1800].map (decodeTableWord 64) =
      [some (.vcvt ⟨false, 3, 1, 2, 1, 0, 2, true, true, 6⟩), some (.vcvtI ⟨false, 3, 1, 2, 1, 0, 2, true, true, 6⟩)] := by decide +kernel

/-- R148: SMERGE, OP 0x38. -/
theorem test_decode_SMERGE :
    [0x380C108000000000].map (decodeTableWord 64) =
      [some (.smerge ⟨false, 3, 1, 2, 0, 0, 0, false, false, 0⟩)] := by decide +kernel

/-- R146, R150: loads, stores and full/empty words, OP 0x50-0x64; the last is a worked encoding of the manual. -/
theorem test_decode_M :
    [0x5014A2C4FFFFFFF8, 0x5114A2CCFFFFFFF8, 0x5214A2D4FFFFFFF8, 0x5314A2DCFFFFFFF8, 0x5414A2E4FFFFFFF8, 0x5514A2ECFFFFFFF8,
     0x5614A2F4FFFFFFF8, 0x5714A2FCFFFFFFF8, 0x5814A2C4FFFFFFF8, 0x5914A2CCFFFFFFF8, 0x5A14A2D4FFFFFFF8, 0x5B14A2DCFFFFFFF8,
     0x6014A2D900000008, 0x6114A2D900000008, 0x6214A2DA00000008, 0x6314A2DA00000008, 0x6414A00000000008, 0x6400A00800000008,
     0x6400A01000000008, 0xD314A00000000008].map (decodeTableWord 64) =
      [some (.ldB ⟨false, 5, 10, 11, 0, true, 0, 0xFFFFFFF8⟩), some (.ldH ⟨false, 5, 10, 11, 1, true, 0, 0xFFFFFFF8⟩), some (.ldW ⟨false, 5, 10, 11, 2, true, 0, 0xFFFFFFF8⟩), some (.ldD ⟨false, 5, 10, 11, 3, true, 0, 0xFFFFFFF8⟩),
       some (.ldQ ⟨false, 5, 10, 11, 4, true, 0, 0xFFFFFFF8⟩), some (.ldC ⟨false, 5, 10, 11, 5, true, 0, 0xFFFFFFF8⟩), some (.stB ⟨false, 5, 10, 11, 6, true, 0, 0xFFFFFFF8⟩), some (.stH ⟨false, 5, 10, 11, 7, true, 0, 0xFFFFFFF8⟩),
       some (.stW ⟨false, 5, 10, 11, 0, true, 0, 0xFFFFFFF8⟩), some (.stD ⟨false, 5, 10, 11, 1, true, 0, 0xFFFFFFF8⟩), some (.stQ ⟨false, 5, 10, 11, 2, true, 0, 0xFFFFFFF8⟩), some (.stC ⟨false, 5, 10, 11, 3, true, 0, 0xFFFFFFF8⟩),
       some (.ldfe ⟨false, 5, 10, 11, 3, false, 1, 8⟩), some (.ldff ⟨false, 5, 10, 11, 3, false, 1, 8⟩), some (.stef ⟨false, 5, 10, 11, 3, false, 2, 8⟩), some (.stfill ⟨false, 5, 10, 11, 3, false, 2, 8⟩),
       some (.fectlRead ⟨false, 5, 10, 0, 0, false, 0, 8⟩), some (.fectlEmpty ⟨false, 0, 10, 0, 1, false, 0, 8⟩), some (.fectlFull ⟨false, 0, 10, 0, 2, false, 0, 8⟩), some (.ldD ⟨true, 5, 10, 0, 0, false, 0, 8⟩)] := by decide +kernel

/-- R149: AMO, OP 0x65; `amo.cas.d.acq g2, [g10], g3, g4` is 0x6508A0C409D00000 in the manual. -/
theorem test_decode_AMO :
    [0x6508A0C000D00000, 0x6508A0C001D00000, 0x6508A0C002D00000, 0x6508A0C003D00000, 0x6508A0C004D00000, 0x6508A0C005D00000,
     0x6508A0C006D00000, 0x6508A0C007D00000, 0x6508A0C008D00000, 0x6508A0C409D00000, 0x6508A0C00A900000].map (decodeTableWord 64) =
      [some (.amoAdd ⟨false, 2, 10, 3, 0, true, 1⟩), some (.amoAnd ⟨false, 2, 10, 3, 0, true, 1⟩), some (.amoOr ⟨false, 2, 10, 3, 0, true, 1⟩), some (.amoXor ⟨false, 2, 10, 3, 0, true, 1⟩),
       some (.amoMin ⟨false, 2, 10, 3, 0, true, 1⟩), some (.amoMax ⟨false, 2, 10, 3, 0, true, 1⟩), some (.amoMinu ⟨false, 2, 10, 3, 0, true, 1⟩), some (.amoMaxu ⟨false, 2, 10, 3, 0, true, 1⟩),
       some (.amoSwap ⟨false, 2, 10, 3, 0, true, 1⟩), some (.amoCas ⟨false, 2, 10, 3, 4, true, 1⟩), some (.amoFaddF32 ⟨false, 2, 10, 3, 0, false, 1⟩)] := by decide +kernel

/-- R135: FENCE, OP 0x68. -/
theorem test_decode_FENCE :
    [0x6800000000040000, 0x6800000001050000, 0x6800000002060000].map (decodeTableWord 64) =
      [some (.fenceRw ⟨false, 4⟩), some (.fenceX ⟨false, 5⟩), some (.fenceM ⟨false, 6⟩)] := by decide +kernel

/-- R146: STREAM, OP 0x69. -/
theorem test_decode_STREAM :
    [0x69C0310000000000, 0x69DC310001000000, 0x69C4000002000000, 0xE91F200003000000].map (decodeTableWord 64) =
      [some (.sbindIn ⟨false, 48, 3, 4⟩), some (.sbindOut ⟨false, 55, 3, 4⟩), some (.sunbind false 49), some (.sstat true 7 50)] := by decide +kernel

/-- R147: REP, OP 0x6A. -/
theorem test_decode_REP :
    [0x6A00308900000091].map (decodeTableWord 64) =
      [some (.rep ⟨false, 3, 1, 17, 0x91⟩)] := by decide +kernel

/-- R112, R225: MMA, MMQ, MML, MMD, ACC and OPER, OP 0x70-0x75. -/
theorem test_decode_MATRIX :
    [0x701C108000B00000, 0xF118F00000000000, 0x7204312E00400000, 0x730851AD00200000, 0x730851AD01200000, 0x7300824002000000,
     0x7300800003000000, 0x732C800004000000, 0x741C824000C40000, 0x740C000001000000, 0x740C000C02C00000, 0x7500000000170000,
     0x7500000001070000, 0x75008240020F0000, 0x7514000003100000].map (decodeTableWord 64) =
      [some (.mma ⟨false, 7, 1, 2, 0, 5, true⟩), some (.mmq ⟨true, 6, 15, 0, 0, 0, false⟩), some (.mml ⟨false, 1, 3, 4, 46, 2, false⟩), some (.mmd ⟨false, 2, 5, 6, 45, 1, false⟩),
       some (.mmdFull ⟨false, 2, 5, 6, 45, 1, false⟩), some (.rinit false 8 9), some (.rinval false 8), some (.rstat false 11 8),
       some (.maccSt ⟨false, 7, 8, 9, 0xC4⟩), some (.maccZ false 3), some (.mqfin false 3 12 6), some (.oclaim false 23),
       some (.orel false 7), some (.oload false 15 8 9), some (.ostat false 5 16)] := by decide +kernel

/-- R146: TILE, OP 0x76, tile number in bits 23:16. -/
theorem test_decode_TILE :
    [0x7600310000C80000, 0x7614000001C80000, 0x7600018002010000, 0x7600000003FF0000].map (decodeTableWord 64) =
      [some (.tdef false 0xC8 3 4), some (.tstate false 5 0xC8), some (.tset false 1 6), some (.tfree false 0xFF)] := by decide +kernel

/-- R55, R243: END, OP 0x78: table in bits 55:48, selectors 3 to 0 of twelve bits. -/
theorem test_decode_END :
    [0x782A000EFD0BA053].map (decodeTableWord 64) =
      [some (.endBlk ⟨false, 0x2A, ⟨1, 4, 3⟩, ⟨2, 14, 2⟩, ⟨59, 15, 1⟩, ⟨0, 0, 0⟩⟩)] := by decide +kernel

/-- R67: MATCH, OP 0x79, table in bits 7:0. -/
theorem test_decode_MATCH :
    [0x791C80000000002A].map (decodeTableWord 64) =
      [some (.matchKey false 7 8 0x2A)] := by decide +kernel

/-- R64: TBL, OP 0x7A, table in bits 23:16. -/
theorem test_decode_TBL :
    [0x7A00310500090000, 0x7A18300001090000, 0x7A18310002090000, 0x7A00300003090000].map (decodeTableWord 64) =
      [some (.tblWr false 9 3 4 5), some (.tblCommit false 6 9 3), some (.tblRd false 6 9 3 4), some (.tblSync false 9 3)] := by decide +kernel

/-- R146: TASK, OP 0x7B. -/
theorem test_decode_TASK :
    [0x7B10518700000000, 0x7B00518001000000, 0x7B10500002000000, 0x7B00518003000000].map (decodeTableWord 64) =
      [some (.spawn ⟨false, 4, 5, 6, 7⟩), some (.dec false 5 6), some (.tget ⟨false, 4, 5⟩), some (.tsetCnt false 5 6)] := by decide +kernel

/-- R146, R258: SYS, OP 0x7C, special register in bits 15:4. -/
theorem test_decode_SYS :
    [0x7C10000000001050, 0x7C00500001000020, 0x7C00518002000000, 0x7C00000003000000, 0x7C00518704000000, 0x7C00518005000000,
     0x7C00518706000000, 0x7C00500007000000, 0xFC00000008000000].map (decodeTableWord 64) =
      [some (.mfs false 4 0x105), some (.mts false 2 5), some (.tlbi false 5 6), some (.tlbsync false),
       some (.portwr false 5 6 7), some (.portfail false 5 6), some (.diagSt false 5 6 7), some (.trap false 5),
       some (.halt true)] := by decide +kernel

/-- R252: ENG, OP 0x7E: FN7 in bits 37:31, engine in bits 30:26, REL in bit 25. -/
theorem test_decode_ENG :
    [0x7E10518000000000, 0x7E10518082000000, 0x7E10500100000000, 0x7E10518182000000, 0x7E10500200000000, 0x7E10500282000000,
     0x7E10000800000000, 0x7E10500006000000, 0x7E10518084000000, 0x7E10000806000000, 0x7E10518008000000, 0x7E1051808A000000,
     0x7E10518108000000, 0x7E1051818A000000, 0x7E10000808000000, 0x7E1051800E000000, 0x7E1050008C000000, 0x7E1050010E000000,
     0x7E1000080C000000, 0x7E10500012000000, 0x7E10000810000000, 0x7E10000816000000, 0x7E10000818000000].map (decodeTableWord 64) =
      [some (.copyXfer ⟨false, 4, 5, 6, false⟩), some (.copyFill ⟨false, 4, 5, 6, true⟩), some (.copyRwrite ⟨false, 4, 5, 0, false⟩), some (.copyRread ⟨false, 4, 5, 6, true⟩),
       some (.copyRsend ⟨false, 4, 5, 0, false⟩), some (.copyRemap ⟨false, 4, 5, 0, true⟩), some (.copyStat ⟨false, 4, 0, 0, false⟩), some (.distDeal ⟨false, 4, 5, 0, true⟩),
       some (.distCfg ⟨false, 4, 5, 6, false⟩), some (.distStat ⟨false, 4, 0, 0, true⟩), some (.collAllreduce ⟨false, 4, 5, 6, false⟩), some (.collReduce ⟨false, 4, 5, 6, true⟩),
       some (.collBcast ⟨false, 4, 5, 6, false⟩), some (.collAllgather ⟨false, 4, 5, 6, true⟩), some (.collStat ⟨false, 4, 0, 0, false⟩), some (.ctxSave ⟨false, 4, 5, 6, true⟩),
       some (.ctxRestore ⟨false, 4, 5, 0, false⟩), some (.ctxScrub ⟨false, 4, 5, 0, true⟩), some (.ctxStat ⟨false, 4, 0, 0, false⟩), some (.gateRun ⟨false, 4, 5, 0, true⟩),
       some (.gateStat ⟨false, 4, 0, 0, false⟩), some (.dispatchStat ⟨false, 4, 0, 0, true⟩), some (.combineStat ⟨false, 4, 0, 0, false⟩)] := by decide +kernel

/-- R151, R252: a word of an engine with a register in a field that its function does not use is no instruction. -/
theorem test_decode_ENG_refuses :
    [0x7E10518100000000, 0x7E10500800000000, 0x7E10518006000000, 0x7E10518012000000].map (decodeTableWord 64) = [none, none, none, none] := by
  decide +kernel

/-! ## Ill-formed terms refused -/

/-- R145: register limits. -/
theorem test_wf_registers :
    (Instr.add ⟨false, 56, 1, 2⟩).wf = false ∧ (Instr.add ⟨false, 3, 60, 2⟩).wf = false ∧ (Instr.sel ⟨false, 3, 1, 2, 60⟩).wf = false ∧
    (Instr.mov ⟨false, 56, 1⟩).wf = false ∧ (Instr.rank ⟨false, 48, 1, 2⟩).wf = false ∧ (Instr.spawn ⟨false, 48, 1, 2, 3⟩).wf = false ∧
    (Instr.copyXfer ⟨false, 48, 1, 2, false⟩).wf = false ∧ (Instr.trap false 60).wf = false := by decide

/-- R147: limits of the immediate formats. -/
theorem test_wf_immediates :
    (Instr.addi ⟨false, 3, 1, false, 2 ^ 32⟩).wf = false ∧ (Instr.shli ⟨false, 3, 1, false, 64⟩).wf = false ∧
    (Instr.shli ⟨false, 3, 1, true, 32⟩).wf = false ∧ (Instr.li ⟨false, 3, 2 ^ 32⟩).wf = false ∧ (Instr.liq1 ⟨false, 48, 0⟩).wf = false ∧
    (Instr.ext ⟨false, 3, 1, 60, 4⟩).wf = false ∧ (Instr.skipZ ⟨false, 3, 0⟩).wf = false ∧ (Instr.skipZ ⟨false, 3, 16⟩).wf = false ∧
    (Instr.cpermI ⟨false, 3, 1, 2 ^ 11⟩).wf = false ∧ (Instr.rep ⟨false, 3, 0, 0, 2 ^ 4⟩).wf = false ∧ (Instr.rep ⟨false, 3, 0, 32, 0⟩).wf = false := by
  decide

/-- R148, R181, R182, R185: limits of the vector format. -/
theorem test_wf_vectors :
    (Instr.vadd ⟨false, 3, 1, 2, 0, 11, 0, false, false, 0⟩).wf = false ∧ (Instr.vadd ⟨false, 3, 1, 2, 1, 0, 0, false, false, 0⟩).wf = false ∧
    (Instr.vadd ⟨false, 3, 1, 2, 0, 0, 0, false, true, 0⟩).wf = false ∧ (Instr.vadd ⟨false, 3, 1, 2, 0, 0, 0, false, false, 6⟩).wf = false ∧
    (Instr.vadd ⟨false, 3, 1, 2, 0, 5, 1, false, false, 0⟩).wf = false ∧ (Instr.vmin ⟨false, 3, 1, 2, 0, 0, 1, false, false, 0⟩).wf = false ∧
    (Instr.vadd ⟨false, 48, 1, 2, 0, 0, 0, true, false, 6⟩).wf = false ∧ (Instr.vdiv ⟨false, 3, 1, 2, 0, 5, 0, false, false, 0⟩).wf = false ∧
    (Instr.vshl ⟨false, 3, 1, 2, 0, 0, 0, false, false, 0⟩).wf = false ∧ (Instr.vredsum ⟨false, 3, 1, 0, 0, 0, 0, true, true, 6⟩).wf = false ∧
    (Instr.vins ⟨false, 3, 1, 2, 0, 0, 0, true, false, 6⟩).wf = false ∧ (Instr.vins ⟨false, 48, 1, 2, 0, 0, 0, false, false, 0⟩).wf = false ∧
    (Instr.smerge ⟨false, 3, 1, 2, 0, 1, 0, false, false, 0⟩).wf = false ∧ (Instr.vcvt ⟨false, 3, 1, 2, 11, 0, 0, false, false, 0⟩).wf = false ∧
    (Instr.vcvt ⟨false, 48, 1, 2, 0, 1, 0, false, false, 0⟩).wf = false := by decide

/-- R131, R149, R150, R203-R207: limits of the words that access memory. -/
theorem test_wf_memory :
    (Instr.ldD ⟨false, 48, 1, 0, 0, false, 0, 0⟩).wf = false ∧ (Instr.ldD ⟨false, 3, 1, 0, 0, false, 2, 0⟩).wf = false ∧
    (Instr.ldD ⟨false, 3, 1, 0, 0, true, 1, 0⟩).wf = false ∧ (Instr.ldD ⟨false, 3, 1, 0, 8, false, 0, 0⟩).wf = false ∧
    (Instr.stD ⟨false, 3, 1, 0, 0, false, 1, 0⟩).wf = false ∧ (Instr.ldfe ⟨false, 3, 1, 0, 0, true, 0, 0⟩).wf = false ∧
    (Instr.stef ⟨false, 3, 1, 0, 0, false, 3, 0⟩).wf = false ∧ (Instr.fectlRead ⟨false, 3, 1, 2, 0, false, 0, 0⟩).wf = false ∧
    (Instr.fectlFull ⟨false, 3, 1, 0, 2, false, 0, 0⟩).wf = false ∧ (Instr.amoAdd ⟨false, 3, 1, 2, 4, true, 0⟩).wf = false ∧
    (Instr.amoFaddF32 ⟨false, 3, 1, 2, 0, true, 0⟩).wf = false ∧ (Instr.amoAdd ⟨false, 3, 1, 2, 0, true, 4⟩).wf = false ∧
    (Instr.fenceRw ⟨false, 7⟩).wf = false ∧ (Instr.sbindIn ⟨false, 47, 1, 2⟩).wf = false ∧ (Instr.sbindIn ⟨false, 48, 49, 2⟩).wf = false ∧
    (Instr.sunbind false 56).wf = false ∧ (Instr.sstat false 48 48).wf = false := by decide

/-- R55, R112, R225, R234, R240, R259: limits of the other formats. -/
theorem test_wf_others :
    (Instr.mma ⟨false, 8, 1, 2, 0, 0, false⟩).wf = false ∧ (Instr.mma ⟨false, 7, 16, 2, 0, 0, false⟩).wf = false ∧
    (Instr.mma ⟨false, 7, 1, 2, 3, 0, false⟩).wf = false ∧ (Instr.mml ⟨false, 7, 1, 2, 3, 0, false⟩).wf = false ∧
    (Instr.mmd ⟨false, 7, 1, 2, 0, 0, false⟩).wf = false ∧ (Instr.mmd ⟨false, 7, 1, 2, 3, 0, true⟩).wf = false ∧
    (Instr.rstat false 0 1).wf = false ∧ (Instr.maccSt ⟨false, 7, 1, 2, 0⟩).wf = false ∧ (Instr.maccSt ⟨false, 7, 1, 2, 5⟩).wf = false ∧
    (Instr.mqfin false 7 16 0).wf = false ∧ (Instr.oclaim false 24).wf = false ∧ (Instr.oload false 15 48 2).wf = false ∧
    (Instr.ostat false 0 3).wf = false ∧ (Instr.tstate false 0 1).wf = false ∧ (Instr.tdef false 256 1 2).wf = false ∧
    (Instr.endBlk ⟨false, 0, ⟨1, 0, 0⟩, ⟨0, 0, 0⟩, ⟨0, 0, 0⟩, ⟨0, 0, 0⟩⟩).wf = false ∧
    (Instr.endBlk ⟨false, 0, ⟨1, 13, 3⟩, ⟨0, 0, 0⟩, ⟨0, 0, 0⟩, ⟨0, 0, 0⟩⟩).wf = false ∧
    (Instr.endBlk ⟨false, 0, ⟨1, 0, 3⟩, ⟨1, 0, 3⟩, ⟨1, 0, 1⟩, ⟨0, 0, 0⟩⟩).wf = false ∧
    (Instr.mfs false 3 0x17).wf = false ∧ (Instr.mts false 0x106 3).wf = false := by decide

/-- R6, R354: a word with a nonzero `0` field, a reserved function and a reserved opcode decode to nothing. -/
theorem test_decode_refuses :
    [0x0110518000000001, 0x0110518017000000, 0x0A00000000000000, 0x0000000000000000, 0x7F00000000000000].map (decodeTableWord 64)
      = [none, none, none, none, none] := by decide +kernel

/-! ## A small part -/

/-- A tagged capability to `n` bytes at `a`, `n` below 64 KiB. -/
def capTo (perm a n : Nat) : RegVal := ⟨capBits 0 perm (a + n) a 0 a, true, false⟩

/-- An address in the slice of virtual cluster 0. -/
def inSlice (ofs : Nat) : Nat := sramAddr 0 ofs

/-- A Ready thread with some registers. -/
def threadWith (regs : List (Nat × RegVal)) : Slot :=
  { Slot.reset with status := .ready, recOfs := 0x40, ctx := { Context.new with regs := regs } }

/-- The launch that slot 0 runs: its code object lies at 0x100000 of the slice. -/
def testLaunch : Launch :=
  { used := true, queue := 0, part := 1, ten := 0, cls := 0, prv := 0, pri := 0, entry := 0, paired := false, ldone := RegVal.zero
    lgen := 0, lcode := capTo (permR + permX + permGLB) (inSlice 0x100000) 0x1000, blocks := 2, ltdir := 0, shape := 0, ext := 0, lp0 := 0, lp1 := 0
    seeds := [], next := none, live := 1, ended := 0, halted := false, faulted := false, unpaired := false }

/-- A translation of the device page 0x1000 to 0x8000. -/
def testPage : TlbEntry := { part := 1, asid := 0, va := 0x1000, size := 0x1000, pa := 0x8000, ia := 0x8000, perm := 15, grd := false, ridx := 0 }

/-- A part whose cluster 0 belongs to partition 1; slot 0 of it is `x`. -/
def partWith (x : Slot) : State :=
  { State.reset with
    slots := [(0, x)], keys := [(0, 1)]
    clusters := [(0, { Cluster.reset with owner := 2 ^ 63 + 1, perm := 2, maps := [(1, [2 ^ 15, 2 ^ 15 + 1])], tlb := [testPage],
                                          launches := [(0, testLaunch)] })] }

/-- Registers: two numbers, zero, capabilities to the slice and to the device page, an address descriptor. -/
def testRegs : List (Nat × RegVal) :=
  [(1, RegVal.ofNat 7), (2, RegVal.ofNat 3), (4, capTo 0x7FF (inSlice 0x1000) 0x2000), (5, capTo 0x7FF 0x1000 0x1000), (6, RegVal.ofNat (2 ^ 63)),
   (7, RegVal.ofNat 64), (8, RegVal.ofNat 32), (9, RegVal.ofNat (2 ^ 64 - 1)), (10, RegVal.ofNat 2), (11, RegVal.ofNat 63), (12, RegVal.ofNat 1)]

/-- The small part. -/
def small : State := partWith (threadWith testRegs)

/-- The small part in a privilege. -/
def smallAt (prv : Nat) : State := partWith { threadWith testRegs with prv := prv }

/-- Code words, in a block of their own. -/
def withCode (s : State) (ws : List Nat) : State :=
  let s := sramWrite (sramWrite s 0 0x100000 8 1) 0 0x100008 8 (16 + ws.length * 2 ^ 32)
  ws.zipIdx.foldl (fun s wi => sramWrite s 0 (0x100010 + 8 * wi.2) 8 wi.1) s

/-- What an outcome leaves, where it is a next state. -/
def after {α : Type} (o : Host.Outcome State Fault Refusal) (f : State → α) : Option α :=
  match o with
  | .next t => some (f t)
  | _ => none

/-- What an operation comes to. -/
def okWith {α : Type} (r : Res α) (p : α → State → Bool) : Bool :=
  match r with
  | .ok a t => p a t
  | _ => false

/-- Port 48 bound to input with one element fetched, port 49 bound to output of doublewords in the slice. -/
def portsOf : List (Nat × Port) :=
  [(48, { dir := 1, cap := capTo 0x7FF (inSlice 0x1000) 0x2000, desc := BitVec.ofNat 128 (8 * 2 ^ 64 + 2 * 2 ^ 32 + 3), pos := 0
          fetched := [{ data := 5, psn := false, cause := none }], nextIn := 1, part := [], openV := [], block := none, outQ := [] }),
   (49, { dir := 2, cap := capTo 0x7FF (inSlice 0x1000) 0x2000, desc := BitVec.ofNat 128 (8 * 2 ^ 64 + 2 * 2 ^ 32 + 3), pos := 0, fetched := [], nextIn := 0
          part := [], openV := [], block := none, outQ := [] })]

/-- The small part with bound ports. -/
def smallPorts : State := partWith { threadWith testRegs with ports := portsOf }

/-- Where an element appended to port 49 goes. -/
def testElem : OutElem := { id := 0, tgt := .sram 0 0x1000, ea := inSlice 0x1000, len := 8, data := 0, grd := [], via := none }

/-! ## Single steps

Expected values are computed by hand from the rules named. -/

/-- The value of register `d` of slot 0 after a word. -/
def regAfter (i : Instr) (d : Nat) : Option Nat := after (exec i small) fun t => (readReg t 0 d).bits.toNat

/-- R159: 3 - 7 wraps. -/
theorem test_sub : regAfter (.sub ⟨false, 3, 2, 1⟩) 3 = some (2 ^ 64 - 4) := by decide +kernel

/-- R161: 7 has three bits. -/
theorem test_popc : regAfter (.popc ⟨false, 1, 1⟩) 1 = some 3 := by decide +kernel

/-- R162: the high half of 2^63 × 3. -/
theorem test_mulhu : regAfter (.mulhu ⟨false, 3, 6, 2⟩) 3 = some 1 := by decide +kernel

/-- R162: 7 mod 3. -/
theorem test_rem : regAfter (.rem ⟨false, 3, 1, 2⟩) 3 = some 1 := by decide +kernel

/-- R26: a division by zero keeps its destination and traps. -/
theorem test_div_zero : after (exec (.div ⟨false, 2, 1, 0⟩) small) (fun t => ((t.slot 0).ofs, (t.slot 0).status == .idle)) = some (0, true) := by
  decide +kernel

/-- R164: `.w` sign-extends bit 31. -/
theorem test_addi_w : regAfter (.addi ⟨false, 3, 1, true, 0x7FFFFFF9⟩) 3 = some (2 ^ 64 - 2 ^ 31) := by decide +kernel

/-- R165: a part of a register is replaced. -/
theorem test_liq2 : regAfter (.liq2 ⟨false, 1, 5⟩) 1 = some (5 * 2 ^ 64 + 7) := by decide +kernel

/-- R166: bits 2:1 of 7, sign-extended. -/
theorem test_ext_s : regAfter (.extS ⟨false, 3, 1, 1, 1⟩) 3 = some (2 ^ 64 - 1) := by decide +kernel

/-- R175: an address that leaves the representable region loses the tag. -/
theorem test_cadd : after (exec (.cadd ⟨false, 3, 4, 6⟩) small) (fun t => (readReg t 0 3).tag) = some false := by decide +kernel

/-- R177: permissions only shrink. -/
theorem test_cperm : after (exec (.cpermI ⟨false, 3, 4, 3⟩) small) (fun t => ((readReg t 0 3).perm, (readReg t 0 3).tag)) = some (3, true) := by
  decide +kernel

/-- R186: lanes of 8 bits wrap: 7 + 7 in lane 0. -/
theorem test_vadd : regAfter (.vadd ⟨false, 3, 1, 1, 0, 3, 0, false, false, 0⟩) 3 = some 14 := by decide +kernel

/-- R190: lanes 1 to 3 of 7 and 3 are equal, lane 0 is not. -/
theorem test_vcmp_ne : regAfter (.vcmpNe ⟨false, 3, 1, 2, 0, 5, 0, false, false, 0⟩) 3 = some 1 := by decide +kernel

/-- R193: the sum of the lanes of 2^63: its lane 1 is -2^31. -/
theorem test_vredsum : regAfter (.vredsum ⟨false, 3, 6, 0, 0, 5, 0, false, false, 0⟩) 3 = some (2 ^ 64 - 2 ^ 31) := by decide +kernel

/-- R145: `gz` reads zero and is not written. -/
theorem test_gz : regAfter (.add ⟨false, 0, 1, 2⟩) 0 = some 0 := by decide +kernel

/-- R75, R204: a store to the slice of another cluster that the permission table allows is sent there, and stores when it is performed. -/
theorem test_store : after (exec (.stD ⟨false, 1, 4, 0, 0, false, 0, 8⟩) small) (fun t =>
    (t.net.map fun r => (r.tgt, r.len), after (exec (.sramRequest 0) t) fun u => sramRead u 0 0x1008 8)) =
      some ([(.sram 0 0x1008, 8)], some 7) := by decide +kernel

/-- R52, R205: `stef` stores and sets the word full. -/
theorem test_stef : after (exec (.stef ⟨false, 1, 4, 0, 0, false, 0, 8⟩) small) (fun t =>
    after (exec (.sramRequest 0) t) fun u => (sramRead u 0 0x1008 8, sramFull u 0 0x1008)) = some (some (7, true)) := by decide +kernel

/-- R129: a store to device memory waits in the gather buffer. -/
theorem test_gather : after (exec (.stD ⟨false, 1, 5, 0, 0, false, 0, 8⟩) small) (fun t =>
    ((t.slot 0).gather.map fun l => (l.line, l.bytes.length), t.stores.length)) = some ([(0x200, 8)], 0) := by decide +kernel

/-- R74: a load past the bounds traps, and the record has no handler queue to go to. -/
theorem test_bound : after (exec (.ldD ⟨false, 1, 4, 0, 0, false, 0, 0x2000⟩) small) (fun t => (t.slot 0).status == .idle) = some true := by
  decide +kernel

/-- R35, R151: the word at a slot's offset runs in its turn. -/
theorem test_step : after (step ((small).withFetchWord 64 0x03041000FFFFFFFF)) (fun t => (readReg t 0 1).bits.toNat) = some (2 ^ 64 - 1) := by
  decide +kernel

/-- R314: SHA3-256 of the empty string (FIPS 202). -/
theorem test_sha3 : sha3 [] = 0x4a43f8804b0ad882fa493be44dff80f562d661a05647c15166d71ebff8c6ffa7#256 := by decide +kernel

/-! ## Witnesses

For each statement, a state and operands that meet its hypotheses together, one for each clause. -/

/-- Two registers, then a popped element and an appended result. -/
theorem ready_registers : Ready small [1, 2] 3 [] small := ⟨rfl, rfl⟩
theorem ready_ports : Ready smallPorts [48, 2] 49 [testElem] smallPorts := ⟨rfl, rfl⟩
theorem ready_one : Ready small [9] 3 [] small := ⟨rfl, rfl⟩
theorem ready_three : Ready small [1, 2, 9] 3 [] small := ⟨rfl, rfl⟩

theorem witness_BinaryIntegerResults : Ready small [1, 2] 3 [] small ∧ Ready smallPorts [48, 2] 49 [testElem] smallPorts :=
  ⟨ready_registers, ready_ports⟩

theorem witness_UnaryIntegerResults : Ready small [9] 3 [] small := ready_one

theorem witness_ProductAndQuotientResults :
    Ready small [1, 2, 9] 3 [] small ∧ (Ready small [1, 2] 3 [] small ∧ srcInt small [1, 2] 1 ≠ 0) ∧
    (Ready small [6, 9] 3 [] small ∧ srcInt small [6, 9] 0 = 1 <<< 63 ∧ (srcInt small [6, 9] 1).toInt = -1) :=
  ⟨ready_three, ⟨ready_registers, by decide +kernel⟩, ⟨rfl, rfl⟩, by decide +kernel, by decide +kernel⟩

theorem witness_DivisionByZeroTraps : checkSrc small small.cur [1, 0] 2 = .ok () small ∧ srcInt small [1, 0] 1 = 0 := ⟨rfl, by decide +kernel⟩

theorem witness_SelectHashMoveResults : Ready small [1, 2, 9] 3 [] small ∧ Ready small [4] 3 [] small := ⟨ready_three, rfl, rfl⟩

theorem witness_ImmediateResults : Ready small [9] 3 [] small := ready_one

theorem witness_ConstantAndFieldResults :
    Ready small [] 3 [] small ∧ Ready small [3] 3 [] small ∧ (0xFFFFFFFF : Nat) < 2 ^ 32 ∧ Ready small [1, 3] 3 [] small ∧ 63 + 0 + 1 ≤ 64 :=
  ⟨⟨rfl, rfl⟩, ⟨rfl, rfl⟩, by decide, ⟨rfl, rfl⟩, by decide⟩

/-- A block of four words: a skip, two others and an `end`. -/
def skipping : State := withCode small [0x0600600000000001, 0x0904A00000000000, 0x0904A00000000000, 0x7800000000000000]

theorem witness_SkipResults :
    (okWith (skipRange skipping 2) (fun _ t => decide (t = skipping)) = true ∧ checkSrc skipping skipping.cur [1] 0 = .ok () skipping) ∧
    (okWith (blockDesc skipping) (fun d t => decide (d.2 ≤ (skipping.slot skipping.cur).ofs + 4) && decide (t = skipping)) = true) ∧
    okWith (blockDesc skipping) (fun d t => okWith (codeWords t d 1 3) fun ws _ => ws.any fun w => opOf w == 0x78) = true := by
  refine ⟨⟨?_, rfl⟩, ?_, ?_⟩ <;> decide +kernel

theorem witness_CapabilityMoveResults : Ready small [4, 9] 3 [] small ∧ Ready small [4] 3 [] small := ⟨⟨rfl, rfl⟩, rfl, rfl⟩

theorem witness_CapabilityBoundsResults : Ready small [4, 7] 3 [] small ∧ Ready small [4] 3 [] small ∧ (0xFFFFFFFF : Nat) < 2 ^ 32 :=
  ⟨⟨rfl, rfl⟩, ⟨rfl, rfl⟩, by decide⟩

theorem witness_CapabilityInspectionResults : Ready small [4] 3 [] small ∧ Ready small [4, 5] 3 [] small := ⟨⟨rfl, rfl⟩, rfl, rfl⟩

/-- The small part with a privileged thread. -/
theorem witness_SealingResults :
    (Ready (smallAt 1) [4, 10] 3 [] (smallAt 1) ∧ (srcInt (smallAt 1) [4, 10] 1).toNat = 2 ∧ ((smallAt 1).slot 0).prv ≠ 0) ∧
    (Ready (smallAt 1) [4, 11] 3 [] (smallAt 1) ∧ (srcInt (smallAt 1) [4, 11] 1).toNat = 63) ∧
    (checkSrc small 0 [4, 12] 3 = .ok () small ∧ (srcInt small [4, 12] 1).toNat < 2) ∧
    (checkSrc small 0 [4, 7] 3 = .ok () small ∧ 63 < (srcInt small [4, 7] 1).toNat) ∧
    checkSrc small 0 [4, 10] 3 = .ok () small ∧ (srcInt small [4, 10] 1).toNat = 2 ∧ (small.slot 0).prv = 0 ∧
      bitAt (small.part (partOf small 0)).tgrant 2 = false := by
  refine ⟨⟨⟨rfl, rfl⟩, ?_, ?_⟩, ⟨⟨rfl, rfl⟩, ?_⟩, ⟨rfl, ?_⟩, ⟨rfl, ?_⟩, rfl, ?_, ?_, ?_⟩ <;> decide +kernel

/-- Operands of a vector word: unmasked, and merging under a mask. -/
def vec3 (ty : Nat) : VecOp := ⟨false, 3, 1, 2, 9, ty, 0, false, false, 0⟩
def vec2 (ty : Nat) : VecOp := ⟨false, 3, 1, 2, 0, ty, 0, false, false, 0⟩
def vec1 (ty : Nat) : VecOp := ⟨false, 3, 1, 0, 0, ty, 0, false, false, 0⟩
def masked2 (ty : Nat) : VecOp := ⟨false, 3, 1, 2, 0, ty, 0, true, false, 12⟩

theorem witness_VectorArithmeticLanes :
    ((Instr.vadd (vec2 3)).wf = true ∧ Ready small (vecFields (vec2 3) 2) 3 [] small) ∧
    ((Instr.vadd (masked2 0)).wf = true ∧ Ready small (vecFields (masked2 0) 2) 3 [] small) ∧
    ((Instr.vsqrt (vec1 2)).wf = true ∧ Ready small (vecFields (vec1 2) 1) 3 [] small) ∧
    (Instr.vfma (vec3 1)).wf = true ∧ Ready small (vecFields (vec3 1) 3) 3 [] small :=
  ⟨⟨rfl, rfl, rfl⟩, ⟨rfl, rfl, rfl⟩, ⟨rfl, rfl, rfl⟩, rfl, rfl, rfl⟩

theorem witness_VectorBitLanes :
    ((Instr.vmin (vec2 10)).wf = true ∧ Ready small (vecFields (vec2 10) 2) 3 [] small) ∧
    ((Instr.vabs (vec1 3)).wf = true ∧ Ready small (vecFields (vec1 3) 1) 3 [] small) ∧
    ((Instr.vsel (vec3 0)).wf = true ∧ Ready small (vecFields (vec3 0) 3) 3 [] small) ∧
    ((Instr.vins (vec2 3)).wf = true ∧ Ready small [1, 2, 3] 3 [] small) ∧ (Instr.vext (vec2 6)).wf = true ∧ Ready small [1, 2] 3 [] small :=
  ⟨⟨rfl, rfl, rfl⟩, ⟨rfl, rfl, rfl⟩, ⟨rfl, rfl, rfl⟩, ⟨rfl, rfl, rfl⟩, rfl, ready_registers⟩

theorem witness_VectorComparisonResults : (Instr.vcmpLt (masked2 5)).wf = true ∧ Ready small (vecFields (masked2 5) 2) 3 [] small := ⟨rfl, rfl, rfl⟩

theorem witness_VectorReductionResults :
    ((Instr.vredsum (vec1 3)).wf = true ∧ Ready small (vecFields (vec1 3) 1) 3 [] small) ∧
    (let o : VecOp := ⟨false, 3, 1, 2, 9, 0, 0, true, false, 12⟩
     (Instr.vredargmax o).wf = true ∧ vecFields o 3 = [1, 2, 9, 12, 3] ∧ Ready small [1, 2, 9, 12, 3] 3 [] small) :=
  ⟨⟨rfl, rfl, rfl⟩, rfl, rfl, rfl, rfl⟩

theorem witness_VectorSpecialAndConversionResults :
    ((Instr.vexp2 (vec1 0)).wf = true ∧ Ready small (vecFields (vec1 0) 1) (vec1 0).d [] small) ∧
    ((Instr.vexp2 { vec1 0 with d := 49 }).wf = true ∧ Ready smallPorts [1] 49 [testElem] smallPorts) ∧
    ((Instr.vcvt ⟨false, 3, 1, 2, 1, 0, 0, true, false, 12⟩).wf = true ∧ Ready small [1, 2, 12, 3] 3 [] small) ∧
    (Instr.smerge (vec2 0)).wf = true ∧ Ready small [1, 2] 3 [] small :=
  ⟨⟨rfl, rfl, rfl⟩, ⟨rfl, rfl, rfl⟩, ⟨rfl, rfl, rfl⟩, rfl, ready_registers⟩

/-- A load and a store in the slice, a store to the device page, a sequentially consistent load once its fence is over, an atomic. -/
def ldSlice : MemOperand := ⟨false, 3, 4, 1, 3, false, 0, 0⟩
def stDev : MemOperand := ⟨false, 2, 5, 1, 3, false, 0, 8⟩
def ldSc : MemOperand := ⟨false, 3, 4, 0, 0, false, 3, 0⟩
def addDev : AmoOp := ⟨false, 3, 5, 2, 0, true, 1⟩
def fencedAt (k sc : Nat) : State := partWith { threadWith testRegs with fence := some ⟨k, sc, true, 0, [], [], if k = 1 then some [] else none⟩ }
def unfenced (s : State) : State := s.onSlot s.cur fun x => { x with fence := none }

theorem witness_AccessWordsSendOneAccess :
    (let a := loadOf ldSlice 3 8
     let v := fieldVal small 0 a.fs
     AccessReady small a.fs (a.op v) (a.ea v) (a.mask v) a.len a.need a.ord a.rx a.d small (.sram 0 0x1038) none) ∧
    (let a := storeOf stDev true 16
     let v := fieldVal small 0 a.fs
     AccessReady small a.fs (a.op v) (a.ea v) (a.mask v) a.len a.need a.ord a.rx a.d small (.dev 0x8040) (some testPage)) ∧
    (let s := fencedAt 1 4
     let a := loadOf ldSc 3 8
     let v := fieldVal s 0 a.fs
     AccessReady s a.fs (a.op v) (a.ea v) (a.mask v) a.len a.need a.ord a.rx a.d (unfenced s) (.sram 0 0x1000) none) ∧
    (let a := amoOf addDev 0
     let v := fieldVal small 0 a.fs
     AccessReady small a.fs (a.op v) (a.ea v) (a.mask v) a.len a.need a.ord a.rx a.d small (.dev 0x8000) (some testPage)) := by
  refine ⟨⟨rfl, ?_, ?_, ?_, rfl, rfl, rfl, rfl⟩, ⟨rfl, ?_, ?_, ?_, rfl, rfl, rfl, rfl⟩, ⟨rfl, ?_, ?_, ?_, rfl, rfl, rfl, rfl⟩,
    ⟨rfl, ?_, ?_, ?_, rfl, rfl, rfl, rfl⟩⟩ <;> decide +kernel

/-- The capability whose bounds are [0x1000, 0x2000). -/
def capDev (perm : Nat) : RegVal := capTo perm 0x1000 0x1000

theorem witness_AccessChecksTrapInOrder :
    (checkSrc small 0 [1, 0] 0 = .ok () small ∧ capCheck (fieldVal small 0 [1, 0] 0) 7 8 permR 8 = some .captag) ∧
    (checkSrc small 0 [4, 0] 0 = .ok () small ∧ capCheck (fieldVal small 0 [4, 0] 0) (inSlice 0x1000) 8 permR 8 = none ∧
      locate { small with clusters := [] } 0 (inSlice 0x1000) 8 1 = none) ∧
    (RegVal.zero).tag = false ∧ ({ capDev permR with bits := capBits 2 permR 0x2000 0x1000 0 0x1000 }).otype ≠ 0 ∧
    (capBounds (capDev permR) = some (0x1000, 0x2000) ∧ 0x2000 < 0x1FF9 + 8 ∧ 0x1FF8 + 8 ≤ 0x2000 ∧ 0xFFF < 0x1000) ∧
    hasPerm (capDev permR) permW = false ∧ hasPerm (capDev permR) permR = true ∧ placeOf (2 ^ 57 - 4) 8 = .bad ∧
    placeOf 0x1001 8 ≠ .bad ∧ 0x1001 % 8 ≠ 0 ∧ 0x1FF8 % 8 = 0 := by
  refine ⟨⟨rfl, ?_⟩, ⟨rfl, ?_, ?_⟩, ?_⟩ <;> decide +kernel

/-- A fence of slot 0 that has just begun, with the thread's accesses as `s` has them. -/
def fencing (s : State) (k sc : Nat) : State := s.onSlot 0 fun x => { x with fence := some ⟨k, sc, false, 0, [], [], none⟩ }

/-- A fence whose markers have been acknowledged. -/
def marked (s : State) (k sc : Nat) (l : Option (List (Nat × Nat))) : State :=
  s.onSlot 0 fun x => { x with fence := some ⟨k, sc, true, 0, [], [], l⟩ }

/-- The small part with an atomic of slot 0 on its way, and with an operation of the array. -/
def sending : State := { small with net := [newReq small 0 .plain (.amo 0 1 0) (inSlice 0x1000) 8 0 3] }
def computing : State := small.setCore 0 { Core.reset with queue := [entryOf small (.maccZ false 0) RegVal.zero RegVal.zero RegVal.zero RegVal.zero] }

theorem witness_FencesWaitForAccesses :
    (small.slot 0).fence = none ∧ fenceFirst small 0 ⟨0, 0, false, 0, [], [], none⟩ = true ∧
    (((fencing small 0 6).slot 0).fence = some ⟨0, 6, false, 0, [], [], none⟩ ∧ fenceMarkers (drainAll (fencing small 0 6) 0) ≠ []) ∧
    (((fencing sending 0 1).slot 0).fence = some ⟨0, 1, false, 0, [], [], none⟩ ∧ fenceFirst (fencing sending 0 1) 0 ⟨0, 1, false, 0, [], [], none⟩ = false) ∧
    (((fencing computing 2 0).slot 0).fence = some ⟨2, 0, false, 0, [], [], none⟩ ∧ fenceFirst (fencing computing 2 0) 0 ⟨2, 0, false, 0, [], [], none⟩ = false ∧
      fenceFirst (fencing small 2 0) 0 ⟨2, 0, false, 0, [], [], none⟩ = true) ∧
    (((marked small 0 1 none).slot 0).fence = some ⟨0, 1, true, 0, [], [], none⟩ ∧ fenceDrained (marked small 0 1 none) 0 ⟨0, 1, true, 0, [], [], none⟩ = true) ∧
    fenceDrained small 0 ⟨0, 1, true, 0, [(0, 0)], [], none⟩ = false ∧
    (((marked small 1 4 none).slot 0).fence = some ⟨1, 4, true, 0, [], [], none⟩ ∧ ∀ q ∈ ((marked small 1 4 none).slot 0).ports, q.2.fetched = []) ∧
    (((marked smallPorts 1 4 none).slot 0).fence = some ⟨1, 4, true, 0, [], [], none⟩ ∧ (((marked smallPorts 1 4 none).slot 0).port 48).dir = 1 ∧
      (((marked smallPorts 1 4 none).slot 0).port 48).fetched ≠ [] ∧
      (((marked smallPorts 1 4 none).slot 0).port 48).fetched.length ≤ (((marked smallPorts 1 4 none).slot 0).port 48).nextIn) ∧
    (((marked smallPorts 1 4 (some [(48, 1)])).slot 0).fence = some ⟨1, 4, true, 0, [], [], some [(48, 1)]⟩ ∧
      1 ≤ (((marked smallPorts 1 4 (some [(48, 1)])).slot 0).port 48).nextIn) ∧
    (((marked smallPorts 1 4 (some [(48, 2)])).slot 0).fence = some ⟨1, 4, true, 0, [], [], some [(48, 2)]⟩ ∧
      (((marked smallPorts 1 4 (some [(48, 2)])).slot 0).port 48).nextIn < 2 ∧
      ∀ e ∈ (((marked smallPorts 1 4 (some [(48, 2)])).slot 0).port 48).fetched, e.cause = none) := by
  refine ⟨?_, ?_, ⟨?_, ?_⟩, ⟨?_, ?_⟩, ⟨?_, ?_, ?_⟩, ⟨?_, ?_⟩, ?_, ⟨?_, ?_⟩, ⟨?_, ?_, ?_, ?_⟩, ⟨?_, ?_⟩, ?_, ?_, ?_⟩ <;> decide +kernel

/-- A capability to one byte whose address is its top, and one whose address is in range. -/
def capTop : RegVal := ⟨capBits 0 permR 0x2000 0x1000 0 0x2000, true, false⟩
def bitmaps : State :=
  partWith (threadWith (testRegs ++ [(20, RegVal.ofNat (2 ^ 20 - 1)), (21, capTop), (22, capTo permR 0x1000 0x8), (23, capTo permW 0x1000 0x8),
    (24, { capTop with tag := false }), (25, ⟨capBits 0 permW 0x2000 0x1000 0 0x2000, true, false⟩), (26, ⟨capBits 0 permR 0 0 57 0, true, false⟩)]))

theorem witness_BitmapWordsSearch :
    (checkSrc bitmaps 0 [4, 2] 0 = .ok () bitmaps ∧ (srcInt bitmaps [4, 2] 1).toNat < 2 ^ 20 ∧
      capCheck (fieldVal bitmaps 0 [4, 2] 0) (inSlice 0x1000) 1 permR 1 = none ∧
      (∀ q ∈ piecesOf 4096 (inSlice 0x1000) 1, locate bitmaps 0 q.1 q.2 1 ≠ none) ∧ hasRoom bitmaps 0 (clsOf (inSlice 0x1000) 0 false) = true ∧
      storeRoom bitmaps (newReq bitmaps 0 (clsOf (inSlice 0x1000) 0 false) (.rank 3 0 false) (inSlice 0x1000) 1 0 3) = .ok () bitmaps ∧
      locate (popAll bitmaps 0 [4, 2]) 0 (inSlice 0x1000) 1 1 = some (.at_ (.sram 0 0x1000) none)) ∧
    (checkSrc bitmaps 0 [22, 0] 0 = .ok () bitmaps ∧ capBounds (fieldVal bitmaps 0 [22, 0] 0) = some (0x1000, 0x1008) ∧
      capCheck (fieldVal bitmaps 0 [22, 0] 0) 0x1000 8 permR 1 = none ∧ (∀ q ∈ piecesOf 4096 0x1000 8, locate bitmaps 0 q.1 q.2 1 ≠ none) ∧
      hasRoom bitmaps 0 (clsOf 0x1000 0 false) = true ∧
      storeRoom bitmaps (newReq bitmaps 0 (clsOf 0x1000 0 false) (.selb 0 0 false) 0x1000 8 0 3) = .ok () bitmaps ∧
      locate (popAll bitmaps 0 [22, 0]) 0 0x1000 8 1 = some (.at_ (.dev 0x8000) (some testPage))) ∧
    (∃ q ∈ piecesOf 4096 (inSlice 0x1000) 1, locate { bitmaps with clusters := [] } 0 q.1 q.2 1 = none) ∧
    (checkSrc bitmaps 0 [21, 0] 0 = .ok () bitmaps ∧ capBounds capTop = some (0x1000, 0x2000) ∧ 0x2000 ≤ capTop.addr ∧ capTop.tag = true ∧
      capTop.otype = 0 ∧ hasPerm capTop permR = true ∧ (fieldVal bitmaps 0 [24, 0] 0).tag = false ∧
      hasPerm (fieldVal bitmaps 0 [25, 0] 0) permR = false ∧ capBounds (fieldVal bitmaps 0 [26, 0] 0) = none ∧
      checkSrc bitmaps 0 [26, 0] 0 = .ok () bitmaps) ∧
    ((srcInt bitmaps [22, 7] 1).toNat < 2 ^ 20 ∧ capCheck (fieldVal bitmaps 0 [22, 7] 0) 0x1000 9 permR 1 = some .capbound ∧
      capBounds (fieldVal bitmaps 0 [23, 0] 0) = some (0x1000, 0x1008) ∧
      capCheck (fieldVal bitmaps 0 [23, 0] 0) 0x1000 8 permR 1 = some .capperm) ∧
    (checkSrc bitmaps 0 [4, 6] 0 = .ok () bitmaps ∧ 2 ^ 20 ≤ (srcInt bitmaps [4, 6] 1).toNat ∧ (srcInt bitmaps [4, 20] 1).toNat + 1 = 2 ^ 20) ∧
    (∀ w ∈ [(5, 1), (2 ^ 63, 8)], w.1 < 2 ^ (8 * w.2) ∧ 0 < w.2) := by
  refine ⟨⟨rfl, ?_, ?_, ?_, ?_, rfl, rfl⟩, ⟨rfl, ?_, ?_, ?_, ?_, rfl, rfl⟩, ?_, ⟨rfl, ?_, ?_, ?_, ?_, ?_, ?_, ?_, ?_, rfl⟩, ⟨?_, ?_, ?_, ?_⟩,
    ⟨rfl, ?_, ?_⟩, ?_⟩ <;> decide +kernel

/-- A descriptor of three doublewords with stride 8. -/
def streamDesc : RegVal := ⟨BitVec.ofNat 128 (8 * 2 ^ 64 + 2 * 2 ^ 32 + 3), false, false⟩
def binding : State := partWith { threadWith (testRegs ++ [(20, streamDesc)]) with ports := portsOf }

theorem witness_StreamPortWords :
    (checkSrc binding 0 [4, 20] 0 = .ok () binding ∧ (fieldVal binding 0 [4, 20] 0).tag = true ∧ (fieldVal binding 0 [4, 20] 0).otype = 0 ∧
      hasPerm (fieldVal binding 0 [4, 20] 0) (permW ||| permGLB) = true ∧ descValid streamDesc.bits.toNat = true ∧
      inSlice 0x1000 % 8 = 0 ∧ placeBlock binding 50 = .ok () binding) ∧
    ((binding.slot 0).port 50).dir = 0 ∧ ((binding.slot 0).port 49).dir ≠ 0 ∧ placeBlock binding 49 = .ok () binding := by
  refine ⟨⟨rfl, ?_, ?_, ?_, ?_, ?_, rfl⟩, ?_, ?_, rfl⟩ <;> decide +kernel

/-- Blocks that begin with a `rep`: of an inline body, of a forbidden one, of one for the sequencer. -/
def repBody (w : Nat) : State := withCode small [0x0600000000000000, w, 0x7800000000000000]
def rep1 (a : Nat) : RepOp := ⟨false, a, 0, 0, 0⟩

/-- A thread at a word of a body of one word, in iteration `j` of seven. -/
def repeated (ofs j : Nat) : Slot := { Slot.reset with ofs := ofs, ctx := { Context.new with rep := ⟨true, false, 0, 7, j, 1, 0, 0⟩ } }

theorem witness_RepeatBegins :
    (okWith (blockDesc (repBody 0x0904A00000000000)) fun d u => decide (0 + 1 + 1 ≤ d.2) && decide (u = repBody 0x0904A00000000000)) = true ∧
    (okWith (codeWords (repBody 0x0904A00000000000) (16, 3) 1 1) fun ws _ => ws.all (fun w => !bodyForbidden w) && ws.any (fun w => !bodyDetached w)) = true ∧
    (okWith (codeWords (repBody 0x7800000000000000) (16, 3) 1 1) fun ws _ => ws.any bodyForbidden) = true ∧
    (∀ w ∈ [0x7000000000000000, 0x75008240020F0000], okWith (codeWords (repBody w) (16, 3) 1 1) (fun ws t =>
      ws.all (fun w => !bodyForbidden w && bodyDetached w) && decide ((t.core (coreOf t.cur)).seq = none) && !heldBack t t.cur
        && !acquiring t t.cur) = true) ∧
    (checkSrc (repBody 0) 0 [1] 0 = .ok () (repBody 0) ∧ (fieldVal small 0 [1] 0).int.toNat = 7) ∧
    (65535 < (fieldVal small 0 [9] 0).int.toNat ∧ (fieldVal small 0 [3] 0).int.toNat = 0) ∧
    ∀ y ∈ [repeated 1 0, repeated 1 6, repeated 0 0], y.ctx.rep.active = true ∧ y.ctx.rep.detached = false ∧ y.ctx.rep.count = 7 := by
  refine ⟨?_, ?_, ?_, ?_, ⟨rfl, ?_⟩, ⟨?_, ?_⟩, ?_⟩ <;> decide +kernel

/-- A core whose accumulators 0 and 1 and slots 0 to 6 slot 0 holds; the slots hold an A, a B of values, of narrow integers and of codes, a
slot of scales, a slot not `FULL`, and one in another orientation. The blocks of slots 2 and 3 carry their formats and scale 127. -/
def testCore : Core :=
  { Core.reset with
    holder := [(0, 0), (1, 0), (2, 0), (3, 0), (4, 0), (5, 0), (6, 0), (16, 0), (17, 0)]
    hdrs := [(0, makeHdr 0 true 1 2 3 31), (1, makeHdr 0 true 1 1 3 63), (2, makeHdr 0 true 1 0xA7 0 63), (3, makeHdr 0 true 1 0xC4 0 63),
             (4, makeHdr 0 true 1 0 0 2), (6, makeHdr 0 true 0 1 3 63)]
    opmem := (List.range 64).flatMap (fun i => [(16384 * 2 + 64 * i, 0xA7#8), (16384 * 2 + 64 * i + 1, 127#8)])
      ++ (List.range 64).flatMap fun i => [(16384 * 3 + 64 * i, 0xC4#8), (16384 * 3 + 64 * i + 1, 127#8)] }

def withCore (s : State) : State := { s with cores := [(0, testCore)] }

/-- Slots: a record in the slice at 0x2000 whose header names the thread's tenant and K 64, and operands of `macc.st` and `oload`. -/
def mats : State :=
  withCore (sramWrite (partWith (threadWith (testRegs ++
    [(20, capTo 0x7FF (inSlice 0x2000) 0x5000), (21, RegVal.zero), (22, RegVal.ofNat (0x100 + 31 * 2 ^ 40)), (23, RegVal.ofNat (2 ^ 8)),
     (24, RegVal.ofNat (1 + 16 * 2 ^ 10 + 2 ^ 16)), (25, RegVal.ofNat (993 + 2 ^ 16))]))) 0 0x2000 8 (64 * 2 ^ 25))

def matOp (a b : Nat) : MatOperand := ⟨false, 0, a, b, 20, 1, true⟩

theorem witness_ArrayWordsJoinTheQueue :
    ((namedBusy mats 0 0 (maskOf [16, 0, 1]) = false ∧ namedBusy mats 0 1 (2 ^ 1) = false) ∧
      (let z := RegVal.zero
       matChecks (mats.core 0) .mma (matOp 0 1) (entryOf mats (.mma (matOp 0 1)) z z z z) = none ∧
       matChecks (mats.core 0) .mmq (matOp 0 2) (entryOf mats (.mmq (matOp 0 2)) z z z z) = none ∧
       matChecks (mats.core 0) .mml (matOp 0 3) (entryOf mats (.mml (matOp 0 3)) z z z z) = none ∧
       hasRoom mats 0 .relaxed = true ∧ devClass (readReg mats 0 20).addr = false ∧
       okWith (mmdChecks mats (matOp 0 1) (entryOf mats (.mmd (matOp 0 1)) (readReg mats 0 20) (readReg mats 0 21) z z))
         (fun _ _ => true) = true)) ∧
    checkSrc mats 0 [20, 21] 0 = .ok () mats ∧
    (checkSrc mats 0 [20, 22] 0 = .ok () mats ∧
      okWith (maccStChecks mats (threadSender mats 0) 0 0 1 (fieldVal mats 0 [20, 22] 0) (fieldVal mats 0 [20, 22] 1))
        (fun _ _ => true) = true) ∧
    (mats.core 0).claims 0 16 = true ∧ mqfinChecks (mats.core 0) 0 1 4 1 = none := by
  refine ⟨⟨⟨?_, ?_⟩, ?_, ?_, ?_, ?_, ?_, ?_⟩, rfl, ⟨rfl, ?_⟩, ?_, ?_⟩ <;> decide +kernel

theorem witness_ArrayChecksTrapInOrder :
    slotChecks testCore 0 2 false [0] 1 = some .slot ∧ slotChecks testCore 0 0 false [5] 1 = some .slot ∧
    slotChecks testCore 0 0 false [7] 1 = some .slot ∧ slotChecks testCore 0 0 false [0, 6] 1 = some .swizzle ∧
    slotChecks { testCore with opPsn := [2048] } 0 0 false [0, 1] 1 = some .poison ∧
    slotChecks { testCore with accPsn := [4095] } 0 0 true [0, 1] 1 = some .poison ∧
    slotChecks testCore 0 0 true [0, 1] 1 = none ∧ matShape testCore .mma 0 4 = none ∧ slotChecks testCore 0 0 false [0, 4] 1 = none ∧
    namedBusy mats 0 0 (maskOf [16, 0, 6]) = false ∧ slotChecks (mats.core 0) 0 0 false [0, 6] 1 = some .swizzle ∧
    (mats.core 0).claims 0 18 = false := by
  refine ⟨?_, ?_, ?_, ?_, ?_, ?_, ?_, ?_, ?_, ?_, ?_, ?_⟩ <;> decide +kernel

/-- An operation at the head of the queue. -/
def queuedAt (op : Instr) : State := mats.setCore 0 { testCore with queue := [entryOf mats op RegVal.zero RegVal.zero RegVal.zero RegVal.zero] }

theorem witness_ArrayResults :
    (entryReady (queuedAt (.mma (matOp 0 1))) 0 0 = true ∧ matShape testCore .mma 0 1 = some (false, 64)) ∧
    (entryReady (queuedAt (.mmq (matOp 0 2))) 0 0 = true ∧ matShape testCore .mmq 0 2 = some (false, 62)) ∧
    (matShape { testCore with hdrs := ins (ins testCore.hdrs 2 (makeHdr 0 true 1 0xA7 0 31)) 3 (makeHdr 0 true 1 0xA7 0 63)
                              opmem := (List.range 64).flatMap (fun i => [(16384 * 2 + 64 * i, 0xA7#8), (16384 * 2 + 64 * i + 1, 127#8)])
                                ++ (List.range 64).flatMap fun i => [(16384 * 3 + 64 * i, 0xA7#8), (16384 * 3 + 64 * i + 1, 127#8)] }
       .mma 2 3 = some (true, 62)) ∧
    entryReady (queuedAt (.maccZ false 0)) 0 0 = true := by
  refine ⟨⟨?_, ?_⟩, ⟨?_, ?_⟩, ?_, ?_⟩ <;> decide +kernel

theorem witness_ClaimLoadStatusWords :
    (find (small.core (coreOf small.cur)).holder 15 = none ∧ find (mats.core 0).holder 0 = some mats.cur ∧
      find ((small.setCore 0 { Core.reset with holder := [(7, 5)] }).core 0).holder 7 = some 5 ∧ 5 ≠ small.cur) ∧
    (namedBusy mats 0 2 (2 ^ 17) = false ∧ (mats.core 0).claims 0 17 = true ∧ (mats.core 0).claims 0 23 = false) ∧
    (rising 0 testCore.hdrs = true ∧ rising 0 testCore.acc = true ∧ rising 0 testCore.accInt = true) ∧
    checkSrc mats 0 [20, 23] 0 = .ok () mats ∧ namedBusy mats 0 2 (2 ^ 5) = false ∧ hasRoom mats 0 .relaxed = true ∧
      okWith (oloadChecks mats (threadSender mats 0) 0 5 (readReg mats 0 20) (readReg mats 0 23).bits) (fun _ u => decide (u = mats)) = true := by
  refine ⟨⟨?_, ?_, ?_, ?_⟩, ⟨?_, ?_, ?_⟩, ⟨?_, ?_, ?_⟩, rfl, ?_, ?_, ?_⟩ <;> decide +kernel

theorem witness_RecordWordsIssue :
    (checkSrc mats 0 [20, 24] 0 = .ok () mats ∧
      (let n := (fieldVal mats 0 [20, 24] 1).bits.toNat
       1 ≤ n % 1024 ∧ n / 2 ^ 10 % 32 ≤ 16 ∧ n / 2 ^ 16 % 256 ≠ 0) ∧
      capCheck (readReg mats 0 20) (readReg mats 0 20).addr (0x20C0 + 128) permW 64 = none ∧ hasRoom mats 0 .relaxed = true ∧
      okWith (walkedFor mats (threadSender mats 0) 0 (inSlice 0x2000) 64 2 1 fun _ => 0)
        (fun _ u => decide (u = mats) && okWith (fed u 0 (inSlice 0x2000) 64) fun _ v => decide (v = mats)) = true ∧
      locate mats 0 (inSlice 0x2000) 64 2 = some (.at_ (.sram 0 0x2000) none)) ∧
    992 < (fieldVal mats 0 [20, 25] 1).bits.toNat % 1024 ∧
    capCheck (readReg mats 0 20) (readReg mats 0 20).addr 64 (permR ||| permW) 64 = none ∧
    (okWith (walked mats 0 (inSlice 0x2000) 64 3 1)
        (fun _ u => decide (u = mats) && okWith (fed u 0 (inSlice 0x2000) 64) fun _ v => decide (v = mats)) = true ∧
      locate mats 0 (inSlice 0x2000) 64 3 = some (.at_ (.sram 0 0x2000) none)) ∧
    checkSrc mats 0 [20] 0 = .ok () mats ∧ capCheck (readReg mats 0 20) (readReg mats 0 20).addr 16 permR 16 = none ∧
    storeRoom mats (newReq mats 0 (recordCls (readReg mats 0 20).addr) .rstat (readReg mats 0 20).addr 16 0 3) = .ok () mats ∧
    locate (popAll mats 0 [20]) 0 (inSlice 0x2000) 16 1 = some (.at_ (.sram 0 0x2000) none) := by
  refine ⟨⟨rfl, ?_, ?_, ?_, ?_, rfl⟩, ?_, ?_, ⟨?_, rfl⟩, rfl, ?_, rfl, rfl⟩ <;> decide +kernel

/-- A tile table with an entry of tenant 0 and one of tenant 9. -/
def tiles : State :=
  partWith (threadWith (testRegs ++ [(20, capTo 0x7FF (inSlice 0x2000) 0x1000), (21, RegVal.ofNat (3 + 15 * 2 ^ 12))]))
    |>.onCluster 0 fun c => { c with tiles := [(1, makeTile 0 3 15 0 63 128), (255, makeTile 9 0 0 0 0 0)] }

theorem witness_TileWords :
    (checkSrc tiles 0 [20, 21] 0 = .ok () tiles ∧
      tileRegion tiles 0 (fieldVal tiles 0 [20, 21] 0) (fieldVal tiles 0 [20, 21] 1).bits.toNat = .inr (0x2000, 0x1000)) ∧
    tileDef (tileOf tiles 0 0) = false ∧ (tileDef (tileOf tiles 0 1) = true ∧ tileTen (tileOf tiles 0 1) = (tiles.slot 0).ten ∧
      tileInFlight tiles 0 1 = false) ∧ tileDef (tileOf tiles 0 255) = true ∧ tileTen (tileOf tiles 0 255) ≠ (tiles.slot 0).ten := by
  refine ⟨⟨rfl, ?_⟩, ?_, ⟨?_, ?_, ?_⟩, ?_, ?_⟩ <;> decide +kernel

/-- A table in the device page, its lines in the match cache: two entries, of which the first takes every key with an action. -/
def tabled (actn next : Nat) : State :=
  let hdr := 2 + 2 * 2 ^ 11
  let s := partWith (threadWith (testRegs ++ [(20, RegVal.ofNat (2 ^ 96)), (21, RegVal.ofNat 1), (22, RegVal.ofNat (2 * 2 ^ 96))]))
  { s with
    clusters := [(0, { s.cluster 0 with
      launches := [(0, { testLaunch with ltdir := 0x1000 })], known := [(0x8040, 0, 0)]
      hdrLines := [⟨0x8040, 0, 0, 0, hdr, false⟩], lines := [⟨0x8040, 0, 1, 0, (2 ^ 28 + actn * 2 ^ 24 + next) * 2 ^ 192 + 77 * 2 ^ 128, false⟩] })]
    dev := { s.dev with bytes := [(0x8000, 0x41), (0x8001, 0x10), (0x8040, 2), (0x8041, 0x10)] } }

/-- An end that keys on one byte of register 1. -/
def endOp : EndOp := ⟨false, 0, ⟨1, 0, 1⟩, ⟨0, 0, 0⟩, ⟨0, 0, 0⟩, ⟨0, 0, 0⟩⟩

/-- The search of table 0 finds entry 0, and the state is then `p`. -/
def findsFirst (s : State) (key actn next : Nat) (p : State → Bool) : Bool :=
  okWith (searchTable s 0 key) fun f u => !f.psn && p u && match f.win with
    | some (i, e) => i == 0 && e.actn == actn && e.next == next && e.params == 77
    | none => false

theorem witness_EndActions :
    (owesResult (tabled 0 1) 0 = false ∧ (((tabled 0 1).slot 0).ctx.reg 1).psn = false ∧ buildKey (tabled 0 1) 0 [endOp.sel0] = 7) ∧
    findsFirst (tabled 0 1) 7 0 1 (fun u => !sequenced u u.cur) = true ∧ findsFirst (tabled 0 2) 7 0 2 (fun _ => true) = true ∧
    findsFirst (tabled 5 0) 7 5 0 (fun _ => true) = true ∧ findsFirst (tabled 4 0) 7 4 0 (fun _ => true) = true ∧
    (∀ act ∈ [1, 2, 3], findsFirst (tabled act 1) 7 act 1 (fun u => okWith (giveUp u) fun _ _ => true) = true) ∧
    okWith (searchTable { tabled 0 0 with clusters := [(0, { (tabled 0 0).cluster 0 with hdrLines := [⟨0x8040, 0, 0, 0, 2, false⟩] })] } 0 7)
      (fun f _ => !f.psn && f.win.isNone) = true := by
  refine ⟨⟨?_, ?_, ?_⟩, ?_, ?_, ?_, ?_, ?_, ?_⟩ <;> decide +kernel

theorem witness_MatchFindsTheFirstEntry :
    (cacheLine (tabled 0 1) 0x8040 0 1 0x1080 64 =
      .ok ⟨0x8040, 0, 1, 0, (2 ^ 28 + 1) * 2 ^ 192 + 77 * 2 ^ 128, false⟩ (tabled 0 1)) ∧
    checkSrc (tabled 0 1) 0 [1] 0 = .ok () (tabled 0 1) ∧ findsFirst (tabled 0 1) 7 0 1 (fun _ => true) = true := by
  refine ⟨rfl, rfl, ?_⟩
  decide +kernel

/-- The checks of a table word pass, and its table is the one at 0x1040. -/
def tablePasses (s : State) (fs : List Nat) (perm : Nat) (p : Nat → State → Bool) : Bool :=
  okWith (tableChecks s 0 (fieldVal s s.cur fs 0) perm) fun t u => match t with
    | some (va, hdr, h) => decide (va = 0x1040) && decide (hdr = 0x8040) && p h u
    | none => false

/-- What an operation on that table touches is translated and has no earlier access in its way, and its first byte is in the device page. -/
def tableLeaves (s : State) (op : MemOp) (h : Nat) : Bool :=
  let rs := touched op 0x1040 h
  okWith (eachRange (fun s a n => walked s s.cur a n (reqNeed op) 3) s rs) fun _ w =>
    okWith (eachRange (fun s a n => fed s s.cur a n) w rs) fun _ w =>
      match locate (rs.foldl (fun s q => drainRange s (threadSender s s.cur) s.cur q.1 q.2) w) 0 0x1040 8 (reqNeed op) with
      | some (.at_ t _) => decide (t = .dev 0x8040)
      | _ => false

/-- The same with a poisoned header. -/
def poisonedTable : State :=
  let s := tabled 0 0
  { s with dev := { s.dev with syn := [(0x8040 / 8, 0xFF)] } }

theorem witness_TableWordsIssue :
    (checkSrc (tabled 0 0) 0 [5, 2, 20] 0 = .ok () (tabled 0 0) ∧ checkSrc (tabled 0 0) 0 [5, 21] 0 = .ok () (tabled 0 0)) ∧
    tablePasses (tabled 0 0) [5, 2, 20] (permW ||| permTBL) (fun h u =>
      let n := (fieldVal u 0 [5, 2, 20] 2).bits
      decide (n.toNat / 2 ^ 96 % 256 < h / 2 % 256 + 1) && hasRoom u 0 .device && tableLeaves u (.tblWr 0x8040 0 n) h) = true ∧
    tablePasses (tabled 0 0) [5, 2, 22] (permW ||| permTBL)
      (fun h u => decide (h / 2 % 256 + 1 ≤ (fieldVal u 0 [5, 2, 22] 2).bits.toNat / 2 ^ 96 % 256) && hasRoom u 0 .device) = true ∧
    tablePasses (tabled 0 0) [5, 21] permR (fun h u => decide (1 < h / 2 % 256 + 1) && tableLeaves u (.tblRd 0x8040 1) h) = true ∧
    tablePasses (tabled 0 0) [5, 2] permR (fun h _ => decide (h / 2 % 256 + 1 ≤ 3)) = true ∧
    tablePasses (tabled 0 0) [5] (permW ||| permTBL) (fun h u => tableLeaves u (.tblSync 0x8040) h) = true ∧
    (∀ perm ∈ [permR, permW ||| permTBL],
      okWith (tableChecks poisonedTable 0 (fieldVal poisonedTable 0 [5] 0) perm) (fun t _ => t.isNone) = true) ∧
    (let s := (tabled 0 0).onSlot 0 fun x => { x with fence := some ⟨1, 4, true, 0, [], [], some []⟩ }
     checkSrc s 0 [5] 0 = .ok () s ∧ tablePasses s [5] (permW ||| permTBL) (fun h u => okWith (withFence 1 4 u) fun _ x =>
       tableLeaves x (.tblCommit 0x8040) h) = true) := by
  refine ⟨⟨rfl, rfl⟩, ?_, ?_, ?_, ?_, ?_, ?_, rfl, ?_⟩ <;> decide +kernel

/-- A thread that names a record by a continuation capability in register 20, and that spawns block 1 at its own home. -/
def tasks : State := partWith (threadWith (testRegs ++ [(20, contCap (some 0) 0x80), (21, RegVal.ofNat 1)]))

theorem witness_TaskWordsIssue :
    (checkSrc tasks 0 [21, 0, 20] 0 = .ok () tasks ∧ contCheck tasks 0 (readReg tasks 0 20) = .inr (0, 0x80) ∧
      placeOf (readReg tasks 0 20).addr 1 = .sram 0x3FFFF 0 0x80 ∧ spawnCheck tasks 0 1 = .inr 0 ∧
      okWith (taskDrain tasks) (fun _ u => hasRoom u u.cur .plain && !nacked u 0) = true) ∧
    checkSrc tasks 0 [20, 2] 0 = .ok () tasks ∧ hasRoom tasks 0 .plain = true ∧ nacked (popAll tasks 0 [20]) 0 = false := by
  refine ⟨⟨rfl, ?_, ?_, ?_, ?_⟩, rfl, ?_, ?_⟩ <;> decide +kernel

/-- A thread in a fence of a privilege. -/
def fencedPrv (prv : Nat) : State := partWith { threadWith testRegs with prv := prv, fence := some ⟨1, 4, true, 0, [], [], some []⟩ }

theorem witness_SpecialRegisterWords :
    ((small.slot 0).prv < 1 ∧ 2 ≤ ((smallAt 2).slot 0).prv ∧ checkSrc small 0 [2] 0 = .ok () small) ∧
    ((srcInt small [2] 0).toNat % 8 < 6 ∧ 6 ≤ (srcInt small [1] 0).toNat % 8) ∧
    (((smallAt 1).slot 0).prv ≠ 0 ∧ (small.slot 0).prv = 0 ∧ recPrio small 0 0x40 < (srcInt small [1] 0).toNat % 16 ∧
      (srcInt small [3] 0).toNat % 16 ≤ recPrio small 0 0x40) ∧
    checkSrc (fencedPrv 2) 0 [2] 0 = .ok () (fencedPrv 2) ∧ withFence 1 4 (fencedPrv 2) = .ok () (unfenced (fencedPrv 2)) := by
  refine ⟨⟨?_, ?_, rfl⟩, ⟨?_, ?_⟩, ⟨?_, ?_, ?_, ?_⟩, rfl, rfl⟩ <;> decide +kernel

/-- A privileged thread with descriptors of each kind of invalidation. -/
def invaliding (prv : Nat) : State :=
  partWith { threadWith (testRegs ++ [(20, RegVal.ofNat (2 ^ 56)), (21, RegVal.ofNat (2 * 2 ^ 56)), (22, RegVal.ofNat (3 * 2 ^ 56)),
                                      (23, capTo 0xFFF 0x1000 0x1000), (24, capTo 0xFFF (inSlice 0x300 + 2 ^ 52) 8)]) with prv := prv }

theorem witness_TranslationAndDiagnosticWords :
    (((invaliding 0).slot 0).prv < 1 ∧ ((invaliding 1).slot 0).prv < 2 ∧ 2 ≤ ((invaliding 2).slot 0).prv) ∧
    (checkSrc (invaliding 1) 0 [1, 22] 0 = .ok () (invaliding 1) ∧ (fieldVal (invaliding 1) 0 [1, 22] 1).bits.toNat / 2 ^ 56 % 4 = 3 ∧
      (fieldVal (invaliding 1) 0 [1, 21] 1).bits.toNat / 2 ^ 56 % 4 = 2 ∧ (fieldVal (invaliding 1) 0 [1, 20] 1).bits.toNat / 2 ^ 56 % 4 = 1 ∧
      ((invaliding 1).invals.filter fun v => v.slot == 0).length < 4) ∧
    (∃ v ∈ (invalidate (invaliding 1) { slot := 0, part := 1, lo := 0, hi := 2 ^ 57, asid := none, s2 := false, since := 0 }).invals, v.slot = 0) ∧
    (checkSrc (invaliding 2) 0 [23, 1, 2] 0 = .ok () (invaliding 2) ∧
      capCheck (fieldVal (invaliding 2) 0 [23, 1, 2] 0) 0x1000 8 (permW ||| permDIAG) 8 = none ∧
      hasRoom (invaliding 2) 0 (clsOf 0x1000 0 false) = true ∧ locate (invaliding 2) 0 0x1000 8 2 = some (.at_ (.dev 0x8000) (some testPage)) ∧
      locate (popAll (invaliding 2) 0 [23, 1, 2]) 0 0x1000 8 2 = some (.at_ (.dev 0x8000) (some testPage))) ∧
    checkSrc (invaliding 2) 0 [24, 1, 2] 0 = .ok () (invaliding 2) ∧
      capCheck (fieldVal (invaliding 2) 0 [24, 1, 2] 0) (inSlice 0x300 + 2 ^ 52) 8 (permW ||| permDIAG) 8 = none ∧
      ∃ cl o x, locate (invaliding 2) 0 (inSlice 0x300 + 2 ^ 52) 8 2 = some (.at_ (.ctl cl o) x) := by
  refine ⟨⟨?_, ?_, ?_⟩, ⟨rfl, ?_, ?_, ?_, ?_⟩, ⟨_, List.mem_singleton.mpr rfl, ?_⟩, ⟨rfl, ?_, ?_, rfl, rfl⟩, rfl, ?_, ⟨_, _, _, rfl⟩⟩ <;> decide +kernel

/-- A privileged thread of a cluster with a retry ring at 0x3000 of its slice, whose first entry is valid; registers 20 and 21 name the first
and the second entry. -/
def ringed : State :=
  sramWrite ((partWith { threadWith (testRegs ++ [(20, capTo 0x7FF (inSlice 0x3000) 64), (21, capTo 0x7FF (inSlice 0x3040) 64)]) with prv := 1 }).onCluster 0
    fun c => { c with retryq := 2 ^ 63 + 0x3000 }) 0 0x3000 8 (2 ^ 63)

theorem witness_RetryEntryWords :
    (small.slot 0).prv < 1 ∧ 1 ≤ (ringed.slot 0).prv ∧ checkSrc ringed 0 [20, 1, 2] 0 = .ok () ringed ∧ checkSrc ringed 0 [20, 1] 0 = .ok () ringed ∧
    okWith (entryAt ringed (readReg ringed 0 20)) (fun t u => decide (t = (.sram 0 0x3000, 0x3000)) && bitAt (sramRead u 0 0x3000 8) 63) = true ∧
    okWith (entryAt ringed (readReg ringed 0 21)) (fun t u => decide (t = (.sram 0 0x3040, 0x3040)) && !bitAt (sramRead u 0 0x3040 8) 63) = true := by
  refine ⟨?_, ?_, rfl, rfl, ?_, ?_⟩ <;> decide +kernel

theorem witness_TrapAndHalt :
    checkSrc small 0 [1] 0 = .ok () small ∧ owesResult small 0 = false ∧ okWith (giveUp small) (fun _ _ => true) = true := by
  refine ⟨rfl, ?_, ?_⟩ <;> decide +kernel

theorem witness_EngineWordsKick :
    ((small.slot 0).prv < 1 ∧ 0 ≤ (small.slot 0).prv ∧ checkSrc small 0 [4, 5] 0 = .ok () small) ∧
    (engCause (fieldVal small 0 [1, 5] 0) (some permR) = some .captag ∧ engCause (fieldVal small 0 [4, 1] 0) (some permR) = none ∧
      engCause (fieldVal small 0 [4, 1] 1) (some permW) = some .captag ∧
      engCause (capTo permR 0x1000 8) (some permW) = some .capperm ∧
      engCause (fieldVal small 0 [4, 5] 0) (some (permR ||| permLC)) = none ∧ engCause (fieldVal small 0 [4, 5] 1) (some permW) = none) ∧
    heldBack small 0 = false ∧ withFence 1 4 (fencedAt 1 4) = .ok () (unfenced (fencedAt 1 4)) ∧ heldBack (fencedAt 1 4) 0 = false := by
  refine ⟨⟨?_, ?_, rfl⟩, ⟨?_, ?_, ?_, ?_, ?_, ?_⟩, ?_, rfl, ?_⟩ <;> decide +kernel

/-- A kick of a function by slot 0, and the part in which an engine holds it. -/
def kickOf (fn : Nat) (a b : RegVal) : Kick := ⟨fn, a, b, 0, 0, 1, 0, 0, 0, 0, 0, 0, 3, 5, 0, 0⟩
def kicked (e : Nat) (k : Kick) : State := small.setEngine e { Engine.reset with kicks := [k] }

/-- An argument record in the slice at 0x1000: its source is the slice at 0x1800, tagged, and its length 16. -/
def argued (s : State) : State :=
  let s := sramWriteCap s 0 0x1000 (capTo 0x7FF (inSlice 0x1800) 64)
  sramWrite s 0 0x1028 8 16

/-- A command of the copy engine that its tiles have taken on. -/
def copyCmd (fn : Nat) (entered : Bool) : Cmd :=
  { kick := kickOf fn (capTo 0x7FF (inSlice 0x1000) 64) (capTo 0x7FF (inSlice 0x1900) 64), seq := 9, asrc := capTo 0x7FF (inSlice 0x1800) 64
    adone := RegVal.zero, actl := 0, ap0 := 16, ap1 := 0, entered := entered, moved := false, todo := [], fin := none, got := [] }
def commanded (fn : Nat) : State := small.setEngine 0 { Engine.reset with cmds := [copyCmd fn true] }

/-- The same when the first doubleword of its source is poisoned, in an armed cocoon, and a copy from a page that no TLB holds. -/
def poisonedSource : State :=
  { commanded 0 with
    sram := { (commanded 0).sram with syn := [(sramKey 0 0x1800 / 8, 0xFF)] }
    dies := [(0, { Die.reset with cocoons := [(0, 2 ^ 63 + 2 ^ 48)] })] }
def farCmd : Cmd := { copyCmd 0 true with asrc := capTo 0x7FF 0x5000 64 }
def farSource : State := small.setEngine 0 { Engine.reset with cmds := [farCmd] }

/-- A copy that has its bytes and writes them. -/
def writingCmd : Cmd := { copyCmd 0 true with todo := [(inSlice 0x1900, cleanBytes (List.replicate 16 7))], fin := some (0, 16, false) }
def writing : State := small.setEngine 0 { Engine.reset with cmds := [writingCmd] }

theorem witness_EngineCommandsBeginAndEnd :
    ((kicked 0 (kickOf 0x10 RegVal.zero RegVal.zero)).engine 0).kicks = [kickOf 0x10 RegVal.zero RegVal.zero] ∧
    (let k := kickOf 0 (capTo 0x7FF (inSlice 0x1000) 64) (capTo 0x7FF (inSlice 0x1900) 64)
     let s := argued (kicked 0 k)
     ((s.engine 0).cmds.length + (s.engine 0).layers.length < 32 ∧ rangeHeld s k.sender (k.a.addr, 64) = false) ∧ engWalking s 0 1 = false ∧ idOf 0 ≠ 4 ∧ idOf 0 ≠ 1 ∧
     (match readArg s k 64 with | (.ok n, u) => acceptRc u 0 (recordCmd u k n 0) n == 0 | _ => false) = true ∧
     (match readArg (kicked 0 k) k 64 with | (.ok n, u) => acceptRc u 0 (recordCmd u k n 0) n != 0 | _ => false) = true ∧
     (match readArg s { k with a := RegVal.zero } 64 with | (.fail, _) => true | _ => false) = true ∧
     idOf (gateOf 0) = 4 ∧ (match acceptGate s { k with a := RegVal.zero } 0 with | (.rc 2, _) => true | _ => false) = true) ∧
    (idOf 1 = 1 ∧ patValue (RegVal.ofNat (5 * 2 ^ 8)) = some (5 * 2 ^ 8) ∧ patValue (RegVal.ofNat (6 * 2 ^ 8)) = none) ∧
    (runningCmd (commanded 0) 0 = some (copyCmd 0 true) ∧ canRun (commanded 0) 0 = true ∧
      (match readMost (commanded 0) (copyCmd 0 true).kick.sender (piecesOf 64 (inSlice 0x1800) 16) with
        | (xs, .ok _, _) => xs.length == 16 && !anyPsn xs
        | _ => false) = true) ∧
    (runningCmd poisonedSource 0 = some (copyCmd 0 true) ∧ canRun poisonedSource 0 = true ∧
      (match readMost poisonedSource (copyCmd 0 true).kick.sender (piecesOf 64 (inSlice 0x1800) 16) with | (xs, _, u) => anyPsn xs && fences u 0) = true) ∧
    (runningCmd farSource 0 = some farCmd ∧ canRun farSource 0 = true ∧
      (match readMost farSource farCmd.kick.sender (piecesOf 64 0x5000 16) with | (xs, .miss va, _) => xs.isEmpty && va == 0x5000 | _ => false) = true) ∧
    (runningCmd (commanded 1) 0 = some (copyCmd 1 true) ∧ canRun (commanded 1) 0 = true ∧
      capBounds (copyCmd 1 true).kick.b = some (inSlice 0x1900, inSlice 0x1940)) ∧
    runningCmd writing 0 = some writingCmd ∧ canRun writing 0 = true ∧ missing writing writingCmd.kick.sender 2 [(inSlice 0x1900, 16)] = none ∧
      (writePiece writing writingCmd.kick.sender (0xFFF, 0) (inSlice 0x1900) (cleanBytes (List.replicate 16 7))).isSome = true := by
  refine ⟨?_, ⟨?_, ?_, ?_, ?_, ?_, ?_, ?_, ?_, ?_⟩, ⟨?_, ?_, ?_⟩, ⟨?_, ?_, ?_⟩, ⟨?_, ?_, ?_⟩, ⟨?_, ?_, ?_⟩,
    ⟨?_, ?_, ?_⟩, ?_, ?_, ?_, ?_⟩ <;> decide +kernel

/-- A layer of one expert at virtual cluster 0 in a stage. -/
def testLayer (stage : Nat) (failed : Bool) : Layer :=
  { cmd := copyCmd 0 true, cfg := 0, done := RegVal.zero, caps := [], exps := [⟨capTo 0x7FF (inSlice 0x1000) 64, 0, 1, 7⟩], stage := stage
    placed := [(0, 0, 0, 0, 0)], counts := [1], lost := [], ops := 0, left := 0, drain := [], failed := failed }

/-- A cluster with a record and an image free. -/
def pooled : State :=
  small.onCluster 0 fun c => { c with recPool := 2 ^ 63 + 2 * 2 ^ 6, ctxPool := 2 ^ 63 + 64 * 2 ^ 10 }
def layered (l : Layer) : State := pooled.setEngine (gateOf 0) { Engine.reset with layers := [l] }

/-- The same layer when its product has been created, and with an expert at a home that no cluster serves. -/
def spawnedLayer : Layer := { testLayer 2 false with ops := 1 }
def lostLayer : Layer := { testLayer 2 false with exps := [⟨capTo 0x7FF (inSlice 0x1000) 64, 5, 1, 7⟩] }

theorem witness_SwallowtailStages :
    (∀ st ∈ [0, 1, 3], topLayer (layered (testLayer st false)) 0 = some (testLayer st false) ∧
      layerIdle (layered (testLayer st false)) 0 (testLayer st false) = true) ∧
    (∀ l ∈ [spawnedLayer, testLayer 2 false, lostLayer], topLayer (layered l) 0 = some l ∧ l.failed = false ∧ l.stage = 2) ∧
    ((List.range (cfgE 0)).filter fun e => (testLayer 2 false).counts.getD e 0 != 0) = [0] ∧
    ((match spawnProduct (layered (testLayer 2 false)) 0 (testLayer 2 false) 0 with | some (.inl _) => true | _ => false) = true ∧
      (match spawnProduct (layered lostLayer) 0 lostLayer 0 with | some (.inr _) => true | _ => false) = true ∧
      (spawnProduct (small.setEngine (gateOf 0) { Engine.reset with layers := [testLayer 2 false] }) 0 (testLayer 2 false) 0).isNone = true) ∧
    (reach (layered (testLayer 2 false)) 0 1 0 = some 0 ∧ nacked (layered (testLayer 2 false)) 0 = false ∧ owned (layered (testLayer 2 false)) 0 = true ∧
      heldAt (layered (testLayer 2 false)) 1 0 0 = false ∧ noPair (layered (testLayer 2 false)) 0 false = false ∧
      (newConts (layered (testLayer 2 false)) 0 (productRec (layered (testLayer 2 false)) (testLayer 2 false) 0)).isSome = true) ∧
    topLayer (layered (testLayer 1 true)) 0 = some (testLayer 1 true) ∧ (testLayer 1 true).left = 0 ∧
    rangeHeld (layered (testLayer 1 true)) (testLayer 1 true).cmd.kick.sender (((testLayer 1 true).caps.getD 7 RegVal.zero).addr, 8) = false := by
  refine ⟨?_, ?_, ?_, ⟨?_, ?_, ?_⟩, ⟨?_, ?_, ?_, ?_, ?_, ?_⟩, ?_, ?_, ?_⟩ <;> decide +kernel

/-- A packet for tenant 0 whose completion object, code object and homes are usable. -/
def testPacket (data : Nat) : Packet := { queue := 0, qword := 2 ^ 63 + 0x2000, data := data, tCode := true, tSimg := false, tDone := true, failed := false }

/-- The bytes of a packet: `LCTL`, `LCODE`, `LDONE`, `LSHAPE`. -/
def packetData (ctl : Nat) (perm : Nat) : Nat :=
  ctl + (capTo (permR + permX + permGLB) (inSlice 0x100000) 0x1000).bits.toNat * 2 ^ 256 + (capTo perm (inSlice 0x1000) 64).bits.toNat * 2 ^ 512

/-- The permissions of a completion object. -/
def donePerm : Nat := permW + permFE + permGLB

/-- A cluster with a queue whose head slot is full, and the same with its packet in hand. -/
def queuedPart (data : Nat) : State :=
  setWordFull (sramWrite (withCode (pooled.onCluster 0 fun c => { c with queues := [(0, 2 ^ 63 + 0x2000)], launches := [] }) [0x7800000000000000])
    0 0x2000 128 data) 0 0x2000 true

theorem witness_LaunchesAreAcceptedOrRefused :
    (let s := queuedPart (packetData 1 donePerm)
     acceptReady s 0 0 = true ∧ (s.cluster 0).packet = none ∧ s.sram.wf = true ∧
      acceptReady (s.onCluster 0 fun c => { c with packet := some (testPacket (packetData 1 donePerm)) }) 0 0 = true) ∧
    (let s := queuedPart 0
     doneUsable s 0 1 (testPacket (packetData 1 permW)).done = false ∧ doneUsable s 0 1 (testPacket (packetData 1 donePerm)).done = true ∧
     packetBad s 0 1 (testPacket (packetData 0 donePerm)) = true ∧ packetBad s 0 1 (testPacket (packetData 1 donePerm)) = false ∧
     (testPacket (packetData (1 + 5 * 2 ^ 28) donePerm)).ctl / 2 ^ 28 % 2 ^ 8 ≠ look 0 (s.cluster 0).queues 0 / 2 ^ 34 % 2 ^ 8 ∧
     (match readCode s (schedSender s 0 (look 0 (s.cluster 0).queues 0) 0) (testPacket (packetData 1 donePerm)) with
       | (.ok b ss, u) => b == 1 && ss.isEmpty && decide (u.clusters = s.clusters)
       | _ => false) = true ∧
     (match readCode s (schedSender s 0 (look 0 (s.cluster 0).queues 0) 0) { testPacket (packetData 1 donePerm) with tCode := false } with
       | (.bad, _) => true
       | _ => false) = true ∧
     (List.range 64).find? (fun k => (s.launch 0 k).isNone) = some 0 ∧
     (testPacket (packetData (1 + 2 ^ 14) donePerm)).ctl.testBit 14 = true ∧ usedHomes 0 0 = [0] ∧ vcMap s 0 1 0 = some 0 ∧
     bitAt (s.cluster 0).pairW 63 = false) := by
  refine ⟨⟨?_, ?_, ?_, ?_⟩, ?_, ?_, ?_, ?_, ?_, ?_, ?_, ?_, ?_, ?_, ?_, ?_⟩ <;> decide +kernel

/-- A record in the run list of cluster 0, and a launch that still creates. -/
def running : State :=
  pooled.onCluster 0 fun c => { c with run := [0x100], launches := [(0, { testLaunch with next := some 0, live := 1 })] }

/-- The record of a successor, for virtual cluster 0. -/
def recAt (state cnt : Nat) : State := setRec (setRec pooled 0 0x80 0 40 4 state) 0 0x80 1 0 16 cnt

theorem witness_ContinuationsComeAndGo :
    (pooled.sram.wf = true ∧ running.sram.wf = true) ∧
    (freeRecord (pooled.cluster 0) = some 0x80 ∧ freeImage (pooled.cluster 0) = some 0x10000 ∧ 0x80 ∉ (pooled.cluster 0).run) ∧
    (running.launch 0 0 = some { testLaunch with next := some 0, live := 1 } ∧ reach running 0 1 (homeOf 0 0) = some 0 ∧
      nacked running 0 = false ∧ owned running 0 = true ∧ ownerOf running 0 = 1 ∧
      (newConts running 0 (newCont { testLaunch with next := some 0 } 0 0 0)).isSome = true ∧
      reach running 0 1 (homeOf (2 * 2 ^ 45) 0) = none ∧ noPair running 0 true = true ∧ noPair running 0 false = false) ∧
    (bitAt (running.cluster 0).hand0 63 = false ∧
      (running.cluster 0).run.find? (fun o => !(running.cluster 0).heldSet.contains (recDw running 0 o 1 / 2 ^ 16 % 2 ^ 12)) = some 0x100 ∧
      idleOf running 0 = some 1) ∧
    (let s := { pooled with reports := [⟨0, 0, 0, some (0, 1)⟩, ⟨0, 0, 3, none⟩] }
     (s.reports.filter fun r => r.kind != 3)[0]? = some ⟨0, 0, 0, some (0, 1)⟩ ∧ (s.reports.filter fun r => r.kind == 3)[0]? = some ⟨0, 0, 3, none⟩ ∧
     s.launch 0 0 = some testLaunch ∧ storesDone s (some (0, 1)) = true ∧ fillHeld s 0 1 testLaunch.ldone = false) ∧
    (testLaunch.live ≠ 0 ∧ testLaunch.next = none ∧ ({ testLaunch with live := 0 } : Launch).live = 0) ∧
    (({ pooled with decs := [⟨1, 0, 0x80, 0, none⟩] } : State).decs[0]? = some ⟨1, 0, 0x80, 0, none⟩ ∧ heldAt pooled 1 noSlot 0 = false ∧
      bitAt (pooled.cluster 0).hand0 63 = false) ∧
    (recState (recAt 0 0) 0 0x80 = 0 ∧ recState (recAt 3 0) 0 0x80 = 3 ∧ recCnt (recAt 3 0) 0 0x80 = 0 ∧ recCnt (recAt 3 1) 0 0x80 = 1 ∧
      recCnt (recAt 3 65535) 0 0x80 = 65535) := by
  refine ⟨⟨?_, ?_⟩, ⟨?_, ?_, ?_⟩, ⟨?_, ?_, ?_, ?_, ?_, ?_, ?_, ?_, ?_⟩, ⟨?_, ?_, ?_⟩, ⟨?_, ?_, ?_, ?_, ?_⟩, ⟨?_, ?_, ?_⟩, ⟨?_, ?_, ?_⟩, ?_, ?_, ?_, ?_, ?_⟩ <;> decide +kernel

/-- A thread that has trapped, in a partition whose trap queue is valid or not, and a trapped record that waits for its entry. -/
def trapping (q : Nat) : State :=
  (partWith { threadWith testRegs with trap := some ⟨.illegal, 4, false, false, 0, 0, 7⟩ }).setPart 1
    { Partition.reset with trapq := q, trapped := [⟨0, 0x40, 2 ^ 63, 9, none⟩] }
/-- A valid trap queue at 0x4000 of virtual cluster 0. -/
def trapQ : Nat := 2 ^ 63 + 0x4000

/-- A drained line of one byte, and its parity difference. -/
def drained : DevStore := { id := 0, die := 0, slot := 0, thr := 0x40, line := 512, ten := 0, bytes := [(63, 9)], tags := 0, grd := [] }
def difference : ParityDiff := { id := 0, slot := 0, die := 0, pa := 0x8000, bytes := [(63, 9)], poor := false }

/-- A request at its bank, alone in flight. -/
def request (op : MemOp) (tgt : Target) (ea len : Nat) : Request :=
  { id := 1, slot := 0, thr := 0x40, ten := 0, cls := .plain, op := op, ea := ea, len := len, tgt := tgt, phase := .sent, ofs := 0, rep := Rep.none, ord := 0, dst := 3
    fault := 0, ia := 0, own := [], otag := none, grd := [], noTlb := false, since := 0, pages := [], touch := [], kept := false
    pops := [], flags := 0 }
def inFlight (s : State) (r : Request) : State := { s with net := [r], nextId := 2 }

theorem atBank (s : State) (r : Request) (cl ofs : Nat) (h1 : sentReq s 1 = some r) (hp : r.phase = .sent) (h2 : r.tgt = .sram cl ofs) (h3 : atHandover s r = false)
    (h4 : nacked s cl = false) (h5 : foreignQueue s (partOf s r.slot) cl ofs r.len = none)
    (h6 : ∀ w ∈ wordsOf (sramKey cl ofs) r.len, look 0 s.sram.syn w = 0) : AtBank s 1 r cl ofs :=
  ⟨h1, hp, h2, ⟨h3, h4⟩, fun _ => h5, h6⟩

theorem witness_TrapsAreDeliveredAndReturnedFrom :
    ((∀ q ∈ [0, trapQ], ((trapping q).slot 0).trap = some ⟨.illegal, 4, false, false, 0, 0, 7⟩ ∧ quiet (trapping q) 0 = true ∧
        holdsAny (trapping q) 0 = false ∧ ((trapping q).slot 0).ports = [] ∧
        ((trapping q).part 1).trapped = [⟨0, 0x40, 2 ^ 63, 9, none⟩]) ∧
      trapQueue (trapping 0) 0 1 = none ∧ trapQueue (trapping trapQ) 0 1 = some 0 ∧ sramFull (trapping trapQ) 0 0x4000 = false ∧
      sramFull (setWordFull (trapping trapQ) 0 0x4000 true) 0 0x4000 = true ∧ storesDone (trapping trapQ) none = true ∧
      storesDone { trapping trapQ with stores := [drained] } (some (0x40, 1)) = false) ∧
    (∀ op ∈ [MemOp.dec 1, .tget, .tset 0], ∀ st ∈ [0, 1, 3, 4],
      let r := request op (.sram 0 0x80) (inSlice 0x80) 64
      AtBank (inFlight (recAt st 1) r) 1 r 0 0x80 ∧ recState (recAt st 1) 0 0x80 = st) ∧
    (let r := request (.spawn 1 0 none) (.sram 0 0x80) (inSlice 0x80) 64
     owned (inFlight pooled r) 0 = true ∧ (spawnAt (inFlight pooled r) 0 0 1 0 none).isSome = true) ∧
    (heldAt (trapping trapQ) 1 0 0 = false ∧ (trapping trapQ).sram.wf = true ∧ (recAt 4 1).sram.wf = true) ∧
    (recAt 4 1).slot 0 = small.slot 0 ∧ ∀ o ∈ ((recAt 4 1).cluster 0).run, o % 64 = 0 := by
  refine ⟨⟨?_, ?_, ?_, ?_, ?_, ?_, ?_⟩, ?_, ⟨?_, ?_⟩, ⟨?_, ?_, ?_⟩, ?_, ?_⟩
  · decide +kernel
  · decide +kernel
  · decide +kernel
  · decide +kernel
  · decide +kernel
  · decide +kernel
  · decide +kernel
  · intro op hop st hst
    fin_cases hop <;> fin_cases hst <;> exact ⟨atBank _ _ _ _ rfl rfl rfl (by decide +kernel) (by decide +kernel) (by decide +kernel) (by decide +kernel), by decide +kernel⟩
  all_goals decide +kernel

/-- A full word at 0x1000 of the slice, with a value. -/
def fullWord : State := fillWord small 0 0x1000 5

theorem witness_SramAccessResults :
    (∀ r ∈ [request (.ld 5 true) (.sram 0 0x1000) 0 16, request (.st 9 none) (.sram 0 0x1000) 0 8, request (.st 9 (some true)) (.sram 0 0x1000) 0 16,
            request (.amo 10 0 0) (.sram 0 0x1000) 0 4, request (.fe 0 0) (.sram 0 0x1000) 0 8, request (.fe 6 0) (.sram 0 0x1000) 0 8],
      AtBank (inFlight fullWord r) 1 r 0 0x1000) ∧
    (fullWord.sram.wf = true ∧ sramFull fullWord 0 0x1000 = true ∧ sramFull small 0 0x1000 = false ∧ clusterOf 0 = 0) ∧
    (AtBank (inFlight small (request (.fe 0 0) (.sram 0 0x1000) 0 8)) 1 (request (.fe 0 0) (.sram 0 0x1000) 0 8) 0 0x1000 ∧
      alone (inFlight small (request (.fe 0 0) (.sram 0 0x1000) 0 8)) (request (.fe 0 0) (.sram 0 0x1000) 0 8) = true ∧
      (let s := { inFlight small (request (.fe 0 0) (.sram 0 0x1000) 0 8) with net := [request (.fe 0 0) (.sram 0 0x1000) 0 8, newReq small 0 .plain (.amo 0 1 0) (inSlice 0x2000) 8 0 4] }
       alone s (request (.fe 0 0) (.sram 0 0x1000) 0 8) = false)) ∧
    (let special : Result := ⟨3, RegVal.zero, 1, none, 0, some 5⟩
     let s := small.onSlot 0 fun x => { x with results := [special, ⟨0, RegVal.zero, 0, some .plain, 4, none⟩] }
     ((s.slot 0).results[0]? = some special ∧ (s.slot 0).results[1]? = some ⟨0, RegVal.zero, 0, some .plain, 4, none⟩) ∧
     ¬(special.cls = none ∧ special.rid ≠ 0) ∧ special.dst ≠ 0 ∧ s.net = [] ∧ s.commits = [] ∧
     ∃ q ∈ ({ s with net := [newReq small 0 .plain (.ld 3 false) (inSlice 0x2000) 8 0 3] } : State).net, q.slot = 0 ∧ q.id < 5 ∧
       q.op.returns = true ∧ q.dst = special.dst) ∧
    ((small.onCluster 0 fun c => { c with rechecks := [(0x1000, 9)] }).cluster 0).rechecks = [(0x1000, 9)] ∧
    ((let r := { request (.fe 0 0) (.sram 0 0x1000) 0 8 with phase := .word }
      r.phase = .word ∧ (small.slot 0).recheck ≤ (small.slot 0).ctx.felim) ∧
     sramFull fullWord 0 0x1000 = true ∧ sramFull small 0 0x1000 = false) ∧
    (let r := { request (.fe 0 0) (.sram 0 0x1000) 0 8 with phase := .word }
     let s := (inFlight small r).onSlot 0 fun x => { x with recheck := 4097 }
     s.net.find? (fun r => r.id == 1 && pastLimit s r) = some r) ∧
    (let r := { request (.fe 0 0) (.sram 0 0x1000) 0 8 with phase := .noEntry }
     heldAccess (inFlight small r) 0 = some r ∧ (waiters (inFlight small r) 0).length < 1024) := by
  refine ⟨?_, ⟨?_, ?_, ?_, ?_⟩, ⟨?_, ?_, ?_⟩, ⟨⟨?_, ?_⟩, ?_, ?_, ?_, ?_, ?_⟩, ?_, ⟨⟨?_, ?_⟩, ?_, ?_⟩, ?_, ?_, ?_⟩
  · intro r hr
    fin_cases hr <;> exact atBank _ _ _ _ rfl rfl rfl (by decide +kernel) (by decide +kernel) (by decide +kernel) (by decide +kernel)
  case refine_6 => exact atBank _ _ _ _ rfl rfl rfl (by decide +kernel) (by decide +kernel) (by decide +kernel) (by decide +kernel)
  all_goals decide +kernel

/-- A word of which a code says that it cannot correct it: which those are is `Config.flipOf`, which is open. -/
def badWord (v : BitVec 8) : State := { small with rebuilds := [4096], dev := { small.dev with syn := [(4096, v)] } }

theorem badWord_wf (v : BitVec 8) (hv : v ≠ 0) : (badWord v).dev.wf = true :=
  (Store.wf_iff _).mpr ⟨rfl, rfl, rfl, by simpa [badWord, canonical, rising] using hv⟩

theorem witness_DeviceAccessResults :
    (∀ r ∈ [request (.ld 5 true) (.dev 0x8000) 0x1000 16, request (.amo 0 1 0) (.dev 0x8038) 0x1038 8],
      ∃ pa, AtDie (inFlight small r) 1 r pa ∧ 0 < r.len ∧ r.len ≤ 16 ∧ pa % 64 + r.len ≤ 64 ∧ small.dev.wf = true ∧ r.ten ≠ noTenant ∧
        look 0 small.keys r.ten ≠ 0 ∧ small.stale.contains (stripeOf pa) = false ∧ canonical 0 small.lineKey = true) ∧
    (let s := { small with stores := [drained], lineKey := [(512, 1)] }
     s.stores[0]? = some drained ∧ (storeReady s drained = true ∧ drained.grd = [] ∧ toPeer drained.line = false) ∧ s.dev.wf = true ∧
       canonical 0 s.lineKey = true ∧ rising 0 drained.bytes = true ∧ (∀ kb ∈ drained.bytes, kb.1 < 64) ∧ look 0 s.keys drained.ten ≠ 0 ∧
       LineClean s drained.line) ∧
    (let s := { small with diffs := [difference] }
     s.diffs[0]? = some difference ∧ canonical 0 s.parity = true ∧ canonical 0 s.parSyn = true ∧ rising 0 difference.bytes = true ∧
     (∀ kb ∈ difference.bytes, synKind (look 0 s.parSyn ((localAddr difference.pa + kb.1) / 8)) ≠ .bad) ∧
     ({ difference with poor := true } : ParityDiff).poor = true) ∧
    (let s := { small with rebuilds := [4096], stale := [stripeOf (8 * 4096)] }
     s.rebuilds[0]? = some 4096 ∧ s.stale.contains (stripeOf (8 * 4096)) = true) ∧
    (∀ v, synKind v = .bad → (badWord v).rebuilds[0]? = some 4096 ∧ (badWord v).stale.contains (stripeOf (8 * 4096)) = false ∧
      (badWord v).lost.contains (dataStack (8 * 4096)) = false ∧ synKind (look 0 (badWord v).dev.syn 4096) = .bad ∧ (badWord v).dev.wf = true ∧
      canonical 0 (badWord v).parity = true ∧ canonical 0 (badWord v).parSyn = true) ∧
    (let s := { small with stale := [7] }
     s.stale[0]? = some 7 ∧ s.diffs = [] ∧ s.dev.wf = true ∧ canonical 0 s.parity = true ∧ canonical 0 s.parSyn = true ∧
     ∀ i < 960, synKind (look 0 s.dev.syn (7 * 960 + i)) ≠ .bad ∧ s.lost.contains (dataStack (8 * (7 * 960 + i))) = false) := by
  refine ⟨?_, ⟨?_, ?_, ?_, ?_, ?_, ?_, ?_, ?_⟩, ⟨?_, ?_, ?_, ?_, ?_, ?_⟩, ⟨?_, ?_⟩, fun v hv => ⟨rfl, rfl, rfl, hv, badWord_wf v ?_, rfl, rfl⟩, ?_, ?_, ?_, ?_, ?_, ?_⟩
  · intro r hr
    fin_cases hr
    · exact ⟨0x8000, ⟨rfl, rfl, rfl, by unfold LineClean; decide +kernel, by decide +kernel, rfl⟩, by decide +kernel⟩
    · exact ⟨0x8038, ⟨rfl, rfl, rfl, by unfold LineClean; decide +kernel, by decide +kernel, rfl⟩, by decide +kernel⟩
  case refine_18 => rintro rfl; exact absurd hv (by decide +kernel)
  case refine_9 => unfold LineClean; decide +kernel
  all_goals decide +kernel

/-- A commit that one cluster has still to apply, behind one that it has not. -/
def committing (todo : List Nat) : Commit := ⟨0x8040, 0, 0, 1, 3, 7, 0, todo⟩
def committed (cs : List Commit) : State := { small with commits := cs }

theorem witness_MarkersSweepsAndInvalidations :
    (let f : FenceWait := ⟨1, 4, true, 0, [(0, 15)], [], none⟩
     let s := partWith { threadWith testRegs with fence := some f }
     (s.slot 0).fence = some f ∧ (0, 15) ∈ f.markers ∧ markerReady s (dieOf (clusterOf 0)) f.since 0 15 = true) ∧
    ((request (.mts 0x105 0) (.dev 0) 0 8).op = .mts 0x105 0) ∧
    ((committed [committing [0], committing [0]]).commits[1]? = some (committing [0]) ∧ (committing [0]).todo[1 / 2]? = some 0 ∧
      (∃ d ∈ (committed [committing [0], committing [0]]).commits.take 1, 0 ∈ d.todo) ∧
      (∀ d ∈ (committed [committing [0]]).commits.take 0, 0 ∉ d.todo) ∧
      (committed [committing []]).commits[0]? = some (committing []) ∧
      (¬∃ gx ∈ (committed [committing []]).slots, ∃ v b, gx.2.pin = some ((committing []).hdr, v, b) ∧ v ≠ (committing []).ver) ∧
      ∃ gx ∈ ((committed [committing []]).onSlot 0 fun x => { x with pin := some (0x8040, 6, 0) }).slots, gx.2.pin = some (0x8040, 6, 0)) ∧
    (let v : Inval := ⟨0, 1, 0, 4096, none, false, 2⟩
     (({ small with invals := [v] } : State).invals[0]? = some v ∧ small.net = [] ∧ small.stores = [] ∧ small.diffs = [] ∧ small.commits = [] ∧ small.walks = []) ∧
     (∃ c ∈ (committed [committing []]).commits, partOf small c.slot = v.part ∧ c.rid < v.since) ∧
     ({ v with hi := 8192 } : Inval).covers testPage = true) ∧
    (let s := small.onSlot 0 fun x => { x with status := .parked (.table 0x8040 0x1040) }
     walking s 0 = false ∧ (s.slot 0).status = .parked (.table 0x8040 0x1040) ∧ find (s.cluster 0).known 0x8040 = none ∧
      (match readSpan s { threadSender s 0 with own := false } 0x1040 64 with | (.ok _, _) => true | _ => false) = true) ∧
    (let s := small.onSlot 0 fun x => { x with status := .parked (.tableLine 0x8040 0 1 0 0x1080 64) }
     (s.slot 0).status = .parked (.tableLine 0x8040 0 1 0 0x1080 64) ∧ (s.cluster 0).lines = [] ∧
      (match readSpan s { threadSender s 0 with own := false } 0x1080 64 with | (.ok _, _) => true | _ => false) = true) := by
  refine ⟨⟨?_, ?_, ?_⟩, ?_, ⟨?_, ?_, ?_, ?_, ?_, ?_, ?_⟩, ⟨⟨?_, ?_, ?_, ?_, ?_, ?_⟩, ?_, ?_⟩, ⟨?_, ?_, ?_, ?_⟩, ?_, ?_, ?_⟩
  case refine_10 =>
    rintro ⟨gx, hg, v, b, h, -⟩
    rw [show (committed [committing []]).slots = [(0, threadWith testRegs)] from rfl, List.mem_singleton] at hg
    subst hg
    exact nomatch (show (none : Option (Nat × Nat × Nat)) = some (0x8040, v, b) from h)
  case refine_11 => exact ⟨_, List.mem_singleton.mpr rfl, rfl⟩
  all_goals first | rfl | decide +kernel

/-- Tables of both stages that map the first GiB to itself: stage 2 at 0x10000, stage 1 at 0x20000. -/
def paged : State :=
  { small.setPart 1 { Partition.reset with s1root := 0x20000, s2root := 0x10000 } with
    dev := { small.dev with
      bytes := [(0x10000, 0x03), (0x10001, 0x10), (0x10002, 0x01), (0x11000, 0x03), (0x11001, 0x20), (0x11002, 0x01), (0x12000, 0x71),
                (0x20000, 0x03), (0x20001, 0x10), (0x20002, 0x02), (0x21000, 0x03), (0x21001, 0x20), (0x21002, 0x02), (0x22000, 0xF1)] } }

/-- A request whose page is being walked. -/
def walkReq : Request := { request (.ld 3 false) (.dev 0) 0x5000 8 with phase := .walk }

/-- The same when a `tlbi` has overtaken it, and when all walkers serve other pages. -/
def overtaken : Request := { walkReq with noTlb := true }
def manyWalks : State := { small with net := (List.range 6).map fun i => { walkReq with id := i, ea := 0x5000 + 4096 * i }, nextId := 9 }

theorem witness_WalksAndRetryEntries :
    (match walkTables paged 1 0 0x5000 1 true with | .inr e => e.size == 2 ^ 30 && e.pa == 0 | .inl _ => false) = true ∧
    (∀ r ∈ [walkReq, overtaken], (walkingReqs (inFlight paged r))[0]? = some r ∧ walkReady (inFlight paged r) 0 = true ∧
      (let u := settleTables (inFlight paged r) 1 r.ea
       (tlbHit u 0 (some (coreOf 0)) 1 0 r.ea (reqNeed r.op) true).isNone = true ∧ (walkTables u 1 0 r.ea (reqNeed r.op) true).isRight = true)) ∧
    (walkReq.noTlb = false ∧ overtaken.noTlb = true ∧ (walkingReqs manyWalks)[5]?.isSome = true ∧ walkReady manyWalks 5 = false) ∧
    ((walkTables (settleTables (inFlight small walkReq) 1 0x5000) 1 0 0x5000 (reqNeed walkReq.op) true).isLeft = true ∧
      ringValid small 0 = false ∧ ringValid ringed 0 = true) ∧
    (joinTlb 2 [testPage] testPage).length ≤ 2 ∧
    (let r := { walkReq with ea := 0x1000 }
     ∃ t e, locate (inFlight small r) r.slot r.ea r.reach (reqNeed r.op) = some (.at_ t e) ∧
      ((dispatchReq (dropReq (inFlight small r) r) r t e).slot r.slot).status = .ready) ∧
    (let r := { walkReq with phase := .held }
     (∀ s ∈ [small, ringed, ringed.onCluster 0 fun c => { c with retryq := setFld c.retryq 21 15 1 }], oldestHeld (inFlight s r) 0 = (some r, none)) ∧
      bitAt (sramRead ringed 0 0x3000 8) 63 = true ∧ bitAt (sramRead ringed 0 0x3040 8) 63 = false) := by
  refine ⟨?_, ?_, ⟨?_, ?_, ?_, ?_⟩, ⟨?_, ?_, ?_⟩, ?_, ⟨.dev 0x8000, some testPage, rfl, ?_⟩, ?_, ?_, ?_⟩ <;> decide +kernel

/-- A detached body of one `macc.z`, and the core whose sequencer serves it. -/
def seqBody : SeqBody := ⟨0, ⟨true, true, 0, 2, 0, 1, 0, 0⟩, 0, 0, [0x7400000001000000], 3⟩
def sequencing (holder : List (Nat × Nat)) : State :=
  { withCode (partWith (threadWith testRegs)) [0x0600000000000000, 0x7400000001000000, 0x7800000000000000] with
    cores := [(0, { Core.reset with holder := holder, seq := some seqBody })] }

/-- A load of one block in progress. -/
def testLoad : OloadJob :=
  { slot := 0, ofs := 0, seq := false, rep := Rep.none, res := 15, cap := capTo 0x7FF (inSlice 0x1000) 64, desc := 1, since := 0, left := [0]
    psn := false }

/-- Two appended elements of port 49, of one address or of two, and a block. -/
def appended (a b : OutElem) : State :=
  { smallPorts.onSlot 0 fun x => { x with ports := [(49, { (x.port 49) with outQ := [a, { b with id := 1 }] })] } with nextId := 2 }

theorem witness_StreamsSequencersAndLoads :
    (((smallPorts.slot 0).port 48).outQ = [] ∧ mayFetch smallPorts 0 48 = true ∧
      capCheck ((smallPorts.slot 0).port 48).cap (inSlice 0x1008) 8 permR 8 = none ∧ ((smallPorts.slot 0).port 48).addrOf 1 = inSlice 0x1008 ∧
      (match readSpan smallPorts (threadSender smallPorts 0) (inSlice 0x1008) 8 with | (.ok _, _) => true | _ => false) = true) ∧
    (let e : OutElem := { testElem with tgt := .sram 0 0x1008, ea := inSlice 0x1008 }
     (((appended testElem e).slot 0).port 49).outQ[1]? = some { e with id := 1 } ∧ mayWrite (appended testElem e) 0 49 1 = true ∧ e.len ≤ 16 ∧
       mayWrite (appended testElem testElem) 0 49 1 = false) ∧
    (let e : OutElem := { testElem with len := 64 }
     (((appended e e).slot 0).port 49).outQ[0]? = some e ∧ mayWrite (appended e e) 0 49 0 = true ∧ 16 < e.len ∧
       elemRefused (appended e e) 0 e = false) ∧
    (((sequencing [(16, 0)]).core 0).seq = some seqBody ∧ canSend (sequencing [(16, 0)]) 0 = true ∧
      okWith (seqWord seqBody (sequencing [(16, 0)])) (fun i u => decide (i = .maccZ false 0) && okWith (sendOp u seqBody i) fun _ _ => true) = true ∧
      canSend (sequencing []) 0 = true ∧
      okWith (seqWord seqBody (sequencing [])) (fun i u => match sendOp u seqBody i with | .trap c _ => c == .slot | _ => false) = true) ∧
    (let s := small.setCore 0 { Core.reset with oloads := [testLoad] }
     ({ testLoad with left := [0, 1] } : OloadJob).reading s = [0, 1] ∧ ({ testLoad with left := [0, 1] } : OloadJob).left.erase 0 ≠ [] ∧
      (s.core 0).oloads[0]? = some testLoad ∧ testLoad.reading s = [0] ∧ oloadReady s testLoad 0 = true ∧
      (match readSpan s (opSender s 0 testLoad.since) testLoad.cap.addr 64 with
        | (.ok xs, u) => !anyPsn xs && canonical 0 (u.core 0).opmem && rising 0 (u.core 0).hdrs
        | _ => false) = true) := by
  refine ⟨⟨?_, ?_, ?_, ?_, ?_⟩, ⟨?_, ?_, ?_, ?_⟩, ⟨?_, ?_, ?_, ?_⟩, ⟨?_, ?_, ?_, ?_, ?_⟩, ?_, ?_, ?_, ?_, ?_, ?_⟩ <;> decide +kernel

/-- A pair of clusters of one partition in cocoons of their own; cluster 24 has no cocoon word over it. -/
def cocooned : State :=
  { small with
    clusters := [(0, { Cluster.reset with owner := 2 ^ 63 + 1 }), (2, { Cluster.reset with owner := 2 ^ 63 + 1 })]
    dies := [(0, { Die.reset with cocoons := [(0, 2 ^ 63 + 2 ^ 48), (1, 2 ^ 63 + 2 ^ 48 + 2 * 2 ^ 8 + 2 * 2 ^ 12)] })] }

theorem witness_ControlWordsAreStored :
    (ownerOf small 0 = 1 ∧ (small.cluster 0).usedRecs = [] ∧ (small.cluster 0).usedCtx = [] ∧ (pooled.onCluster 0 fun c => { c with usedRecs := [0x80] }).cluster 0 ≠ pooled.cluster 0) ∧
    (let val := 2 ^ 63 + 8 * 2 ^ 59 + 2 ^ 34
     1 ≤ val / 2 ^ 59 % 16 ∧ val / 2 ^ 59 % 16 ≤ 8 ∧ val / 2 ^ 57 % 4 ≤ 1 ∧ val / 2 ^ 34 % 2 ^ 8 = ownerOf small 0 ∧
      bitAt (look 0 (small.cluster 0).queues 15) 63 = false) ∧
    (masked (2 ^ 63 + 32767 * 2 ^ 6) [(63, 1), (32, 15), (6, 15)] / 2 ^ 6 % 2 ^ 15 + 0 + 1 ≤ 2 ^ 15 ∧
      1024 * ((2 ^ 63 + 2 ^ 10) / 2 ^ 10 % 2 ^ 30 + 0 + 1) ≤ devLimit) ∧
    (let new := 2 ^ 48 + 4 * 2 ^ 8 + 4 * 2 ^ 12
     (∀ k ∈ cocoonClusters 0 (2 ^ 48), owned cocooned k = true ∧ ownerOf cocooned k = 1) ∧ new / 2 ^ 8 % 16 ≤ new / 2 ^ 12 % 16 ∧ new / 2 ^ 12 % 16 ≤ 11 ∧
      (∀ kw ∈ (small.die 0).cocoons, bitAt kw.2 63 = true → cocoonsMeet kw.2 new = false) ∧ look 0 (small.die 0).cocoons 7 / 2 ^ 61 % 4 = 0) ∧
    (owned cocooned 2 = true ∧ ownerOf cocooned 2 = ownerOf cocooned 0 ∧ 0 % 96 % 12 + 2 ≤ 2 % 96 % 12 ∧ (cocoonOf cocooned 2).isSome = true ∧
      (cocoonOf cocooned 0).isSome = true) ∧ cocoonOf small 0 = none ∧ (4 ≠ 8 ∨ 0x301 % 8 ≠ 0) := by
  refine ⟨⟨?_, ?_, ?_, ?_⟩, ⟨?_, ?_, ?_, ?_, ?_⟩, ⟨?_, ?_⟩, ⟨?_, ?_, ?_, ?_, ?_⟩, ⟨?_, ?_, ?_, ?_, ?_⟩, ?_, ?_⟩ <;> decide +kernel

/-- A cluster that rotates tenant 0 out, and one that moves out of partition 1. -/
def rotatingOut : State := small.onCluster 0 fun c => { c with rotation := 2 ^ 63 + 2 ^ 25 }
def movingPart : State := (small.setSlot 0 Slot.reset).onCluster 0 fun c => { c with hand0 := 2 ^ 63 + 2 ^ 17 + 2 ^ 8 + 3, launches := [] }

theorem witness_RotationAndHandover :
    (rotating rotatingOut 0 = true ∧ rotating small 0 = false ∧ bitAt (2 ^ 63 + 2 ^ 25) 63 = true ∧ (small.cluster 0).heldSet.length ≤ 4 ∧
      (∀ s ∈ [small.onCluster 0 fun c => { c with heldSet := [1, 2, 3, 4] }], 4 < ((s.cluster 0).heldSet ++ [5]).length)) ∧
    (handoverReady rotatingOut 0 = true ∧ (rotatingOut.slot 0).status ≠ .handover ∧ leaves rotatingOut 0 = true ∧ cannotSave rotatingOut 0 = false ∧
      quiet (beginVisit rotatingOut 0) 0 = true ∧ walking (beginVisit rotatingOut 0) 0 = false ∧
      handoverReady (rotatingOut.onSlot 0 fun x => { x with status := .handover }) 0 = true ∧
      handoverReady (rotatingOut.onSlot 0 fun x => { x with ten := 5 }) 0 = true ∧ leaves (rotatingOut.onSlot 0 fun x => { x with ten := 5 }) 0 = false) ∧
    ((small.slot 0).trap = none ∧ (small.slot 0).deferred = none ∧ holdsAny small 0 = false ∧ (small.slot 0).ports = [] ∧ small.sram.wf = true ∧
      (small.slot 0).recOfs % 64 = 0 ∧ (small.cluster 0).run = []) ∧
    (bitAt (small.cluster 0).hand0 63 = false ∧ (∃ kl ∈ (small.cluster 0).launches, kl.2.used = true ∧ kl.2.part = (2 ^ 63 + 2 ^ 17 + 2 ^ 8) / 2 ^ 8 % 2 ^ 8) ∧
      bitAt (movingPart.cluster 0).hand0 63 = true ∧ moveReady movingPart 0 = true ∧
      moveReady (movingPart.setSlot 1 (threadWith [])) 0 = false) := by
  refine ⟨⟨?_, ?_, ?_, ?_, ?_⟩, ⟨?_, ?_, ?_, ?_, ?_, ?_, ?_, ?_, ?_⟩, ⟨?_, ?_, ?_, ?_, ?_, ?_, ?_⟩, ?_, ?_, ?_, ?_, ?_⟩ <;> decide +kernel

/-- Partition 1 bound to virtual function 9; a queue of function 9 at 0x2000 of its slice, of another one at 0x6000. -/
def bound : State :=
  (small.setPart 1 { Partition.reset with vf := some 9 }).onCluster 0 fun c =>
    { c with queues := [(0, 2 ^ 63 + 0x2000 + 2 ^ 59 + 9 * 2 ^ 112 + 2 ^ 111), (1, 2 ^ 63 + 0x6000 + 2 ^ 59 + 8 * 2 ^ 112 + 2 ^ 111)] }

/-- The same while its cluster is being handed over. -/
def boundHeld : State := bound.onCluster 0 fun c => { c with heldFor := [1] }

/-- An entry that grants chip 4 the SRAM of partition 1, and one that grants it export 2 of it. -/
def aclSram : Nat := 2 ^ 63 + 2 ^ 61 + 4 * 2 ^ 29 + 2 ^ 21
def aclExport : Nat := 2 ^ 63 + 2 ^ 60 + 2 ^ 59 + 4 * 2 ^ 29 + 2 ^ 21 + 2 * 2 ^ 15

/-- A part of a domain with scale-up port 0 and scale-out port 36 up, a queue pair on the latter, and those entries. -/
def peered : State :=
  { small with
    chip := 3, hawk := { small.hawk with portUp := [0, 36], linkKeys := [(0, 1)], qps := [⟨5, 0, 0, 0, 4, 6, 0⟩] }
    acl := [(0, aclSram), (1, aclExport)] }

theorem witness_LinksReachWhatTheyMay :
    (bound.hawk.booted = true ∧ vfPart bound 9 = some 1 ∧ vfPart bound 8 = none ∧ placeOf (inSlice 0x2000) 16 = .sram 0x3FFFF 0 0x2000 ∧
      linkCluster bound 1 0 = some 0 ∧ nacked bound 0 = false ∧ heldAt bound 1 noCluster 0 = false ∧
      (queuesHit bound 0 0x6000 16).find? (fun q => !vfMayWrite bound 0 9 q) = some 1 ∧
      (queuesHit bound 0 0x2000 16).find? (fun q => !vfMayWrite bound 0 9 q) = none ∧ queuesHit bound 0 0x1000 16 = [] ∧ bound.sram.wf = true ∧
      ∀ w ∈ wordsOf (sramKey 0 0x2000) 16, look 0 bound.sram.syn w = 0) ∧
    (vfPart boundHeld 9 = some 1 ∧ linkCluster boundHeld 1 0 = some 0 ∧ heldAt boundHeld 1 noCluster 0 = true ∧ nacked boundHeld 0 = false ∧
      (({ bound with hawk := { bound.hawk with booted := false } } : State).hawk.booted = false) ∧
      (let s := bound.setDie 0 { Die.reset with excluded := true }
       vfPart s 9 = some 1 ∧ linkCluster s 1 0 = some 0 ∧ nacked s 0 = true)) ∧
    (peerFrom small ⟨0, 5, 4⟩ 0 = none ∧ peerFrom peered ⟨0, 5, 4⟩ 0 = some (4, 0) ∧ peerFrom peered ⟨36, 5, 9⟩ 9 = some (4, 0) ∧ peerFrom peered ⟨36, 6, 4⟩ 0 = none) ∧
    (∀ up ∈ [true, false], (peered.acl.find? fun ke => aclFor 4 0 ke.2 && aclMatches peered up 1 (.exported 3 2 0x100) 8 ke.2) = some (1, aclExport) ∧
      aclGrants peered up 1 (.exported 3 2 0x100) 8 aclExport = true ∧ aclGrants peered up 3 (.exported 3 2 0x100) 8 aclExport = false) ∧
    ((peered.acl.find? fun ke => aclFor 4 0 ke.2 && aclMatches peered true 1 (.sram 3 0 0x1000) 8 ke.2) = some (0, aclSram) ∧
      aclGrants peered true 1 (.sram 3 0 0x1000) 8 aclSram = true ∧ aclCluster peered aclSram 0 = some 0 ∧
      (peered.acl.find? fun ke => aclFor 4 0 ke.2 && aclMatches peered false 1 (.sram 3 0 0x1000) 8 ke.2) = none ∧
      placeOf (2 ^ 71 + 3 * 2 ^ 53 + 0x1000) 8 = .sram 3 0 0x1000 ∧ placeOf (2 ^ 71 + 3 * 2 ^ 53 + 2 ^ 51 + 2 * 2 ^ 45 + 0x100) 8 = .exported 3 2 0x100 ∧
      peerHeld peered aclSram 1 (2 ^ 71 + 3 * 2 ^ 53 + 0x1000) 8 0 = false ∧
      peerHeld peered aclSram 2 (2 ^ 71 + 3 * 2 ^ 53 + 0x1000) 8 (16 * 2 ^ 128) = true ∧ peerBehind peered.peerIn 4 0 (2 ^ 71) 8 = false ∧
      peerBehind [⟨4, 0, 1, 0x100, 8, 0, aclSram⟩] 4 0 0x107 1 = true ∧ peerBehind [⟨4, 0, 1, 0x100, 8, 0, aclSram⟩] 4 0 0x108 1 = false) ∧
    (portLive small 0 = false ∧ portLive peered 0 = true ∧ portLive peered 36 = true) ∧
    flrWaits bound (clustersOf bound 1) = false ∧ flrWaits (bound.onCluster 0 fun c => { c with rotation := 2 ^ 63 }) [0] = true ∧ clustersOf bound 1 = [0] := by
  refine ⟨⟨?_, ?_, ?_, ?_, ?_, ?_, ?_, ?_, ?_, ?_, ?_, ?_⟩, ⟨?_, ?_, ?_, ?_, ?_, ?_⟩, ⟨?_, ?_, ?_, ?_⟩, ?_, ⟨?_, ?_, ?_, ?_, ?_, ?_, ?_, ?_, ?_, ?_, ?_⟩, ⟨?_, ?_, ?_⟩, ?_, ?_, ?_⟩ <;>
    decide +kernel

/-- A doorbell has posted a status request; and a part whose boot failed. -/
def posted : State :=
  { State.reset with hawk := { Hawkmoth.reset with go := true, request := [(0, 1)] } }
def unbooted : State := { State.reset with hawk := { Hawkmoth.reset with booted := false } }

/-- Whether a firmware image is signed well is `Config.signatureGood`, which is open: both clauses stand under it. -/
theorem witness_ManagementRequestsAreServed :
    (State.reset.hawk.booted = true ∧ State.reset.hawk.go = false ∧ unbooted.hawk.booted = false ∧ posted.hawk.go = true ∧
      pendingRequest posted ≠ some (.status 1) ∧ pendingRequest posted = some (.status 0)) ∧
    (0x3FFFE ≤ 0x3FFFE ∧ State.reset.chip = 0x3FFFF ∧ ({ State.reset with chip := 5 } : State).chip ≠ 0x3FFFF ∧ 4064 < 4065 ∧ 0 + 8 ≤ 8 ∧
      State.reset.hawk.fwBytes.length = 0) ∧
    (((State.reset.setPart 4 { Partition.reset with vf := some 2 }).part 4).vf ≠ none ∧ (State.reset.part 255).vf = none) ∧
    (look 0 State.reset.keys 4095 = 0 ∧ look 0 small.keys 0 ≠ 0 ∧ rising 0 small.keys = true) ∧
    (find ({ Hawkmoth.reset with addrMap := [(7, 1, 2)] }).addrMap 7 ≠ none ∧
      (∃ p ∈ ({ Hawkmoth.reset with qps := [⟨1, 7, 0, 0, 7, 0, 0⟩] }).qps, p.qp = 1 ∧ p.port = 7)) ∧
    (let e : EvEntry := ⟨true, 1, 0, 0, 0⟩
     find ({ Hawkmoth.reset with ring := [(255, e)] }).ring 255 = some e ∧ rising 0 ({ Hawkmoth.reset with ring := [(255, e)] }).ring = true ∧
      ({ Hawkmoth.reset with evHeld := [(3, 0, 0)] }).evHeld = (3, 0, 0) :: []) ∧
    ((∃ i, bufferRequest posted = .inr i) ∧ bufferRequest { unbooted with hawk := { unbooted.hawk with request := [(0, 1)] } } = .inr (.status 0) ∧
      (bufferRequest { unbooted with hawk := { unbooted.hawk with request := [(0, 4)] } } matches .inr (.status _)) = false) ∧
    (vfOutstanding State.reset 2 = false ∧ vfOutstanding { boundHeld with inbox := [.vfTaggedRead 9 0 (inSlice 0x1000) 8] } 9 = true) ∧
    (State.reset.hawk.respRst < 256 ∧ 0 + 16 < 0x2000 ∧ 0 < ({ Hawkmoth.reset with respLen := 8 }).respLen) ∧ ∃ rst, bufferRequest { State.reset with hawk := { Hawkmoth.reset with request := [(0, 0xFF)] } } = .inl rst := by
  refine ⟨⟨?_, ?_, ?_, ?_, ?_, ?_⟩, ⟨?_, ?_, ?_, ?_, ?_, ?_⟩, ⟨?_, ?_⟩, ⟨?_, ?_, ?_⟩, ⟨?_, _, List.mem_singleton.mpr rfl, ?_⟩, ⟨?_, ?_, ?_⟩, ⟨⟨_, rfl⟩, ?_, ?_⟩, ⟨?_, ?_⟩, ⟨?_, ?_, ?_⟩, _, rfl⟩ <;> decide +kernel

/-- A die at a clock step, a cocoon word that is in use, and a pair whose copies have each a message. -/
def stepped (st : Nat) : State := small.setDie 3 { Die.reset with step := st }
def testPair (a b : W64) : Pair := ⟨0, 0x40, 2, 0x40, 0, 0, 0, [[a]], [[b]], false, false⟩

theorem witness_FaultsAreContained :
    ((small.die 3).excluded = false ∧ ((small.setDie 3 { Die.reset with excluded := true }).die 3).excluded = true ∧ small.partStep ≤ 5) ∧
    (((stepped 5).die 3).step ≤ 5 ∧ (stepped 5).partStep < ((stepped 5).die 3).step ∧ ((stepped 4).die 3).hot = 0 ∧ ((stepped 4).die 3).step < 5 ∧
      ((stepped 4).die 3).capStep ≤ ((stepped 4).die 3).step ∧
      (((stepped 5).setDie 3 { (stepped 5).die 3 with calm := true }).die 3).calm = true ∧
      (((stepped 5).setDie 3 { (stepped 5).die 3 with calm := false }).die 3).calm = false) ∧
    ((0 ∈ peered.hawk.portUp ∧ rising 0 peered.hawk.linkKeys = true) ∧ 35 ∉ peered.hawk.portUp ∧ 15 ∉ small.lost ∧ ({ small with lost := [3] } : State).lost ≠ [] ∧ 3 ∈ small.planes ∧
      small.planes.erase 3 ≠ [] ∧ 3 ∈ ({ small with planes := [3] } : State).planes ∧ [3].erase 3 = ([] : List Nat)) ∧
    (bitAt (look 0 (cocooned.die 0).cocoons 1) 63 = true ∧ look 0 (cocooned.die 0).cocoons 1 / 2 ^ 61 % 4 = 0 ∧ bitAt (look 0 (cocooned.die 0).cocoons 7) 63 = false) ∧
    ((small.slot 0).status ≠ .idle ∧ 71 < 72 ∧ ({ small with diffs := [difference] } : State).diffs[0]? = some difference ∧ 383 < 384 ∧
      95 + 384 = 384 + 95 ∧ 49151 < 49152) ∧
    ({ small with pairs := [testPair 1 1] } : State).pairs[0]? = some (testPair 1 1) ∧ (testPair 1 1).msgP = [1] :: [] ∧
      ({ testPair 1 1 with msgS := [] } : Pair).msgS = [] ∧
      hashMsg 1 0 [1] = hashMsg 1 0 [1] ∧ hashMsg 1 0 [1] ≠ hashMsg 1 0 [2] := by
  refine ⟨⟨?_, ?_, ?_⟩, ⟨?_, ?_, ?_, ?_, ?_, ?_, ?_⟩, ⟨?_, ?_, ?_, ?_, ?_, ?_, ?_, ?_⟩, ⟨?_, ?_, ?_⟩,
    ⟨?_, ?_, ?_, ?_, ?_, ?_⟩, ?_, ?_, ?_, ?_, ?_⟩ <;> decide +kernel

theorem witness_EncodeAndDecodeAgree :
    (Instr.addi ⟨false, 1, 1, false, 0xFFFFFFFF⟩).wf = true ∧ encode (.addi ⟨false, 1, 1, false, 0xFFFFFFFF⟩) = some 0x03041000FFFFFFFF ∧
    decodeWord 0x03041000FFFFFFFF = .ok (.addi ⟨false, 1, 1, false, 0xFFFFFFFF⟩) := by
  refine ⟨?_, ?_, ?_⟩ <;> decide +kernel

/-- The part after reset with a word placed, whose turn is next. -/
def placed (w : Nat) : State := State.reset.withFetchWord 64 w

/-- A target in a slice that answers, whose eight bytes are clean. -/
def cleanSram (t : State) : Target → Bool
  | .sram cl o => !nacked t cl && (wordsOf (sramKey cl o) 8).all fun w => look 0 t.sram.syn w == 0
  | _ => false

theorem witness_StepRunsTheDecodedWord :
    (∀ w ∈ [0x03041000FFFFFFFF, 0],
      chooseMove (placed w) = some (.slot 0) ∧ primaryOf (placed w) 0 = none ∧
      (let u := ({ placed w with sched := [] } : State).onCore 0 fun c => { c with last := 0 }
       let x := u.slot 0
       let v := { u with walks := [] }.onSlot 0 fun x => { x with status := .ready, mark := false }
       u.walks = [] ∧
       x.status ≠ .parked .restore ∧ x.deferred = none ∧ x.skip = 0 ∧ x.ctx.rep.active = false ∧
        okWith (blockDesc v) (fun d v1 => decide (x.ofs + 1 < d.2) && okWith (codeWord v1 d x.ofs) fun w' _ => w' == w) = true)) ∧
    (let s := placed 0x03041000FFFFFFFF
     capCheck (codeCap s 0) (codeCap s 0).addr 8 permX 8 = none ∧
      okWith (findAt s (codeCap s 0).addr 8 4 3 3) (fun te t => cleanSram t te.1 && t.sram.wf) = true) := by
  refine ⟨?_, ?_, ?_⟩ <;> decide +kernel

/-- A part that has stopped, with what comes to it and the status request posted. -/
def halted (posted : Bool) (inbox : List Instr) : State :=
  { State.reset with stopped := true, inbox := inbox, hawk := { Hawkmoth.reset with go := posted, request := [(0, 1)] } }

theorem witness_ThePartNeverStops :
    (∀ p ∈ [true, false], (halted p []).stopped = true ∧ (halted p []).inbox = [] ∧ requestDue (halted p []) = p) ∧
    bufferRequest (halted true []) = .inr (.status 0) ∧
    ∀ i ∈ [Instr.status 0, .managementWindowWrite 0 8 1, .reset 0],
      (halted false [i]).stopped = true ∧ (halted false [i]).inbox = i :: [] ∧ requestDue (halted false [i]) = false ∧
        (whenStopped i = true ↔ i ≠ .reset 0) := by
  refine ⟨?_, ?_, ?_⟩ <;> decide +kernel

theorem witness_MemoryStaysCanonical :
    Memory.wf (placed 0x03041000FFFFFFFF) = true ∧ after (step (placed 0x03041000FFFFFFFF)) (fun t => (t.slot 0).ctx.reg 1) = some (RegVal.ofNat (2 ^ 64 - 1)) := by
  refine ⟨?_, ?_⟩ <;> decide +kernel

theorem witness_ComputeWordsFrame :
    Ready small [1, 2] 3 [] small ∧ srcInt small [1, 2] 1 ≠ 0 ∧ after (exec (.div ⟨false, 3, 1, 2⟩) small) (fun t => ((t.slot 0).ctx.reg 3).int) = some 2 := by
  refine ⟨⟨rfl, rfl⟩, ?_, ?_⟩ <;> decide +kernel

/-- R390, R391: the copy engine of a cluster in an armed cocoon that reads poisoned data fences it (`CFN` 1, `CST` 2); the worked cocoon
word of R389 on clusters 14 and 15. -/
theorem test_poison_read_fences :
    let s : State := { State.reset with dies := [(0, { Die.reset with cocoons := [(0, 0x8003000000003211)] })] }
    look 0 ((poisonMet s 28).die 0).cocoons 0 = 0xC003010000003211 ∧ look 0 ((poisonMet s 26).die 0).cocoons 0 = 0x8003000000003211 := by
  refine ⟨?_, ?_⟩ <;> decide +kernel

end Sys2Proof.Tests
end

section
/-! PROOFS. The words that act on an entry of the retry ring (R264, R265): in user mode, on an entry that is valid and on one that is
not. -/

namespace Sys2Proof.Machine

/-- Bit `i` of the number that a word is. -/
theorem bitAt_toNat {n : Nat} (v : BitVec n) (i : Nat) : bitAt v.toNat i = v.getLsbD i := by
  rw [← BitVec.testBit_toNat, Nat.testBit_eq_decide_div_mod_eq]
  rfl

/-! ## Taking an entry -/

/-- A valid entry is taken: its valid bit and its reserved bits become zero and its doubleword empty (R6, R360). -/
theorem takeEntry_of_valid {s : State} {cl ofs : Nat} (h : bitAt (sramRead s cl ofs 8) 63 = true) :
    takeEntry s cl ofs =
      some (setWordFull (sramWrite s cl ofs 8 (setFld (setFld (sramRead s cl ofs 8) 63 1 0) 48 4 0)) cl ofs false) := by
  simp [takeEntry, h]

theorem takeEntry_of_not_valid {s : State} {cl ofs : Nat} (h : bitAt (sramRead s cl ofs 8) 63 = false) : takeEntry s cl ofs = none := by
  simp [takeEntry, h]

/-! ## What a word on an entry comes to -/

section EntryWord
variable {s u : State} {fs : List Nat} {cl ofs : Nat} {act : State → Nat → Nat → (Nat → RegVal) → State}

/-- The words on retry entries are the supervisor's (R264). -/
theorem entryWord_of_user (h : (s.slot s.cur).prv < 1) : entryWord s fs act = .trap .priv 0 := by
  simp [entryWord, h]

/-- A word whose checks pass on an entry in a slice pops its ports, and acts only if it takes the entry; its operands are those read before
it pops. -/
theorem entryWord_of_sram (hprv : 1 ≤ (s.slot s.cur).prv) (hsrc : checkSrc s s.cur fs 0 = .ok () s)
    (hent : entryAt s (fieldVal s s.cur fs 0) = .ok (.sram cl ofs, ofs) u) :
    entryWord s fs act =
      .ok () (((takeEntry (popAll u u.cur fs) cl ofs).map fun t => act t cl ofs (fieldVal s s.cur fs)).getD (popAll u u.cur fs)) := by
  unfold entryWord
  rw [if_neg (Nat.not_lt.mpr hprv), hsrc, Res.bind_ok]
  dsimp only
  rw [hent, Res.bind_ok]
  -- The kernel must not evaluate `takeEntry` when it compares the two sides, so it becomes a variable.
  obtain ⟨take, htake⟩ : ∃ take, takeEntry = take := ⟨_, rfl⟩
  rw [htake]
  dsimp only
  cases take (popAll u u.cur fs) cl ofs with
  | some t => rfl
  | none => rfl

variable (hprv : 1 ≤ (s.slot s.cur).prv) (hsrc : checkSrc s s.cur fs 0 = .ok () s)
  (hent : entryAt s (fieldVal s s.cur fs 0) = .ok (.sram cl ofs, ofs) u)
include hprv hsrc hent

/-- On a valid entry the word acts in the state in which the entry is taken. -/
theorem entryWord_of_valid (hval : bitAt (sramRead (popAll u u.cur fs) cl ofs 8) 63 = true) :
    let p := popAll u u.cur fs
    entryWord s fs act =
      .ok () (act (setWordFull (sramWrite p cl ofs 8 (setFld (setFld (sramRead p cl ofs 8) 63 1 0) 48 4 0)) cl ofs false) cl ofs
        (fieldVal s s.cur fs)) := by
  rw [entryWord_of_sram hprv hsrc hent, takeEntry_of_valid hval]
  rfl

/-- On an entry that is not valid the word only pops its ports. -/
theorem entryWord_of_not_valid (hval : bitAt (sramRead (popAll u u.cur fs) cl ofs 8) 63 = false) :
    entryWord s fs act = .ok () (popAll u u.cur fs) := by
  rw [entryWord_of_sram hprv hsrc hent, takeEntry_of_not_valid hval]
  rfl

end EntryWord

/-! ## `portwr` and `portfail` -/

/-- `portwr` completes the access of the entry, by retry where bit 0 of C is set (R264). -/
theorem exec_portwr (m : Bool) (a b c : Nat) (s : State) :
    exec (.portwr m a b c) s =
      issue m s (entryWord s [a, b, c] fun t cl ofs v => completeEntry t cl ofs (v 1) ((v 2).bits.getLsbD 0)) := by
  simp only [← bitAt_toNat]
  rfl

/-- `portfail` fails the access of the entry with the cause that the low byte of B names (R265). -/
theorem exec_portfail (m : Bool) (a b : Nat) (s : State) :
    exec (.portfail m a b) s =
      issue m s (entryWord s [a, b] fun t cl ofs v => failEntry t cl ofs (causeOf ((v 1).bits.toNat % 256))) := by
  have hlow (n : Nat) : fld n 0 8 = n % 256 := by simp [fld]
  simp only [← hlow]
  rfl

/-- Settles O36: each word is `entryWord` with its own effect on the access, so the cases are those of `entryWord`: user mode, a valid entry
and one that is not valid. How an entry names its access rests on log entry 32 (DEDUCED). -/
theorem retryEntryWords : Obligations.RetryEntryWords := by
  unfold Obligations.RetryEntryWords
  refine ⟨fun m a b c s hprv => ?user, fun m a b c s u cl ofs hprv hsrc hent => ⟨fun hval => ?portwr_valid, fun hval => ?portwr_not_valid⟩,
    fun m a b s u cl ofs hprv hsrc hent => ⟨fun hval => ?portfail_valid, fun hval => ?portfail_not_valid⟩⟩
  case user => simp [exec_portwr, exec_portfail, entryWord_of_user hprv]
  case portwr_valid => rw [exec_portwr, entryWord_of_valid hprv hsrc hent hval, issue_ok]
  case portwr_not_valid => rw [exec_portwr, entryWord_of_not_valid hprv hsrc hent hval, issue_ok]
  case portfail_valid => rw [exec_portfail, entryWord_of_valid hprv hsrc hent hval, issue_ok]
  case portfail_not_valid => rw [exec_portfail, entryWord_of_not_valid hprv hsrc hent hval, issue_ok]

end Sys2Proof.Machine
end

section
/-! SUPPORT. Fields of numbers against operations of words: what `setFld`, `fld`, `sext` and `low` of a word's number come to. -/

namespace Sys2Proof.Machine

/-! ## Fields of numbers -/

/-- What lies above a field, the field's new value and what lies below it. -/
theorem setFld_eq (x lo n v : Nat) :
    setFld x lo n v = 2 ^ lo * (2 ^ n * (x / 2 ^ (lo + n)) + v % 2 ^ n) + x % 2 ^ lo := by
  have hlow := Nat.div_add_mod x (2 ^ lo)
  have hfld := congrArg (2 ^ lo * ·) (Nat.div_add_mod (x / 2 ^ lo) (2 ^ n))
  simp only [Nat.div_div_eq_div_mul, ← Nat.pow_add, Nat.mul_add] at hfld
  simp only [setFld, fld, Nat.mul_add, Nat.mul_comm _ (2 ^ lo)]
  omega

/-- A bit after a field is replaced: of the new value inside the field, of the old number elsewhere. -/
theorem testBit_setFld (x lo n v i : Nat) :
    (setFld x lo n v).testBit i = if lo ≤ i ∧ i < lo + n then v.testBit (i - lo) else x.testBit i := by
  rw [setFld_eq, Nat.testBit_two_pow_mul_add _ (Nat.mod_lt _ (Nat.two_pow_pos lo)),
    Nat.testBit_two_pow_mul_add _ (Nat.mod_lt _ (Nat.two_pow_pos n))]
  by_cases hlo : i < lo
  · have : ¬(lo ≤ i ∧ i < lo + n) := by omega
    simp [hlo, this]
  · by_cases hin : i < lo + n
    · have : i - lo < n := by omega
      simp [hlo, hin, this, Nat.not_lt.mp hlo]
    · have hout : ¬i - lo < n := by omega
      have hpos : i - lo - n + (lo + n) = i := by omega
      simp [hlo, hin, hout, Nat.testBit_div_two_pow, hpos]

/-- A number keeps its width when a field inside that width is replaced. -/
theorem setFld_lt {w x lo n : Nat} (v : Nat) (hx : x < 2 ^ w) (hn : lo + n ≤ w) : setFld x lo n v < 2 ^ w := by
  refine Nat.lt_pow_two_of_testBit _ fun i hi => ?_
  have hout : ¬(lo ≤ i ∧ i < lo + n) := by omega
  rw [testBit_setFld, if_neg hout]
  exact Nat.testBit_lt_two_pow (Nat.lt_of_lt_of_le hx (Nat.pow_le_pow_right Nat.two_pos hi))

/-- Replacing a field of a word is masking the field out of it and the shifted value into it. -/
theorem ofNat_setFld {w : Nat} (x : BitVec w) (lo n v : Nat) :
    BitVec.ofNat w (setFld x.toNat lo n v) =
      (x &&& ~~~(BitVec.ofNat w (2 ^ n - 1) <<< lo)) ||| ((BitVec.ofNat w v <<< lo) &&& (BitVec.ofNat w (2 ^ n - 1) <<< lo)) := by
  refine BitVec.eq_of_getLsbD_eq fun i hi => ?_
  have hsub : i - lo < w := by omega
  simp only [BitVec.getLsbD_ofNat, testBit_setFld, BitVec.getLsbD_or, BitVec.getLsbD_and, BitVec.getLsbD_not, BitVec.getLsbD_shiftLeft,
    Nat.testBit_two_pow_sub_one, BitVec.testBit_toNat, hi, hsub]
  by_cases hlo : i < lo
  · have : ¬(lo ≤ i ∧ i < lo + n) := by omega
    simp [hlo, this]
  · by_cases hin : i - lo < n
    · have : lo ≤ i ∧ i < lo + n := by omega
      simp [hlo, hin, this]
    · have : ¬(lo ≤ i ∧ i < lo + n) := by omega
      simp [hlo, hin, this]

/-- A shifted value that fits its field passes the field's mask whole. -/
theorem shiftLeft_ofNat_and_mask {w n v : Nat} (lo : Nat) (hv : v < 2 ^ n) :
    (BitVec.ofNat w v <<< lo) &&& (BitVec.ofNat w (2 ^ n - 1) <<< lo) = BitVec.ofNat w v <<< lo := by
  rw [← BitVec.shiftLeft_and_distrib, ← BitVec.ofNat_and, Nat.and_two_pow_sub_one_eq_mod, Nat.mod_eq_of_lt hv]

/-- A field of a word's number is the number of the bits extracted. -/
theorem fld_toNat {w : Nat} (x : BitVec w) (lo n : Nat) : fld x.toNat lo n = (x.extractLsb' lo n).toNat := by
  rw [BitVec.extractLsb'_toNat, Nat.shiftRight_eq_div_pow]
  rfl

/-- The two's complement reading of a word's number is the word's integer. -/
theorem sext_toNat {n : Nat} (x : BitVec n) (hn : 0 < n) : sext n x.toNat = x.toInt := by
  have hpow : 2 ^ n = 2 * 2 ^ (n - 1) := by rw [← Nat.pow_succ', Nat.succ_eq_add_one, Nat.sub_add_cancel hn]
  rw [sext, BitVec.toInt, Nat.mod_eq_of_lt x.isLt]
  refine if_congr ?_ rfl rfl
  omega

/-- The low bits of an integer are those of the word that holds it. -/
theorem low_eq_toNat_ofInt (n : Nat) (z : Int) : low n z = (BitVec.ofInt n z).toNat := (BitVec.toNat_ofInt z).symm

/-- The sign extension of a word, as the low bits of its two's complement reading. -/
theorem low_sext_toNat {n : Nat} (m : Nat) (x : BitVec n) (hn : 0 < n) : low m (sext n x.toNat) = (x.signExtend m).toNat := by
  rw [sext_toNat x hn, low_eq_toNat_ofInt]
  rfl

/-! ## Register values -/

/-- The number of a word of at most 64 bits, as a register value, is the word extended by zeros. -/
theorem regVal_ofNat_toNat {n : Nat} (x : BitVec n) (hn : n ≤ 64) : RegVal.ofNat x.toNat = RegVal.ofInt (x.setWidth 64) := by
  rw [RegVal.ofNat, RegVal.ofInt, BitVec.ofNat_toNat, BitVec.setWidth_setWidth (by omega)]

/-- A number below 2^64, as a register value, is its 64-bit word. -/
theorem regVal_ofNat_of_lt {x : Nat} (hx : x < 2 ^ 64) : RegVal.ofNat x = RegVal.ofInt (BitVec.ofNat 64 x) := by
  rw [RegVal.ofInt, BitVec.setWidth_ofNat_of_le_of_lt (by decide) hx]
  rfl

/-- `ext` (R166): the number of a field of a 64-bit word, as a register value. -/
theorem regVal_ofNat_fld (x : W64) (lo : Nat) {n : Nat} (hn : n ≤ 64) :
    RegVal.ofNat (fld x.toNat lo n) = RegVal.ofInt ((x.extractLsb' lo n).setWidth 64) := by
  rw [fld_toNat, regVal_ofNat_toNat _ hn]

/-- `ext.s` (R166): the field read as two's complement, as a register value. -/
theorem regVal_ofNat_low_sext_fld (x : W64) (lo : Nat) {n : Nat} (hn : 0 < n) :
    RegVal.ofNat (low 64 (sext n (fld x.toNat lo n))) = RegVal.ofInt ((x.extractLsb' lo n).signExtend 64) := by
  rw [fld_toNat, low_sext_toNat 64 _ hn, regVal_ofNat_toNat _ (Nat.le_refl 64), BitVec.setWidth_eq]

/-- `ins` (R166): a 64-bit word with a field replaced, as a register value. -/
theorem regVal_ofNat_setFld (x a : W64) {lo n : Nat} (hn : lo + n ≤ 64) :
    RegVal.ofNat (setFld x.toNat lo n a.toNat) =
      RegVal.ofInt ((x &&& ~~~(BitVec.ofNat 64 (2 ^ n - 1) <<< lo)) ||| ((a <<< lo) &&& (BitVec.ofNat 64 (2 ^ n - 1) <<< lo))) := by
  rw [regVal_ofNat_of_lt (setFld_lt a.toNat x.isLt hn), ofNat_setFld, BitVec.ofNat_toNat, BitVec.setWidth_eq]

end Sys2Proof.Machine
end

section
/-! PROOFS. Constants and bit fields (R21, R165, R166): what a word that computes a value gives. -/

namespace Sys2Proof.Machine

/-- A word that computes a value gives it. -/
theorem gives_of_computeVal {i : Instr} {m : Bool} {fs : List Nat} {d : Nat} {f : List RegVal → RegVal} {v : State → RegVal}
    (hexec : ∀ s, exec i s = issue m s (computeVal s fs d f)) (hval : ∀ s, f (values s fs) = v s) : Gives i m fs d v fun _ => 0 := by
  intro s places t hready
  rw [hexec, issue_computeVal hready, hval]

theorem li_gives (o : LiOp) : Gives (.li o) o.s [] o.d (fun _ => RegVal.ofInt ((BitVec.ofNat 32 o.imm).signExtend 64)) fun _ => 0 :=
  gives_of_computeVal (f := fun _ => RegVal.ofInt (imm64 o.imm)) (fun _ => rfl) fun _ => rfl

/-- Quarter `n` of a register replaced by a 32-bit immediate, untagged (R165). -/
theorem set_quarter_untagged (old : RegVal) (n : Nat) {imm : Nat} (himm : imm < 2 ^ 32) :
    { old.set (32 * n) 32 imm with tag := false } =
      { bits := (old.bits &&& ~~~(BitVec.ofNat 128 (2 ^ 32 - 1) <<< (32 * n))) ||| (BitVec.ofNat 128 imm <<< (32 * n))
        tag := false, psn := old.psn : RegVal } := by
  rw [RegVal.set, ofNat_setFld, shiftLeft_ofNat_and_mask _ himm]

/-- Each of `liq.1` to `liq.3` replaces its own quarter of D. -/
theorem exec_liq {o : LiOp} {n : Nat} {i : Instr} (hi : (n, i) ∈ [(1, Instr.liq1 o), (2, .liq2 o), (3, .liq3 o)]) (s : State) :
    exec i s = replacePart o n s := by
  simp only [List.mem_cons, List.not_mem_nil, or_false, Prod.mk.injEq] at hi
  obtain ⟨rfl, rfl⟩ | ⟨rfl, rfl⟩ | ⟨rfl, rfl⟩ := hi
  · rfl
  · rfl
  · rfl

/-- Settles O7: every word is `computeVal`, so each clause is its value, written in the model with `fld` and `setFld` of numbers and in
the statement with operations of words. -/
theorem constantAndFieldResults : Obligations.ConstantAndFieldResults := by
  unfold Obligations.ConstantAndFieldResults
  refine ⟨li_gives, fun o n i himm hi => ?liq, fun o hpos => ⟨?ext, ?extS, ?ins⟩⟩
  case liq => exact gives_of_computeVal (exec_liq hi) fun s => set_quarter_untagged (fieldVal s s.cur [o.d] 0) n himm
  case ext => exact gives_of_computeVal (fun _ => rfl) fun s => regVal_ofNat_fld (srcInt s [o.a] 0) o.pos (by omega)
  case extS => exact gives_of_computeVal (fun _ => rfl) fun s => regVal_ofNat_low_sext_fld (srcInt s [o.a] 0) o.pos o.wm1.succ_pos
  case ins =>
    exact gives_of_computeVal (fun _ => rfl) fun s => regVal_ofNat_setFld (srcInt s [o.a, o.d] 1) (srcInt s [o.a, o.d] 0) hpos

end Sys2Proof.Machine
end

section
/-! PROOFS. Skips (R26, R167): what one does with a legal and with an illegal range. -/

namespace Sys2Proof.Machine

/-- A skip with a legal range pops its port and turns its words into no-ops exactly when its test holds. -/
theorem skipWord_of_legal {o : SkipOp} {s u : State} {test : W64 → Bool} {held : Prop} [Decidable held]
    (hrange : skipRange s o.n = .ok () u) (hsrc : checkSrc u u.cur [o.a] 0 = .ok () u) (htest : test (srcInt u [o.a] 0) = true ↔ held) :
    skipWord o s test =
      .next (issued o.s s.cur ((popAll u u.cur [o.a]).onSlot u.cur fun x => { x with skip := if held then o.n else 0 })) := by
  unfold skipWord
  rw [hrange, Res.bind_ok, hsrc, Res.bind_ok]
  dsimp only
  rw [issue_ok]
  unfold srcInt at htest
  simp only [htest]

/-- A skip with an illegal range traps SKIPEND, whatever its source and its test. -/
theorem skipWord_of_skipend {o : SkipOp} {s : State} (test : W64 → Bool) (hrange : skipRange s o.n = .trap .skipend 0) :
    skipWord o s test = .next (trapHere s s.cur .skipend 0) := by
  unfold skipWord
  rw [hrange, Res.bind_trap, issue_trap]

/-- A range that reaches the end of its block is illegal. -/
theorem skipRange_of_reach {s u : State} {d : Nat × Nat} {n : Nat} (hblk : blockDesc s = .ok d u)
    (hreach : d.2 ≤ (s.slot s.cur).ofs + n) : skipRange s n = .trap .skipend 0 := by
  unfold skipRange
  dsimp only
  rw [hblk, Res.bind_ok, if_pos hreach]

/-- A range that holds an `end` is illegal. -/
theorem skipRange_of_end {s u t : State} {d : Nat × Nat} {n w : Nat} {ws : List Nat} (hblk : blockDesc s = .ok d u)
    (hwords : codeWords u d ((s.slot s.cur).ofs + 1) n = .ok ws t) (hw : w ∈ ws) (hend : opOf w = 0x78) :
    skipRange s n = .trap .skipend 0 := by
  have hany : ws.any isEndWord = true := List.any_eq_true.mpr ⟨w, hw, by simp [isEndWord, hend]⟩
  unfold skipRange
  dsimp only
  rw [hblk, Res.bind_ok]
  split
  · rfl
  · rw [hwords, Res.bind_ok, if_pos hany]

theorem exec_skipZ (o : SkipOp) (s : State) : exec (.skipZ o) s = skipWord o s fun a => a == 0 := rfl
theorem exec_skipNz (o : SkipOp) (s : State) : exec (.skipNz o) s = skipWord o s fun a => a != 0 := rfl
theorem exec_skipNeg (o : SkipOp) (s : State) : exec (.skipNeg o) s = skipWord o s fun a => a.msb := rfl
theorem exec_skipNneg (o : SkipOp) (s : State) : exec (.skipNneg o) s = skipWord o s fun a => !a.msb := rfl

/-- Each skip is `skipWord` with some test. -/
theorem exec_skip {o : SkipOp} {i : Instr} (hi : i ∈ [Instr.skipZ o, .skipNz o, .skipNeg o, .skipNneg o]) (s : State) :
    ∃ test, exec i s = skipWord o s test := by
  simp only [List.mem_cons, List.not_mem_nil, or_false] at hi
  obtain rfl | rfl | rfl | rfl := hi
  · exact ⟨_, exec_skipZ o s⟩
  · exact ⟨_, exec_skipNz o s⟩
  · exact ⟨_, exec_skipNeg o s⟩
  · exact ⟨_, exec_skipNneg o s⟩

/-- Bit 63 of a word is set where the word is negative (R26). -/
theorem msb_iff_toInt_neg (a : W64) : a.msb = true ↔ a.toInt < 0 := by rw [BitVec.msb_eq_toInt, decide_eq_true_iff]

/-- Bit 63 of a word is clear where the word is not negative (R26). -/
theorem not_msb_iff_toInt_nonneg (a : W64) : (!a.msb) = true ↔ 0 ≤ a.toInt := by
  rw [Bool.not_eq_true', ← Bool.not_eq_true, msb_iff_toInt_neg, Int.not_lt]

/-- Settles O8: a legal range leaves the four tests of A; an illegal one is known before A is read, so no test matters. -/
theorem skipResults : Obligations.SkipResults := by
  unfold Obligations.SkipResults
  refine ⟨fun o s u hrange hsrc => ⟨?zero, ?nonzero, ?negative, ?nonnegative⟩, fun o s u d hblk hbad i hi => ?skipend⟩
  case zero => exact exec_skipZ o s ▸ skipWord_of_legal hrange hsrc beq_iff_eq
  case nonzero => exact exec_skipNz o s ▸ skipWord_of_legal hrange hsrc bne_iff_ne
  case negative => exact exec_skipNeg o s ▸ skipWord_of_legal hrange hsrc (msb_iff_toInt_neg _)
  case nonnegative => exact exec_skipNneg o s ▸ skipWord_of_legal hrange hsrc (not_msb_iff_toInt_nonneg _)
  case skipend =>
    have hrange : skipRange s o.n = .trap .skipend 0 := by
      obtain hreach | ⟨ws, t, hwords, w, hw, hend⟩ := hbad
      · exact skipRange_of_reach hblk hreach
      · exact skipRange_of_end hblk hwords hw hend
    obtain ⟨test, hexec⟩ := exec_skip hi s
    rw [hexec, skipWord_of_skipend test hrange]

end Sys2Proof.Machine
end

section
/-! PROOFS. The part never stops (R48, R314, R318, R379): every word and every step of an agent has a next state, and what a part that
has stopped still serves. -/

namespace Sys2Proof.Machine

/-! ## Words and steps -/

/-- A request of Hawkmoth is served or ignored (R318). -/
theorem serve_next (s : State) (r : MgmtReq) (f : State → State) : ∃ t, serve s r f = .next t := by
  unfold serve
  split
  · exact ⟨_, rfl⟩
  · split <;> exact ⟨_, rfl⟩

/-- Every word and every step of an agent has a next state: a word completes, traps or parks, a request of Hawkmoth is served or ignored,
and in each of its cases the step of an agent leaves a state. -/
theorem exec_next (i : Instr) (s : State) : ∃ t, exec i s = .next t := by
  cases i with
  | endBlk | trap | halt => exact issueOwn_next _ _
  | ostat => exact issue_next _ _ (.ok () (writeReg s ..))
  | sstat => exact issue_next _ _ (.ok () (writeReg s ..))
  | status | attest | idkey | extend | fwchunk | setchip | bindvf | keyinstall | keyerase | addrmap | qpset | qpclear | reset =>
    simp only [exec, execStatus, execAttest, execIdkey, execExtend, execFwchunk, execSetchip, execBindvf, execKeyinstall, execKeyerase,
      execAddrmap, execQpset, execQpclear, execReset]
    exact serve_next _ _ _
  | sweepClose | retryEntryWrite | createContinuation | retirementReport | discardReport | handlerEntryWrite | rotationStart | queueWordStore
  | poolWordStore | cocoonWordStore | pairWordStore | controlWordWrite | dieExclusion | cocoonFencing | powerOnBoot | linkKeyRenewal =>
    exact ⟨_, rfl⟩
  | acceptLaunch | trapDelivery | successorDecrement | takeRunListHead | pairedMessageCompare =>
    simp only [exec, execAcceptLaunch, execTrapDelivery, execSuccessorDecrement, execTakeRunListHead, execPairedMessageCompare]
    repeat' split
    all_goals exact ⟨_, rfl⟩
  | resultReturn | waitListRecheck | felimitTrap | waitListEntryFreed | matchCacheFill | commitComplete | tlbiComplete | fenceMarker
  | markerAck =>
    simp only [exec, execResultReturn, execWaitListRecheck, execFelimitTrap, execWaitListEntryFreed, execMatchCacheFill, execCommitComplete,
      execTlbiComplete, execFenceMarker, execMarkerAck]
    repeat' split
    all_goals exact ⟨_, rfl⟩
  | sramRequest | deviceStore | parityDifference | deviceRead | reconstruction | deviceAtomic | parityResync | pageWalkComplete =>
    simp only [exec, execSramRequest, execDeviceStore, execParityDifference, execDeviceRead, execReconstruction, execDeviceAtomic,
      execParityResync, execPageWalkComplete]
    repeat' split
    all_goals exact ⟨_, rfl⟩
  | sequencerSend | matrixOpComplete | oloadComplete | streamElementArrival | engineKickAccept | engineCommandComplete | engineAccessFailed
  | dispatchStage | productSpawn | combineStage =>
    simp only [exec, execSequencerSend, execMatrixOpComplete, execOloadComplete, execStreamElementArrival, execEngineKickAccept,
      execEngineCommandComplete, execEngineAccessFailed, execDispatchStage, execProductSpawn, execCombineStage]
    repeat' split
    all_goals exact ⟨_, rfl⟩
  | slotHandover | clusterHandover | vfPostedWrite | vfTaggedRead | peerRequest | functionLevelReset | managementWindowWrite =>
    simp only [exec, execSlotHandover, execClusterHandover, execVfPostedWrite, execVfTaggedRead, execPeerRequest, execFunctionLevelReset,
      execManagementWindowWrite]
    repeat' split
    all_goals exact ⟨_, rfl⟩
  | monitorEvent | monitorSample | clockStepClimb | scalePortLinkChange | stackLoss | planeLoss | softError =>
    simp only [exec, execMonitorEvent, execMonitorSample, execClockStepClimb, execScalePortLinkChange, execStackLoss, execPlaneLoss,
      execSoftError]
    repeat' split
    all_goals exact ⟨_, rfl⟩
  | _ => exact issue_next _ _ _

/-! ## Turns and moves -/

theorem runSlot_next (s : State) (g : Nat) : ∃ t, runSlot s g = .next t := by
  unfold runSlot
  split
  · exact ⟨_, rfl⟩
  · exact exec_next _ _

/-- Both copies of a pair run their words where the move that runs one does. -/
theorem pairMove_next {run : State → Nat → Host.Outcome State Fault Refusal} (hrun : ∀ s g, ∃ t, run s g = .next t) (s : State) (k : Nat)
    (p : Pair) (g h : Nat) : ∃ t, pairMove run s k p g h = .next t := by
  have hcopy : ∀ (b : Bool) (x : State), ∃ t, (if b then run x g else .next x) = .next t := fun b x => by
    cases b
    · exact ⟨_, rfl⟩
    · exact hrun x g
  obtain ⟨t, ht⟩ := hcopy p.msgP.isEmpty s
  obtain ⟨u, hu⟩ := hcopy p.msgS.isEmpty (secondaryStart s g h)
  unfold pairMove
  simp only [ht, hu]
  exact ⟨_, rfl⟩

theorem pairSend_next {run : State → Host.Outcome State Fault Refusal} (hrun : ∀ s, ∃ t, run s = .next t) (s : State) (k : Nat) (p : Pair)
    (g h : Nat) : ∃ t, pairSend run s k p g h = .next t := by
  obtain ⟨t, ht⟩ := hrun s
  obtain ⟨u, hu⟩ := hrun (secondaryStart s g h)
  unfold pairSend
  simp only [ht, hu]
  split <;> exact ⟨_, rfl⟩

theorem slotMove_next (s : State) (g : Nat) : ∃ t, slotMove s g = .next t := by
  unfold slotMove
  split
  · exact runSlot_next s g
  · split
    · exact pairMove_next runSlot_next ..
    · exact ⟨_, rfl⟩

theorem sendMove_next (s : State) (core : Nat) : ∃ t, sendMove s core = .next t := by
  have hsend := exec_next (.sequencerSend core)
  unfold sendMove
  split
  · exact hsend s
  · split
    · exact pairSend_next hsend ..
    · exact ⟨_, rfl⟩

theorem streamMove_next (s : State) (g k : Nat) : ∃ t, streamMove s g k = .next t := by
  unfold streamMove
  split <;> exact exec_next (.streamElementArrival g k) _

theorem runInbox_next (s : State) : ∃ t, runInbox s = .next t := by
  unfold runInbox
  split
  · exact ⟨_, rfl⟩
  · dsimp only
    split
    · split
      · exact exec_next _ _
      · exact ⟨_, rfl⟩
    · exact ⟨_, rfl⟩

theorem MgmtReq.run_next (s : State) (r : MgmtReq) : ∃ t, r.run s = .next t := by
  cases r with
  | status q => exact exec_next (.status q) s
  | attest q n => exact exec_next (.attest q n) s
  | idkey q => exact exec_next (.idkey q) s
  | extend q d => exact exec_next (.extend q d) s
  | fwchunk q o t l d => exact exec_next (.fwchunk q o t l d) s
  | setchip q c => exact exec_next (.setchip q c) s
  | bindvf q v p => exact exec_next (.bindvf q v p) s
  | keyinstall q t => exact exec_next (.keyinstall q t) s
  | keyerase q t => exact exec_next (.keyerase q t) s
  | addrmap q c m i => exact exec_next (.addrmap q c m i) s
  | qpset q n p c t h e k => exact exec_next (.qpset q n p c t h e k) s
  | qpclear q n p => exact exec_next (.qpclear q n p) s
  | reset q => exact exec_next (.reset q) s

/-- Every move has a next state: it is the step of an agent, a turn, or what serves a request. -/
theorem Move.run_next (s : State) (m : Move) : ∃ t, m.run s = .next t := by
  cases m with
  | inbox => exact runInbox_next s
  | slot g => exact slotMove_next s g
  | sequencerSend core => exact sendMove_next s core
  | streamElementArrival g port => exact streamMove_next s g port
  | peer => exact ⟨_, rfl⟩
  | request =>
    simp only [Move.run]
    split
    · exact MgmtReq.run_next s _
    · exact ⟨_, rfl⟩
  | acceptLaunch cl q => exact exec_next (.acceptLaunch cl q) s
  | createContinuation cl lid => exact exec_next (.createContinuation cl lid) s
  | retirementReport k => exact exec_next (.retirementReport k) s
  | discardReport k => exact exec_next (.discardReport k) s
  | successorDecrement k => exact exec_next (.successorDecrement k) s
  | takeRunListHead cl => exact exec_next (.takeRunListHead cl) s
  | resultReturn g k => exact exec_next (.resultReturn g k) s
  | waitListRecheck cl => exact exec_next (.waitListRecheck cl) s
  | felimitTrap rid => exact exec_next (.felimitTrap rid) s
  | waitListEntryFreed cl => exact exec_next (.waitListEntryFreed cl) s
  | matchCacheFill g => exact exec_next (.matchCacheFill g) s
  | commitComplete k => exact exec_next (.commitComplete k) s
  | sweepClose => exact exec_next .sweepClose s
  | matrixOpComplete core k => exact exec_next (.matrixOpComplete core k) s
  | oloadComplete core k => exact exec_next (.oloadComplete core k) s
  | trapDelivery g => exact exec_next (.trapDelivery g) s
  | handlerEntryWrite part => exact exec_next (.handlerEntryWrite part) s
  | pageWalkComplete k => exact exec_next (.pageWalkComplete k) s
  | retryEntryWrite cl => exact exec_next (.retryEntryWrite cl) s
  | tlbiComplete k => exact exec_next (.tlbiComplete k) s
  | sramRequest rid => exact exec_next (.sramRequest rid) s
  | deviceStore k => exact exec_next (.deviceStore k) s
  | parityDifference k => exact exec_next (.parityDifference k) s
  | deviceRead rid => exact exec_next (.deviceRead rid) s
  | reconstruction k => exact exec_next (.reconstruction k) s
  | deviceAtomic rid => exact exec_next (.deviceAtomic rid) s
  | fenceMarker g plane stack => exact exec_next (.fenceMarker g plane stack) s
  | markerAck g plane stack => exact exec_next (.markerAck g plane stack) s
  | parityResync k => exact exec_next (.parityResync k) s
  | engineKickAccept e => exact exec_next (.engineKickAccept e) s
  | engineCommandComplete e => exact exec_next (.engineCommandComplete e) s
  | dispatchStage die => exact exec_next (.dispatchStage die) s
  | productSpawn die => exact exec_next (.productSpawn die) s
  | combineStage die => exact exec_next (.combineStage die) s
  | slotHandover g => exact exec_next (.slotHandover g) s
  | clusterHandover cl => exact exec_next (.clusterHandover cl 0) s
  | monitorEvent => exact exec_next .monitorEvent s
  | pairedMessageCompare k => exact exec_next (.pairedMessageCompare k) s

/-- A step whose move has a next state: the secondaries of the pairs follow it (R396). -/
theorem runMove_of_next {s t : State} {m : Move} (h : m.run s = .next t) :
    runMove s m = .next (if s.pairs = [] then t else followAll s t (m.ownPair s)) := by
  unfold runMove
  rw [h]

theorem step_runs (s : State) : Runs s := by
  unfold Runs step
  split
  · exact ⟨_, rfl⟩
  · obtain ⟨t, ht⟩ := Move.run_next { s with sched := s.sched.tail } ‹Move›
    exact ⟨_, runMove_of_next ht⟩

/-! ## A part that has stopped -/

theorem moves_of_stopped {s : State} (h : s.stopped = true) :
    moves s = (if s.inbox = [] then [] else [.inbox]) ++ if requestDue s then [.request] else [] := by
  unfold moves
  rw [if_pos h]

/-- Where one move alone is enabled, the step is that move. -/
theorem step_of_only {s t : State} {m : Move} (hm : moves s = [m]) (h : m.run { s with sched := s.sched.tail } = .next t) :
    step s = .next (if s.pairs = [] then t
      else followAll { s with sched := s.sched.tail } t (m.ownPair { s with sched := s.sched.tail })) := by
  have hchosen : chooseMove s = some m := by simp [chooseMove, hm, Nat.mod_one]
  unfold step
  rw [hchosen]
  exact runMove_of_next h

/-- What a stopped part takes comes from outside. -/
theorem isOutside_of_whenStopped {i : Instr} (h : whenStopped i = true) : isOutside i = true := by
  unfold whenStopped at h
  split at h
  · rfl
  · rfl
  · rfl
  · cases h

/-- A stopped part takes the oldest step from outside, or drops it (R379). -/
theorem runInbox_of_stopped {s : State} {i : Instr} {rest : List Instr} (hs : s.stopped = true) (hin : s.inbox = i :: rest) :
    runInbox s = if whenStopped i = true then exec i { s with inbox := rest } else .next { s with inbox := rest } := by
  have hfirst : inboxNext s = some 0 := by simp [inboxNext, hs, hin, List.findIdx?_cons]
  have htest : (isOutside i && (!s.stopped || whenStopped i)) = whenStopped i := by
    cases hw : whenStopped i <;> simp [hs]
    exact isOutside_of_whenStopped hw
  unfold runInbox
  rw [hfirst]
  dsimp only
  rw [hin]
  simp only [List.getElem?_cons_zero, List.eraseIdx_cons_zero, htest]

theorem whenStopped_iff (i : Instr) : whenStopped i = true ↔
    (∃ q, i = .status q) ∨ (∃ len image, i = .powerOnBoot len image) ∨ ∃ ofs len data, i = .managementWindowWrite ofs len data := by
  cases i <;> simp [whenStopped]

/-- Settles O57: every move is the step of an agent or a turn, each of which has a next state; the moves of a stopped part are its oldest
step from outside and the request that is posted. -/
theorem thePartNeverStops : Obligations.ThePartNeverStops := by
  unfold Obligations.ThePartNeverStops
  refine ⟨exec_next, step_runs, fun s hs => ⟨fun hin hreq => ?idle, fun hin hreq q hq => ?status, fun i rest hin hreq => ?outside⟩, whenStopped_iff⟩
  case idle =>
    have hnone : chooseMove s = none := by simp [chooseMove, moves_of_stopped hs, hin, hreq]
    unfold step
    rw [hnone]
  case status =>
    have hmoves : moves s = [.request] := by simp [moves_of_stopped hs, hin, hreq]
    obtain ⟨t, ht⟩ := exec_next (.status q) { s with sched := s.sched.tail }
    have hrun : Move.request.run { s with sched := s.sched.tail } = .next t := by
      have hbuffer : bufferRequest { s with sched := s.sched.tail } = .inr (.status q) := hq
      simp only [Move.run, hbuffer]
      exact ht
    rw [step_of_only hmoves hrun, ht]
    rfl
  case outside =>
    have hmoves : moves s = [.inbox] := by simp [moves_of_stopped hs, hin, hreq]
    obtain ⟨t, ht⟩ := runInbox_next { s with sched := s.sched.tail }
    have hrun := runInbox_of_stopped (s := { s with sched := s.sched.tail }) hs hin
    rw [step_of_only (m := .inbox) hmoves ht, ← hrun, ht]
    rfl

end Sys2Proof.Machine
end

section
/-! PROOFS. What the part holds after boot (R43, R315): nothing is listed in its tables and memories, so each reads as its reset value. -/

namespace Sys2Proof.Machine

@[simp] theorem State.cluster_reset (cl : Nat) : State.reset.cluster cl = Cluster.reset := rfl
@[simp] theorem State.core_reset (c : Nat) : State.reset.core c = Core.reset := rfl
@[simp] theorem State.slot_reset (g : Nat) : State.reset.slot g = Slot.reset := rfl
@[simp] theorem State.engine_reset (e : Nat) : State.reset.engine e = Engine.reset := rfl

@[simp] theorem bitAt_zero (i : Nat) : bitAt 0 i = false := by simp [bitAt]

/-- A cluster may send to itself alone until its permission table is written (R304). -/
theorem allowed_reset (cl p : Nat) : allowed State.reset cl p = (cl == p) := by
  rw [allowed, State.cluster_reset, show Cluster.reset.perm = 0 from rfl, bitAt_zero, Bool.or_false]

/-- Settles O59: every clause reads the reset value of its part, one of them through the permission that a cluster has for itself. -/
theorem resetValues : Obligations.ResetValues := by
  unfold Obligations.ResetValues
  refine ⟨rfl, fun k => ⟨rfl, rfl, rfl⟩, fun cl => ?cluster, rfl, rfl, rfl, fun e => ⟨rfl, rfl, rfl⟩, fun c n => ⟨rfl, rfl, rfl, rfl⟩,
    fun g => rfl, rfl⟩
  case cluster => exact ⟨rfl, fun _ => rfl, allowed_reset cl, fun _ => rfl, fun _ => rfl, rfl, rfl, rfl, rfl, rfl, rfl⟩

end Sys2Proof.Machine
end

section
/-! PROOFS. Why a step may not run the word at its slot's offset (R35, R312): a fetch from a cluster that holds the requests of the
partition for a handover waits. -/

namespace Sys2Proof.Machine

/-- A launch whose code object lies at the start of the slice of virtual cluster 1. -/
def farLaunch : Launch :=
  { used := true, queue := 0, part := 0, ten := 0, cls := 0, prv := 0, pri := 0, entry := 0, paired := false, ldone := RegVal.zero, lgen := 0
    lcode := ⟨capBits 0 (permR ||| permX ||| permGLB) (sramAddr 1 0x1000) (sramAddr 1 0) 0 (sramAddr 1 0), true, false⟩
    blocks := 1, ltdir := 0, shape := 0, ext := 0, lp0 := 0, lp1 := 0, seeds := [], next := none, live := 1, ended := 0, halted := false
    faulted := false, unpaired := false }

/-- A part whose cluster 0 runs that launch, while physical cluster 1, which virtual cluster 1 names, holds the requests of the partition
for a handover (R312). -/
def farCode : State :=
  { State.reset with
    clusters := [(0, { Cluster.reset with owner := 2 ^ 63, perm := 2, maps := [(0, [2 ^ 15, 2 ^ 15 + 1])], launches := [(0, farLaunch)] }),
                 (1, { Cluster.reset with owner := 2 ^ 63, heldFor := [0] })] }

/-- The capability of the code object covers its first doubleword, whose bytes lie in cluster 1. -/
theorem findAt_farCode : capCheck (codeCap farCode 0) (sramAddr 1 0) 8 permX 8 = none ∧
    findAt farCode (sramAddr 1 0) 8 4 3 3 = .ok (.sram 1 0, none) farCode := ⟨by decide +kernel, by rfl⟩

theorem codeDw_farCode : codeDw farCode 0 = .wait (.held (sramAddr 1 0) 8) farCode := by rfl

/-- Refutes O56: the second clause says that a doubleword of the code object is read whenever its bytes are found in a clean slice; a
fetch from a cluster that holds the partition's requests waits instead, as R312 asks, and no hypothesis excludes it. -/
theorem not_stepRunsTheDecodedWord : ¬ Obligations.StepRunsTheDecodedWord := by
  unfold Obligations.StepRunsTheDecodedWord
  rintro ⟨-, hread⟩
  have hok := hread farCode farCode 0 1 0 none findAt_farCode.1 findAt_farCode.2 (by decide +kernel) rfl fun _ _ => rfl
  rw [codeDw_farCode] at hok
  cases hok

end Sys2Proof.Machine
end

section
/-! SUPPORT. What two writes of one slot leave, and what the end of a search leaves of its slot. -/

namespace Sys2Proof.Machine

/-- The second of two values at a key stays. -/
theorem ins_ins {α : Type} (m : Sparse α) (j : Nat) (v w : α) : ins (ins m j v) j w = ins m j w := by
  induction m with
  | nil => simp [ins]
  | cons kv m ih =>
    obtain ⟨k, x⟩ := kv
    simp only [ins]
    split
    · simp [ins]
    · split
      · next hlt heq => simp [ins, heq]
      · next hlt hne => simp [ins, hlt, hne, ih]

theorem State.setSlot_setSlot (s : State) (g : Nat) (x y : Slot) : (s.setSlot g x).setSlot g y = s.setSlot g y := by
  simp [State.setSlot, ins_ins]

theorem State.onSlot_onSlot (s : State) (g : Nat) (f h : Slot → Slot) : (s.onSlot g f).onSlot g h = s.onSlot g fun x => h (f x) := by
  rw [State.onSlot, State.slot_onSlot_self, State.onSlot, State.setSlot_setSlot, State.onSlot]

/-- A search that is over leaves its slot but for the pin. -/
theorem slot_unpin (s : State) (g : Nat) : (unpin s g).slot g = { s.slot g with pin := none } := by
  unfold unpin
  split
  · next hpin => rw [← hpin]
  · simp [dropOldLines]

end Sys2Proof.Machine
end

section
/-! PROOFS. `end` (R47, R61, R243, R244): the winning entry's action, and the traps where there is none or it does not exist. -/

namespace Sys2Proof.Machine

/-- The blocks of the launch of the thread whose turn it is. -/
def blocksOf (s : State) : Nat := match s.launch (s.slot s.cur).lcl (s.slot s.cur).lid with | some l => l.blocks | none => 0

/-- The winning entry's action as it enters the slot. -/
def State.withLact (s : State) (g actn : Nat) : State := s.onSlot g fun x => { x with lact := actn }

/-! ## The search of an `end` -/

/-- The registers that a key names. -/
def keySels (o : EndOp) : List Sel := [o.sel0, o.sel1, o.sel2, o.sel3]

/-- What an `end` whose search found a winner or none comes to. -/
def endFound (s : State) : Option (Nat × Entry) → Res Unit
  | none => .trap .nomatch 0
  | some (_, e) => endAction s e

/-- An `end` that owes no result, whose key is not poisoned and whose search meets no poison goes on to the winning entry's action. -/
theorem exec_endBlk_of_search {o : EndOp} {s u : State} {f : Found} (howe : owesResult s s.cur = false)
    (hkey : ∀ x ∈ keySels o, x.wc ≠ 0 → 1 ≤ x.reg → x.reg ≤ 47 → ((s.slot s.cur).ctx.reg x.reg).psn = false)
    (hfound : searchTable s o.table (buildKey s s.cur (keySels o)) = .ok f u) (hpsn : f.psn = false) :
    exec (.endBlk o) s = issueOwn s (endFound u f.win) := by
  have hclean : ((keySels o).any fun x => x.wc != 0 && decide (1 ≤ x.reg ∧ x.reg ≤ 47) && ((s.slot s.cur).ctx.reg x.reg).psn) = false := by
    rw [List.any_eq_false]
    intro x hx
    simp only [Bool.and_eq_true, bne_iff_ne, decide_eq_true_eq, not_and, Bool.not_eq_true]
    exact fun ⟨hwc, hlo, hhi⟩ => hkey x hx hwc hlo hhi
  unfold keySels at hclean hfound
  simp only [exec, execEndBlk, howe, hclean, hfound, hpsn, Res.bind_ok, Bool.false_eq_true, if_false]
  rfl

/-! ## The actions -/

/-- An action that does not exist, or a block that does not, traps TABLE. -/
theorem endAction_of_missing {s : State} {e : Entry} (h : 5 ≤ e.actn ∨ ((e.actn = 0 ∨ e.actn = 1 ∨ e.actn = 3) ∧ blocksOf s ≤ e.next)) :
    endAction s e = .trap .table 0 := if_pos h

/-- Action 0 goes on in the next block once what the sequencer sent is complete. -/
theorem endAction_of_next {s : State} {e : Entry} (hact : e.actn = 0) (hblk : e.next < blocksOf s) (hseq : sequenced s s.cur = false) :
    endAction s e = .ok () ((dropGot (unpin s s.cur) s.cur).onSlot s.cur fun x =>
      { x with lact := 0, blk := e.next, ofs := 0, p0 := BitVec.ofNat 64 e.params, status := .ready, mark := false,
               ctx := { x.ctx with rep := Rep.none } }) := by
  have hexists : ¬(5 ≤ e.actn ∨ ((e.actn = 0 ∨ e.actn = 1 ∨ e.actn = 3) ∧ blocksOf s ≤ e.next)) := by omega
  refine (if_neg hexists).trans ?_
  simp [hact, hseq, State.onSlot_onSlot]

/-- Action 4 traps SOFT with the entry's parameters. -/
theorem endAction_of_trap {s : State} {e : Entry} (hact : e.actn = 4) :
    endAction s e = .ok () (trapSoft (s.withLact s.cur 4) s.cur (BitVec.ofNat 64 e.params)) := by
  simp [endAction, hact, State.withLact]

/-- Actions 1, 2 and 3 give up what the thread has and leave the slot. -/
theorem endAction_of_leave {s w : State} {e : Entry} (hact : e.actn = 2 ∨ (e.actn = 1 ∨ e.actn = 3) ∧ e.next < blocksOf s)
    (hgive : giveUp s = .ok () w) : endAction s e = .ok () (leaveSlot (w.withLact s.cur e.actn) s.cur e.actn e.next e.params) := by
  have hexists : ¬(5 ≤ e.actn ∨ ((e.actn = 0 ∨ e.actn = 1 ∨ e.actn = 3) ∧ blocksOf s ≤ e.next)) := by omega
  refine (if_neg hexists).trans ?_
  rw [hgive, Res.bind_ok]
  split
  · next h0 => omega
  · next h4 => omega
  · rfl

/-! ## What a record that leaves its slot holds -/

/-- The state in which the record of slot `g` is written back with a state. -/
def leftIdle (s : State) (g st next params : Nat) : State := idleSlot (writeBack (unpin s g) g 0 st next 0 (BitVec.ofNat 64 params)) g

/-- A suspended record joins the tail of its run list. -/
theorem leaveSlot_suspend (s : State) (g next params : Nat) :
    leaveSlot s g 1 next params = runTail (leftIdle s g 3 next params) (clusterOf g) ((unpin s g).slot g).recOfs := by
  simp [leaveSlot, leftIdle, slot_unpin]

/-- A record that ends is retired. -/
theorem leaveSlot_retire (s : State) (g next params : Nat) :
    leaveSlot s g 2 next params =
      retireRec (leftIdle s g 2 next params) (clusterOf g) ((unpin s g).slot g).recOfs (hwid g) 0 true := by
  simp [leaveSlot, leftIdle, slot_unpin]

/-- A record that awaits its count joins the tail of its run list where the count is zero. -/
theorem leaveSlot_await (s : State) (g next params : Nat) :
    leaveSlot s g 3 next params =
      if recCnt (leftIdle s g 3 next params) (clusterOf g) ((unpin s g).slot g).recOfs = 0 then
        runTail (leftIdle s g 3 next params) (clusterOf g) ((unpin s g).slot g).recOfs
      else leftIdle s g 3 next params := by
  simp [leaveSlot, leftIdle, slot_unpin]

/-- Settles O30: the search comes down to the winning entry, and each action is its own lemma. What a record that leaves holds rests on log
entry 77 (DEDUCED). -/
theorem endActions : Obligations.EndActions := by
  unfold Obligations.EndActions
  intro o s u f g sels blocks howe hkey hfound hpsn
  have hexec := exec_endBlk_of_search howe hkey hfound hpsn
  refine ⟨fun hwin => ?noWinner, fun i e hwin => ?winner⟩
  case noWinner => rw [hexec, hwin, endFound, issueOwn_trap]
  case winner =>
    rw [hwin, endFound] at hexec
    refine ⟨fun hmiss => ?missing, fun hact hblk hseq => ?next, fun hact => ?trap, fun w hgive =>
      ⟨fun hact hblk => ?suspend, fun hact => ?retire, fun hact hblk => ?await⟩⟩
    case missing => rw [hexec, endAction_of_missing hmiss, issueOwn_trap]
    case next => rw [hexec, endAction_of_next hact hblk hseq, issueOwn_ok]
    case trap => rw [hexec, endAction_of_trap hact, issueOwn_ok, hact]; rfl
    case suspend =>
      rw [hexec, endAction_of_leave (.inr ⟨.inl hact, hblk⟩) hgive, issueOwn_ok]
      simp only [hact, leaveSlot_suspend]
      rfl
    case retire =>
      rw [hexec, endAction_of_leave (.inl hact) hgive, issueOwn_ok]
      simp only [hact, leaveSlot_retire]
      rfl
    case await =>
      rw [hexec, endAction_of_leave (.inr ⟨.inr hact, hblk⟩) hgive, issueOwn_ok]
      simp only [hact, leaveSlot_await]
      rfl

end Sys2Proof.Machine
end

section
/-! PROOFS. The task words (R54, R250, R251): each sends one request to the home of the record that it names, `spawn` and `dec` after the
thread's earlier stores. -/

namespace Sys2Proof.Machine

/-- A word whose class of accesses has room goes on. -/
theorem room_of_hasRoom {s : State} {k : Cls} (h : hasRoom s s.cur k = true) : room k s = .ok () s := by simp [room, h]

/-- The request that a task access sends to the home of a record. -/
def taskRequest (s : State) (op : MemOp) (ea home ofs d : Nat) : Request :=
  { newReq s s.cur .plain op ea 64 0 d with tgt := .sram home ofs, phase := .sent }

/-- At a home that answers, a task access sends one request. -/
theorem sendTask_of_answers {s : State} {op : MemOp} {ea home ofs d : Nat} (h : nacked s home = false) :
    sendTask s op ea home ofs d = .ok () (awaitReply (sendReq s (taskRequest s op ea home ofs d))) := by
  simp [sendTask, taskRequest, h]

/-- A task word whose checks pass sends its request once the stores that it follows are performed. -/
theorem throughCont_of_checks {s u : State} {fs : List Nat} {d home ofs : Nat} {drain : Bool} {op : (Nat → RegVal) → MemOp}
    (hsrc : checkSrc s s.cur fs 0 = .ok () s) (hcont : contCheck s s.cur (fieldVal s s.cur fs 0) = .inr (home, ofs))
    (hdrain : if drain then taskDrain s = .ok () u else u = s) (hroom : hasRoom u u.cur .plain = true)
    (hhome : nacked (popAll u u.cur fs) home = false) :
    throughCont s fs d drain op =
      .ok () (awaitReply (sendReq (popAll u u.cur fs)
        (taskRequest (popAll u u.cur fs) (op fun i => fieldVal s s.cur fs i) (fieldVal s s.cur fs 0).addr home ofs d))) := by
  have hdrained : (if drain then taskDrain s else .ok () s) = .ok () u := by
    cases drain with
    | true => exact hdrain
    | false => exact congrArg (Res.ok ()) hdrain.symm
  simp only [throughCont, hsrc, hcont, hdrained, room_of_hasRoom hroom, sendTask_of_answers hhome, Res.bind_ok]

/-- The successor of a new record: none where C is 0, else the record that C names, whose checks pass. -/
def SuccessorOk (s : State) (fs : List Nat) (c : Nat) (succ : Option Nat) : Prop :=
  c = 0 ∧ succ = none ∨
    c ≠ 0 ∧ ∃ p, contCheck s s.cur (fieldVal s s.cur fs 2) = .inr p ∧
      ∃ chip vc ofs, placeOf (fieldVal s s.cur fs 2).addr 1 = .sram chip vc ofs ∧ succ = some (vc * 2 ^ 40 + ofs)

/-- `spawn` whose checks pass sends its request once the thread's earlier stores are performed. -/
theorem exec_spawn_of_checks {o : R4} {s u : State} {home : Nat} {succ : Option Nat} (hsrc : checkSrc s s.cur [o.a, o.b, o.c] 0 = .ok () s)
    (hsucc : SuccessorOk s [o.a, o.b, o.c] o.c succ)
    (hspawn : spawnCheck s s.cur (srcInt s [o.a, o.b, o.c] 0).toNat = .inr home) (hdrain : taskDrain s = .ok () u)
    (hroom : hasRoom u u.cur .plain = true) (hhome : nacked (popAll u u.cur [o.a, o.b, o.c]) home = false) :
    let p := popAll u u.cur [o.a, o.b, o.c]
    let desc := srcInt s [o.a, o.b, o.c] 0
    exec (.spawn o) s = .next (issued o.s s.cur (awaitReply (sendReq p
      (taskRequest p (.spawn desc (srcInt s [o.a, o.b, o.c] 1) succ) (sramAddr (fld desc.toNat 48 10) 0) home 0 o.d)))) := by
  simp only [srcInt] at hspawn ⊢
  simp only [exec, execSpawn, hsrc, Res.bind_ok]
  obtain ⟨hc, rfl⟩ | ⟨hc, p, hcont, chip, vc, ofs, hplace, rfl⟩ := hsucc
  · simp only [hc, if_true] at hspawn hhome ⊢
    simp only [hspawn, hdrain, room_of_hasRoom hroom, sendTask_of_answers hhome, Res.bind_ok, issue_ok]
  · simp only [if_neg hc, hcont, hplace, hspawn, hdrain, room_of_hasRoom hroom, sendTask_of_answers hhome, Res.bind_ok, issue_ok]

/-- Settles O33: the checks of each word pass, so only its request is left. -/
theorem taskWordsIssue : Obligations.TaskWordsIssue := by
  unfold Obligations.TaskWordsIssue
  refine ⟨fun o s u home succ hsrc hsucc hspawn hdrain hroom hhome => ?spawn,
    fun s u home ofs => ⟨fun m a b hsrc hcont hdrain hroom hhome => ?dec, fun o hsrc hcont hdrain hroom hhome => ?tget,
      fun m a b hsrc hcont hdrain hroom hhome => ?tset⟩⟩
  case spawn => exact exec_spawn_of_checks hsrc hsucc hspawn hdrain hroom hhome
  case dec =>
    have hlow : fld (fieldVal s s.cur [a, b] 1).bits.toNat 0 16 = (fieldVal s s.cur [a, b] 1).bits.toNat % 2 ^ 16 := by simp [fld]
    simp only [exec, execDec, throughCont_of_checks hsrc hcont hdrain hroom hhome, issue_ok, hlow, taskRequest]
  case tget => simp only [exec, execTget, throughCont_of_checks hsrc hcont hdrain hroom hhome, issue_ok, taskRequest]
  case tset => simp only [exec, execTsetCnt, throughCont_of_checks hsrc hcont hdrain hroom hhome, issue_ok, taskRequest, srcInt]

end Sys2Proof.Machine
end

section
/-! PROOFS. Why a full/empty access in the wrong state may not wait (R206, R309): in Handover it is withdrawn. -/

namespace Sys2Proof.Machine

/-- The loading full/empty access of slot 0 on the first word of cluster 0's slice. -/
def feRequest : Request :=
  { id := 1, slot := 0, thr := 0, ten := 0, cls := .plain, op := .fe 0 0, ea := sramAddr 0 0, len := 8, tgt := .sram 0 0, phase := .sent
    ofs := 0, rep := Rep.none, ord := 0, dst := 3, fault := 0, ia := 0, own := [], otag := none, grd := [], noTlb := false, since := 0
    pages := [], touch := [], kept := false, pops := [], flags := 0 }

/-- A part whose slot 0 is visited in Handover with that access alone outstanding; the word is empty. -/
def handoverFe : State :=
  { State.reset with slots := [(0, { Slot.reset with status := .handover })], net := [feRequest], nextId := 2 }

theorem atBank_handoverFe : AtBank handoverFe 1 feRequest 0 0 where
  sent := by decide +kernel
  phase := rfl
  tgt := rfl
  open_ := by decide +kernel
  queue := by decide +kernel
  clean := by decide +kernel

/-- Its step withdraws it, so nothing of it is left in the network. -/
theorem exec_handoverFe : exec (.sramRequest 1) handoverFe = .next (withdrawReq handoverFe feRequest) := by rfl

theorem net_withdrawn : (withdrawReq handoverFe feRequest).net = [] := by decide +kernel

/-- Refutes O44: the last clause on full/empty accesses says that one alone in the wrong state joins the wait list; in Handover its step
withdraws it instead, as R309 asks, and no hypothesis excludes it. -/
theorem not_sramAccessResults : ¬ Obligations.SramAccessResults := by
  unfold Obligations.SramAccessResults
  rintro ⟨hbank, -⟩
  obtain ⟨-, -, -, -, hfe⟩ := hbank 1 0 0 handoverFe feRequest atBank_handoverFe
  obtain ⟨-, -, hwait⟩ := hfe 0 0 rfl (by decide) rfl rfl (by decide +kernel) (.inl rfl)
  obtain ⟨t, hexec, -, q, hq, -⟩ := hwait (by decide +kernel) (by decide +kernel)
  rw [exec_handoverFe] at hexec
  cases hexec
  rw [net_withdrawn] at hq
  cases hq

end Sys2Proof.Machine
end

section
/-! SUPPORT. Full bits of words of a slice (R82), and fields of numbers that are written and read. -/

namespace Sys2Proof.Machine

/-! ## Fields -/

/-- A field reads as it was written. -/
theorem fld_setFld_same (x lo n v : Nat) : fld (setFld x lo n v) lo n = v % 2 ^ n := by
  refine Nat.eq_of_testBit_eq fun i => ?_
  rw [fld, Nat.testBit_mod_two_pow, Nat.testBit_div_two_pow, testBit_setFld, Nat.testBit_mod_two_pow]
  by_cases hi : i < n
  · have hin : lo ≤ i + lo ∧ i + lo < lo + n := by omega
    simp [hi, hin]
  · simp [hi]

/-- A field that another write misses stays. -/
theorem fld_setFld_apart {lo n lo' n' : Nat} (x v : Nat) (h : lo' + n' ≤ lo ∨ lo + n ≤ lo') :
    fld (setFld x lo n v) lo' n' = fld x lo' n' := by
  refine Nat.eq_of_testBit_eq fun i => ?_
  rw [fld, fld, Nat.testBit_mod_two_pow, Nat.testBit_mod_two_pow, Nat.testBit_div_two_pow, Nat.testBit_div_two_pow, testBit_setFld]
  by_cases hi : i < n'
  · have hout : ¬(lo ≤ i + lo' ∧ i + lo' < lo + n) := by omega
    rw [if_neg hout]
  · simp [hi]

/-! ## Full bits -/

/-- A word is as full as its bit was set (R82). -/
theorem sramFull_setWordFull (s : State) (cl ofs : Nat) (f : Bool) (h : s.sram.wf = true) :
    sramFull (setWordFull s cl ofs f) cl ofs = f := by
  have hcan := ((Store.wf_iff _).mp h).2.2.1
  unfold setWordFull
  split
  · assumption
  · simp [sramFull, Store.isFull, Store.setFull, look_put _ _ _ _ hcan]

/-- Setting a full bit changes no byte. -/
theorem bytes_setWordFull (s : State) (cl ofs : Nat) (f : Bool) : (setWordFull s cl ofs f).sram.bytes = s.sram.bytes := by
  unfold setWordFull
  split
  · rfl
  · rfl

end Sys2Proof.Machine
end

section
/-! PROOFS. How the scheduler takes a launch packet and settles it (R30, R31, R34-R36, R361). -/

namespace Sys2Proof.Machine

/-! ## Taking a packet (R30) -/

section TakePacket
variable (s : State) (cl q : Nat)

/-- Where the packet at the head of a queue lies. -/
def headOfs (w : Nat) : Nat := 128 * fld w 7 14 + 128 * fld w 120 8

/-- The part as a packet's words are corrected. -/
def settledHead : State :=
  { s with sram := s.sram.settleAll (sramKey cl (headOfs (look 0 (s.cluster cl).queues q))) 128 }

theorem sram_takePacket : (takePacket s cl q).2.sram =
    (setWordFull (settledHead s cl q) cl (headOfs (look 0 (s.cluster cl).queues q)) false).sram := by
  unfold takePacket
  rw [State.onCluster_sram]
  rfl

/-- Doubleword 0 of a packet that is taken becomes empty. -/
theorem sramFull_takePacket (h : s.sram.wf = true) :
    sramFull (takePacket s cl q).2 cl (headOfs (look 0 (s.cluster cl).queues q)) = false := by
  rw [sramFull, sram_takePacket]
  exact sramFull_setWordFull (settledHead s cl q) cl _ false (Store.wf_settleAll _ 128 h)

/-- Taking a packet corrects its words and changes no byte else. -/
theorem bytes_takePacket : (takePacket s cl q).2.sram.bytes = (settledHead s cl q).sram.bytes := by
  rw [sram_takePacket, bytes_setWordFull]

theorem packet_takePacket : ((takePacket s cl q).2.cluster cl).packet = some (takePacket s cl q).1 := by simp [takePacket]

theorem lastQ_takePacket : ((takePacket s cl q).2.cluster cl).lastQ = q := by simp [takePacket]

/-- The head of the queue advances in its ring. -/
theorem head_takePacket :
    let w := look 0 (s.cluster cl).queues q
    fld (look 0 ((takePacket s cl q).2.cluster cl).queues q) 120 8 = (fld w 120 8 + 1) % 2 ^ fld w 59 4 % 2 ^ 8 := by
  simp [takePacket, fld_setFld_same]

end TakePacket

/-- With a packet in hand ACCEPT_LAUNCH settles it. -/
theorem exec_acceptLaunch_of_packet {s : State} {cl q : Nat} {p : Packet} (hready : acceptReady s cl q = true)
    (hp : (s.cluster cl).packet = some p) : exec (.acceptLaunch cl q) s = .next (settlePacket s cl p) := by
  simp [exec, execAcceptLaunch, hready, hp]

/-- With none it takes one, and settles it unless what it names is held. -/
theorem exec_acceptLaunch_of_none {s : State} {cl q : Nat} (hready : acceptReady s cl q = true) (hp : (s.cluster cl).packet = none) :
    let p := (takePacket s cl q).1
    let u := (takePacket s cl q).2
    exec (.acceptLaunch cl q) s =
      .next (if fillHeld u cl (ownerOf u cl) p.done = true ∨ packetHeld u cl p = true then u else settlePacket u cl p) := by
  simp [exec, execAcceptLaunch, hready, hp]

/-! ## Settling a packet (R36, R361) -/

/-- The scheduler has done with the packet in hand. -/
def packetDone (s : State) (cl : Nat) : State :=
  State.onCluster { s with walks := s.walks.filter fun w => !(w.isEng && w.owner == 4096 + cl) } cl fun c => { c with packet := none }

/-- The refusal with a code, in a state, of a packet of partition `part`. -/
def refusal (s : State) (cl part : Nat) (p : Packet) (code : Nat) : State :=
  fillCompletion (packetDone s cl) cl p.queue p.qword part (fld p.qword 42 12) p.done (p.at_ 0x58 16) code 0

/-- Whether a packet agrees with its queue word (R361). -/
def Agrees (p : Packet) : Prop :=
  fld p.ctl 28 8 = fld p.qword 34 8 ∧ fld p.ctl 16 12 = fld p.qword 42 12 ∧ fld p.ctl 12 2 = fld p.qword 54 2

/-- Whether a paired packet names a home without a partner (R361). -/
def Unpaired (s : State) (cl : Nat) (p : Packet) : Prop :=
  p.ctl.testBit 14 = true ∧
    ∃ v ∈ usedHomes p.shape (p.at_ 0x68 64), ∀ h, vcMap s cl (ownerOf s cl) v = some h → bitAt (s.cluster h).pairW 63 = false

/-- The launch that an accepted packet becomes. -/
def acceptedLaunch (part : Nat) (p : Packet) (blocks : Nat) (seeds : List (Nat × RegVal)) : Launch :=
  { used := true, queue := p.queue, part := part, ten := fld p.qword 42 12, cls := fld p.qword 54 2, prv := fld p.qword 57 2
    pri := fld p.ctl 8 4, entry := fld p.ctl 36 24, paired := bitAt p.ctl 14, ldone := p.done, lgen := p.at_ 0x58 16, lcode := p.code
    blocks := blocks, ltdir := p.at_ 0x50 57, shape := p.shape, ext := p.at_ 0x68 64, lp0 := BitVec.ofNat 64 (p.at_ 0x70 64)
    lp1 := BitVec.ofNat 64 (p.at_ 0x78 64), seeds := seeds, next := some 0, live := 0, ended := 0, halted := false, faulted := false
    unpaired := false }

/-- What a packet that breaks no limit comes to once its reads are made: `part` is its partition. -/
def afterRead (cl part : Nat) (p : Packet) : CodeRead × State → State
  | (.miss va, u) => askSchedWalk u cl p.queue va
  | (.bad, u) => refusal u cl part p 0x06
  | (.ok blocks seeds, u) =>
    if p.at_ 0x10 128 / 2 ^ 7 ≠ 0 then refusal u cl part p 0x01
    else if bitAt p.ctl 14 && (usedHomes p.shape (p.at_ 0x68 64)).any (fun v => match vcMap u cl part v with
        | some h => !bitAt (u.cluster h).pairW 63
        | none => true) then refusal u cl part p 0x07
    else
      (packetDone u cl).setLaunch cl (((List.range 64).find? fun k => (u.launch cl k).isNone).getD 0)
        (acceptedLaunch part p blocks seeds)

section Settle
variable {s : State} {cl : Nat} {p : Packet}

/-- A packet whose `LDONE` is unusable makes a fault entry only. -/
theorem settlePacket_of_unusable (hdone : doneUsable s cl (ownerOf s cl) p.done = false) :
    settlePacket s cl p = faultEntry (packetDone s cl) cl 0x00 0x20 (fld p.qword 42 12) 0 p.done.addr 0 :=
  if_pos (by simp [hdone])

variable (hdone : doneUsable s cl (ownerOf s cl) p.done = true)
include hdone

theorem settlePacket_of_disagrees (hagree : ¬Agrees p) : settlePacket s cl p = refusal s cl (ownerOf s cl) p 0x05 := by
  have hdis : fld p.ctl 28 8 ≠ fld p.qword 34 8 ∨ fld p.ctl 16 12 ≠ fld p.qword 42 12 ∨ fld p.ctl 12 2 ≠ fld p.qword 54 2 := by
    unfold Agrees at hagree
    omega
  exact (if_neg (by simp [hdone])).trans (if_pos hdis)

variable (hagree : Agrees p)
include hagree

theorem settlePacket_of_bad (hbad : packetBad s cl (ownerOf s cl) p = true) :
    settlePacket s cl p = refusal s cl (ownerOf s cl) p 0x04 := by
  obtain ⟨h1, h2, h3⟩ := hagree
  exact (if_neg (by simp [hdone])).trans ((if_neg (by simp [h1, h2, h3])).trans (if_pos hbad))

variable (hgood : packetBad s cl (ownerOf s cl) p = false)
include hgood

theorem settlePacket_of_failed (hfail : p.failed = true) : settlePacket s cl p = refusal s cl (ownerOf s cl) p 0x06 := by
  obtain ⟨h1, h2, h3⟩ := hagree
  exact (if_neg (by simp [hdone])).trans ((if_neg (by simp [h1, h2, h3])).trans ((if_neg (by simp [hgood])).trans (if_pos hfail)))

/-- A packet without a fault of its own is settled by what its reads come to. -/
theorem settlePacket_of_reads (hsound : p.failed = false) :
    settlePacket s cl p = afterRead cl (ownerOf s cl) p (readCode s (schedSender s cl p.qword p.queue) p) := by
  obtain ⟨h1, h2, h3⟩ := hagree
  exact (if_neg (by simp [hdone])).trans ((if_neg (by simp [h1, h2, h3])).trans ((if_neg (by simp [hgood])).trans
    ((if_neg (by simp [hsound])).trans rfl)))

end Settle

/-! ## What the reads come to -/

section Reads
variable {s u : State} {cl part blocks : Nat} {p : Packet} {seeds : List (Nat × RegVal)}

theorem afterRead_of_reserved (hres : p.at_ 0x10 128 / 2 ^ 7 ≠ 0) :
    afterRead cl part p (.ok blocks seeds, u) = refusal u cl part p 0x01 := if_pos hres

theorem testBit_eq_bitAt (x i : Nat) : x.testBit i = bitAt x i := Nat.testBit_eq_decide_div_mod_eq

/-- The scheduler finds a home without a partner exactly where the packet names one. -/
theorem unpaired_iff (hclusters : u.clusters = s.clusters) :
    (bitAt p.ctl 14 && (usedHomes p.shape (p.at_ 0x68 64)).any (fun v => match vcMap u cl (ownerOf s cl) v with
        | some h => !bitAt (u.cluster h).pairW 63
        | none => true)) = true ↔ Unpaired s cl p := by
  have hmap (v : Nat) : vcMap u cl (ownerOf s cl) v = vcMap s cl (ownerOf s cl) v := by simp only [vcMap, State.cluster, hclusters]
  have hcluster (h : Nat) : u.cluster h = s.cluster h := by simp only [State.cluster, hclusters]
  simp only [Bool.and_eq_true, List.any_eq_true, Unpaired, testBit_eq_bitAt, hmap, hcluster]
  refine and_congr_right fun _ => exists_congr fun v => and_congr_right fun _ => ?_
  cases vcMap s cl (ownerOf s cl) v with
  | none => simp
  | some h => simp

variable (hres : p.at_ 0x10 128 / 2 ^ 7 = 0) (hclusters : u.clusters = s.clusters)
include hres hclusters

theorem afterRead_of_unpaired (hpair : Unpaired s cl p) :
    afterRead cl (ownerOf s cl) p (.ok blocks seeds, u) = refusal u cl (ownerOf s cl) p 0x07 :=
  (if_neg (not_not.mpr hres)).trans (if_pos ((unpaired_iff hclusters).mpr hpair))

/-- A packet that nothing refuses becomes a launch at the first free place. -/
theorem afterRead_of_accepted {lid : Nat} (hpair : ¬Unpaired s cl p)
    (hfree : (List.range 64).find? (fun k => (s.launch cl k).isNone) = some lid) :
    afterRead cl (ownerOf s cl) p (.ok blocks seeds, u) =
      (packetDone u cl).setLaunch cl lid (acceptedLaunch (ownerOf s cl) p blocks seeds) := by
  have hlaunch (k : Nat) : u.launch cl k = s.launch cl k := by simp only [State.launch, State.cluster, hclusters]
  refine (if_neg (not_not.mpr hres)).trans ((if_neg (mt (unpaired_iff hclusters).mp hpair)).trans ?_)
  simp only [hlaunch, hfree, Option.getD_some]

end Reads

/-- Settles O41: a packet in hand is settled as it is, the next one after it is taken; the refusals are the branches of `settlePacket` in
their order, then those of its reads. That `FSEQ` is 0 in the fault entry is log entry 67 (DESIGN CHOICE). -/
theorem launchesAreAcceptedOrRefused : Obligations.LaunchesAreAcceptedOrRefused := by
  unfold Obligations.LaunchesAreAcceptedOrRefused
  refine ⟨fun cl q s hready => ⟨fun p hp => exec_acceptLaunch_of_packet hready hp, fun hp hwf => ?taken⟩, fun cl s p => ?settled⟩
  case taken =>
    exact ⟨(takePacket s cl q).2, exec_acceptLaunch_of_none hready hp, sramFull_takePacket s cl q hwf, packet_takePacket s cl q,
      lastQ_takePacket s cl q, bytes_takePacket s cl q, head_takePacket s cl q⟩
  case settled =>
    refine ⟨settlePacket_of_unusable, fun hdone => ⟨settlePacket_of_disagrees hdone, fun hagree hbad => settlePacket_of_bad hdone hagree hbad,
      fun hagree hgood => ⟨fun hfail => settlePacket_of_failed hdone hagree hgood hfail, fun hsound u => ?reads⟩⟩⟩
    rw [settlePacket_of_reads hdone hagree hgood hsound]
    refine ⟨fun hread => ?badRead, fun blocks seeds lid hread hclusters => ⟨fun hres => ?reserved, fun hres hpair => ?unpaired,
      fun hres hpair hfree => ?accepted⟩⟩
    case badRead => rw [hread]; rfl
    case reserved => rw [hread]; exact afterRead_of_reserved hres
    case unpaired => rw [hread]; exact afterRead_of_unpaired hres hclusters hpair
    case accepted =>
      rw [hread]
      refine ⟨_, afterRead_of_accepted hres hclusters hpair hfree, ?_⟩
      -- Each field of the launch is the packet's, by definition.
      repeat' apply And.intro
      all_goals rfl

end Sys2Proof.Machine
end

section
/-! SUPPORT. What the operations on device memory leave as it was: the stacks that are lost, the pages that are retired, the images in
register caches, the partitions and the maps of the clusters. A lost line is reported in a fault ring, so that slices and clusters do
change. -/

namespace Sys2Proof.Machine

/-- What the operations on device memory leave as it was. -/
structure DevKept (s t : State) : Prop where
  lost    : t.lost = s.lost
  retired : t.retired = s.retired
  cached  : t.cached = s.cached
  parts   : t.parts = s.parts
  maps    : ∀ cl, (t.cluster cl).maps = (s.cluster cl).maps

namespace DevKept

protected theorem refl (s : State) : DevKept s s := ⟨rfl, rfl, rfl, rfl, fun _ => rfl⟩

section Steps
variable {s t : State} (h : DevKept s t)
include h

/-- A change of other parts of the state. -/
theorem of_eq {u : State} (hl : u.lost = t.lost) (hr : u.retired = t.retired) (hc : u.cached = t.cached) (hp : u.parts = t.parts)
    (hm : u.clusters = t.clusters) : DevKept s u :=
  ⟨hl.trans h.lost, hr.trans h.retired, hc.trans h.cached, hp.trans h.parts,
    fun cl => by simpa only [State.cluster, hm] using h.maps cl⟩

theorem foldl {β : Type} {f : State → β → State} (hf : ∀ t b, DevKept s t → DevKept s (f t b)) (l : List β) : DevKept s (l.foldl f t) := by
  induction l generalizing t with
  | nil => exact h
  | cons b l ih => exact ih (hf t b h)

/-- A cluster replaced by one with the same maps. -/
theorem setCluster (cl : Nat) {x : Cluster} (hx : x.maps = (t.cluster cl).maps) : DevKept s (t.setCluster cl x) :=
  ⟨h.lost, h.retired, h.cached, h.parts, fun i => by
    rw [State.cluster_setCluster]
    split
    · next hi => rw [hx, hi, h.maps]
    · exact h.maps i⟩

theorem setFaultW (cl w : Nat) : DevKept s (t.setCluster cl { t.cluster cl with faultW := w }) := h.setCluster cl rfl

theorem sramWrite (cl ofs n v : Nat) : DevKept s (sramWrite t cl ofs n v) := h.of_eq rfl rfl rfl rfl rfl

theorem sramWriteCap (cl ofs : Nat) (v : RegVal) : DevKept s (sramWriteCap t cl ofs v) := by
  unfold Machine.sramWriteCap
  exact h.of_eq rfl rfl rfl rfl rfl

theorem setWordFull (cl ofs : Nat) (f : Bool) : DevKept s (setWordFull t cl ofs f) := by
  unfold Machine.setWordFull
  split
  · exact h
  · exact (h.setCluster cl (x := { t.cluster cl with rechecks := (t.cluster cl).rechecks ++ [(ofs / 8 * 8, t.nextId)] }) rfl).of_eq
      rfl rfl rfl rfl rfl

theorem fillWord (cl ofs v : Nat) : DevKept s (fillWord t cl ofs v) := by
  unfold Machine.fillWord
  exact (h.sramWrite ..).setWordFull ..

theorem faultEntry (cl fsrc fcode ten fseq addr aux : Nat) : DevKept s (faultEntry t cl fsrc fcode ten fseq addr aux) := by
  unfold Machine.faultEntry
  dsimp only
  split
  · exact h.setFaultW ..
  · exact setFaultW (fillWord (sramWrite (sramWrite (sramWrite h ..) ..) ..) ..) ..

theorem monitorEvent (kind d1 d2 : Nat) : DevKept s (monitorEvent t kind d1 d2) := h.of_eq rfl rfl rfl rfl rfl

theorem reportLost (pa : Nat) : DevKept s (reportLost t pa) := by
  unfold Machine.reportLost
  split
  · dsimp only
    split
    · exact (h.monitorEvent ..).faultEntry ..
    · exact h.monitorEvent ..
  · exact h.monitorEvent ..

/-- A change of the memory of the stacks. -/
theorem setDev (m : Store) : DevKept s { t with dev := m } := h.of_eq rfl rfl rfl rfl rfl

theorem loseWords (ws : List Nat) : DevKept s (loseWords t ws) := (h.setDev _).foldl (fun _ _ ht => ht.reportLost _) _

/-- A change of the errors counted of pages. -/
theorem setPageErrs (m : Sparse Nat) : DevKept s { t with pageErrs := m } := h.of_eq rfl rfl rfl rfl rfl

theorem countError (w : Nat) : DevKept s (countError t w) := by
  unfold Machine.countError
  dsimp only
  split
  · exact monitorEvent (h.setPageErrs _) ..
  · exact h.setPageErrs _

theorem correctWord (w : Nat) : DevKept s (correctWord t w) := by
  unfold Machine.correctWord
  split
  · exact (h.setDev _).countError w
  · exact h

theorem correctParity (k : Nat) : DevKept s (correctParity t k) := by
  unfold Machine.correctParity
  split
  · exact h.of_eq rfl rfl rfl rfl rfl
  · exact h

theorem correctRow (w : Nat) : DevKept s (correctRow t w) := by
  unfold Machine.correctRow
  exact (h.foldl (fun _ _ ht => ht.correctWord _) _).correctParity _

theorem rebuildWord (w : Nat) : DevKept s (rebuildWord t w) := by
  unfold Machine.rebuildWord
  dsimp only
  split
  · exact (h.setDev _).countError w
  · exact h.setDev _

theorem rebuildUnit (w : Nat) : DevKept s (rebuildUnit t w) := by
  unfold Machine.rebuildUnit
  have hrow : DevKept s ((unitWords w).foldl Machine.correctRow t) := h.foldl (fun _ _ ht => ht.correctRow _) _
  refine loseWords ?_ _
  split
  · exact hrow
  · exact hrow.foldl (fun _ _ ht => ht.rebuildWord _) _

theorem settleWord (w : Nat) : DevKept s (settleWord t w) := by
  unfold Machine.settleWord
  split
  · exact h.rebuildUnit w
  · split
    · exact h.correctWord w
    · exact h.rebuildUnit w
    · exact h

theorem devSettle (pa n : Nat) : DevKept s (devSettle t pa n) := h.foldl (fun _ _ ht => ht.settleWord _) _

theorem applyDiff (d : ParityDiff) : DevKept s (applyDiff t d) := by
  unfold Machine.applyDiff
  dsimp only
  split
  · exact h.of_eq rfl rfl rfl rfl rfl
  · exact (h.foldl (fun _ kb ht => ht.correctParity ((localAddr d.pa + kb.1) / 8)) d.bytes).of_eq rfl rfl rfl rfl rfl

theorem putStored (id slot die pa : Nat) (bs : Sparse (BitVec 8)) : DevKept s (putStored t id slot die pa bs).1 := by
  unfold Machine.putStored
  dsimp only
  split
  · exact h.setDev _
  · split
    · exact h.applyDiff _
    · exact h.setDev _

theorem writeLine (id slot die ten line : Nat) (bs : Sparse (BitVec 8)) (tags : Nat) :
    DevKept s (writeLine t id slot die ten line bs tags).1 := by
  unfold Machine.writeLine
  dsimp only
  have hsettled := h.foldl (f := fun u i => Machine.settleWord u (8 * (forwardPa t (64 * line) / 64) + i))
    (fun _ _ hu => hu.settleWord _) (List.range 8)
  generalize (List.range 8).foldl _ t = u at hsettled ⊢
  refine putStored ?_ ..
  exact hsettled.of_eq rfl rfl rfl rfl rfl

theorem storeLine (id slot die ten line : Nat) (bs : Sparse (BitVec 8)) (tags : Nat) :
    DevKept s (settled (Machine.writeLine t id slot die ten line bs tags)) := by
  unfold settled
  split
  · exact (h.writeLine ..).applyDiff _
  · exact h.writeLine ..

theorem devWrite (ten pa : Nat) (bs : List (BitVec 8)) (tag : Bool) : DevKept s (devWrite t ten pa bs tag) :=
  h.foldl (fun _ _ hu => hu.storeLine ..) _

end Steps

end DevKept

end Sys2Proof.Machine
end

section
/-! PROOFS. Why a record that leaves its run list may not read Running (R45, R374): the read of its context image may report a lost line
in a fault ring that lies over the record. -/

namespace Sys2Proof.Machine

/-! ## Taking the head of a run list -/

/-- The part as the record at `o` has left the run list of cluster `cl`, before its context is read. -/
def headTaken (s : State) (cl o : Nat) : State :=
  let s := endRotation { s with sram := s.sram.settleAll (sramKey cl o) 64 } cl
  let s := setRun s cl ((s.cluster cl).run.erase o)
  sramWrite (setRec s cl o 0 40 4 2) cl (o + 56) 8 0

/-- The context of the record at `o`, and the part once it is read. -/
def headContext (s : State) (cl o : Nat) : Context × State :=
  let u := headTaken s cl o
  contextAt u (fld (recDw u cl o 1) 16 12) (recCtx u cl o)

theorem exec_takeRunListHead {s : State} {cl o g : Nat} (h : takeable s cl = some (o, g)) :
    exec (.takeRunListHead cl) s = .next (trimCache ((headContext s cl o).2.setSlot g
      (loadSlot (headContext s cl o).2 g o (headContext s cl o).1)) (coreOf g)) := by
  simp only [exec, execTakeRunListHead, h, headContext, headTaken]

/-! ## A unit of a stack that is lost -/

/-- Whether every stack is lost. -/
def AllLost (s : State) : Prop := s.lost = List.range 16

theorem AllLost.of_kept {s t : State} (h : DevKept s t) (hs : AllLost s) : AllLost t := h.lost.trans hs

theorem AllLost.contains {s : State} (h : AllLost s) {k : Nat} (hk : k < 16) : s.lost.contains k = true := by
  rw [show s.lost = List.range 16 from h]
  simpa using hk

theorem AllLost.contains_dataStack {s : State} (h : AllLost s) (pa : Nat) : s.lost.contains (dataStack pa) = true :=
  h.contains (Nat.mod_lt _ (by decide))

theorem AllLost.contains_parityStack {s : State} (h : AllLost s) (pa : Nat) : s.lost.contains (parityStack pa) = true :=
  h.contains (Nat.mod_lt _ (by decide))

theorem AllLost.canRebuild {s : State} (h : AllLost s) (w : Nat) : canRebuild s w = false := by
  simp only [Machine.canRebuild, h.contains_parityStack, Bool.not_true, Bool.and_false, Bool.false_and]

/-- Whether every word of the unit that holds a word is poison. -/
def UnitPoison (s : State) (w : Nat) : Prop := ∀ v ∈ unitWords w, look 0 s.dev.syn v = 0xFF

theorem look_foldl_poison (ws : List Nat) (m : Sparse (BitVec 8)) (v : Nat) :
    look 0 (ws.foldl (fun t w => put 0 t w 0xFF) m) v = if v ∈ ws then 0xFF else look 0 m v := by
  induction ws generalizing m with
  | nil => simp
  | cons w ws ih =>
    have hput : put 0 m w 0xFF = ins m w 0xFF := if_neg (by decide)
    rw [List.foldl_cons, ih, hput, look_ins]
    by_cases hv : v ∈ ws
    · simp [hv]
    · by_cases hw : v = w
      · simp [hw]
      · simp [hv, hw]

/-! ### A report of a lost line leaves the stacks alone -/

theorem dev_setWordFull (s : State) (cl ofs : Nat) (f : Bool) : (setWordFull s cl ofs f).dev = s.dev := by
  unfold setWordFull
  split
  · rfl
  · rfl

theorem dev_sramWrite (s : State) (cl ofs n v : Nat) : (sramWrite s cl ofs n v).dev = s.dev := rfl

theorem dev_fillWord (s : State) (cl ofs v : Nat) : (fillWord s cl ofs v).dev = s.dev := by
  rw [fillWord, dev_setWordFull, dev_sramWrite]

theorem dev_faultEntry (s : State) (cl fsrc fcode ten fseq addr aux : Nat) : (faultEntry s cl fsrc fcode ten fseq addr aux).dev = s.dev := by
  unfold faultEntry
  dsimp only
  split
  · exact State.setCluster_dev ..
  · exact (State.setCluster_dev ..).trans ((dev_fillWord ..).trans ((dev_sramWrite ..).trans ((dev_sramWrite ..).trans (dev_sramWrite ..))))

theorem dev_reportLost (s : State) (pa : Nat) : (reportLost s pa).dev = s.dev := by
  unfold reportLost
  split
  · dsimp only
    split
    · exact dev_faultEntry ..
    · rfl
  · rfl

/-- Lost words become poison, and no word else changes. -/
theorem syn_loseWords (s : State) (ws : List Nat) (v : Nat) :
    look 0 (loseWords s ws).dev.syn v = if v ∈ ws then 0xFF else look 0 s.dev.syn v := by
  have hfold (ls : List Nat) (u : State) : (ls.foldl (fun s l => reportLost s (64 * l)) u).dev = u.dev := by
    induction ls generalizing u with
    | nil => rfl
    | cons l ls ih => rw [List.foldl_cons, ih, dev_reportLost]
  rw [loseWords, hfold, look_foldl_poison]

/-! ### What a read of a word of such a unit leaves -/

section Settle
variable {s : State} (hall : AllLost s)
include hall

theorem settleWord_of_allLost (w : Nat) : settleWord s w = rebuildUnit s w := if_pos (hall.contains_dataStack (8 * w))

/-- Every word of a unit that is read becomes poison. -/
theorem unitPoison_settleWord (w : Nat) : UnitPoison (settleWord s w) w := by
  intro v hv
  rw [settleWord_of_allLost hall]
  have hrow := (DevKept.refl s).foldl (f := correctRow) (fun _ v ht => ht.correctRow v) (unitWords w)
  have hgone := hall.contains_dataStack (8 * w)
  unfold rebuildUnit
  dsimp only
  simp only [hgone, if_true, syn_loseWords]
  generalize (unitWords w).foldl correctRow s = u at hrow ⊢
  have hmem : look 0 u.dev.syn v ≠ 0xFF → v ∈ (unitWords w).filter fun v =>
      !canRebuild u v && look 0 u.dev.syn v != 0xFF := fun hsyn =>
    List.mem_filter.mpr ⟨hv, by rw [(hall.of_kept hrow).canRebuild, Bool.not_false, Bool.true_and, bne_iff_ne]; exact hsyn⟩
  split
  · rfl
  · next hout => exact not_not.mp (mt hmem hout)

/-- A unit that is poison already stays as it is. -/
theorem settleWord_of_poison {w : Nat} (hpar : s.parSyn = []) (hpsn : UnitPoison s w) : settleWord s w = s := by
  have hrow (v : Nat) : correctRow s v = s := by
    have hnone : ((List.range 15).map fun j => v / 960 * 960 + j * 64 + v % 64).filter (fun v => !s.lost.contains (dataStack (8 * v))) = [] :=
      List.filter_eq_nil_iff.mpr fun a _ => by rw [hall.contains_dataStack]; decide
    unfold correctRow
    rw [hnone]
    simp [correctParity, hpar, look, synKind]
  have hrows (ws : List Nat) : ws.foldl correctRow s = s := by
    induction ws with
    | nil => rfl
    | cons v ws ih => rw [List.foldl_cons, hrow, ih]
  have hgone := hall.contains_dataStack (8 * w)
  have hlost : ((unitWords w).filter fun v =>
      !canRebuild s v && (if s.lost.contains (dataStack (8 * w)) then look 0 s.dev.syn v != 0xFF else synKind (look 0 s.dev.syn v) == .bad)) = [] :=
    List.filter_eq_nil_iff.mpr fun v hv => by simp only [hgone, if_true, hpsn v hv, bne_self_eq_false, Bool.and_false]; decide
  rw [settleWord_of_allLost hall]
  unfold rebuildUnit
  dsimp only
  rw [hrows, hlost, if_pos hgone]
  rfl

end Settle

/-! ## What a write to such a unit leaves -/

/-- What is listed at a key stays when another key is removed, in whatever order the list is. -/
theorem look_del_other {α : Type} {d : α} {m : Sparse α} {j v : Nat} (hv : v ≠ j) (h : look d m v ≠ d) : look d (del m j) v = look d m v := by
  induction m with
  | nil => rfl
  | cons kx m ih =>
    obtain ⟨k, x⟩ := kx
    simp only [look] at h
    by_cases hlt : v < k
    · simp [hlt] at h
    · by_cases heq : v = k
      · subst heq
        have hne : ¬j = v := fun e => hv e.symm
        simp only [del, hne, if_false]
        split
        · rfl
        · simp [look]
      · simp only [hlt, heq, if_false] at h
        have hrest := ih h
        simp only [del]
        split
        · rfl
        · split
          · simp [look, hlt, heq]
          · simp [look, hlt, heq, hrest]

theorem look_put_other {m : Sparse (BitVec 8)} {j v : Nat} (x : BitVec 8) (hv : v ≠ j) (h : look 0 m v ≠ 0) :
    look 0 (put 0 m j x) v = look 0 m v := by
  unfold put
  split
  · exact look_del_other hv h
  · exact look_ins_other 0 m x hv

/-- A store to a line leaves the rest of its unit poison. -/
theorem syn_writeLine {s : State} (hall : AllLost s) (hret : s.retired = []) (id slot die ten line tags : Nat) (bs : Sparse (BitVec 8))
    {v : Nat} (hunit : v / 64 = line / 8) (hout : v / 8 ≠ line) :
    look 0 (settled (writeLine s id slot die ten line bs tags)).dev.syn v = 0xFF := by
  have hline : forwardPa s (64 * line) / 64 = line := by simp [forwardPa, hret]
  have hkept := (DevKept.refl s).foldl (f := fun u i => settleWord u (8 * line + i)) (fun _ _ hu => hu.settleWord _) (List.range 7)
  unfold writeLine
  dsimp only
  rw [hline, List.range_succ, List.foldl_append, List.foldl_cons, List.foldl_nil]
  generalize (List.range 7).foldl _ s = u at hkept ⊢
  have hu := hall.of_kept hkept
  have hpsn := unitPoison_settleWord hu (8 * line + 7) v (by
    simp only [unitWords, List.mem_map, List.mem_range]
    exact ⟨v % 64, by omega, by omega⟩)
  have hlost := hu.of_kept ((DevKept.refl u).settleWord (8 * line + 7))
  generalize settleWord u (8 * line + 7) = t at hpsn hlost ⊢
  have hput (l : List Nat) (m : Sparse (BitVec 8)) (hl : ∀ i ∈ l, i < 8) (hm : look 0 m v = 0xFF) :
      look 0 (l.foldl (fun m i => put 0 m (8 * line + i) (synStored t.dev line bs i)) m) v = 0xFF := by
    induction l generalizing m with
    | nil => exact hm
    | cons i l ih =>
      have hi := hl i (by simp)
      have hne : v ≠ 8 * line + i := by omega
      exact ih _ (fun j hj => hl j (by simp [hj])) ((look_put_other _ hne (by rw [hm]; decide)).trans hm)
  have hgone := hlost.contains_parityStack (64 * line)
  simp only [putStored, hgone, if_true, settled]
  exact hput _ _ (fun i hi => List.mem_range.mp hi) hpsn

/-! ## The lines of a write -/

/-- One byte of a write joins the line that holds it. -/
def joinLine (acc : Nat × List (Nat × Sparse (BitVec 8))) (b : BitVec 8) : Nat × List (Nat × Sparse (BitVec 8)) :=
  (acc.1 + 1, match acc.2 with
    | (l, m) :: rest => if l = acc.1 / 64 then (l, m ++ [(acc.1 % 64, b)]) :: rest else (acc.1 / 64, [(acc.1 % 64, b)]) :: acc.2
    | [] => [(acc.1 / 64, [(acc.1 % 64, b)])])

theorem linesOf_eq (pa : Nat) (bs : List (BitVec 8)) : linesOf pa bs = (bs.foldl joinLine (pa, [])).2.reverse := rfl

theorem foldl_joinLine_fst (bs : List (BitVec 8)) (acc : Nat × List (Nat × Sparse (BitVec 8))) :
    (bs.foldl joinLine acc).1 = acc.1 + bs.length := by
  induction bs generalizing acc with
  | nil => rfl
  | cons b bs ih =>
    rw [List.foldl_cons, ih, List.length_cons]
    simp only [joinLine]
    omega

theorem joinLine_snd (acc : Nat × List (Nat × Sparse (BitVec 8))) (b : BitVec 8) : ∃ m ls, (joinLine acc b).2 = (acc.1 / 64, m) :: ls := by
  simp only [joinLine]
  split
  · split
    · next hl => exact ⟨_, _, by rw [hl]⟩
    · exact ⟨_, _, rfl⟩
  · exact ⟨_, _, rfl⟩

/-- The last line of a write is that of its last byte. -/
theorem linesOf_append (pa : Nat) (bs : List (BitVec 8)) (b : BitVec 8) :
    ∃ ls m, linesOf pa (bs ++ [b]) = ls ++ [((pa + bs.length) / 64, m)] := by
  obtain ⟨m, ls, hlast⟩ := joinLine_snd (bs.foldl joinLine (pa, [])) b
  refine ⟨ls.reverse, m, ?_⟩
  rw [linesOf_eq, List.foldl_append, List.foldl_cons, List.foldl_nil, hlast, List.reverse_cons, foldl_joinLine_fst]

/-- A write leaves the unit of its last byte poison but for the line of that byte. -/
theorem syn_devWrite {s : State} (hall : AllLost s) (hret : s.retired = []) (ten pa : Nat) (tag : Bool) (bs : List (BitVec 8)) (b : BitVec 8)
    {v : Nat} (hunit : v / 64 = (pa + bs.length) / 64 / 8) (hout : v / 8 ≠ (pa + bs.length) / 64) :
    look 0 (devWrite s ten pa (bs ++ [b]) tag).dev.syn v = 0xFF := by
  obtain ⟨ls, m, hlines⟩ := linesOf_append pa bs b
  rw [devWrite, hlines, List.foldl_append, List.foldl_cons, List.foldl_nil]
  have hkept := (DevKept.refl s).foldl (f := fun u lm => settled (writeLine u 0 u.cur 0 ten lm.1 lm.2 (if tag then 0xF else 0)))
    (fun _ _ hu => hu.storeLine ..) ls
  exact syn_writeLine (hall.of_kept hkept) (hkept.retired.trans hret) _ _ _ _ _ _ _ hunit hout

/-! ## An image that leaves the register cache -/

/-- The evidence that no image left the register cache: every stack is lost, no page is retired, only the first two units of device memory
hold poison, and a register cache holds the image at address 0. -/
structure Unevicted (s : State) : Prop where
  lost    : AllLost s
  retired : s.retired = []
  cached  : ∃ m ∈ s.cached, m.2.1 = 0
  clean   : ∀ v, 128 ≤ v → look 0 s.dev.syn v ≠ 0xFF

theorem Unevicted.setSlot {s : State} (h : Unevicted s) (g : Nat) (x : Slot) : Unevicted (s.setSlot g x) :=
  ⟨h.lost, h.retired, h.cached, h.clean⟩

theorem recState_congr {s t : State} (h : s.sram = t.sram) {cl o : Nat} : recState s cl o = recState t cl o := by
  simp only [recState, recDw, sramRead, h]

theorem bytesOf_succ_append (n v : Nat) : ∃ bs b, bytesOf (n + 1) v = bs ++ [b] ∧ bs.length = n := by
  induction n generalizing v with
  | zero => exact ⟨[], _, rfl, rfl⟩
  | succ n ih =>
    obtain ⟨bs, b, hbs, hlen⟩ := ih (v / 256)
    exact ⟨BitVec.ofNat 8 v :: bs, b, by rw [bytesOf, hbs, List.cons_append], by simp [hlen]⟩

theorem devKept_writeLines (s : State) (ten pa : Nat) (ls : Sparse RegVal) : DevKept s (writeLines s ten pa ls) := by
  refine (DevKept.refl s).foldl (fun u rv hu => ?_) ls
  dsimp only
  split
  · exact (hu.devWrite ..).setDev _
  · exact hu.devWrite ..

/-- The last line of an image leaves poison in the unit of its last byte. -/
theorem syn_writeLines_image {s : State} (hall : AllLost s) (hret : s.retired = []) (ten pa : Nat) (c : Context) {v : Nat}
    (hunit : v / 64 = (pa + 1023) / 64 / 8) (hout : v / 8 ≠ (pa + 1023) / 64) :
    look 0 (writeLines s ten pa c.lines).dev.syn v = 0xFF := by
  obtain ⟨ls, x, hlines⟩ : ∃ ls x, c.lines = ls ++ [(63, RegVal.ofNat x)] := ⟨c.regs ++ [_, _, _], _, by
    rw [Context.lines, List.append_assoc]
    rfl⟩
  obtain ⟨bs, b, hbs, hlen⟩ := bytesOf_succ_append 15 (RegVal.ofNat x).bits.toNat
  have hkept := devKept_writeLines s ten pa ls
  have hlast : writeLines s ten pa c.lines = devWrite (writeLines s ten pa ls) ten (pa + 16 * 63) (bs ++ [b]) false := by
    rw [hlines, writeLines, List.foldl_append, List.foldl_cons, List.foldl_nil, ← hbs]
    rfl
  have hend : pa + 16 * 63 + bs.length = pa + 1023 := by omega
  rw [hlast]
  exact syn_devWrite (hall.of_kept hkept) (hkept.retired.trans hret) _ _ _ _ _ (by rw [hend, hunit]) (by rw [hend]; exact hout)

/-- An image that is written back is that at address 0, which leaves the caches, or leaves poison elsewhere: the evidence is lost. -/
theorem find_contexts_of_unevicted {s : State} {pa ten : Nat} (h : Unevicted (evictImage s pa ten)) : find s.contexts pa = none := by
  by_contra hne
  obtain ⟨c, hc⟩ := Option.ne_none_iff_exists'.mp hne
  simp only [evictImage, hc] at h
  obtain ⟨hlost, hretired, ⟨m, hm, hzero⟩, hclean⟩ := h
  generalize hu : { s with
    cached := s.cached.filter fun (m : Nat × Nat × Nat) => m.2.1 != pa, contexts := del s.contexts pa : State } = u at *
  have hkept := devKept_writeLines u ten pa c.lines
  have hall : AllLost u := hkept.lost.symm.trans hlost
  have hret : u.retired = [] := hkept.retired.symm.trans hretired
  -- A word of the unit of the image's last byte, beside its line.
  have hpoison (v : Nat) (hunit : v / 64 = (pa + 1023) / 64 / 8) (hout : v / 8 ≠ (pa + 1023) / 64) : v < 128 := by
    by_contra hv
    exact hclean v (Nat.not_lt.mp hv) (syn_writeLines_image hall hret ten pa c hunit hout)
  have hpa : pa = 0 := by
    by_cases hfirst : (pa + 1023) / 64 % 8 = 0
    · have := hpoison (8 * ((pa + 1023) / 64) + 8) (by omega) (by omega)
      omega
    · have := hpoison (8 * ((pa + 1023) / 64) - 1) (by omega) (by omega)
      omega
  rw [hkept.cached, ← hu, List.mem_filter] at hm
  simp [hzero, hpa] at hm

/-- An image whose context is not held leaves without a write. -/
theorem evictImage_of_none {s : State} {pa : Nat} (ten : Nat) (h : find s.contexts pa = none) :
    evictImage s pa ten = { s with cached := s.cached.filter fun (m : Nat × Nat × Nat) => m.2.1 != pa } := by simp [evictImage, h]

/-- Where the evidence stands, images left the register cache without a write. -/
theorem sram_trimCache_of_unevicted {s : State} {core : Nat} (h : Unevicted (trimCache s core)) : (trimCache s core).sram = s.sram := by
  unfold trimCache at h ⊢
  dsimp only at h ⊢
  generalize List.take _ _ = ms at h ⊢
  induction ms using List.reverseRecOn with
  | nil => rfl
  | append_singleton ms m ih =>
    rw [List.foldl_append, List.foldl_cons, List.foldl_nil] at h ⊢
    have hnone := find_contexts_of_unevicted h
    rw [evictImage_of_none _ hnone] at h ⊢
    obtain ⟨hlost, hretired, ⟨x, hx, hzero⟩, hclean⟩ := h
    exact ih ⟨hlost, hretired, ⟨x, List.mem_of_mem_filter hx, hzero⟩, hclean⟩

/-! ## The part whose record is written over -/

/-- A part whose stacks are all lost: the image of the one record of cluster 0 lies at address 0, where one word is not yet known to be
lost, and the cluster's fault ring lies over the record. -/
def lostImage : State :=
  { State.reset with
    clusters := [(0, { Cluster.reset with owner := 2 ^ 63, perm := 1, maps := [(0, [2 ^ 15])], run := [0], faultW := 2 ^ 63 })]
    parts := [(0, Partition.reset)], lost := List.range 16, cached := [(5, 0, 0)], parity := [(0, 1)]
    dev := { Store.reset with syn := (List.range' 1 127).map fun v => (v, 0xFF) } }

/-- What is left once the first word of the image is read. -/
def overwritten : State := settleWord (headTaken lostImage 0 0) 0

theorem takeable_lostImage : takeable lostImage 0 = some (0, 0) := by decide +kernel

theorem recCtx_lostImage : recCtx (headTaken lostImage 0 0) 0 0 = 0 := by decide +kernel

theorem contexts_lostImage : (headTaken lostImage 0 0).contexts = [] := by decide +kernel

theorem retired_lostImage : (headTaken lostImage 0 0).retired = [] := by decide +kernel

theorem allLost_lostImage : AllLost (headTaken lostImage 0 0) := by
  unfold AllLost
  decide +kernel

/-- The report of the lost line has written zero where the state of the record stood. -/
theorem recState_overwritten : recState overwritten 0 0 = 0 := by decide +kernel

theorem syn_overwritten : overwritten.dev.syn = (List.range 128).map (fun v => (v, 0xFF)) := by decide +kernel

theorem parSyn_overwritten : overwritten.parSyn = [] := by decide +kernel

theorem kept_overwritten : DevKept (headTaken lostImage 0 0) overwritten := (DevKept.refl _).settleWord 0

/-- Every word of the image is poison then. -/
theorem look_syn_overwritten (v : Nat) : look 0 overwritten.dev.syn v = if v < 128 then 0xFF else 0 := by
  rw [syn_overwritten]
  by_cases hv : v < 128
  · rw [if_pos hv]
    exact (by decide +kernel : ∀ v < 128, look (0 : BitVec 8) ((List.range 128).map fun v => (v, 0xFF)) v = 0xFF) v hv
  · rw [if_neg hv]
    have hrange (l : List Nat) (hl : ∀ k ∈ l, k < 128) : look (0 : BitVec 8) (l.map fun k => (k, 0xFF)) v = 0 := by
      induction l with
      | nil => rfl
      | cons k l ih =>
        have hk := hl k (by simp)
        have h1 : ¬v < k := by omega
        have h2 : ¬v = k := by omega
        simp only [List.map_cons, look, h1, h2, if_false]
        exact ih fun k hk => hl k (by simp [hk])
    exact hrange _ fun k hk => List.mem_range.mp hk

theorem unitPoison_overwritten {w : Nat} (h : w < 128) : UnitPoison overwritten w := fun v hv => by
  simp only [unitWords, List.mem_map, List.mem_range] at hv
  obtain ⟨i, hi, hv⟩ := hv
  exact (look_syn_overwritten v).trans (if_pos (by omega))

/-- So the other words of the image change nothing when they are read. -/
theorem settled_overwritten (ws : List Nat) (h : ∀ w ∈ ws, w < 128) : ws.foldl settleWord overwritten = overwritten := by
  induction ws with
  | nil => exact List.foldl_nil
  | cons w ws ih =>
    rw [List.foldl_cons, settleWord_of_poison (allLost_lostImage.of_kept kept_overwritten) parSyn_overwritten
      (unitPoison_overwritten (h w (by simp)))]
    exact ih fun v hv => h v (by simp [hv])

/-- A context that no register cache holds is read from its image. -/
theorem contextAt_of_none {s : State} {ten pa : Nat} (h : find s.contexts pa = none) :
    (contextAt s ten pa).2 = devSettle s (forwardPa s pa) 1024 := by
  simp only [contextAt, h]
  rfl

/-- Where no page is retired, the words that are read are those of the range. -/
theorem devSettle_of_unretired {s : State} (pa n : Nat) (h : s.retired = []) : devSettle s pa n = (wordsOf pa n).foldl settleWord s := by
  unfold devSettle
  generalize wordsOf pa n = ws
  induction ws generalizing s with
  | nil => rfl
  | cons w ws ih =>
    have hw : forwardPa s (8 * w) / 8 = w := by simp [forwardPa, h]
    rw [List.foldl_cons, List.foldl_cons, hw]
    exact ih (((DevKept.refl s).settleWord w).retired.trans h)

/-- What the read of the record's context leaves. -/
theorem headContext_lostImage : (headContext lostImage 0 0).2 = overwritten := by
  have hwords : wordsOf 0 1024 = 0 :: List.range' 1 127 := by decide
  have hforward : forwardPa (headTaken lostImage 0 0) 0 = 0 := by rw [forwardPa, retired_lostImage]; rfl
  unfold headContext
  dsimp only
  rw [recCtx_lostImage, contextAt_of_none (by rw [contexts_lostImage]; rfl), hforward,
    devSettle_of_unretired _ _ retired_lostImage, hwords, List.foldl_cons]
  exact settled_overwritten _ fun w hw => by
    rw [List.mem_range'_1] at hw
    omega

/-- With one image cached, for another core, none leaves core 0's cache. -/
theorem trimCache_of_cached {s : State} (h : s.cached = [(5, 0, 0)]) : trimCache s (coreOf 0) = s := by simp [trimCache, coreOf, h]

theorem cached_overwritten : overwritten.cached = [(5, 0, 0)] := kept_overwritten.cached.trans (by decide +kernel)

theorem unevicted_overwritten : Unevicted overwritten where
  lost := allLost_lostImage.of_kept kept_overwritten
  retired := kept_overwritten.retired.trans retired_lostImage
  cached := ⟨(5, 0, 0), by rw [cached_overwritten]; exact List.mem_singleton_self _, rfl⟩
  clean v hv := by
    rw [look_syn_overwritten, if_neg (by omega)]
    decide

/-- Refutes O42: the third clause says that a record taken from its run list is Running in the state in which its slot is loaded. Here
the read of its image reports a lost line in a fault ring that lies over the record, and no hypothesis keeps rings and records apart. That
state is the last one up to the images that leave the register cache; the evidence shows that none that is written back did. -/
theorem not_continuationsComeAndGo : ¬ Obligations.ContinuationsComeAndGo := by
  unfold Obligations.ContinuationsComeAndGo
  rintro ⟨-, -, htake, -⟩
  obtain ⟨t, ctx, hexec, -, hstate, -⟩ := htake 0 0 0 lostImage (by decide +kernel) (by decide +kernel) (by decide +kernel) (by decide +kernel)
  rw [exec_takeRunListHead takeable_lostImage, headContext_lostImage, trimCache_of_cached ((State.setSlot_cached ..).trans cached_overwritten)]
    at hexec
  have hend := Host.Outcome.next.inj hexec
  have hsram := sram_trimCache_of_unevicted (hend ▸ unevicted_overwritten.setSlot 0 _)
  rw [← hend, State.setSlot_sram, State.setSlot_sram] at hsram
  rw [← recState_congr hsram, recState_overwritten] at hstate
  exact absurd hstate (by decide)

end Sys2Proof.Machine
end

section
/-! SUPPORT. Aligned doublewords of a slice (R75, R371): what a read returns after a write to the same doubleword and to another one,
whatever the check bits say; and the doublewords of a record (R40) on top of them. -/

namespace Sys2Proof.Machine

/-! ## One doubleword of a store -/

theorem wordsOf_aligned {a : Nat} (ha : a % 8 = 0) : wordsOf a 8 = [a / 8] := by
  have hn : (a + 8 - 1) / 8 + 1 - a / 8 = 1 := by omega
  rw [wordsOf, if_neg (by decide), hn]
  rfl

/-- What a read of doubleword `w` returns. -/
def Store.readDw (st : Store) (w : Nat) : Nat := rdN (st.settle w).bytes (8 * w) 8

theorem Store.read_settleAll_aligned (st : Store) {a : Nat} (ha : a % 8 = 0) : (st.settleAll a 8).read a 8 = st.readDw (a / 8) := by
  have hw : 8 * (a / 8) = a := by omega
  simp [Store.settleAll, wordsOf_aligned ha, Store.read, Store.readDw, hw]

/-- Tags and full bits are no part of a doubleword. -/
theorem Store.readDw_setTags (st : Store) (m : Sparse Bool) (w : Nat) : { st with tags := m }.readDw w = st.readDw w := by
  unfold Store.readDw Store.settle
  dsimp only
  cases synKind (look 0 st.syn w) with
  | fix k => rfl
  | clean | poison | bad => rfl

theorem Store.readDw_setFull (st : Store) (a w : Nat) (f : Bool) : (st.setFull a f).readDw w = st.readDw w := by
  unfold Store.readDw Store.settle Store.setFull
  dsimp only
  cases synKind (look 0 st.syn w) with
  | fix k => rfl
  | clean | poison | bad => rfl

/-- A read of a doubleword depends on its bytes and its check bits only. -/
theorem Store.readDw_congr {st st' : Store} {w : Nat} (h : st.wf = true) (h' : st'.wf = true) (hsyn : look 0 st'.syn w = look 0 st.syn w)
    (hbytes : rdN st'.bytes (8 * w) 8 = rdN st.bytes (8 * w) 8) : st'.readDw w = st.readDw w := by
  have hcan := ((Store.wf_iff _).mp h).1
  have hcan' := ((Store.wf_iff _).mp h').1
  unfold Store.readDw Store.settle
  rw [hsyn]
  split
  · dsimp only
    split
    · rw [rdN_wrN_same _ _ _ hcan, rdN_wrN_same _ _ _ hcan', hbytes]
    · exact hbytes
  · exact hbytes

/-- Settling a word leaves the check bits and the bytes of the others. -/
theorem Store.settle_apart {st : Store} {v w : Nat} (h : st.wf = true) (hv : v ≠ w) :
    look 0 (st.settle v).syn w = look 0 st.syn w ∧ rdN (st.settle v).bytes (8 * w) 8 = rdN st.bytes (8 * w) 8 := by
  have hcan := (Store.wf_iff _).mp h
  unfold Store.settle
  split
  · constructor
    · rw [look_put 0 _ _ _ hcan.2.2.2, if_neg (Ne.symm hv)]
    · dsimp only
      split
      · exact rdN_wrN_apart _ _ _ _ _ hcan.1 (by omega)
      · rfl
  · exact ⟨rfl, rfl⟩

theorem Store.settleAll_apart {st : Store} {a n w : Nat} (h : st.wf = true) (hw : w ∉ wordsOf a n) :
    look 0 (st.settleAll a n).syn w = look 0 st.syn w ∧ rdN (st.settleAll a n).bytes (8 * w) 8 = rdN st.bytes (8 * w) 8 := by
  unfold Store.settleAll
  generalize wordsOf a n = ws at hw
  induction ws generalizing st with
  | nil => exact ⟨rfl, rfl⟩
  | cons v ws ih =>
    obtain ⟨hv, hws⟩ := not_or.mp (List.mem_cons.not.mp hw)
    obtain ⟨hsyn, hbytes⟩ := Store.settle_apart h (Ne.symm hv)
    obtain ⟨hsyn', hbytes'⟩ := ih (Store.wf_settle v h) hws
    exact ⟨hsyn'.trans hsyn, hbytes'.trans hbytes⟩

/-- A write leaves the doublewords that it does not meet. -/
theorem Store.readDw_write_apart {st : Store} {a n w : Nat} (v : Nat) (h : st.wf = true) (hw : 8 * w + 8 ≤ a ∨ a + n ≤ 8 * w) (hn : 0 < n)
    : (st.write a n v).readDw w = st.readDw w := by
  have hout : w ∉ wordsOf a n := by
    have hpos : n ≠ 0 := by omega
    rw [wordsOf, if_neg hpos, List.mem_range'_1]
    omega
  obtain ⟨hsyn, hbytes⟩ := Store.settleAll_apart h hout
  have hcan := (Store.wf_iff _).mp (Store.wf_settleAll a n h)
  refine Store.readDw_congr h (Store.wf_write a n v h) ?_ ?_
  · simp only [Store.write]
    rw [look_foldl_put _ _ _ hcan.2.2.2, if_neg hout, hsyn]
  · simp only [Store.write]
    rw [rdN_wrN_apart _ _ _ _ _ hcan.1 (by omega), hbytes]

/-- An aligned doubleword reads as it was written. -/
theorem Store.readDw_write_same {st : Store} {a : Nat} (v : Nat) (h : st.wf = true) (ha : a % 8 = 0) :
    (st.write a 8 v).readDw (a / 8) = v % 2 ^ 64 := by
  have hsound : (st.write a 8 v).settle (a / 8) = st.write a 8 v := by
    have := Store.settleAll_sound (st := st.write a 8 v) a 8 fun w hw => Store.sound_write a 8 v w h (.inl hw)
    rwa [Store.settleAll, wordsOf_aligned ha, List.foldl_cons, List.foldl_nil] at this
  have hw : 8 * (a / 8) = a := by omega
  rw [Store.readDw, hsound, hw, Store.write, rdN_wrN_same _ _ _ ((Store.wf_iff _).mp (Store.wf_settleAll a 8 h)).1]
  rfl

/-! ## One doubleword of a slice -/

theorem sramKey_aligned {cl ofs : Nat} (h : ofs % 8 = 0) : sramKey cl ofs % 8 = 0 := by
  unfold sramKey
  omega

theorem sramRead_aligned (s : State) (cl : Nat) {ofs : Nat} (h : ofs % 8 = 0) : sramRead s cl ofs 8 = s.sram.readDw (sramKey cl ofs / 8) :=
  Store.read_settleAll_aligned _ (sramKey_aligned h)

theorem sramWf_sramWrite {s : State} (cl ofs n v : Nat) (h : s.sram.wf = true) : (sramWrite s cl ofs n v).sram.wf = true :=
  Store.wf_write _ n v h

/-- An aligned doubleword reads as it was written. -/
theorem sramRead_sramWrite_dw {s : State} (cl v : Nat) {ofs : Nat} (h : s.sram.wf = true) (ha : ofs % 8 = 0) :
    sramRead (sramWrite s cl ofs 8 v) cl ofs 8 = v % 2 ^ 64 := by
  rw [sramRead_aligned _ _ ha]
  exact Store.readDw_write_same v h (sramKey_aligned ha)

/-- A write to one aligned doubleword of a slice leaves the others. -/
theorem sramRead_sramWrite_dw_other {s : State} (cl v : Nat) {ofs ofs' : Nat} (h : s.sram.wf = true) (ha : ofs % 8 = 0) (ha' : ofs' % 8 = 0)
    (hne : ofs' % 2 ^ 21 ≠ ofs % 2 ^ 21) : sramRead (sramWrite s cl ofs 8 v) cl ofs' 8 = sramRead s cl ofs' 8 := by
  rw [sramRead_aligned _ _ ha', sramRead_aligned _ _ ha']
  refine Store.readDw_write_apart v h ?_ (by decide)
  unfold sramKey
  omega

/-- What a read of a slice returns depends on the store of the slices only. -/
theorem sramRead_congr {s t : State} (h : t.sram = s.sram) (cl ofs n : Nat) : sramRead t cl ofs n = sramRead s cl ofs n := by
  simp only [sramRead, h]

/-- Setting a full bit changes no doubleword. -/
theorem sramRead_setWordFull (s : State) (cl ofs : Nat) (f : Bool) (cl' ofs' : Nat) (h : ofs' % 8 = 0) :
    sramRead (setWordFull s cl ofs f) cl' ofs' 8 = sramRead s cl' ofs' 8 := by
  rw [sramRead_aligned _ _ h, sramRead_aligned _ _ h]
  unfold setWordFull
  split
  · rfl
  · exact Store.readDw_setFull ..

section Fill
variable {s : State} {cl ofs ofs' : Nat} (hwf : s.sram.wf = true) (ha : ofs % 8 = 0)
include hwf ha

theorem sramRead_fillWord_same (v : Nat) : sramRead (fillWord s cl ofs v) cl ofs 8 = v % 2 ^ 64 := by
  rw [fillWord, sramRead_setWordFull _ _ _ _ _ _ ha, sramRead_sramWrite_dw _ _ hwf ha]

theorem sramRead_fillWord_other (v : Nat) (ha' : ofs' % 8 = 0) (hne : ofs' % 2 ^ 21 ≠ ofs % 2 ^ 21) :
    sramRead (fillWord s cl ofs v) cl ofs' 8 = sramRead s cl ofs' 8 := by
  rw [fillWord, sramRead_setWordFull _ _ _ _ _ _ ha', sramRead_sramWrite_dw_other _ _ hwf ha ha' hne]

end Fill

/-- A capability written to a granule of a slice leaves the doublewords beside it. -/
theorem sramRead_sramWriteCap_other {s : State} {cl ofs ofs' : Nat} (v : RegVal) (hwf : s.sram.wf = true) (ha : ofs % 16 = 0) (ha' : ofs' % 8 = 0)
    (hne : ofs' % 2 ^ 21 ≠ ofs % 2 ^ 21 ∧ ofs' % 2 ^ 21 ≠ ofs % 2 ^ 21 + 8) : sramRead (sramWriteCap s cl ofs v) cl ofs' 8 = sramRead s cl ofs' 8 := by
  rw [sramRead_aligned _ _ ha', sramRead_aligned _ _ ha']
  refine Eq.trans ?_ (Store.readDw_write_apart (a := sramKey cl ofs) (n := 16) v.bits.toNat hwf ?_ (by decide))
  · rw [sramWriteCap, Store.writeTagged]
    exact Store.readDw_setTags ..
  · unfold sramKey
    omega

/-- An aligned doubleword of a slice is a number of 64 bits. -/
theorem sramRead_lt (s : State) (cl ofs : Nat) : sramRead s cl ofs 8 < 2 ^ 64 := by
  have hbytes : ∀ l : List (BitVec 8), ofBytes l < 256 ^ l.length := by
    intro l
    induction l with
    | nil => decide
    | cons b l ih =>
      have hb := b.isLt
      rw [ofBytes, List.length_cons, Nat.pow_succ]
      omega
  have := hbytes (rangeOf 0 8 (sramKey cl ofs) (s.sram.settleAll (sramKey cl ofs) 8).bytes)
  rwa [length_rangeOf] at this

/-! ## Doublewords of a record (R40) -/

/-- The field of a record that is written, as the part writes it. -/
theorem recZero_lt {k w : Nat} (h : w < 2 ^ 64) : recZero k w < 2 ^ 64 := by
  unfold recZero
  split
  · exact setFld_lt _ h (by decide)
  · exact setFld_lt _ h (by decide)
  · exact h

/-- The fields of doubleword 0 of a record but for those that are zero. -/
theorem fld_recZero_zero (w : Nat) {lo n : Nat} (h : lo + n ≤ 50 ∨ 56 ≤ lo) : fld (recZero 0 w) lo n = fld w lo n :=
  fld_setFld_apart w 0 (by omega)

/-- The fields of doubleword 1 of a record but for those that are zero. -/
theorem fld_recZero_one (w : Nat) {lo n : Nat} (h : lo + n ≤ 47) : fld (recZero 1 w) lo n = fld w lo n :=
  fld_setFld_apart w 0 (by omega)

section Record
variable {s : State} {cl ofs : Nat} (hwf : s.sram.wf = true) (hofs : ofs % 8 = 0)

theorem sramWf_setRec (k lo n v : Nat) (hwf : s.sram.wf = true) : (setRec s cl ofs k lo n v).sram.wf = true := sramWf_sramWrite _ _ _ _ hwf

include hwf hofs

theorem recDw_setRec_same (k : Nat) {lo n : Nat} (v : Nat) (hn : lo + n ≤ 64) :
    recDw (setRec s cl ofs k lo n v) cl ofs k = recZero k (setFld (recDw s cl ofs k) lo n v) := by
  have hlt := recZero_lt (k := k) (setFld_lt v (sramRead_lt s cl (ofs + 8 * k)) hn)
  rw [recDw, setRec, sramRead_sramWrite_dw _ _ hwf (by omega)]
  exact Nat.mod_eq_of_lt hlt

theorem recDw_setRec_other {k j : Nat} (lo n v : Nat) (hk : k < 8) (hj : j < 8) (hne : j ≠ k) :
    recDw (setRec s cl ofs k lo n v) cl ofs j = recDw s cl ofs j :=
  sramRead_sramWrite_dw_other _ _ hwf (by omega) (by omega) (by omega)

end Record

/-- Linking a run list writes only the last doublewords of its records. -/
theorem recDw_linkRun {s : State} {cl ofs k : Nat} {run : List Nat} (hwf : s.sram.wf = true) (hofs : ofs % 64 = 0)
    (hrun : ∀ o ∈ run, o % 64 = 0) (hk : k < 7) : recDw (linkRun s cl run) cl ofs k = recDw s cl ofs k := by
  induction run generalizing s with
  | nil => rfl
  | cons o run ih =>
    have ho := hrun o (by simp)
    have hone (v : Nat) : recDw (sramWrite s cl (o + 56) 8 v) cl ofs k = recDw s cl ofs k :=
      sramRead_sramWrite_dw_other _ _ hwf (by omega) (by omega) (by omega)
    cases run with
    | nil => exact hone 0
    | cons n rest =>
      rw [linkRun, ih (sramWf_sramWrite _ _ _ _ hwf) fun p hp => hrun p (List.mem_cons_of_mem _ hp)]
      exact hone _

theorem recDw_setRun {s : State} {cl ofs k : Nat} {run : List Nat} (hwf : s.sram.wf = true) (hofs : ofs % 64 = 0)
    (hrun : ∀ o ∈ run, o % 64 = 0) (hk : k < 7) : recDw (setRun s cl run) cl ofs k = recDw s cl ofs k := by
  rw [setRun, recDw_linkRun (by exact hwf) hofs hrun hk]
  exact sramRead_congr (State.onCluster_sram ..) ..

theorem cluster_sramWrite (s : State) (cl ofs n v i : Nat) : (sramWrite s cl ofs n v).cluster i = s.cluster i := rfl

theorem cluster_setRec (s : State) (cl ofs k lo n v i : Nat) : (setRec s cl ofs k lo n v).cluster i = s.cluster i := by
  rw [setRec, cluster_sramWrite]

/-- The run list of a cluster once a record has joined the tail of its priority. -/
def joinedRun (s : State) (cl ofs : Nat) : List Nat :=
  let u := setRec s cl ofs 0 40 4 1
  let ahead := fun o => decide (recPrio u cl ofs ≤ recPrio u cl o)
  (s.cluster cl).run.takeWhile ahead ++ ofs :: (s.cluster cl).run.dropWhile ahead

/-- A record that joins a run list is made Ready, and the list is written anew. -/
theorem runTail_eq (s : State) (cl ofs : Nat) : runTail s cl ofs = setRun (setRec s cl ofs 0 40 4 1) cl (joinedRun s cl ofs) := by
  unfold runTail joinedRun
  have hcluster := cluster_setRec s cl ofs 0 40 4 1 cl
  generalize setRec s cl ofs 0 40 4 1 = u at hcluster ⊢
  simp only [List.span_eq_takeWhile_dropWhile, hcluster]

theorem mem_joinedRun {s : State} {cl ofs o : Nat} (h : o ∈ joinedRun s cl ofs) : o = ofs ∨ o ∈ (s.cluster cl).run := by
  rcases List.mem_append.mp h with hhi | hlo
  · exact .inr ((List.takeWhile_sublist _).subset hhi)
  · rcases List.mem_cons.mp hlo with rfl | hlo
    · exact .inl rfl
    · exact .inr ((List.dropWhile_sublist _).subset hlo)

/-- Joining the tail of a run list makes a record Ready and leaves its other doublewords but the last. -/
theorem recDw_runTail {s : State} {cl ofs k : Nat} (hwf : s.sram.wf = true) (hofs : ofs % 64 = 0)
    (hrun : ∀ o ∈ (s.cluster cl).run, o % 64 = 0) (hk : k < 7) :
    recDw (runTail s cl ofs) cl ofs k = recDw (setRec s cl ofs 0 40 4 1) cl ofs k := by
  rw [runTail_eq]
  refine recDw_setRun (sramWf_setRec _ _ _ _ hwf) hofs (fun o ho => ?_) hk
  rcases mem_joinedRun ho with rfl | ho
  · exact hofs
  · exact hrun o ho

end Sys2Proof.Machine
end

section
/-! PROOFS. How a trap is delivered into its record, written for the handler and returned from (R54, R251, R355, R357, R358). -/

namespace Sys2Proof.Machine

theorem fld_zero (w n : Nat) : fld w 0 n = w % 2 ^ n := by rw [fld, Nat.pow_zero, Nat.div_one]

/-! ## Returning from a trap (R358) -/

section Resume
variable {s : State} {cl ofs : Nat} (n : Nat) (hwf : s.sram.wf = true) (hofs : ofs % 64 = 0)
  (hrun : ∀ o ∈ (s.cluster cl).run, o % 64 = 0)

/-- A record whose cause is cleared and whose count is set. -/
def recounted (s : State) (cl ofs n : Nat) : State := setRec (setRec s cl ofs 0 56 8 0) cl ofs 1 0 16 n

theorem sramWf_recounted (hwf : s.sram.wf = true) : (recounted s cl ofs n).sram.wf = true := sramWf_setRec _ _ _ _ (sramWf_setRec _ _ _ _ hwf)

include hwf hofs

/-- Doubleword 0 has its cause cleared, doubleword 1 its count set, and the others stay. -/
theorem recDw_recounted_zero : recDw (recounted s cl ofs n) cl ofs 0 = recZero 0 (setFld (recDw s cl ofs 0) 56 8 0) := by
  rw [recounted, recDw_setRec_other (sramWf_setRec _ _ _ _ hwf) (by omega) _ _ _ (by decide) (by decide) (by decide),
    recDw_setRec_same hwf (by omega) _ _ (by decide)]

theorem recDw_recounted_one : recDw (recounted s cl ofs n) cl ofs 1 = recZero 1 (setFld (recDw s cl ofs 1) 0 16 n) := by
  rw [recounted, recDw_setRec_same (sramWf_setRec _ _ _ _ hwf) (by omega) _ _ (by decide),
    recDw_setRec_other hwf (by omega) _ _ _ (by decide) (by decide) (by decide)]

theorem recDw_recounted_three : recDw (recounted s cl ofs n) cl ofs 3 = recDw s cl ofs 3 := by
  rw [recounted, recDw_setRec_other (sramWf_setRec _ _ _ _ hwf) (by omega) _ _ _ (by decide) (by decide) (by decide),
    recDw_setRec_other hwf (by omega) _ _ _ (by decide) (by decide) (by decide)]

include hrun

/-- A resumed record is Ready where its count is zero, else it waits. -/
theorem recDw_resumeRec {k : Nat} (hk : k < 7) :
    recDw (resumeRec s cl ofs n) cl ofs k = recDw (setRec (recounted s cl ofs n) cl ofs 0 40 4 (if n = 0 then 1 else 3)) cl ofs k := by
  have hcluster : (recounted s cl ofs n).cluster cl = s.cluster cl := (cluster_setRec ..).trans (cluster_setRec ..)
  have hwf' := sramWf_recounted (cl := cl) (ofs := ofs) n hwf
  unfold recounted at hcluster hwf' ⊢
  unfold resumeRec
  dsimp only
  generalize setRec (setRec s cl ofs 0 56 8 0) cl ofs 1 0 16 n = u at hcluster hwf' ⊢
  split
  · exact recDw_runTail hwf' hofs (hcluster ▸ hrun) hk
  · rfl

end Resume

/-- What a resumed record reads: no cause, its new count and state, and the rest as it was. -/
theorem resumeRec_reads {s : State} {cl ofs n : Nat} (hn : n < 2 ^ 16) (hofs : ofs % 64 = 0) (hrun : ∀ o ∈ (s.cluster cl).run, o % 64 = 0)
    (hwf : s.sram.wf = true) :
    let t := resumeRec s cl ofs n
    fld (recDw t cl ofs 0) 56 8 = 0 ∧ recCnt t cl ofs = n ∧ recState t cl ofs = (if n = 0 then 1 else 3) ∧
      fld (recDw t cl ofs 0) 0 40 = fld (recDw s cl ofs 0) 0 40 ∧ recDw t cl ofs 3 = recDw s cl ofs 3 := by
  have haligned : ofs % 8 = 0 := by omega
  have hwf' := sramWf_recounted (cl := cl) (ofs := ofs) n hwf
  have hone : recDw (resumeRec s cl ofs n) cl ofs 1 = recZero 1 (setFld (recDw s cl ofs 1) 0 16 n) := by
    rw [recDw_resumeRec n hwf hofs hrun (by decide), recDw_setRec_other hwf' haligned _ _ _ (by decide) (by decide) (by decide),
      recDw_recounted_one n hwf hofs]
  have hthree : recDw (resumeRec s cl ofs n) cl ofs 3 = recDw s cl ofs 3 := by
    rw [recDw_resumeRec n hwf hofs hrun (by decide), recDw_setRec_other hwf' haligned _ _ _ (by decide) (by decide) (by decide),
      recDw_recounted_three n hwf hofs]
  have hzero : recDw (resumeRec s cl ofs n) cl ofs 0 =
      recZero 0 (setFld (recZero 0 (setFld (recDw s cl ofs 0) 56 8 0)) 40 4 (if n = 0 then 1 else 3)) := by
    rw [recDw_resumeRec n hwf hofs hrun (by decide), recDw_setRec_same hwf' haligned _ _ (by decide), recDw_recounted_zero n hwf hofs]
  refine ⟨?cause, ?count, ?state, ?place, hthree⟩
  case cause =>
    rw [hzero, fld_recZero_zero _ (by decide), fld_setFld_apart _ _ (by decide), fld_recZero_zero _ (by decide), fld_setFld_same]
    rfl
  case count => rw [recCnt, hone, fld_recZero_one _ (by decide), fld_setFld_same, Nat.mod_eq_of_lt hn]
  case state =>
    rw [recState, hzero, fld_recZero_zero _ (by decide), fld_setFld_same]
    split
    · rfl
    · rfl
  case place =>
    rw [hzero, fld_recZero_zero _ (by decide), fld_setFld_apart _ _ (by decide), fld_recZero_zero _ (by decide),
      fld_setFld_apart _ _ (by decide)]

/-! ## The entry for the handler (R357) -/

theorem exec_handlerEntryWrite (part : Nat) (s : State) : exec (.handlerEntryWrite part) s = .next ((writeHandler s part).getD s) := rfl

/-- Where the entry of the oldest trapped record of a partition goes in its handler queue. -/
def entryOfs (q : Nat) : Nat := fld q 5 16 * 32 + 32 * fld q 21 15

theorem entryOfs_aligned (q : Nat) : entryOfs q % 32 = 0 := by
  unfold entryOfs
  omega

/-- The oldest trapped record of a partition leaves its queue. -/
def untrapped (s : State) (part : Nat) (ts : List Trapped) : State := s.setPart part { s.part part with trapped := ts }

/-- The entry of a trapped record written at `ofs` of cluster `cl`'s slice. -/
def entryWritten (s : State) (part cl ofs : Nat) (t : Trapped) : State :=
  let s := sramWrite s cl (ofs + 8) 8 t.info
  let s := sramWriteCap s cl (ofs + 16) (contCap (vcOf s t.cl part t.cl) t.recOfs)
  fillWord s cl ofs t.dw0

/-- The tail of the handler queue moves on. -/
def tailMoved (s : State) (part q : Nat) : State :=
  s.setPart part { s.part part with trapq := setFld q 21 15 ((fld q 21 15 + 1) % ringSize (fld q 59 4) 8) }

theorem trapQueue_untrapped (s : State) (part cl : Nat) (ts : List Trapped) :
    trapQueue (untrapped s part ts) cl part = trapQueue s cl part := by
  simp only [trapQueue, untrapped, State.part_setPart_self, vcMap, State.cluster_setPart]

theorem sramFull_setPart (s : State) (p : Nat) (x : Partition) (cl ofs : Nat) : sramFull (s.setPart p x) cl ofs = sramFull s cl ofs := rfl
theorem heldAt_setPart (s : State) (p : Nat) (x : Partition) (part src cl : Nat) : heldAt (s.setPart p x) part src cl = heldAt s part src cl :=
  rfl
theorem storesDone_setPart (s : State) (p : Nat) (x : Partition) (a : Option (Nat × Nat)) : storesDone (s.setPart p x) a = storesDone s a := rfl

section Handler
variable {s : State} {part cl : Nat} {t : Trapped} {ts : List Trapped} (htrapped : (s.part part).trapped = t :: ts)
include htrapped

/-- Without a handler queue the record ends. -/
theorem writeHandler_of_none (hq : trapQueue s t.cl part = none) :
    writeHandler s part = some (abortRec (untrapped s part ts) t.cl t.recOfs (hwid (128 * t.cl))) := by
  rw [← trapQueue_untrapped (ts := ts)] at hq
  unfold untrapped at hq ⊢
  simp only [writeHandler, htrapped, hq]

/-- Whether the entry at the tail of the queue can not be written yet. -/
def entryWaits (s : State) (part cl : Nat) (t : Trapped) : Bool :=
  sramFull s cl (entryOfs (s.part part).trapq) || heldAt s part t.cl cl || !storesDone s t.after

theorem writeHandler_of_waits (hq : trapQueue s t.cl part = some cl) (hwait : entryWaits s part cl t = true) : writeHandler s part = none := by
  rw [← trapQueue_untrapped (ts := ts)] at hq
  unfold untrapped at hq
  unfold entryWaits entryOfs at hwait
  simp only [writeHandler, htrapped, hq, sramFull_setPart, heldAt_setPart, storesDone_setPart, hwait, if_true]

theorem writeHandler_of_ready (hq : trapQueue s t.cl part = some cl) (hready : entryWaits s part cl t = false) :
    writeHandler s part = some (tailMoved (entryWritten (untrapped s part ts) part cl (entryOfs (s.part part).trapq) t) part (s.part part).trapq) := by
  rw [← trapQueue_untrapped (ts := ts)] at hq
  unfold untrapped at hq
  unfold entryWaits entryOfs at hready
  simp only [writeHandler, htrapped, hq, sramFull_setPart, heldAt_setPart, storesDone_setPart, hready, Bool.false_eq_true, if_false, untrapped,
    entryOfs, entryWritten, tailMoved]

end Handler

/-! ### What the entry reads -/

section Entry
variable {s : State} {part cl ofs : Nat} {t : Trapped} (hwf : s.sram.wf = true) (hofs : ofs % 32 = 0)

theorem sramWf_sramWriteCap {s : State} (cl ofs : Nat) (v : RegVal) (h : s.sram.wf = true) : (sramWriteCap s cl ofs v).sram.wf = true :=
  Store.wf_writeTagged _ _ _ h

include hwf

theorem sramFull_entryWritten : sramFull (entryWritten s part cl ofs t) cl ofs = true :=
  sramFull_setWordFull _ _ _ _ (sramWf_sramWrite _ _ _ _ (sramWf_sramWriteCap _ _ _ (sramWf_sramWrite _ _ _ _ hwf)))

include hofs

theorem sramRead_entryWritten : sramRead (entryWritten s part cl ofs t) cl ofs 8 = t.dw0 % 2 ^ 64 := by
  unfold entryWritten
  dsimp only
  rw [sramRead_fillWord_same (sramWf_sramWriteCap _ _ _ (sramWf_sramWrite _ _ _ _ hwf)) (by omega)]

theorem sramRead_entryWritten_info : sramRead (entryWritten s part cl ofs t) cl (ofs + 8) 8 = t.info % 2 ^ 64 := by
  have hinfo := sramWf_sramWrite cl (ofs + 8) 8 t.info hwf
  unfold entryWritten
  dsimp only
  refine (sramRead_fillWord_other (sramWf_sramWriteCap _ _ _ hinfo) ?_ _ ?_ ?_).trans
    ((sramRead_sramWriteCap_other _ hinfo ?_ ?_ ?_).trans (sramRead_sramWrite_dw cl t.info hwf ?_))
  all_goals omega

end Entry

theorem sram_tailMoved (s : State) (part q : Nat) : (tailMoved s part q).sram = s.sram := rfl

theorem sram_untrapped (s : State) (part : Nat) (ts : List Trapped) : (untrapped s part ts).sram = s.sram := rfl

theorem sramFull_congr {s t : State} (h : t.sram = s.sram) (cl ofs : Nat) : sramFull t cl ofs = sramFull s cl ofs := by
  simp only [sramFull, h]

theorem devKept_entryWritten (s : State) (part cl ofs : Nat) (t : Trapped) : DevKept s (entryWritten s part cl ofs t) := by
  unfold entryWritten
  exact (((DevKept.refl s).sramWrite ..).sramWriteCap ..).fillWord ..

/-- What the entry of a trapped record leaves of its partition: the other trapped records, and the tail of the queue one further. -/
theorem part_tailMoved (s : State) (part cl ofs q : Nat) (t : Trapped) (ts : List Trapped) :
    let x := (tailMoved (entryWritten (untrapped s part ts) part cl ofs t) part q).part part
    x.trapped = ts ∧ fld x.trapq 21 15 = (fld q 21 15 + 1) % ringSize (fld q 59 4) 8 % 2 ^ 15 := by
  have hparts := (devKept_entryWritten (untrapped s part ts) part cl ofs t).parts
  have hpart : (entryWritten (untrapped s part ts) part cl ofs t).part part = (untrapped s part ts).part part := by
    simp only [State.part, hparts]
  simp only [tailMoved, State.part_setPart_self, hpart, fld_setFld_same, and_true]
  rw [untrapped, State.part_setPart_self]

/-! ## At the home of a record (R54, R251) -/

section Home
variable {s : State} {rid cl ofs : Nat} {r : Request} (h : AtBank s rid r cl ofs)
include h

/-- The clean words of a request are settled already. -/
theorem settleAll_of_atBank : s.sram.settleAll (sramKey cl ofs) r.len = s.sram :=
  Store.settleAll_sound _ _ fun w hw k => by
    rw [h.clean w hw]
    simp [synKind]

/-- A request that its bank may perform and that writes no word of another partition is performed there. -/
theorem exec_sramRequest_of_atBank (hready : sramReady s r = true) (hbitmap : isBitmap r.op = false) :
    exec (.sramRequest rid) s = .next (bankPerform s r cl ofs) := by
  have hphase : r.phase ≠ .nack := by rw [h.phase]; decide
  have hqueue : (if writesWord r.op then foreignQueue s (partOf s r.slot) cl ofs r.len else none) = none := by
    split
    · next hw => exact h.queue hw
    · rfl
  simp only [exec, execSramRequest, h.sent, hready, if_true, performReq, if_neg hphase, h.tgt, h.open_.2, Bool.false_eq_true, if_false, hbitmap,
    sramPerform, hqueue]

theorem sramReady_of_atBank (hspawn : ∀ d p1 sc, r.op ≠ .spawn d p1 sc) (hfe : ∀ fn v, r.op ≠ .fe fn v) : sramReady s r = true := by
  have hdev : isDev r = false := by simp only [isDev, h.tgt]
  unfold sramReady
  rw [hdev, h.open_.1]
  split
  · next d p1 sc _ _ hop _ => exact absurd hop (hspawn _ _ _)
  · next fn v _ _ hop _ => exact absurd hop (hfe _ _)
  · simp

/-- A `dec` is performed at once. -/
theorem exec_sramRequest_dec {n : Nat} (hop : r.op = .dec n) : exec (.sramRequest rid) s = .next (dropReq (decrement s cl ofs n) r) := by
  rw [exec_sramRequest_of_atBank h (sramReady_of_atBank h (by simp [hop]) (by simp [hop])) (by simp [hop, isBitmap])]
  simp only [bankPerform, settleAll_of_atBank h, hop, taskPerform]

/-- A `tget` answers with the record's block, priority, state and count. -/
theorem exec_sramRequest_tget (hop : r.op = .tget) : exec (.sramRequest rid) s = .next (reply s r (countVal s cl ofs) 0) := by
  rw [exec_sramRequest_of_atBank h (sramReady_of_atBank h (by simp [hop]) (by simp [hop])) (by simp [hop, isBitmap])]
  simp only [bankPerform, settleAll_of_atBank h, hop, taskPerform]

/-- A `tset.cnt` is performed at once, with the privilege of its thread. -/
theorem exec_sramRequest_tset {b : W64} (hop : r.op = .tset b) : exec (.sramRequest rid) s =
    .next (dropReq (setCount s cl ofs (s.slot r.slot).prv (hwid r.slot) b.toNat) r) := by
  rw [exec_sramRequest_of_atBank h (sramReady_of_atBank h (by simp [hop]) (by simp [hop])) (by simp [hop, isBitmap])]
  simp only [bankPerform, settleAll_of_atBank h, hop, taskPerform]

/-- A `spawn` at an owned home whose pools have room answers with its continuation. -/
theorem exec_sramRequest_spawn {d p1 : W64} {sc : Option Nat} {u : State} {v : RegVal} (hop : r.op = .spawn d p1 sc)
    (howned : owned s cl = true) (hspawn : spawnAt s r.slot cl d.toNat p1 sc = some (u, v)) :
    exec (.sramRequest rid) s = .next (reply u r v 0) := by
  have htask : taskPerform s r cl ofs = some (u, some v) := by simp only [taskPerform, hop, hspawn, Option.map_some]
  have hdev : isDev r = false := by simp only [isDev, h.tgt]
  have hready : sramReady s r = true := by simp [sramReady, hdev, h.open_.1, hop, h.tgt, howned, htask]
  rw [exec_sramRequest_of_atBank h hready (by simp [hop, isBitmap])]
  simp only [bankPerform, settleAll_of_atBank h, hop, htask]

end Home

/-! ### `tset.cnt` by the state of the record -/

section SetCount
variable {s : State} {cl ofs prv src b : Nat}

theorem setCount_of_free (hst : recState s cl ofs = 0) : setCount s cl ofs prv src b = s := by simp [setCount, hst]

theorem setCount_of_user (hst : recState s cl ofs = 4) (hprv : prv = 0) : setCount s cl ofs prv src b = s := by simp [setCount, hst, hprv]

theorem setCount_of_abort (hst : recState s cl ofs = 4) (hprv : prv ≠ 0) (hb : bitAt b 16 = true) :
    setCount s cl ofs prv src b = abortRec s cl ofs src := by simp [setCount, hst, hprv, hb]

theorem setCount_of_resume (hst : recState s cl ofs = 4) (hprv : prv ≠ 0) (hb : bitAt b 16 = false) :
    setCount s cl ofs prv src b = resumeRec s cl ofs (fld b 0 16) := by simp [setCount, hst, hprv, hb]

theorem setCount_of_waiting (hst : recState s cl ofs = 3) :
    setCount s cl ofs prv src b =
      if fld b 0 16 = 0 then runTail (setRec s cl ofs 1 0 16 (fld b 0 16)) cl ofs else setRec s cl ofs 1 0 16 (fld b 0 16) := by
  simp [setCount, hst]

/-- A choice by state whose state is none of those named. -/
theorem choice_of_other {α : Type} {st : Nat} (free trapped waiting other : α) : st ≠ 0 → st ≠ 3 → st ≠ 4 →
    (match st with | 0 => free | 4 => trapped | 3 => waiting | _ => other) = other := by
  intro h0 h3 h4
  split
  · exact absurd rfl h0
  · exact absurd rfl h4
  · exact absurd rfl h3
  · rfl

theorem setCount_of_other (h0 : recState s cl ofs ≠ 0) (h3 : recState s cl ofs ≠ 3) (h4 : recState s cl ofs ≠ 4) :
    setCount s cl ofs prv src b = setRec s cl ofs 1 0 16 (fld b 0 16) := by
  unfold setCount
  exact choice_of_other _ _ _ _ h0 h3 h4

end SetCount

/-! ## Delivering a trap (R355) -/

/-- What a thread that leaves its slot with nothing held changes no more once its record is written back. -/
structure LeaveKept (s t : State) : Prop where
  sram     : t.sram = s.sram
  contexts : t.contexts = s.contexts
  parts    : t.parts = s.parts
  maps     : ∀ cl, (t.cluster cl).maps = (s.cluster cl).maps

theorem LeaveKept.trans {s t u : State} (h : LeaveKept s t) (h' : LeaveKept t u) : LeaveKept s u :=
  ⟨h'.sram.trans h.sram, h'.contexts.trans h.contexts, h'.parts.trans h.parts, fun cl => (h'.maps cl).trans (h.maps cl)⟩

theorem vcMap_congr {s t : State} {cl : Nat} (h : (t.cluster cl).maps = (s.cluster cl).maps) (part vc : Nat) :
    vcMap t cl part vc = vcMap s cl part vc := by
  unfold vcMap
  rw [h]

theorem LeaveKept.part {s t : State} (h : LeaveKept s t) (p : Nat) : t.part p = s.part p := by simp only [State.part, h.parts]

theorem LeaveKept.trapQueue {s t : State} (h : LeaveKept s t) (cl part : Nat) : trapQueue t cl part = trapQueue s cl part := by
  unfold Machine.trapQueue
  dsimp only
  rw [h.part, vcMap_congr (h.maps cl)]

/-- A drained buffer only adds its lines to the stores under way. -/
theorem drainAll_eq (s : State) (g : Nat) : ∃ n stores,
    drainAll s g = ({ s with nextId := n, stores := stores } : State).onSlot g fun x => { x with gather := [] } := by
  have hlines (ls : List GatherLine) (u : State) : ∃ n stores, ls.foldl (fun s l => drainLine s g l) u = { u with nextId := n, stores := stores } := by
    induction ls generalizing u with
    | nil => exact ⟨_, _, rfl⟩
    | cons l ls ih =>
      obtain ⟨n, stores, h⟩ := ih (drainLine u g l)
      exact ⟨n, stores, by rw [List.foldl_cons, h]; rfl⟩
  obtain ⟨n, stores, h⟩ := hlines ((s.slot g).gather.filter fun _ => true) s
  refine ⟨n, stores, ?_⟩
  rw [drainAll, drainWhere, h]
  simp

theorem leaveKept_drainAll (s : State) (g : Nat) : LeaveKept s (drainAll s g) := by
  obtain ⟨n, stores, h⟩ := drainAll_eq s g
  rw [h]
  exact ⟨rfl, rfl, rfl, fun _ => rfl⟩

theorem slot_drainAll (s : State) (g : Nat) : (drainAll s g).slot g = { s.slot g with gather := [] } := by
  obtain ⟨n, stores, h⟩ := drainAll_eq s g
  rw [h, State.slot_onSlot_self]
  rfl

theorem holdsAny_drainAll (s : State) (g : Nat) : holdsAny (drainAll s g) g = holdsAny s g := by
  have hslot := slot_drainAll s g
  obtain ⟨n, stores, h⟩ := drainAll_eq s g
  have hcore : (drainAll s g).core (coreOf g) = s.core (coreOf g) := by
    rw [h]
    rfl
  simp only [holdsAny, heldBy, boundPorts, hslot, hcore]

theorem leaveKept_unpin (s : State) (g : Nat) : LeaveKept s (unpin s g) := by
  unfold unpin
  split
  · exact ⟨rfl, rfl, rfl, fun _ => rfl⟩
  · refine ⟨rfl, rfl, rfl, fun cl => ?_⟩
    unfold dropOldLines
    rw [State.onCluster, State.cluster_setCluster]
    split
    · next hcl => rw [hcl]; rfl
    · rfl

/-- Whether no port of a slot holds an element that it appended. -/
def PortsIdle (x : Slot) : Prop := ∀ p ∈ x.ports, p.2.outQ = []

theorem PortsIdle.port {x : Slot} (h : PortsIdle x) (p : Nat) : (x.port p).outQ = [] := by
  unfold PortsIdle at h
  unfold Slot.port
  generalize x.ports = ps at h
  induction ps with
  | nil => rfl
  | cons kq ps ih =>
    obtain ⟨k, q⟩ := kq
    simp only [look]
    split
    · rfl
    · split
      · exact h (k, q) (by simp)
      · exact ih fun p hp => h p (List.mem_cons_of_mem _ hp)

/-- Ports with nothing appended write nothing. -/
theorem leaveKept_writePorts {s : State} {g : Nat} (h : PortsIdle (s.slot g)) : LeaveKept s (writePorts s g) := by
  unfold writePorts
  generalize (s.slot g).ports.map (·.1) = ps
  induction ps generalizing s with
  | nil => exact ⟨rfl, rfl, rfl, fun _ => rfl⟩
  | cons p ps ih =>
    have hidle : PortsIdle ((setPort s g p { (s.slot g).port p with outQ := [] }).slot g) := fun kq hkq => by
      rw [setPort, State.slot_onSlot_self] at hkq
      rcases mem_ins hkq with rfl | hval | hmem
      · rfl
      · rw [hval]
      · exact h kq hmem
    rw [List.foldl_cons]
    dsimp only
    rw [h.port p, List.foldl_nil]
    exact LeaveKept.trans (t := setPort s g p { (s.slot g).port p with outQ := [] }) ⟨rfl, rfl, rfl, fun _ => rfl⟩ (ih hidle)

theorem leaveKept_idleSlot {s : State} {g : Nat} (h : PortsIdle (s.slot g)) : LeaveKept s (idleSlot s g) :=
  ((leaveKept_writePorts h).trans (leaveKept_drainAll _ g)).trans ⟨rfl, rfl, rfl, fun _ => rfl⟩

theorem slot_idleSlot (s : State) (g : Nat) : (idleSlot s g).slot g = Slot.reset := State.slot_setSlot_self ..

/-- The part as a trap is written back into the record of slot `g`. -/
def trapBack (s : State) (g : Nat) (t : PendTrap) : State :=
  let u := drainAll (drainAll s g) g
  writeBack u g t.cause.code 4 (u.slot g).blk t.ofs t.p0

/-- The part as the slot of a trapped thread is idle. -/
def trapIdle (s : State) (g : Nat) (t : PendTrap) : State := idleSlot (unpin (trapBack s g t) g) g

/-- The mark of a bit of doubleword 0 of a handler entry. -/
def bitMark (c : Bool) (i : Nat) : Nat := if c then 2 ^ i else 0

/-- Doubleword 0 of the handler entry of a trap of a thread whose claims were saved (R357). -/
def trapDw0 (x : Slot) (t : PendTrap) : Nat :=
  t.cause.code * 2 ^ 56 + bitMark t.deferred 55 + bitMark t.rv 54 + bitMark (x.status == .handover) 53 + bitMark false 52
    + t.j % 2 ^ 16 * 2 ^ 36 + t.ofs % 2 ^ 12 * 2 ^ 24 + x.blk % 2 ^ 24

theorem slot_twiceDrained (s : State) (g : Nat) : (drainAll (drainAll s g) g).slot g = { s.slot g with gather := [] } := by
  rw [slot_drainAll, slot_drainAll]

/-- What waits for the handler of a trap of slot `g`. -/
def trapEntry (s : State) (g : Nat) (t : PendTrap) : Trapped :=
  { cl := clusterOf g, recOfs := (s.slot g).recOfs, dw0 := trapDw0 (s.slot g) t, info := t.info
    after := some (thrKey (clusterOf g) (s.slot g).recOfs, (trapIdle s g t).nextId) }

/-- The trap of a thread that holds nothing, where its partition has a handler queue. -/
theorem deliverTrap_of_queue {s : State} {g : Nat} {t : PendTrap} (htrap : (s.slot g).trap = some t) (hfree : holdsAny s g = false)
    (hq : (trapQueue (trapIdle s g t) (clusterOf g) (partOf s g)).isSome = true) :
    deliverTrap s g = (trapIdle s g t).setPart (partOf s g) { (trapIdle s g t).part (partOf s g) with
      trapped := ((trapIdle s g t).part (partOf s g)).trapped ++ [trapEntry s g t] } := by
  obtain ⟨q, hq⟩ := Option.isSome_iff_exists.mp hq
  have hsave : saveOrRelease (drainAll s g) g = (drainAll s g, false) := by simp [saveOrRelease, holdsAny_drainAll, hfree]
  unfold trapEntry
  unfold trapIdle trapBack at hq ⊢
  simp only [slot_twiceDrained] at hq ⊢
  simp only [deliverTrap, htrap, cannotSave, hfree, Bool.false_and, Bool.false_eq_true, if_false, hsave, slot_twiceDrained, hq, trapDw0, bitMark]

/-! ### What the record holds -/

/-- Doubleword 0 of a record that was `w`, written back with a cause, a state, the thread's action and its place (R355). -/
def backDw0 (w cause st lact ofs blk : Nat) : Nat :=
  setFld (setFld (setFld (setFld (setFld (recZero 0 w) 56 8 cause) 40 4 st) 36 4 lact) 24 12 ofs) 0 24 blk

section BackDw0
variable (w cause st lact ofs blk : Nat)

theorem backDw0_lt (hw : w < 2 ^ 64) : backDw0 w cause st lact ofs blk < 2 ^ 64 :=
  setFld_lt _ (setFld_lt _ (setFld_lt _ (setFld_lt _ (setFld_lt _ (recZero_lt hw) (by decide)) (by decide)) (by decide)) (by decide)) (by decide)

theorem fld_backDw0_cause : fld (backDw0 w cause st lact ofs blk) 56 8 = cause % 2 ^ 8 := by
  rw [backDw0, fld_setFld_apart _ _ (by decide), fld_setFld_apart _ _ (by decide), fld_setFld_apart _ _ (by decide),
    fld_setFld_apart _ _ (by decide), fld_setFld_same]

theorem fld_backDw0_state : fld (backDw0 w cause st lact ofs blk) 40 4 = st % 2 ^ 4 := by
  rw [backDw0, fld_setFld_apart _ _ (by decide), fld_setFld_apart _ _ (by decide), fld_setFld_apart _ _ (by decide), fld_setFld_same]

theorem fld_backDw0_lact : fld (backDw0 w cause st lact ofs blk) 36 4 = lact % 2 ^ 4 := by
  rw [backDw0, fld_setFld_apart _ _ (by decide), fld_setFld_apart _ _ (by decide), fld_setFld_same]

theorem fld_backDw0_ofs : fld (backDw0 w cause st lact ofs blk) 24 12 = ofs % 2 ^ 12 := by
  rw [backDw0, fld_setFld_apart _ _ (by decide), fld_setFld_same]

theorem fld_backDw0_blk : fld (backDw0 w cause st lact ofs blk) 0 24 = blk % 2 ^ 24 := by rw [backDw0, fld_setFld_same]

/-- Priority and privilege stay. -/
theorem fld_backDw0_kept : fld (backDw0 w cause st lact ofs blk) 44 6 = fld w 44 6 := by
  rw [backDw0, fld_setFld_apart _ _ (by decide), fld_setFld_apart _ _ (by decide), fld_setFld_apart _ _ (by decide),
    fld_setFld_apart _ _ (by decide), fld_setFld_apart _ _ (by decide), fld_recZero_zero _ (by decide)]

theorem fld_backDw0_zero : fld (backDw0 w cause st lact ofs blk) 50 6 = 0 := by
  rw [backDw0, fld_setFld_apart _ _ (by decide), fld_setFld_apart _ _ (by decide), fld_setFld_apart _ _ (by decide),
    fld_setFld_apart _ _ (by decide), fld_setFld_apart _ _ (by decide), recZero, fld_setFld_same]
  rfl

end BackDw0

section Back
variable (s : State) (g : Nat)

section Image
variable (cl ofs v i : Nat)

theorem keepImage_sram : (keepImage s g).sram = s.sram := rfl
theorem keepImage_parts : (keepImage s g).parts = s.parts := rfl
theorem keepImage_cluster : (keepImage s g).cluster i = s.cluster i := rfl
theorem keepImage_slot : (keepImage s g).slot i = s.slot i := rfl
theorem keepImage_contexts : (keepImage s g).contexts = ins s.contexts (s.slot g).ctxPa (s.slot g).ctx := rfl
theorem parts_withSram (m : Store) : ({ s with sram := m } : State).parts = s.parts := rfl
theorem slot_withSram (m : Store) : ({ s with sram := m } : State).slot i = s.slot i := rfl
theorem contexts_withSram (m : Store) : ({ s with sram := m } : State).contexts = s.contexts := rfl
theorem sramWrite_parts : (sramWrite s cl ofs 8 v).parts = s.parts := parts_withSram _ _
theorem sramWrite_slot : (sramWrite s cl ofs 8 v).slot i = s.slot i := slot_withSram _ _ _
theorem sramWrite_contexts : (sramWrite s cl ofs 8 v).contexts = s.contexts := contexts_withSram _ _

end Image

section Kept
variable (cause st blk ofs : Nat) (p0 : W64)

/-- Writing a record back is two writes to it and keeping its thread's registers. -/
theorem writeBack_eq : writeBack s g cause st blk ofs p0 = keepImage (sramWrite (sramWrite s (clusterOf g) (s.slot g).recOfs 8
    (backDw0 (recDw s (clusterOf g) (s.slot g).recOfs 0) cause st (s.slot g).lact ofs blk)) (clusterOf g) ((s.slot g).recOfs + 24) 8 p0.toNat) g := by
  unfold writeBack backDw0
  rfl

theorem sram_writeBack : (writeBack s g cause st blk ofs p0).sram = (sramWrite (sramWrite s (clusterOf g) (s.slot g).recOfs 8
    (backDw0 (recDw s (clusterOf g) (s.slot g).recOfs 0) cause st (s.slot g).lact ofs blk)) (clusterOf g) ((s.slot g).recOfs + 24) 8 p0.toNat).sram := by
  rw [writeBack_eq, keepImage_sram]

theorem parts_writeBack : (writeBack s g cause st blk ofs p0).parts = s.parts := by
  rw [writeBack_eq, keepImage_parts, sramWrite_parts, sramWrite_parts]

theorem cluster_writeBack (cl : Nat) : (writeBack s g cause st blk ofs p0).cluster cl = s.cluster cl := by
  rw [writeBack_eq, keepImage_cluster, cluster_sramWrite, cluster_sramWrite]

theorem slot_writeBack (i : Nat) : (writeBack s g cause st blk ofs p0).slot i = s.slot i := by
  rw [writeBack_eq, keepImage_slot, sramWrite_slot, sramWrite_slot]

theorem contexts_writeBack : (writeBack s g cause st blk ofs p0).contexts = ins s.contexts (s.slot g).ctxPa (s.slot g).ctx := by
  rw [writeBack_eq, keepImage_contexts, sramWrite_slot, sramWrite_slot, sramWrite_contexts, sramWrite_contexts]

end Kept

/-- A record that is written back reads its new doublewords 0 and 3. -/
theorem recDw_writeBack (cause st blk ofs : Nat) (p0 : W64) (hofs : (s.slot g).recOfs % 8 = 0) (hwf : s.sram.wf = true) :
    let cl := clusterOf g
    let o := (s.slot g).recOfs
    recDw (writeBack s g cause st blk ofs p0) cl o 0 = backDw0 (recDw s cl o 0) cause st (s.slot g).lact ofs blk ∧
      recDw (writeBack s g cause st blk ofs p0) cl o 3 = p0.toNat := by
  intro cl o
  have hsram := sram_writeBack s g cause st blk ofs p0
  have hlt := backDw0_lt (recDw s cl o 0) cause st (s.slot g).lact ofs blk (sramRead_lt s cl (o + 8 * 0))
  unfold recDw at hlt ⊢
  rw [sramRead_congr hsram, sramRead_congr hsram]
  constructor
  · refine (sramRead_sramWrite_dw_other _ _ (sramWf_sramWrite _ _ _ _ hwf) ?_ ?_ ?_).trans
      ((sramRead_sramWrite_dw _ _ hwf hofs).trans (Nat.mod_eq_of_lt hlt))
    all_goals omega
  · refine (sramRead_sramWrite_dw _ _ (sramWf_sramWrite _ _ _ _ hwf) ?_).trans (Nat.mod_eq_of_lt p0.isLt)
    omega

end Back

section Trap
variable {s : State} {g : Nat} {t : PendTrap}

theorem slot_trapBack : (trapBack s g t).slot g = { s.slot g with gather := [] } := by
  rw [trapBack, slot_writeBack, slot_twiceDrained]

theorem leaveKept_trapIdle (hports : PortsIdle (s.slot g)) : LeaveKept (trapBack s g t) (trapIdle s g t) :=
  (leaveKept_unpin _ g).trans (leaveKept_idleSlot (by rw [slot_unpin, slot_trapBack]; exact hports))

theorem leaveKept_twiceDrained : LeaveKept s (drainAll (drainAll s g) g) := (leaveKept_drainAll s g).trans (leaveKept_drainAll _ g)

/-- Writing a record back leaves the partitions and the maps. -/
theorem parts_trapBack : (trapBack s g t).parts = s.parts := by
  rw [trapBack, parts_writeBack, leaveKept_twiceDrained.parts]

theorem maps_trapBack (cl : Nat) : ((trapBack s g t).cluster cl).maps = (s.cluster cl).maps := by
  rw [trapBack, cluster_writeBack, leaveKept_twiceDrained.maps]

/-- The context of the thread stays in the register cache. -/
theorem find_contexts_trapBack : find (trapBack s g t).contexts (s.slot g).ctxPa = some (s.slot g).ctx := by
  rw [trapBack, contexts_writeBack, slot_twiceDrained, find_ins, if_pos rfl]

/-- The record reads its new doublewords 0 and 3. -/
theorem recDw_trapBack (hofs : (s.slot g).recOfs % 8 = 0) (hwf : s.sram.wf = true) :
    let cl := clusterOf g
    let x := s.slot g
    recDw (trapBack s g t) cl x.recOfs 0 = backDw0 (recDw s cl x.recOfs 0) t.cause.code 4 x.lact t.ofs x.blk ∧
      recDw (trapBack s g t) cl x.recOfs 3 = t.p0.toNat := by
  have hsram := (leaveKept_twiceDrained (s := s) (g := g)).sram
  have hread := recDw_writeBack (drainAll (drainAll s g) g) g t.cause.code 4 (s.slot g).blk t.ofs t.p0
  rw [slot_twiceDrained, hsram] at hread
  unfold trapBack
  dsimp only at hread ⊢
  rw [slot_twiceDrained]
  simpa only [recDw, sramRead_congr hsram] using hread hofs hwf

theorem trapQueue_trapIdle (hports : PortsIdle (s.slot g)) (cl part : Nat) : trapQueue (trapIdle s g t) cl part = trapQueue s cl part := by
  rw [(leaveKept_trapIdle hports).trapQueue]
  unfold trapQueue
  dsimp only
  rw [vcMap_congr (maps_trapBack cl), State.part, parts_trapBack, State.part]

end Trap

/-! ### What the handler entry holds -/

theorem bitMark_eq (c : Bool) (i : Nat) : bitMark c i = c.toNat * 2 ^ i := by cases c <;> simp [bitMark]

/-- A bit whose value is the number of a Boolean. -/
theorem testBit_of_toNat {n i : Nat} {c : Bool} (h : n / 2 ^ i % 2 = c.toNat) : n.testBit i = c := by
  rw [Nat.testBit_eq_decide_div_mod_eq, h]
  cases c <;> rfl

theorem code_lt (c : Cause) : c.code < 2 ^ 8 := by cases c <;> decide

section Entry
variable (x : Slot) (t : PendTrap)

/-- The parts of doubleword 0 of a handler entry do not overlap. -/
theorem trapDw0_eq : ∃ a b c j o k, a = t.deferred.toNat ∧ b = t.rv.toNat ∧ c = (x.status == .handover).toNat ∧ j = t.j % 2 ^ 16 ∧
    o = t.ofs % 2 ^ 12 ∧ k = x.blk % 2 ^ 24 ∧ a < 2 ∧ b < 2 ∧ c < 2 ∧ j < 2 ^ 16 ∧ o < 2 ^ 12 ∧ k < 2 ^ 24 ∧
    trapDw0 x t = t.cause.code * 2 ^ 56 + a * 2 ^ 55 + b * 2 ^ 54 + c * 2 ^ 53 + j * 2 ^ 36 + o * 2 ^ 24 + k := by
  refine ⟨_, _, _, _, _, _, rfl, rfl, rfl, rfl, rfl, rfl, Bool.toNat_lt _, Bool.toNat_lt _, Bool.toNat_lt _, Nat.mod_lt _ (by decide),
    Nat.mod_lt _ (by decide), Nat.mod_lt _ (by decide), ?_⟩
  simp [trapDw0, bitMark_eq]

/-- The numbers of doubleword 0 of a handler entry. -/
theorem trapDw0_fields : trapDw0 x t / 2 ^ 56 = t.cause.code ∧ trapDw0 x t / 2 ^ 36 % 2 ^ 16 = t.j % 2 ^ 16 ∧
    trapDw0 x t / 2 ^ 24 % 2 ^ 12 = t.ofs % 2 ^ 12 ∧ trapDw0 x t % 2 ^ 24 = x.blk % 2 ^ 24 := by
  obtain ⟨a, b, c, j, o, k, -, -, -, hj, ho, hk, ha, hb, hc, hjlt, holt, hklt, heq⟩ := trapDw0_eq x t
  rw [heq, ← hj, ← ho, ← hk]
  omega

/-- The marks of doubleword 0 of a handler entry. -/
theorem trapDw0_marks : (trapDw0 x t).testBit 55 = t.deferred ∧ (trapDw0 x t).testBit 54 = t.rv ∧
    (trapDw0 x t).testBit 53 = (x.status == .handover) ∧ (trapDw0 x t).testBit 52 = false := by
  obtain ⟨a, b, c, j, o, k, hta, htb, htc, -, -, -, ha, hb, hc, hjlt, holt, hklt, heq⟩ := trapDw0_eq x t
  refine ⟨testBit_of_toNat ?_, testBit_of_toNat ?_, testBit_of_toNat ?_, testBit_of_toNat ?_⟩
  · rw [heq, ← hta]
    omega
  · rw [heq, ← htb]
    omega
  · rw [heq, ← htc]
    omega
  · rw [heq, Bool.toNat_false]
    omega

end Entry

section Deliver
variable {s : State} {g : Nat} {t : PendTrap} (hports : PortsIdle (s.slot g))

theorem exec_trapDelivery (htrap : (s.slot g).trap = some t) (hquiet : quiet s g = true) : exec (.trapDelivery g) s = .next (deliverTrap s g) := by
  simp [exec, execTrapDelivery, trapReady, htrap, hquiet]

theorem slot_trapIdle : (trapIdle s g t).slot g = Slot.reset := slot_idleSlot _ _

include hports

theorem find_contexts_trapIdle : find (trapIdle s g t).contexts (s.slot g).ctxPa = some (s.slot g).ctx := by
  rw [(leaveKept_trapIdle hports).contexts, find_contexts_trapBack]

theorem part_trapIdle (p : Nat) : (trapIdle s g t).part p = s.part p := by
  rw [(leaveKept_trapIdle hports).part, State.part, parts_trapBack, State.part]

theorem recDw_trapIdle (cl ofs k : Nat) : recDw (trapIdle s g t) cl ofs k = recDw (trapBack s g t) cl ofs k :=
  sramRead_congr (leaveKept_trapIdle hports).sram ..

/-- The record of a delivered trap reads its cause, state Trapped and its place. -/
theorem record_trapIdle (halign : (s.slot g).recOfs % 8 = 0) (hwf : s.sram.wf = true) :
    let x := s.slot g
    let w := recDw (trapIdle s g t) (clusterOf g) x.recOfs 0
    fld w 56 8 = t.cause.code ∧ fld w 40 4 = 4 ∧ fld w 36 4 = x.lact % 2 ^ 4 ∧ fld w 24 12 = t.ofs % 2 ^ 12 ∧ fld w 0 24 = x.blk % 2 ^ 24 ∧
      fld w 44 6 = fld (recDw s (clusterOf g) x.recOfs 0) 44 6 ∧ fld w 50 6 = 0 ∧
      recDw (trapIdle s g t) (clusterOf g) x.recOfs 3 = t.p0.toNat := by
  obtain ⟨hzero, hthree⟩ := recDw_trapBack (t := t) halign hwf
  dsimp only
  rw [recDw_trapIdle hports, recDw_trapIdle hports, hzero]
  exact ⟨(fld_backDw0_cause ..).trans (Nat.mod_eq_of_lt (code_lt _)), fld_backDw0_state .., fld_backDw0_lact .., fld_backDw0_ofs ..,
    fld_backDw0_blk .., fld_backDw0_kept .., fld_backDw0_zero .., hthree⟩

end Deliver

/-- What changes of a part with the partition that a trapped record joins. -/
theorem setPart_reads (u : State) (p : Nat) (x : Partition) : (∀ g, (u.setPart p x).slot g = u.slot g) ∧ (u.setPart p x).contexts = u.contexts ∧
    ∀ cl ofs k, recDw (u.setPart p x) cl ofs k = recDw u cl ofs k := ⟨fun _ => rfl, rfl, fun _ _ _ => rfl⟩

/-! ## The obligation -/

/-- Settles O43: the slot of a trapped thread that has nothing outstanding is emptied once its record holds the cause and its place; the
entry for the handler, the task words at the home and a resumed record read as their rules say. -/
theorem trapsAreDeliveredAndReturnedFrom : Obligations.TrapsAreDeliveredAndReturnedFrom := by
  unfold Obligations.TrapsAreDeliveredAndReturnedFrom
  refine ⟨?deliver, ?handler, ?home, fun s cl ofs n hn hofs hrun hwf => ?resume⟩
  case deliver =>
    intro g s t htrap hquiet hfree hports
    refine ⟨_, exec_trapDelivery htrap hquiet, fun hq => ?_⟩
    rw [← trapQueue_trapIdle (t := t) hports] at hq
    rw [deliverTrap_of_queue htrap hfree hq, part_trapIdle hports]
    obtain ⟨hcode, hj, hofs, hblk⟩ := trapDw0_fields (s.slot g) t
    obtain ⟨hdef, hrv, hhand, hlost⟩ := trapDw0_marks (s.slot g) t
    have hslot := slot_trapIdle (s := s) (g := g) (t := t)
    have hcontext := find_contexts_trapIdle (t := t) hports
    have hrecord := record_trapIdle (t := t) hports
    have hentry : ∃ e : Trapped, (trapEntry s g t) = e ∧ e.cl = clusterOf g ∧ e.recOfs = (s.slot g).recOfs ∧ e.info = t.info ∧
        e.dw0 = trapDw0 (s.slot g) t := ⟨_, rfl, rfl, rfl, rfl, rfl⟩
    obtain ⟨e, he, hcl, hrec, hinfo, hdw0⟩ := hentry
    rw [he]
    rw [← hdw0] at hcode hj hofs hblk hdef hrv hhand hlost
    generalize trapIdle s g t = u at hslot hcontext hrecord ⊢
    obtain ⟨hslots, hcontexts, hrecs⟩ := setPart_reads u (partOf s g) { s.part (partOf s g) with trapped := (s.part (partOf s g)).trapped ++ [e] }
    refine ⟨(hslots g).trans hslot, by rw [hcontexts, hcontext],
      ⟨e, by rw [State.part_setPart_self], hcl, hrec, hinfo, hcode, hj, hofs, hblk, hdef, hrv, hhand, hlost⟩, fun halign hwf => ?_⟩
    dsimp only
    rw [hrecs, hrecs]
    obtain ⟨hcause, hstate, hlact, hplace, hblock, hprio, hzeros, hthree⟩ := hrecord halign hwf
    exact ⟨hcause, hstate, hlact, hplace, (fld_zero ..).symm.trans hblock, hprio, hzeros, hthree⟩
  case handler =>
    intro part cl s t ts q ofs htrapped
    have hentry : entryOfs (s.part part).trapq = ofs := rfl
    have halign : ofs % 32 = 0 := hentry ▸ entryOfs_aligned _
    clear_value ofs
    refine ⟨fun hq => ?_, fun hq hfull hheld hdone hwf => ?_, fun hq hwait => ?_⟩
    · rw [exec_handlerEntryWrite, writeHandler_of_none htrapped hq, Option.getD_some, untrapped]
    · have hready : entryWaits s part cl t = false := by simp [entryWaits, hentry, hheld, hdone, hfull]
      rw [exec_handlerEntryWrite, writeHandler_of_ready htrapped hq hready, Option.getD_some, hentry]
      obtain ⟨hleft, htail⟩ := part_tailMoved s part cl ofs q t ts
      rw [← sram_untrapped s part ts] at hwf
      refine ⟨_, rfl, hleft, ?_, ?_, ?_, htail⟩
      · exact (sramFull_congr (sram_tailMoved ..) ..).trans (sramFull_entryWritten hwf)
      · exact (sramRead_congr (sram_tailMoved ..) ..).trans (sramRead_entryWritten hwf halign)
      · exact (sramRead_congr (sram_tailMoved ..) ..).trans (sramRead_entryWritten_info hwf halign)
    · have hw : entryWaits s part cl t = true := by
        rcases hwait with hfull | hheld | hstores
        · simp [entryWaits, hentry, hfull]
        · simp [entryWaits, hheld]
        · simp [entryWaits, hstores]
      rw [exec_handlerEntryWrite, writeHandler_of_waits htrapped hq hw, Option.getD_none]
  case home =>
    intro rid cl ofs s r h
    refine ⟨fun n hop => exec_sramRequest_dec h hop, fun hop => (exec_sramRequest_tget h hop).trans (by rw [countVal, fld_zero, recPrio, recState]),
      fun d p1 sc u v hop howned hspawn => exec_sramRequest_spawn h hop howned hspawn, fun b hop => ?_⟩
    have hexec := exec_sramRequest_tset h hop
    intro n st counted after
    have hbit : bitAt b.toNat 16 = b.getLsbD 16 := bitAt_toNat b 16
    refine ⟨fun hst => ?_, fun hst hprv => ?_, fun hst hprv hb => ?_, fun hst hprv hb => ?_, fun hst => ?_, fun h0 h3 h4 => ?_⟩
    · exact hexec.trans (by rw [setCount_of_free hst])
    · exact hexec.trans (by rw [setCount_of_user hst hprv])
    · exact hexec.trans (by rw [setCount_of_abort hst hprv (hbit.trans hb)])
    · exact hexec.trans (by rw [setCount_of_resume hst hprv (hbit.trans hb), fld_zero])
    · exact hexec.trans (by rw [setCount_of_waiting hst, fld_zero])
    · exact hexec.trans (by rw [setCount_of_other h0 h3 h4, fld_zero])
  case resume =>
    obtain ⟨hcause, hcount, hstate, hplace, hthree⟩ := resumeRec_reads hn hofs hrun hwf
    refine ⟨hcause, hcount, hstate, ?_, hthree⟩
    rwa [fld_zero, fld_zero] at hplace

end Sys2Proof.Machine
end

section
/-! SUPPORT. What the end of a thread, by a trap or in its record, leaves as it was: the maps of the clusters, and the special registers
`CMAP` and `TRAPQ` of the partitions (R261, R305, R357). -/

namespace Sys2Proof.Machine

/-- What traps and retired records leave as it was. -/
structure MapsKept (s t : State) : Prop where
  maps : ∀ cl, (t.cluster cl).maps = (s.cluster cl).maps
  regs : ∀ p, (t.part p).cmap = (s.part p).cmap ∧ (t.part p).trapq = (s.part p).trapq

/-- Changes that leave the clusters and the partitions, on variables. -/
theorem withSram_clusters_parts (s : State) (m : Store) :
    ({ s with sram := m } : State).clusters = s.clusters ∧ ({ s with sram := m } : State).parts = s.parts := ⟨rfl, rfl⟩

theorem maps_withHeldFor (c : Cluster) (l : List Nat) : ({ c with heldFor := l } : Cluster).maps = c.maps := rfl

theorem maps_withSaveUsed (c : Cluster) (l : List Nat) : ({ c with saveUsed := l } : Cluster).maps = c.maps := rfl
theorem maps_withLines (c : Cluster) (l m : List MatchLine) : ({ c with lines := l, hdrLines := m } : Cluster).maps = c.maps := rfl

namespace MapsKept

protected theorem refl (s : State) : MapsKept s s := ⟨fun _ => rfl, fun _ => ⟨rfl, rfl⟩⟩

section Steps
variable {s t : State} (h : MapsKept s t)
include h

/-- A change of other parts of the state. -/
theorem of_eq {u : State} (hc : u.clusters = t.clusters) (hp : u.parts = t.parts) : MapsKept s u :=
  ⟨fun cl => by simpa only [State.cluster, hc] using h.maps cl, fun p => by simpa only [State.part, hp] using h.regs p⟩

theorem of_devKept {u : State} (hu : DevKept t u) : MapsKept s u :=
  ⟨fun cl => (hu.maps cl).trans (h.maps cl), fun p => by simpa only [State.part, hu.parts] using h.regs p⟩

theorem foldl {β : Type} {f : State → β → State} (hf : ∀ t b, MapsKept s t → MapsKept s (f t b)) (l : List β) : MapsKept s (l.foldl f t) := by
  induction l generalizing t with
  | nil => exact h
  | cons b l ih => exact ih (hf t b h)

/-- A cluster replaced by one with the same maps. -/
theorem setCluster (cl : Nat) {x : Cluster} (hx : x.maps = (t.cluster cl).maps) : MapsKept s (t.setCluster cl x) :=
  ⟨fun i => by
    rw [State.cluster_setCluster]
    split
    · next hi => rw [hx, hi, h.maps]
    · exact h.maps i, h.regs⟩

theorem onCluster (cl : Nat) {f : Cluster → Cluster} (hf : ∀ c, (f c).maps = c.maps) : MapsKept s (t.onCluster cl f) := h.setCluster cl (hf _)

theorem setSlot (g : Nat) (x : Slot) : MapsKept s (t.setSlot g x) := h.of_eq rfl rfl
theorem onSlot (g : Nat) (f : Slot → Slot) : MapsKept s (t.onSlot g f) := h.of_eq rfl rfl
theorem onCore (c : Nat) (f : Core → Core) : MapsKept s (t.onCore c f) := h.of_eq rfl rfl
theorem setEngine (e : Nat) (x : Engine) : MapsKept s (t.setEngine e x) := h.of_eq rfl rfl
theorem setNet (l : List Request) : MapsKept s { t with net := l } := h.of_eq rfl rfl
theorem setWalks (l : List WalkJob) : MapsKept s { t with walks := l } := h.of_eq rfl rfl
theorem setOrphans (l : List (Nat × Nat)) : MapsKept s { t with orphans := l } := h.of_eq rfl rfl
theorem setDecs (l : List Dec) : MapsKept s { t with decs := l } := h.of_eq rfl rfl
theorem setReports (l : List Report) : MapsKept s { t with reports := l } := h.of_eq rfl rfl
theorem setProducts (l : List Product) : MapsKept s { t with products := l } := h.of_eq rfl rfl
theorem setDev (m : Store) : MapsKept s { t with dev := m } := h.of_eq rfl rfl
theorem bump : MapsKept s t.bump := h.of_eq rfl rfl
theorem sramWrite (cl ofs n v : Nat) : MapsKept s (sramWrite t cl ofs n v) :=
  have hm := withSram_clusters_parts t (t.sram.write (sramKey cl ofs) n v)
  h.of_eq hm.1 hm.2

/-- A partition replaced by one with the same special registers. -/
theorem setPart (p : Nat) {x : Partition} (hx : x.cmap = (t.part p).cmap ∧ x.trapq = (t.part p).trapq) : MapsKept s (t.setPart p x) :=
  ⟨h.maps, fun i => by
    rw [State.part_setPart]
    split
    · next hi => exact hi ▸ ⟨hx.1.trans (h.regs p).1, hx.2.trans (h.regs p).2⟩
    · exact h.regs i⟩

/-! ### Records -/

theorem setRec (cl ofs k lo n v : Nat) : MapsKept s (setRec t cl ofs k lo n v) := h.sramWrite ..

theorem linkRun (cl : Nat) (run : List Nat) : MapsKept s (linkRun t cl run) := by
  induction run generalizing t with
  | nil => exact h
  | cons o run ih =>
    cases run with
    | nil => exact h.sramWrite ..
    | cons n rest => exact ih (h.sramWrite ..)

theorem setRun (cl : Nat) (run : List Nat) : MapsKept s (setRun t cl run) := (h.onCluster cl (f := fun c => { c with run := run }) fun _ => rfl).linkRun cl run

theorem dropImage (pa : Nat) : MapsKept s (dropImage t pa) := h.of_eq rfl rfl

theorem freeRec (cl ofs : Nat) : MapsKept s (freeRec t cl ofs) := by
  unfold Machine.freeRec
  dsimp only
  have hrec := h.setRec cl ofs 0 40 4 0
  generalize Machine.setRec t cl ofs 0 40 4 0 = u at hrec ⊢
  have hfreed := ((hrec.setOrphans (u.orphans.filter (· != (cl, ofs)))).dropImage (recCtx t cl ofs)).onCluster cl
    (f := fun c => { c with usedRecs := c.usedRecs.filter (· != ofs), usedCtx := c.usedCtx.filter (· != recCtx t cl ofs) }) fun _ => rfl
  split
  · exact hfreed.setRun ..
  · exact hfreed

theorem productGone (cl ofs : Nat) (bad : Bool) : MapsKept s (productGone t cl ofs bad) := by
  unfold Machine.productGone
  split
  · exact h
  · exact (h.setProducts _).setEngine ..

theorem faultEntry (cl fsrc fcode ten fseq addr aux : Nat) : MapsKept s (faultEntry t cl fsrc fcode ten fseq addr aux) :=
  h.of_devKept ((DevKept.refl t).faultEntry ..)

theorem retireRec (cl ofs src kind : Nat) (dec : Bool) : MapsKept s (retireRec t cl ofs src kind dec) := by
  unfold Machine.retireRec
  extract_lets part w1 w6 after orphan freed told lcl
  have hfreed : MapsKept s freed := h.freeRec cl ofs
  have htold : MapsKept s told := by
    simp only [told]
    clear_value freed
    split
    · exact hfreed.productGone ..
    · split
      · split
        · split
          · exact hfreed
          · exact hfreed.setDecs _
        · exact hfreed.faultEntry ..
      · exact hfreed
  clear_value told
  split
  · exact htold
  · split
    · split
      · exact htold.faultEntry ..
      · split
        · exact htold
        · exact htold.setReports _
    · exact htold.faultEntry ..

theorem abortRec (cl ofs src : Nat) : MapsKept s (abortRec t cl ofs src) := h.retireRec ..

/-! ### The gather buffer and the output ports -/

theorem setStores (n : Nat) (l : List DevStore) : MapsKept s { t with nextId := n, stores := l } := h.of_eq rfl rfl

theorem drainLine (g : Nat) (l : GatherLine) : MapsKept s (drainLine t g l) := h.setStores ..

theorem drainWhere (g : Nat) (p : GatherLine → Bool) : MapsKept s (drainWhere t g p) := by
  unfold Machine.drainWhere
  exact (h.foldl (fun _ l hu => hu.drainLine g l) _).onSlot ..

theorem drainAll (g : Nat) : MapsKept s (drainAll t g) := h.drainWhere ..

theorem gatherPut (g pa : Nat) (e : Option TlbEntry) (bs : Sparse (BitVec 8)) (tag : Bool) (grd : List Nat) :
    MapsKept s (gatherPut t g pa e bs tag grd) := by
  unfold Machine.gatherPut
  dsimp only
  refine drainWhere ?_ ..
  split
  · exact h.setSlot ..
  · refine onSlot ?_ ..
    split
    · exact h.drainWhere ..
    · exact h

theorem traceStore (cl ofs core slot chip : Nat) : MapsKept s (traceStore t cl ofs core slot chip) := by
  unfold Machine.traceStore
  dsimp only
  split
  · exact h
  · exact ((h.sramWrite ..).sramWrite ..).setCluster _ rfl

theorem traceFrom (g cl ofs : Nat) : MapsKept s (traceFrom t g cl ofs) := by
  unfold Machine.traceFrom
  split
  · exact h
  · exact h.traceStore ..

theorem writeElem (g : Nat) (e : OutElem) : MapsKept s (writeElem t g e) := by
  unfold Machine.writeElem
  split
  · split
    · exact h.faultEntry ..
    · split
      · exact h.faultEntry ..
      · exact (h.sramWrite ..).traceFrom ..
  · exact h.gatherPut ..
  · split
    · exact h.gatherPut ..
    · exact h
  · exact h

theorem setPort (g p : Nat) (q : Port) : MapsKept s (setPort t g p q) := h.onSlot ..

theorem closeBlock (g p : Nat) : MapsKept s (closeBlock t g p) := by
  unfold Machine.closeBlock
  extract_lets q
  split
  · exact h
  · exact ((((h.onSlot g _).setPort g p _).bump).setPort g p _)

theorem writePorts (g : Nat) : MapsKept s (writePorts t g) :=
  h.foldl (fun _ _ hu => foldl (hu.setPort ..) (f := fun s e => Machine.writeElem s g e) (fun _ e hv => hv.writeElem g e) _) _

theorem closeBlocks (g : Nat) : MapsKept s (closeBlocks t g) := h.foldl (fun _ p hu => hu.closeBlock g p) _

theorem flushPorts (g : Nat) : MapsKept s (flushPorts t g) := ((h.closeBlocks g).writePorts g).onSlot ..

/-! ### A thread that leaves its slot -/

theorem releaseAll (g : Nat) : MapsKept s (releaseAll t g) := h.foldl (fun _ _ hu => hu.onCore ..) _

theorem poisonPages (pa : Nat) (xs : List MByte) : MapsKept s (poisonPages t pa xs) := h.setDev _

theorem savedPiece (ten pa : Nat) (xs : List MByte) (tag : Bool) : MapsKept s (saveTo.savedPiece t ten pa xs tag) := by
  unfold saveTo.savedPiece
  dsimp only
  refine poisonPages ?_ ..
  have hwritten : MapsKept s (devWrite t ten pa (xs.map (·.1)) false) := h.of_devKept ((DevKept.refl t).devWrite ..)
  split
  · exact hwritten.setDev _
  · exact hwritten

theorem setOpenVals (l : Sparse (List (BitVec 32) × Option OutElem)) : MapsKept s { t with openVals := l } := h.of_eq rfl rfl

theorem saveTo {g pa : Nat} {u : State} (hu : saveTo t g pa = some u) : MapsKept s u := by
  unfold Machine.saveTo at hu
  split at hu
  · exact absurd hu (by simp)
  · cases hu
    refine releaseAll (onSlot (foldl (foldl h ?_ _) ?_ _) ..) g
    · exact fun _ _ hv => hv.savedPiece ..
    · exact fun _ _ hv => hv.setOpenVals _

theorem saveFailed (g pa : Nat) : MapsKept s (saveFailed t g pa) :=
  h.of_devKept (((DevKept.refl t).faultEntry ..).monitorEvent ..)

theorem saveOrRelease (g : Nat) : MapsKept s (saveOrRelease t g).1 := by
  -- `saveTo` is hidden: the kernel would compute with the addresses of the save area
  obtain ⟨save, hsave⟩ : ∃ f, Machine.saveTo = f := ⟨_, rfl⟩
  unfold Machine.saveOrRelease
  rw [hsave]
  split
  · exact h
  · dsimp only
    split
    · split
      · next hu =>
        rw [← hsave] at hu
        exact onCluster (onSlot (saveTo h hu) ..) _ fun c => maps_withSaveUsed c _
      · exact releaseAll (flushPorts (saveFailed h ..) g) g
    · exact releaseAll (flushPorts h g) g

theorem dropOldLines (cl hdr : Nat) : MapsKept s (dropOldLines t cl hdr) := by
  unfold Machine.dropOldLines
  dsimp only
  refine onCluster h cl fun c => ?_
  exact maps_withLines c _ _

theorem unpin (g : Nat) : MapsKept s (unpin t g) := by
  unfold Machine.unpin
  split
  · exact h
  · exact (h.onSlot g _).dropOldLines ..

theorem keepImage (g : Nat) : MapsKept s (keepImage t g) := h.of_eq rfl rfl

theorem writeBack (g cause st blk ofs : Nat) (p0 : W64) : MapsKept s (writeBack t g cause st blk ofs p0) := by
  rw [writeBack_eq]
  exact keepImage (sramWrite (sramWrite h ..) ..) g

theorem idleSlot (g : Nat) : MapsKept s (idleSlot t g) := by
  unfold Machine.idleSlot Machine.dropGot
  exact setSlot (setWalks (drainAll (writePorts h g) g) _) ..

theorem deliverTrap (g : Nat) : MapsKept s (deliverTrap t g) := by
  unfold Machine.deliverTrap
  split
  · exact h
  · split
    · exact h.closeBlocks g
    · extract_lets cl part
      have hsaved := (h.drainAll g).saveOrRelease g
      generalize Machine.saveOrRelease (Machine.drainAll t g) g = r at hsaved ⊢
      obtain ⟨u, lost⟩ := r
      have hback := fun cause st blk ofs p0 => (((hsaved.drainAll g).writeBack g cause st blk ofs p0).unpin g).idleSlot g
      dsimp only
      split
      · exact (hback ..).abortRec ..
      · exact (hback ..).setPart _ ⟨rfl, rfl⟩

/-- A trap of another cause than POISON, which would fence a cocoon. -/
theorem raise (g : Nat) {p : PendTrap} (hp : p.cause ≠ .poison) : MapsKept s (raise t g p) := by
  unfold Machine.raise
  simp only [if_neg hp]
  have hraised := fun f l k => ((h.onCore (coreOf g) f).setWalks l).onSlot g k
  split
  · exact (hraised ..).deliverTrap g
  · exact hraised ..

theorem undoPops (g : Nat) (pops : List (Nat × Nat × List Fetched)) (flags : Nat) : MapsKept s (undoPops t g pops flags) := h.onSlot ..

/-- The access of a request that fails with another cause than POISON. -/
theorem failReq (r : Request) {c : Cause} (hc : c ≠ .poison) (info : Nat) : MapsKept s (failReq t r c info) :=
  (((h.undoPops ..).setNet _).onSlot ..).raise _ hc

/-- The trapped records of a partition without a handler queue are ended. -/
theorem endTrapped (part : Nat) : MapsKept s (endTrapped t part) := by
  unfold Machine.endTrapped
  dsimp only
  refine foldl (setPart h part ?_) (fun _ _ hu => hu.abortRec ..) _
  exact ⟨rfl, rfl⟩

theorem setNetDecs (net : List Request) (decs : List Dec) : MapsKept s { t with net := net, decs := decs } := h.of_eq rfl rfl

/-- Requests that a handover holds go on by a new map. -/
theorem forwardHeld (part : Nat) (old : List Nat) : MapsKept s (forwardHeld t part old) := by
  unfold Machine.forwardHeld
  dsimp only
  refine foldl (foldl (setNetDecs h ..) (fun _ cl hu => ?_) _) (fun _ r hu => hu.failReq r ?_ _) _
  · exact hu.onCluster cl fun c => maps_withHeldFor c _
  · decide

end Steps
end MapsKept
end Sys2Proof.Machine
end

section
/-! PROOFS. Markers, sweeps, commits, invalidations and match-cache lines (R52, R62, R65, R66, R132, R133, R137, R261-R263). -/

namespace Sys2Proof.Machine

/-! ## Markers (R137) -/

section Marker
variable {s : State} {g plane stack : Nat} {f : FenceWait} (hf : (s.slot g).fence = some f)
include hf

theorem exec_fenceMarker (hmem : (plane, stack) ∈ f.markers) (hready : markerReady s (dieOf (clusterOf g)) f.since plane stack = true) :
    exec (.fenceMarker g plane stack) s = .next (s.onSlot g fun x =>
      { x with fence := some { f with markers := f.markers.erase (plane, stack), acks := f.acks ++ [(plane, stack)] } }) := by
  have hcontains : f.markers.contains (plane, stack) = true := List.contains_iff_mem.mpr hmem
  simp only [exec, execFenceMarker, hf, hcontains, hready, Bool.and_self, if_true]

theorem exec_markerAck : exec (.markerAck g plane stack) s = .next (s.onSlot g fun x =>
    { x with fence := some { f with acks := f.acks.erase (plane, stack) } }) := by
  simp only [exec, execMarkerAck, hf]

end Marker

/-! ## The operations of a sweep in the order (core, slot) (R133) -/

theorem placeBySlot_perm (r : Request) (l : List Request) : (placeBySlot r l).Perm (r :: l) := by
  induction l with
  | nil => exact .refl _
  | cons q qs ih =>
    rw [placeBySlot]
    split
    · exact .refl _
    · exact (ih.cons q).trans (.swap r q qs)

theorem placeBySlot_pairwise (r : Request) {l : List Request} (h : l.Pairwise fun a b => a.slot ≤ b.slot) :
    (placeBySlot r l).Pairwise fun a b => a.slot ≤ b.slot := by
  induction l with
  | nil => exact List.pairwise_singleton ..
  | cons q qs ih =>
    obtain ⟨hq, hqs⟩ := List.pairwise_cons.mp h
    rw [placeBySlot]
    split
    · next hlt =>
      refine List.pairwise_cons.mpr ⟨fun a ha => ?_, h⟩
      rcases List.mem_cons.mp ha with rfl | ha
      · exact Nat.le_of_lt hlt
      · exact Nat.le_trans (Nat.le_of_lt hlt) (hq a ha)
    · next hge =>
      refine List.pairwise_cons.mpr ⟨fun a ha => ?_, ih hqs⟩
      rcases List.mem_cons.mp ((placeBySlot_perm r qs).mem_iff.mp ha) with rfl | ha
      · exact Nat.le_of_not_lt hge
      · exact hq a ha

theorem foldl_placeBySlot (rs l : List Request) : (rs.foldl (fun l r => placeBySlot r l) l).Perm (rs ++ l) ∧
    (l.Pairwise (fun a b => a.slot ≤ b.slot) → (rs.foldl (fun l r => placeBySlot r l) l).Pairwise fun a b => a.slot ≤ b.slot) := by
  induction rs generalizing l with
  | nil => exact ⟨.refl _, id⟩
  | cons r rs ih =>
    obtain ⟨hperm, hpair⟩ := ih (placeBySlot r l)
    refine ⟨hperm.trans (((placeBySlot_perm r l).append_left rs).trans List.perm_middle), fun hl => hpair (placeBySlot_pairwise r hl)⟩

theorem heldScOps_perm (s : State) : (heldScOps s).Perm (s.net.filter fun r => r.phase == .sent && r.cls == .sc) := by
  unfold heldScOps
  simpa only [List.append_nil] using (foldl_placeBySlot (s.net.filter fun r => r.phase == .sent && r.cls == .sc) []).1

theorem heldScOps_pairwise (s : State) : (heldScOps s).Pairwise fun a b => a.slot ≤ b.slot := (foldl_placeBySlot _ []).2 .nil

/-! ## Shared special registers (R261) -/

theorem performSc_mts {s : State} {r : Request} {spr : Nat} {v : W64} (hop : r.op = .mts spr v) :
    performSc s r = dropReq (applyMts s r.slot spr v.toNat) r := by simp only [performSc, hop]

/-- The fields that `mts` keeps of a value, written out. -/
theorem masked_eq (v : Nat) (fs : List (Nat × Nat)) : masked v fs = fs.foldl (fun a ln => a + v / 2 ^ ln.1 % 2 ^ ln.2 * 2 ^ ln.1) 0 := rfl

/-- A request that is over is in the net no more. -/
theorem not_mem_net_dropReq (s : State) (r : Request) : ∀ q ∈ (dropReq s r).net, q.id ≠ r.id := by
  intro q hq
  simpa using (List.mem_filter.mp hq).2

/-- Every cluster takes a new map of a partition. -/
def mapped (s : State) (part : Nat) (t : List Nat) : State :=
  (List.range 384).foldl (fun s cl => s.onCluster cl fun c => { c with maps := ins c.maps part t }) s

theorem sramRead_setPart (s : State) (p : Nat) (x : Partition) (cl ofs n : Nat) : sramRead (s.setPart p x) cl ofs n = sramRead s cl ofs n := rfl

theorem maps_mapped (s : State) (part : Nat) (t : List Nat) {cl : Nat} (hcl : cl < 384) :
    look [] ((mapped s part t).cluster cl).maps part = t := by
  have hmany (n : Nat) : ∀ cl < n,
      look [] (((List.range n).foldl (fun s cl => s.onCluster cl fun c => { c with maps := ins c.maps part t }) s).cluster cl).maps part = t := by
    induction n with
    | zero => exact fun cl h => absurd h (Nat.not_lt_zero _)
    | succ n ih =>
      intro cl hcl
      rw [List.range_succ, List.foldl_append, List.foldl_cons, List.foldl_nil]
      by_cases heq : cl = n
      · subst heq
        rw [State.cluster_onCluster_self]
        exact look_ins_self ..
      · rw [State.cluster_onCluster_other _ _ heq]
        exact ih cl (by omega)
  exact hmany 384 cl hcl

theorem parts_mapped (s : State) (part : Nat) (t : List Nat) (p : Nat) : (mapped s part t).part p = s.part p := by
  have hmany (l : List Nat) (u : State) :
      (l.foldl (fun s cl => s.onCluster cl fun c => { c with maps := ins c.maps part t }) u).part p = u.part p := by
    induction l generalizing u with
    | nil => rfl
    | cons cl l ih => rw [List.foldl_cons, ih, State.part_onCluster]
  exact hmany _ s

/-- A new map of a partition: every cluster takes it, requests that handovers hold go on, and trapped records without a queue end. -/
theorem applyMts_cmap (s : State) (g v : Nat) :
    let part := partOf s g
    let u := s.setPart part { s.part part with cmap := masked v [(39, 9), (30, 9), (15, 15)] }
    applyMts s g 0x105 v = endTrapped (forwardHeld (mapped u part (mapTable u v)) part (look [] (u.cluster (clusterOf g)).maps part)) part := by
  unfold applyMts mapped
  rfl

theorem part_mapped_set (s : State) (part : Nat) (x : Partition) (t : List Nat) : (mapped (s.setPart part x) part t).part part = x := by
  rw [parts_mapped, State.part_setPart_self]

/-- After a new map the partition's `CMAP` and every cluster's map stand as written. -/
theorem applyMts_cmap_reads (s : State) (g v : Nat) :
    ((applyMts s g 0x105 v).part (partOf s g)).cmap = masked v [(39, 9), (30, 9), (15, 15)] ∧
      ∀ cl < 384, look [] ((applyMts s g 0x105 v).cluster cl).maps (partOf s g) = mapTable s v := by
  rw [applyMts_cmap]
  generalize hpart : partOf s g = part
  generalize hx : ({ s.part part with cmap := masked v [(39, 9), (30, 9), (15, 15)] } : Partition) = x
  have hcmap : x.cmap = masked v [(39, 9), (30, 9), (15, 15)] := hx ▸ rfl
  have htable : mapTable (s.setPart part x) v = mapTable s v := rfl
  rw [htable]
  have hkept := ((MapsKept.refl (mapped (s.setPart part x) part (mapTable s v))).forwardHeld part
    (look [] ((s.setPart part x).cluster (clusterOf g)).maps part)).endTrapped part
  refine ⟨?_, fun cl hcl => ?_⟩
  · rw [(hkept.regs part).1, part_mapped_set, hcmap]
  · rw [hkept.maps, maps_mapped _ _ _ hcl]

/-- After an `mts` to `TRAPQ` the register holds what was written, and the tail that it had. -/
theorem applyMts_trapq (s : State) (g v : Nat) : ((applyMts s g 0x103 v).part (partOf s g)).trapq =
    masked v [(63, 1), (59, 4), (49, 10), (5, 16)] + masked (s.part (partOf s g)).trapq [(21, 15)] := by
  have heq : applyMts s g 0x103 v = endTrapped (s.setPart (partOf s g) { s.part (partOf s g) with
      trapq := masked v [(63, 1), (59, 4), (49, 10), (5, 16)] + masked (s.part (partOf s g)).trapq [(21, 15)] }) (partOf s g) := rfl
  rw [heq, (((MapsKept.refl _).endTrapped _).regs _).2, State.part_setPart_self]

section Simple
variable (s : State) (g v : Nat)

theorem applyMts_tgrant : ((applyMts s g 0x016 v).part (partOf s g)).tgrant = masked v [(2, 62)] := by
  rw [applyMts, State.part_setPart_self]

theorem applyMts_asid : ((applyMts s g 0x100 v).part (partOf s g)).asid = fld v 0 16 := by rw [applyMts, State.part_setPart_self]

theorem applyMts_s1root : ((applyMts s g 0x101 v).part (partOf s g)).s1root = masked v [(12, 45)] := by
  rw [applyMts, State.part_setPart_self]

theorem applyMts_s2root : ((applyMts s g 0x102 v).part (partOf s g)).s2root = masked v [(12, 28)] := by
  rw [applyMts, State.part_setPart_self]

theorem applyMts_retryq : ((applyMts s g 0x104 v).cluster (clusterOf g)).retryq =
    masked v [(63, 1), (59, 4), (6, 15)] + masked (s.cluster (clusterOf g)).retryq [(21, 15)] := by
  rw [applyMts, State.cluster_onCluster_self]

end Simple

/-- An operation that is over changes no partition and no cluster. -/
theorem dropReq_part (s : State) (r : Request) (p : Nat) : (dropReq s r).part p = s.part p := rfl
theorem dropReq_cluster (s : State) (r : Request) (cl : Nat) : (dropReq s r).cluster cl = s.cluster cl := rfl

/-! ## Commits (R62, R65, R66, R132) -/

theorem learnVer_commits (s : State) (cl hdr ver act : Nat) : (learnVer s cl hdr ver act).commits = s.commits := by
  unfold learnVer
  dsimp only
  split
  · split
    · rfl
    · rfl
  · rfl

theorem mayApply_iff {s : State} {i cl : Nat} : mayApply s i cl = true ↔ ∀ d ∈ s.commits.take i, cl ∉ d.todo := by
  simp [mayApply]

/-- A commit ends when no search pins another version of its table. -/
theorem commitReady_iff {s : State} {c : Commit} :
    commitReady s c = true ↔ ¬∃ gx ∈ s.slots, ∃ w b, gx.2.pin = some (c.hdr, w, b) ∧ w ≠ c.ver := by
  rw [commitReady, Bool.not_eq_true', ← Bool.not_eq_true, List.any_eq_true]
  refine not_congr (exists_congr fun gx => and_congr_right fun _ => ?_)
  rcases gx.2.pin with _ | ⟨hdr, w, b⟩
  · simp
  · simp only [Bool.and_eq_true, beq_iff_eq, bne_iff_ne]
    constructor
    · rintro ⟨rfl, hw⟩
      exact ⟨w, b, rfl, hw⟩
    · rintro ⟨w', b', heq, hw⟩
      cases heq
      exact ⟨rfl, hw⟩

section Commit
variable {s : State} {k : Nat} {c : Commit} (hc : s.commits[k % s.commits.length]? = some c)
include hc

theorem exec_commitComplete_early {cl : Nat} (htodo : c.todo[k / s.commits.length]? = some cl)
    (hmay : mayApply s (k % s.commits.length) cl = false) : exec (.commitComplete k) s = .next s := by
  simp only [exec, execCommitComplete, hc, htodo, hmay, Bool.not_false, if_true]

theorem exec_commitComplete_apply {cl : Nat} (htodo : c.todo[k / s.commits.length]? = some cl)
    (hmay : mayApply s (k % s.commits.length) cl = true) : exec (.commitComplete k) s =
      .next { learnVer s cl c.hdr c.ver c.act with commits := s.commits.set (k % s.commits.length) { c with todo := c.todo.erase cl } } := by
  simp only [exec, execCommitComplete, hc, htodo, hmay, Bool.not_true, Bool.false_eq_true, if_false, learnVer_commits]

variable (htodo : c.todo = [])
include htodo

theorem exec_commitComplete_waits (hready : commitReady s c = false) : exec (.commitComplete k) s = .next s := by
  simp only [exec, execCommitComplete, hc, htodo, List.getElem?_nil, hready, Bool.not_false, Bool.or_true, if_true]

theorem exec_commitComplete_done (hready : commitReady s c = true) :
    let v := devSettle { s with commits := s.commits.erase c } (forwardPa s c.hdr) 8
    exec (.commitComplete k) s = .next (pushResult
      (devWrite v c.ten c.hdr (bytesOf 8 (setFld (tableDw0 (devRead v c.ten c.hdr 8)) 29 1 0)) false) c.slot
      { dst := c.dst, val := RegVal.ofNat c.ver, flags := 0, cls := some .sc, rid := c.rid, after := none }) := by
  simp only [exec, execCommitComplete, hc, htodo, List.getElem?_nil, hready, Bool.not_true, List.isEmpty_nil, Bool.or_self, Bool.false_eq_true,
    if_false]

end Commit

/-! ## Invalidations (R262, R263) -/

/-- What is under way of an invalidation's partition, as the statement lists it, is what keeps it from being complete. -/
theorem complete_iff (s : State) (v : Inval) :
    let earlier := fun (g id : Nat) => partOf s g = v.part ∧ id < v.since
    v.complete s = true ↔ ¬((∃ r ∈ s.net, earlier r.slot r.id ∧ ((r.phase = .sent ∧ ∃ pa, r.tgt = .dev pa) ∨ (r.phase = .walk ∧ r.noTlb = true))) ∨
      (∃ d ∈ s.stores, earlier d.slot d.id ∧ toPeer d.line = false) ∨ (∃ d ∈ s.diffs, earlier d.slot d.id) ∨
      (∃ c ∈ s.commits, earlier c.slot c.rid) ∨ (∃ gx ∈ s.slots, ∃ p ∈ gx.2.ports, ∃ e ∈ p.2.outQ, e.via.any v.covers = true) ∨
      ∃ w ∈ s.walks, w.isEng = false ∧ earlier w.owner w.id ∧ w.phase = .walk ∧ w.noTlb = true) := by
  intro earlier
  unfold Inval.complete
  simp only [Bool.and_eq_true, Bool.or_eq_true, Bool.not_eq_true', ← Bool.not_eq_true, List.any_eq_true, beq_iff_eq, decide_eq_true_eq, not_or,
    and_assoc, earlier]
  refine and_congr (not_congr (exists_congr fun r => and_congr_right fun _ => and_congr_right fun _ => and_congr_right fun _ => or_congr ?_ .rfl))
    (and_congr_right fun _ => and_congr_right fun _ => and_congr_right fun _ => and_comm)
  refine and_congr_right fun _ => ?_
  rcases r.tgt with _ | pa | _ | _
  all_goals simp

section Tlbi
variable {s : State} {k : Nat} {v : Inval} (hv : s.invals[k]? = some v)
include hv

theorem exec_tlbiComplete_waits (hbusy : v.complete s = false) : exec (.tlbiComplete k) s = .next s := by
  simp only [exec, execTlbiComplete, hv, hbusy, Bool.false_eq_true, if_false]

theorem exec_tlbiComplete_done (hdone : v.complete s = true) : exec (.tlbiComplete k) s = .next { s with
    invals := s.invals.erase v
    walks := s.walks.filter fun w => !(w.noTlb && decide (w.id < v.since) && w.got.any v.covers) } := by
  simp only [exec, execTlbiComplete, hv, hdone, if_true]

end Tlbi

/-! ## The match cache (R62) -/

section Fill
variable {s u : State} {g : Nat} {xs : List MByte} (hwalk : walking s g = false)

/-- The words of the first 64 bits of a header. -/
theorem fld_header (x : Nat) : fld (fld x 0 64) 32 32 = x / 2 ^ 32 % 2 ^ 32 ∧ fld (fld x 0 64) 0 1 = x % 2 := by
  simp only [fld, Nat.pow_zero, Nat.div_one]
  omega

/-- A line joins the match cache; of the lines but headers the last 1,024 stay. -/
theorem addLine_eq (t : State) (cl : Nat) (l : MatchLine) : addLine t cl l = t.onCluster cl fun c =>
    if l.idx = 0 then { c with hdrLines := c.hdrLines ++ [l] } else { c with lines := (c.lines ++ [l]).drop (c.lines.length + 1 - 1024) } := by
  unfold addLine
  simp only [List.length_append, List.length_singleton]

include hwalk

/-- The header that a search waits for arrives, and the cluster learns its version. -/
theorem exec_matchCacheFill_table {hdr va : Nat} (hpark : (s.slot g).status = .parked (.table hdr va))
    (hknown : find (s.cluster (clusterOf g)).known hdr = none)
    (hread : readSpan s { threadSender s g with own := false } va 64 = (.ok xs, u)) :
    let ver := numOf xs / 2 ^ 32 % 2 ^ 32
    exec (.matchCacheFill g) s = .next (addLine (learnVer u (clusterOf g) hdr ver (numOf xs % 2)) (clusterOf g)
      { hdr := hdr, ver := ver, idx := 0, ten := (threadSender s g).ten, data := numOf xs, psn := anyPsn xs }) := by
  obtain ⟨hver, hact⟩ := fld_header (numOf xs)
  have hready : fillReady s g = true := by simp [fillReady, hpark, hknown, hwalk]
  simp only [exec, execMatchCacheFill, hready, Bool.not_true, Bool.false_eq_true, if_false, hpark, hread, hver, hact]

/-- The line of entries that a search waits for arrives. -/
theorem exec_matchCacheFill_line {hdr ver idx ten va len : Nat} (hpark : (s.slot g).status = .parked (.tableLine hdr ver (idx + 1) ten va len))
    (habsent : ∀ l ∈ (s.cluster (clusterOf g)).lines, ¬(l.hdr = hdr ∧ l.ver = ver ∧ l.idx = idx + 1 ∧ l.ten = ten))
    (hread : readSpan s { threadSender s g with own := false } va len = (.ok xs, u)) :
    exec (.matchCacheFill g) s = .next (addLine u (clusterOf g)
      { hdr := hdr, ver := ver, idx := idx + 1, ten := ten, data := numOf xs, psn := anyPsn xs }) := by
  have hover : waitOver s g (.tableLine hdr ver (idx + 1) ten 0 0) = false := by
    simp only [waitOver, Nat.succ_ne_zero, if_false, List.any_eq_false]
    intro l hl
    simpa [and_assoc] using habsent l hl
  have hready : fillReady s g = true := by simp [fillReady, hpark, hover, hwalk]
  simp only [exec, execMatchCacheFill, hready, Bool.not_true, Bool.false_eq_true, if_false, hpark, hread, Nat.succ_ne_zero]

end Fill

/-! ## The obligation -/

/-- Settles O46: markers and sweeps by their definitions, the shared registers because ended records and failed accesses keep the maps, and
commits, invalidations and match-cache lines by what they wait for. -/
theorem markersSweepsAndInvalidations : Obligations.MarkersSweepsAndInvalidations := by
  unfold Obligations.MarkersSweepsAndInvalidations
  refine ⟨?markers, ?sweep, ?registers, ?commits, ?invalidations, ?lines⟩
  case markers =>
    intro g plane stack s f hf
    exact ⟨exec_fenceMarker hf, exec_markerAck hf⟩
  case sweep => exact fun s => ⟨rfl, heldScOps_perm s, heldScOps_pairwise s⟩
  case registers =>
    intro s r spr v hop t p n
    have ht : t = dropReq (applyMts s r.slot spr n) r := performSc_mts hop
    clear_value t
    subst ht
    refine ⟨not_mem_net_dropReq _ r, ?_, ?_, ?_, ?_, ?_, ?_, ?_⟩
    · rintro rfl
      rw [dropReq_part, applyMts_tgrant, masked_eq]
      simp
    · rintro rfl
      rw [dropReq_part, applyMts_asid, fld_zero]
    · rintro rfl
      rw [dropReq_part, applyMts_s1root, masked_eq]
      simp
    · rintro rfl
      rw [dropReq_part, applyMts_s2root, masked_eq]
      simp
    · rintro rfl
      rw [dropReq_part, applyMts_trapq, masked_eq, masked_eq]
      simp [p]
    · rintro rfl
      rw [dropReq_cluster, applyMts_retryq, masked_eq, masked_eq]
      simp
    · rintro rfl
      obtain ⟨hcmap, hmaps⟩ := applyMts_cmap_reads s r.slot n
      refine ⟨?_, fun cl hcl => ?_⟩
      · rw [dropReq_part, hcmap, masked_eq]
        simp
      · rw [dropReq_cluster, hmaps cl hcl]
        rfl
  case commits =>
    intro k s c i v waits hc
    refine ⟨fun cl htodo => ⟨fun hearly => ?_, fun hmay => ?_⟩, fun htodo => ⟨fun hwaits => ?_, fun hdone => ?_⟩⟩
    · refine exec_commitComplete_early hc htodo (Bool.not_eq_true _ ▸ mt mayApply_iff.mp fun hall => ?_)
      obtain ⟨d, hd, hmem⟩ := hearly
      exact hall d hd hmem
    · exact exec_commitComplete_apply hc htodo (mayApply_iff.mpr hmay)
    · exact exec_commitComplete_waits hc htodo (Bool.not_eq_true _ ▸ mt commitReady_iff.mp fun hnone => hnone hwaits)
    · exact exec_commitComplete_done hc htodo (commitReady_iff.mpr hdone)
  case invalidations =>
    intro k s v hv earlier busy
    refine ⟨fun hbusy => ?_, fun hfree => ?_⟩
    · exact exec_tlbiComplete_waits hv (Bool.not_eq_true _ ▸ mt (complete_iff s v).mp fun hnone => hnone hbusy)
    · exact exec_tlbiComplete_done hv ((complete_iff s v).mpr hfree)
  case lines =>
    intro g s u xs cl b joins hwalk
    refine ⟨fun hdr va hpark hknown hread => ?_, fun hdr ver idx ten va len hpark habsent hread => ?_⟩
    · exact (exec_matchCacheFill_table hwalk hpark hknown hread).trans (by rw [addLine_eq])
    · exact (exec_matchCacheFill_line hwalk hpark habsent hread).trans (by rw [addLine_eq])

end Sys2Proof.Machine
end

section
/-! SUPPORT. What an operation that goes on has passed, whose turn it is after pops, what operands are read from, and that reads of device
memory leave that as it was. -/

namespace Sys2Proof.Machine

/-! ## What an operation that goes on has passed -/

section GoesOn
variable {α β : Type} {a : α} {u : State} {r : Res α} {p : Prop} [Decidable p] {c : Cause} {n : Nat}

theorem Res.bind_eq_ok {f : α → State → Res β} {b : β} {t : State} : r.bind f = .ok b t ↔ ∃ a u, r = .ok a u ∧ f a u = .ok b t := by
  cases r <;> simp [Res.bind]

theorem Res.eq_ok_of_guard (h : (if p then .trap c n else r) = .ok a u) : r = .ok a u := by
  split at h
  · nomatch h
  · exact h

theorem Res.eq_ok_of_check (h : (if p then r else .trap c n) = .ok a u) : r = .ok a u := by
  split at h
  · exact h
  · nomatch h

end GoesOn

/-! ## Pops and results -/

theorem popPort_cur (s : State) (g p : Nat) : (popPort s g p).cur = s.cur := by
  unfold popPort
  dsimp only
  split
  · split
    · rfl
    · rfl
  · rfl

/-- What a word pops leaves whose turn it is. -/
@[simp] theorem popAll_cur (s : State) (g : Nat) (fs : List Nat) : (popAll s g fs).cur = s.cur := by
  unfold popAll
  induction portUses fs generalizing s with
  | nil => rfl
  | cons pk pks ih => rw [List.foldl_cons, ih, popPort_cur]

@[simp] theorem unpin_cur (s : State) (g : Nat) : (unpin s g).cur = s.cur := by
  unfold unpin
  split <;> rfl

/-- A result that the thread of a word receives later, with no flags and no access behind it. -/
def plainResult (d : Nat) (v : RegVal) : Result := { dst := d, val := v, flags := 0, cls := none, rid := 0, after := none }

/-! ## What operands are read from -/

/-- What the value of an operand depends on: whose turn it is, the slots, and for `cc` the owners and maps of the clusters (R41). -/
def State.operands (s : State) : Nat × Sparse Slot × (Nat → Nat) × (Nat → Sparse (List Nat)) :=
  (s.cur, s.slots, fun cl => (s.cluster cl).owner, fun cl => (s.cluster cl).maps)

section OperandReads
variable {s t : State} (h : t.operands = s.operands)
include h

theorem cur_of_operands : t.cur = s.cur := congrArg (·.1) h

theorem slot_of_operands (g : Nat) : t.slot g = s.slot g := by
  have hslots : t.slots = s.slots := congrArg (·.2.1) h
  rw [State.slot, hslots, State.slot]

theorem ccOf_of_operands (g : Nat) : ccOf t g = ccOf s g := by
  have howner : (t.cluster (clusterOf g)).owner = (s.cluster (clusterOf g)).owner := congrFun (congrArg (·.2.2.1) h) _
  have hmaps : (t.cluster (clusterOf g)).maps = (s.cluster (clusterOf g)).maps := congrFun (congrArg (·.2.2.2) h) _
  simp only [ccOf, vcOf, partOf, ownerOf, howner, hmaps, slot_of_operands h]

theorem readReg_of_operands (g r : Nat) : readReg t g r = readReg s g r := by
  simp only [readReg, ccOf_of_operands h, slot_of_operands h]

theorem peekPort_of_operands (g p k : Nat) : peekPort t g p k = peekPort s g p k := by
  simp only [peekPort, rndMode, rndSat, slot_of_operands h]

theorem fieldVal_of_operands (fs : List Nat) (i : Nat) : fieldVal t t.cur fs i = fieldVal s s.cur fs i := by
  simp only [fieldVal, cur_of_operands h, peekPort_of_operands h, readReg_of_operands h]

end OperandReads

/-! ## Reads of device memory (R371-R374) -/

/-- A change of other parts of the state. -/
theorem operands_of_eq {s t : State} (hcur : t.cur = s.cur) (hslots : t.slots = s.slots) (hclusters : t.clusters = s.clusters) :
    t.operands = s.operands := by simp only [State.operands, State.cluster, hcur, hslots, hclusters]

/-- A cluster replaced by one with the same owner and maps. -/
theorem operands_setCluster (s : State) (cl : Nat) {x : Cluster} (howner : x.owner = (s.cluster cl).owner) (hmaps : x.maps = (s.cluster cl).maps) :
    (s.setCluster cl x).operands = s.operands := by
  have hkept : ∀ i, ((s.setCluster cl x).cluster i).owner = (s.cluster i).owner ∧ ((s.setCluster cl x).cluster i).maps = (s.cluster i).maps := by
    intro i
    rw [State.cluster_setCluster]
    split
    · next hi => exact hi ▸ ⟨howner, hmaps⟩
    · exact ⟨rfl, rfl⟩
  simp [State.operands, hkept]

theorem operands_foldl {β : Type} {f : State → β → State} (hf : ∀ t b, (f t b).operands = t.operands) (l : List β) (s : State) :
    (l.foldl f s).operands = s.operands := by
  induction l generalizing s with
  | nil => rfl
  | cons b l ih => exact (ih _).trans (hf s b)

theorem operands_sramWrite (s : State) (cl ofs n v : Nat) : (sramWrite s cl ofs n v).operands = s.operands := rfl

theorem operands_monitorEvent (s : State) (kind d1 d2 : Nat) : (monitorEvent s kind d1 d2).operands = s.operands := rfl

theorem operands_setWordFull (s : State) (cl ofs : Nat) (f : Bool) : (setWordFull s cl ofs f).operands = s.operands := by
  unfold setWordFull
  split
  · rfl
  · have hwaiters := operands_setCluster s cl
      (x := { s.cluster cl with rechecks := (s.cluster cl).rechecks ++ [(ofs / 8 * 8, s.nextId)] }) rfl rfl
    exact (operands_of_eq rfl rfl rfl).trans hwaiters

theorem operands_fillWord (s : State) (cl ofs v : Nat) : (fillWord s cl ofs v).operands = s.operands :=
  (operands_setWordFull ..).trans (operands_sramWrite ..)

theorem operands_setFaultW (s : State) (cl w : Nat) : (s.setCluster cl { s.cluster cl with faultW := w }).operands = s.operands :=
  operands_setCluster s cl rfl rfl

theorem operands_faultEntry (s : State) (cl fsrc fcode ten fseq addr aux : Nat) :
    (faultEntry s cl fsrc fcode ten fseq addr aux).operands = s.operands := by
  unfold faultEntry
  dsimp only
  split
  · rw [operands_setFaultW]
  · rw [operands_setFaultW, operands_fillWord, operands_sramWrite, operands_sramWrite, operands_sramWrite]

theorem operands_reportLost (s : State) (pa : Nat) : (reportLost s pa).operands = s.operands := by
  unfold reportLost
  dsimp only
  split
  · split
    · exact operands_faultEntry ..
    · exact operands_monitorEvent ..
  · exact operands_monitorEvent ..

theorem operands_loseWords (s : State) (ws : List Nat) : (loseWords s ws).operands = s.operands :=
  (operands_foldl (fun _ _ => operands_reportLost ..) _ _).trans rfl

theorem operands_countError (s : State) (w : Nat) : (countError s w).operands = s.operands := by
  unfold countError
  dsimp only
  split <;> rfl

theorem operands_correctWord (s : State) (w : Nat) : (correctWord s w).operands = s.operands := by
  unfold correctWord
  split
  · exact (operands_countError ..).trans rfl
  · rfl

theorem operands_correctParity (s : State) (k : Nat) : (correctParity s k).operands = s.operands := by
  unfold correctParity
  split <;> rfl

theorem operands_correctRow (s : State) (w : Nat) : (correctRow s w).operands = s.operands :=
  (operands_correctParity ..).trans (operands_foldl operands_correctWord _ _)

theorem operands_rebuildWord (s : State) (w : Nat) : (rebuildWord s w).operands = s.operands := by
  unfold rebuildWord
  dsimp only
  split
  · exact (operands_countError ..).trans rfl
  · rfl

theorem operands_rebuildUnit (s : State) (w : Nat) : (rebuildUnit s w).operands = s.operands := by
  have hrows := operands_foldl operands_correctRow (unitWords w) s
  unfold rebuildUnit
  refine (operands_loseWords ..).trans ?_
  split
  · exact hrows
  · exact (operands_foldl operands_rebuildWord ..).trans hrows

theorem operands_settleWord (s : State) (w : Nat) : (settleWord s w).operands = s.operands := by
  unfold settleWord
  split
  · exact operands_rebuildUnit ..
  · split
    · exact operands_correctWord ..
    · exact operands_rebuildUnit ..
    · rfl

theorem operands_devSettle (s : State) (pa n : Nat) : (devSettle s pa n).operands = s.operands :=
  operands_foldl (fun _ _ => operands_settleWord ..) _ _

end Sys2Proof.Machine
end

section
/-! PROOFS. `match` (R59, R60, R67): the search of a table, and the result that its winner gives. -/

namespace Sys2Proof.Machine

/-! ## The search (R60) -/

/-- Entry `i` of a table whose entries the cached lines hold two by two. -/
def cachedEntry (lines : Nat → MatchLine) (i : Nat) : Entry := lineEntry (lines (i / 2)).data (i % 2)

@[simp] theorem cachedEntry_even (lines : Nat → MatchLine) (k : Nat) : cachedEntry lines (2 * k) = lineEntry (lines k).data 0 := by
  rw [cachedEntry, Nat.mul_div_cancel_left k Nat.two_pos, Nat.mul_mod_right]

@[simp] theorem cachedEntry_odd (lines : Nat → MatchLine) (k : Nat) : cachedEntry lines (2 * k + 1) = lineEntry (lines k).data 1 := by
  rw [cachedEntry, show (2 * k + 1) / 2 = k by omega, show (2 * k + 1) % 2 = 1 by omega]

/-- The first of some entries that wins a key, with its index. -/
def firstHit (lines : Nat → MatchLine) (key : Nat) (is : List Nat) : Option (Nat × Entry) :=
  (is.find? fun i => (cachedEntry lines i).hits key).map fun i => (i, cachedEntry lines i)

section FirstHit
variable {lines : Nat → MatchLine} {key i : Nat} {is : List Nat}

theorem firstHit_cons_of_hits (h : (cachedEntry lines i).hits key = true) :
    firstHit lines key (i :: is) = some (i, cachedEntry lines i) := by simp [firstHit, h]

theorem firstHit_cons_of_not_hits (h : ¬(cachedEntry lines i).hits key = true) :
    firstHit lines key (i :: is) = firstHit lines key is := by simp [firstHit, h]

end FirstHit

/-- A search whose lines are cached gives the first entry from its line on that wins the key, and leaves the state as it is. -/
theorem searchFrom_of_cached {s : State} {hdr ver va cap n key : Nat} {lines : Nat → MatchLine}
    (hcached : ∀ k, 2 * k < n → cacheLine s hdr ver (k + 1) (va + 64 * k) (32 * min 2 (cap - 2 * k)) = .ok (lines k) s)
    (fuel k : Nat) (psn : Bool) (hfuel : n ≤ 2 * (k + fuel)) :
    ∃ p, searchFrom s hdr ver va cap n key k psn fuel = .ok ⟨firstHit lines key (List.range' (2 * k) (n - 2 * k)), p⟩ s := by
  induction fuel generalizing k psn with
  | zero =>
    have hover : n - 2 * k = 0 := by omega
    exact ⟨psn, by rw [hover]; rfl⟩
  | succ fuel ih =>
    rw [searchFrom]
    split
    · next hover => exact ⟨psn, by rw [Nat.sub_eq_zero_of_le hover]; rfl⟩
    · next hmore =>
      have hfirst : List.range' (2 * k) (n - 2 * k) = 2 * k :: List.range' (2 * k + 1) (n - (2 * k + 1)) := by
        rw [show n - 2 * k = n - (2 * k + 1) + 1 by omega, List.range'_succ]
      rw [hcached k (by omega), Res.bind_ok, hfirst]
      dsimp only
      split
      · next heven => exact ⟨_, by rw [firstHit_cons_of_hits (by simpa using heven), cachedEntry_even]⟩
      · next heven =>
        rw [firstHit_cons_of_not_hits (by simpa using heven)]
        by_cases hlast : n ≤ 2 * k + 1
        · obtain ⟨p, hp⟩ := ih (k + 1) (psn || (lines k).psn) (by omega)
          rw [if_neg (by omega), hp, Nat.sub_eq_zero_of_le hlast, Nat.sub_eq_zero_of_le (by omega : n ≤ 2 * (k + 1))]
          exact ⟨p, rfl⟩
        · have hsecond : List.range' (2 * k + 1) (n - (2 * k + 1)) = (2 * k + 1) :: List.range' (2 * (k + 1)) (n - 2 * (k + 1)) := by
            rw [show n - (2 * k + 1) = n - 2 * (k + 1) + 1 by omega, List.range'_succ, Nat.mul_succ]
          rw [hsecond]
          split
          · next hodd => exact ⟨_, by rw [firstHit_cons_of_hits (by simpa using hodd.2), cachedEntry_odd]⟩
          · next hodd =>
            rw [firstHit_cons_of_not_hits (by simpa using fun h => hodd ⟨by omega, h⟩)]
            exact ih (k + 1) _ (by omega)

/-! ## `match` (R67) -/

/-- The fields of a winning entry's doubleword 3 as numbers (R59, R67). -/
theorem matchVal_eq (f : Found) : matchVal f =
    { RegVal.ofNat (match f.win with
      | some (i, e) => e.params + i * 2 ^ 64 + e.dw3 / 2 ^ 24 % 16 * 2 ^ 80 + e.dw3 % 2 ^ 24 * 2 ^ 84
      | none => 0xFFFF * 2 ^ 64) with psn := f.psn } := by
  obtain ⟨_ | ⟨i, e⟩, psn⟩ := f
  · rfl
  · simp [matchVal, Entry.actn, Entry.next, fld]

/-- `match` whose search is over returns what it found. -/
theorem exec_matchKey_of_search {m : Bool} {d a table : Nat} {s u : State} {f : Found} (hsrc : checkSrc s s.cur [a] 0 = .ok () s)
    (hfound : searchTable s table (srcInt s [a] 0).toNat = .ok f u) :
    exec (.matchKey m d a table) s =
      .next (issued m s.cur (pushResult (popAll (unpin u u.cur) u.cur [a]) u.cur (plainResult d (matchVal f)))) := by
  rw [srcInt] at hfound
  simp only [exec, execMatchKey, hsrc, hfound, Res.bind_ok, issue_ok, popAll_cur, unpin_cur, plainResult]

/-- Settles O31: the search is an induction on the lines that it has still to look at, two entries a line; `match` returns what it found. -/
theorem matchFindsTheFirstEntry : Obligations.MatchFindsTheFirstEntry := by
  unfold Obligations.MatchFindsTheFirstEntry
  refine ⟨fun s hdr ver va cap n key psn lines hn hcached => ?search, fun m d a table s u f hsrc hfound => ?result⟩
  case search =>
    have hall := searchFrom_of_cached (key := key) hcached 129 0 psn (by omega)
    rwa [Nat.mul_zero, Nat.sub_zero, ← List.range_eq_range'] at hall
  case result =>
    refine (exec_matchKey_of_search hsrc hfound).trans ?_
    exact congrArg (fun v => Host.Outcome.next (issued m s.cur (pushResult _ u.cur (plainResult d v)))) (matchVal_eq f)

end Sys2Proof.Machine
end

section
/-! PROOFS. The table instructions (R65, R247, R248, R351): their checks, and the request that each sends. -/

namespace Sys2Proof.Machine

/-! ## The checks (R247) -/

theorem findAt_ok {s u : State} {ea len need kind size : Nat} {r : Target × Option TlbEntry} (h : findAt s ea len need kind size = .ok r u) :
    u = s := by
  unfold findAt at h
  split at h
  · nomatch h
  · exact (Res.ok.inj h).2.symm
  · nomatch h

theorem headerPa_ok {s u : State} {va pa : Nat} (h : headerPa s va = .ok pa u) : u = s := by
  obtain ⟨te, w, hfind, hpa⟩ := Res.bind_eq_ok.mp h
  split at hpa
  · exact (Res.ok.inj hpa).2.symm.trans (findAt_ok hfind)
  · nomatch hpa

theorem operands_tableDw {s u : State} {va : Nat} {w : Nat × Bool} (h : tableDw s va = .ok w u) : u.operands = s.operands := by
  obtain ⟨te, v, hfind, hread⟩ := Res.bind_eq_ok.mp h
  obtain rfl := findAt_ok hfind
  split at hread
  · rw [← (Res.ok.inj hread).2, operands_devSettle]
  · nomatch hread

theorem operands_tableAddr {s u : State} {n : Nat} {va : Option Nat} (h : tableAddr s n = .ok va u) : u.operands = s.operands := by
  obtain ⟨w, v, hread, hva⟩ := Res.bind_eq_ok.mp h
  rw [← operands_tableDw hread]
  split at hva
  · rw [(Res.ok.inj hva).2]
  · rw [(Res.ok.inj (Res.eq_ok_of_check hva)).2]

/-- The checks of a table instruction, which read the directory and the header, leave the operands as they were. -/
theorem operands_tableChecks {s u : State} {n perm : Nat} {c : RegVal} {t : Option (Nat × Nat × Nat)} (h : tableChecks s n c perm = .ok t u) :
    u.operands = s.operands := by
  have hread := Res.eq_ok_of_guard (Res.eq_ok_of_guard (Res.eq_ok_of_guard h))
  obtain ⟨va, v, haddr, hfound⟩ := Res.bind_eq_ok.mp hread
  rw [← operands_tableAddr haddr]
  split at hfound
  · rw [(Res.ok.inj hfound).2]
  · obtain ⟨pa, w, hpa, hheader⟩ := Res.bind_eq_ok.mp hfound
    obtain rfl := headerPa_ok hpa
    obtain ⟨d, x, hdw, hdone⟩ := Res.bind_eq_ok.mp hheader
    rw [← operands_tableDw hdw]
    dsimp only at hdone
    by_cases hpsn : d.2 = true
    · rw [if_pos hpsn] at hdone
      rw [(Res.ok.inj hdone).2]
    · rw [if_neg hpsn] at hdone
      rw [(Res.ok.inj (Res.eq_ok_of_check hdone)).2]

/-! ## The request (R248) -/

/-- The request of a table instruction, its pages translated. -/
def tableRequest (s : State) (cls : Cls) (op : MemOp) (va h ord d : Nat) : Request :=
  { newReq s s.cur cls op va 8 ord d with
    pages := ((touched op va h).flatMap fun (q : Nat × Nat) => pagesOf s s.cur q.1 q.2).dedup, touch := touched op va h }

/-- The lines of some ranges drain. -/
def drainRanges (s : State) (rs : List (Nat × Nat)) : State := rs.foldl (fun s q => drainRange s (threadSender s s.cur) s.cur q.1 q.2) s

/-- An access whose target is found goes to it. -/
theorem issueReq_of_located {s : State} {r : Request} {need : Nat} {tgt : Target} {e : Option TlbEntry}
    (h : locate s r.slot r.ea r.reach need = some (.at_ tgt e)) : issueReq s r need = .ok () (dispatchReq s r tgt e) := by
  simp only [issueReq, h]

/-- A table request leaves once its bytes are translated and what its thread did to them before has entered the gather buffer. -/
theorem sendTable_of_fed {s w : State} {fs : List Nat} {cls : Cls} {op : MemOp} {va h ord d : Nat} {tgt : Target} {e : Option TlbEntry}
    (hwalked : eachRange (fun s a n => walked s s.cur a n (reqNeed op) 3) s (touched op va h) = .ok () w)
    (hfed : eachRange (fun s a n => fed s s.cur a n) w (touched op va h) = .ok () w)
    (hloc : locate (drainRanges (popAll w w.cur fs) (touched op va h)) w.cur va (tableRequest w cls op va h ord d).reach (reqNeed op) =
      some (.at_ tgt e)) :
    sendTable s fs cls op va h ord d = .ok () (dispatchReq (drainRanges (popAll w w.cur fs) (touched op va h))
      ((tableRequest w cls op va h ord d).withPops w (popAll w w.cur fs) fs) tgt e) := by
  simp only [sendTable, hwalked, hfed, Res.bind_ok]
  exact issueReq_of_located hloc

/-! ## The words up to their request (R247, R351) -/

/-- The sources of a table word pass, and so do its checks on A, which find `t` and leave the state `u`. -/
def TableChecked (s u : State) (fs : List Nat) (n perm : Nat) (t : Option (Nat × Nat × Nat)) : Prop :=
  checkSrc s s.cur fs 0 = .ok () s ∧ tableChecks s n (fieldVal s s.cur fs 0) perm = .ok t u

section Checked
variable {s u : State} {va hdr h table a : Nat} {m : Bool}

theorem exec_tblWr_of_found {b c : Nat} (hchecked : TableChecked s u [a, b, c] table (permW ||| permTBL) (some (va, hdr, h)))
    (hroom : hasRoom s s.cur .device = true) :
    exec (.tblWr m table a b c) s = issue m s
      (if hdrCap h ≤ fld (fieldVal u u.cur [a, b, c] 2).bits.toNat 96 8 then .trap .table 0
       else sendTable u [a, b, c] .device
        (.tblWr hdr (fieldVal u u.cur [a, b, c] 1).bits (fieldVal u u.cur [a, b, c] 2).bits) va h 0 0) := by
  obtain ⟨hsrc, hfound⟩ := hchecked
  simp only [exec, execTblWr, hsrc, room_of_hasRoom hroom, hfound, tableFound, Res.bind_ok, fieldVal_of_operands (operands_tableChecks hfound)]

theorem exec_tblRd_of_found {d b : Nat} (hchecked : TableChecked s u [a, b] table permR (some (va, hdr, h)))
    (hroom : hasRoom s s.cur .device = true) :
    exec (.tblRd m d table a b) s = issue m s
      (if hdrCap h ≤ fld (fieldVal u u.cur [a, b] 1).bits.toNat 0 8 then .trap .table 0
       else sendTable u [a, b] .device (.tblRd hdr (fieldVal u u.cur [a, b] 1).int) va h 0 d) := by
  obtain ⟨hsrc, hfound⟩ := hchecked
  simp only [exec, execTblRd, hsrc, room_of_hasRoom hroom, hfound, Res.bind_ok, fieldVal_of_operands (operands_tableChecks hfound)]

theorem exec_tblSync_of_found (hchecked : TableChecked s u [a] table (permW ||| permTBL) (some (va, hdr, h)))
    (hroom : hasRoom s s.cur .device = true) :
    exec (.tblSync m table a) s = issue m s (sendTable u [a] .device (.tblSync hdr) va h 0 0) := by
  obtain ⟨hsrc, hfound⟩ := hchecked
  simp only [exec, execTblSync, hsrc, room_of_hasRoom hroom, hfound, tableFound, Res.bind_ok]

theorem exec_tblCommit_of_found {d : Nat} {x : State} (hchecked : TableChecked s u [a] table (permW ||| permTBL) (some (va, hdr, h)))
    (hfence : withFence 1 4 u = .ok () x) :
    exec (.tblCommit m d table a) s = issue m s
      ((sendTable x [a] .sc (.tblCommit hdr) va h 3 d).bind fun _ t => .ok () (parkAfter t (.reply x.nextId))) := by
  obtain ⟨hsrc, hfound⟩ := hchecked
  simp only [exec, execTblCommit, hsrc, hfound, tableFound, hfence, Res.bind_ok]

/-! ### Poisoned table data -/

theorem exec_tblRd_of_poison {d b : Nat} (hchecked : TableChecked s u [a, b] table permR none) (hroom : hasRoom s s.cur .device = true) :
    exec (.tblRd m d table a b) s =
      .next (issued m s.cur (pushResult (popAll u u.cur [a, b]) u.cur (plainResult d { RegVal.zero with psn := true }))) := by
  obtain ⟨hsrc, hfound⟩ := hchecked
  simp only [exec, execTblRd, hsrc, room_of_hasRoom hroom, hfound, Res.bind_ok, issue_ok, plainResult]

theorem exec_tblWr_of_poison {b c : Nat} (hchecked : TableChecked s u [a, b, c] table (permW ||| permTBL) none)
    (hroom : hasRoom s s.cur .device = true) : exec (.tblWr m table a b c) s = .next (trapHere s s.cur .poison 0) := by
  obtain ⟨hsrc, hfound⟩ := hchecked
  simp only [exec, execTblWr, hsrc, room_of_hasRoom hroom, hfound, tableFound, Res.bind_ok, Res.bind_trap, issue_trap]

theorem exec_tblSync_of_poison (hchecked : TableChecked s u [a] table (permW ||| permTBL) none) (hroom : hasRoom s s.cur .device = true) :
    exec (.tblSync m table a) s = .next (trapHere s s.cur .poison 0) := by
  obtain ⟨hsrc, hfound⟩ := hchecked
  simp only [exec, execTblSync, hsrc, room_of_hasRoom hroom, hfound, tableFound, Res.bind_ok, Res.bind_trap, issue_trap]

theorem exec_tblCommit_of_poison {d : Nat} (hchecked : TableChecked s u [a] table (permW ||| permTBL) none) :
    exec (.tblCommit m d table a) s = .next (trapHere s s.cur .poison 0) := by
  obtain ⟨hsrc, hfound⟩ := hchecked
  simp only [exec, execTblCommit, hsrc, hfound, tableFound, Res.bind_ok, Res.bind_trap, issue_trap]

end Checked

/-- The index of an entry that `tbl.rd` reads. -/
theorem int_mod_256 (v : RegVal) : v.int.toNat % 256 = fld v.bits.toNat 0 8 := by
  rw [fld_zero, RegVal.int, BitVec.toNat_setWidth, Nat.mod_mod_of_dvd _ (by decide)]
  rfl

/-- Settles O32: the checks of each word pass or find poison; what is left of it is its request, or the trap of an index past the banks. That
the words that write trap POISON rests on log entry 83 (DESIGN CHOICE). -/
theorem tableWordsIssue : Obligations.TableWordsIssue := by
  unfold Obligations.TableWordsIssue
  intro s u va hdr h tgt e entries checked passes leaves sends outside
  have hsends {x t : State} {fs : List Nat} {cls : Cls} {op : MemOp} {ord d : Nat} (hleaves : leaves x fs cls op ord d t) :
      sendTable x fs cls op va h ord d = .ok () t := by
    obtain ⟨w, hwalked, hfed, hloc, rfl⟩ := hleaves
    exact sendTable_of_fed hwalked hfed hloc
  refine ⟨fun m table a b c hpass => ⟨fun hin hroom t hleaves => ?wr, fun hout hroom => ?wrOutside⟩,
    fun m d table a b => ⟨fun hpass => ⟨fun hin hroom t hleaves => ?rd, fun hout hroom => ?rdOutside⟩, fun hpsn hroom => ?rdPoison⟩,
    fun m table a hpass hroom t hleaves => ?sync, fun m d table a x hpass hfence t hleaves => ?commit,
    fun m d table a b c => ⟨fun hpsn hroom => ?wrPoison, fun hpsn => ⟨fun hroom => ?syncPoison, ?commitPoison⟩⟩⟩
  case wr =>
    have hindex : fld (fieldVal u u.cur [a, b, c] 2).bits.toNat 96 8 < hdrCap h := hin
    rw [exec_tblWr_of_found hpass hroom, if_neg hindex.not_ge, hsends hleaves, issue_ok]
  case wrOutside =>
    have hindex : hdrCap h ≤ fld (fieldVal u u.cur [a, b, c] 2).bits.toNat 96 8 := hout
    rw [exec_tblWr_of_found hpass hroom, if_pos hindex, issue_trap]
  case rd =>
    have hindex : fld (fieldVal u u.cur [a, b] 1).bits.toNat 0 8 < hdrCap h := (int_mod_256 _).symm.trans_lt hin
    rw [exec_tblRd_of_found hpass hroom, if_neg hindex.not_ge, hsends hleaves, issue_ok]
  case rdOutside =>
    have hindex : hdrCap h ≤ fld (fieldVal u u.cur [a, b] 1).bits.toNat 0 8 := hout.trans_eq (int_mod_256 _)
    rw [exec_tblRd_of_found hpass hroom, if_pos hindex, issue_trap]
  case rdPoison => exact exec_tblRd_of_poison hpsn hroom
  case sync => rw [exec_tblSync_of_found hpass hroom, hsends hleaves, issue_ok]
  case commit => rw [exec_tblCommit_of_found hpass hfence, hsends hleaves, Res.bind_ok, issue_ok]
  case wrPoison => exact exec_tblWr_of_poison hpsn hroom
  case syncPoison => exact exec_tblSync_of_poison hpsn hroom
  case commitPoison => exact exec_tblCommit_of_poison hpsn

end Sys2Proof.Machine
end

section
/-! SUPPORT. The canonical form of the memories (R75, R82, R93, R371): what every operation of the state, of device memory, of translation,
of records and contexts and of cocoons keeps. Each lemma is named after the function of the model that it is about. -/

namespace Sys2Proof.Machine

/-- Every memory of the part is in canonical form (R75, R82, R93, R371): `Memory.wf`, as a proposition. -/
def Formed (s : State) : Prop := Memory.wf s = true

/-- The states in which an operation goes on or waits have the form. -/
def Res.Formed {α : Type} : Res α → Prop
  | .ok _ s => Machine.Formed s
  | .wait _ s => Machine.Formed s
  | .trap .. => True

/-- The next state of a step has the form. -/
def Ends : Host.Outcome State Fault Refusal → Prop
  | .next s => Formed s
  | _ => True

/-- A change of anything but the four memories keeps the form. -/
theorem Formed.update (u : State) {cur' sched' inbox' free' nextId' slots' cores' clusters' dies' parts' engines' contexts' cached' products'
    openVals' lineKey' stale'
    rebuilds' net' walks' stores' diffs' invals' commits' reports' decs' pairs' orphans' sweep' chip' weights' planes' rehash' lost'
    retired' pageErrs' acl' keys' keySeq' stopped' partStep' stackHot' vfIrqs' vfReply' peerOut' peerIn' hawk'} :
    Formed (State.mk cur' sched' inbox' free' nextId' slots' cores' clusters' dies' parts' engines' contexts' cached' products' openVals' u.sram
      u.dev lineKey' u.parity u.parSyn stale' rebuilds' net' walks' stores' diffs' invals' commits' reports' decs' pairs' orphans' sweep'
      chip' weights' planes' rehash' lost' retired' pageErrs' acl' keys' keySeq' stopped' partStep' stackHot' vfIrqs' vfReply' peerOut'
      peerIn' hawk') ↔ Formed u :=
  Iff.rfl

theorem Res.Formed.bind {α β : Type} {r : Res α} {f : α → State → Res β} (hr : r.Formed) (hf : ∀ a s, Machine.Formed s → (f a s).Formed) :
    (r.bind f).Formed := by
  cases r with
  | ok a s => exact hf a s hr
  | wait w s => exact hr
  | trap c i => trivial

theorem Res.Formed.foldl {α β : Type} {f : Res α → β → Res α} (hf : ∀ r b, r.Formed → (f r b).Formed) (l : List β) {r : Res α}
    (hr : r.Formed) : (l.foldl f r).Formed := by
  induction l generalizing r with
  | nil => exact hr
  | cons b l ih => exact ih (hf r b hr)

namespace Formed

variable {s : State} (h : Formed s)

theorem foldl {β : Type} {f : State → β → State} (hf : ∀ s b, Formed s → Formed (f s b)) (l : List β) {s : State} (h : Formed s) : Formed
    (l.foldl f s) :=
  Memory.wf_foldl l f hf h

theorem foldlFst {β γ : Type} {f : State × γ → β → State × γ} (hf : ∀ acc b, Formed acc.1 → Formed (f acc b).1) (l : List β)
    {acc : State × γ} (h : Formed acc.1) : Formed (l.foldl f acc).1 := by
  induction l generalizing acc with
  | nil => exact h
  | cons b l ih => exact ih (hf acc b h)

theorem foldlSnd {β γ : Type} {f : γ × State → β → γ × State} (hf : ∀ acc b, Formed acc.2 → Formed (f acc b).2) (l : List β)
    {acc : γ × State} (h : Formed acc.2) : Formed (l.foldl f acc).2 := by
  induction l generalizing acc with
  | nil => exact h
  | cons b l ih => exact ih (hf acc b h)

include h

theorem setSlot (g : Nat) (x : Slot) : Formed (State.setSlot s g x) := h

theorem setCore (c : Nat) (x : Core) : Formed (State.setCore s c x) := h

theorem setCluster (cl : Nat) (x : Cluster) : Formed (State.setCluster s cl x) := h

theorem setDie (d : Nat) (x : Die) : Formed (State.setDie s d x) := h

theorem setPart (p : Nat) (x : Partition) : Formed (State.setPart s p x) := h

theorem setEngine (e : Nat) (x : Engine) : Formed (State.setEngine s e x) := h

theorem setLaunch (cl lid : Nat) (l : Launch) : Formed (State.setLaunch s cl lid l) := h

theorem sramWrite (cl ofs n v : Nat) : Formed (Machine.sramWrite s cl ofs n v) :=
  Memory.wf_sramWrite _ _ _ _ h

theorem sramWriteCap (cl ofs : Nat) (v : RegVal) : Formed (Machine.sramWriteCap s cl ofs v) :=
  Memory.wf_sramWriteCap _ _ _ h

theorem setWordFull (cl ofs : Nat) (f : Bool) : Formed (Machine.setWordFull s cl ofs f) :=
  Memory.wf_setWordFull _ _ _ h

theorem fillWord (cl ofs v : Nat) : Formed (Machine.fillWord s cl ofs v) :=
  Memory.wf_fillWord _ _ _ h

theorem faultEntry (cl fsrc fcode ten fseq addr aux : Nat) : Formed (Machine.faultEntry s cl fsrc fcode ten fseq addr aux) :=
  Memory.wf_faultEntry _ _ _ _ _ _ _ h

theorem dropQueueWrite (cl q addr src : Nat) : Formed (Machine.dropQueueWrite s cl q addr src) :=
  Memory.wf_dropQueueWrite _ _ _ _ h

theorem monitorEvent (kind d1 d2 : Nat) : Formed (Machine.monitorEvent s kind d1 d2) := by
  unfold Machine.monitorEvent
  grind [update]

theorem traceStore (cl ofs core slot chip : Nat) : Formed (Machine.traceStore s cl ofs core slot chip) :=
  Memory.wf_traceStore _ _ _ _ _ h

theorem traceFrom (g cl ofs : Nat) : Formed (Machine.traceFrom s g cl ofs) :=
  Memory.wf_traceFrom _ _ _ h

theorem bump : Formed (State.bump s) := h

theorem onSlot (g : Nat) (f : Slot → Slot) : Formed (State.onSlot s g f) := h

theorem onCore (c : Nat) (f : Core → Core) : Formed (State.onCore s c f) := h

theorem onCluster (cl : Nat) (f : Cluster → Cluster) : Formed (State.onCluster s cl f) := h

theorem writeReg (g d : Nat) (v : RegVal) : Formed (Machine.writeReg s g d v) := by
  unfold Machine.writeReg
  grind [update, onSlot]

theorem orFlags (g fl : Nat) : Formed (Machine.orFlags s g fl) := by
  unfold Machine.orFlags
  grind [update, onSlot]

theorem countError (w : Nat) : Formed (Machine.countError s w) :=
  Memory.wf_countError _ h

theorem reportLost (pa : Nat) : Formed (Machine.reportLost s pa) :=
  Memory.wf_reportLost _ h

theorem loseWords (ws : List Nat) : Formed (Machine.loseWords s ws) :=
  Memory.wf_loseWords _ h

theorem correctWord (w : Nat) : Formed (Machine.correctWord s w) :=
  Memory.wf_correctWord _ h

theorem correctParity (k : Nat) : Formed (Machine.correctParity s k) :=
  Memory.wf_correctParity _ h

theorem correctRow (w : Nat) : Formed (Machine.correctRow s w) :=
  Memory.wf_correctRow _ h

theorem rebuildWord (w : Nat) : Formed (Machine.rebuildWord s w) :=
  Memory.wf_rebuildWord _ h

theorem rebuildUnit (w : Nat) : Formed (Machine.rebuildUnit s w) :=
  Memory.wf_rebuildUnit _ h

theorem settleWord (w : Nat) : Formed (Machine.settleWord s w) :=
  Memory.wf_settleWord _ h

theorem devSettle (pa n : Nat) : Formed (Machine.devSettle s pa n) :=
  Memory.wf_devSettle _ _ h

theorem applyDiff (d : ParityDiff) : Formed (Machine.applyDiff s d) :=
  Memory.wf_applyDiff _ h

theorem putStored (id slot die pa : Nat) (bs : Sparse (BitVec 8)) : Formed (Machine.putStored s id slot die pa bs).1 :=
  Memory.wf_putStored _ _ _ _ _ h

theorem writeLine (id slot die ten line : Nat) (bs : Sparse (BitVec 8)) (tags : Nat) : Formed
    (Machine.writeLine s id slot die ten line bs tags).1 :=
  Memory.wf_writeLine _ _ _ _ _ _ _ h

theorem performLine (id slot die ten line : Nat) (bs : Sparse (BitVec 8)) (tags : Nat) : Formed
    (Machine.performLine s id slot die ten line bs tags) :=
  Memory.wf_performLine _ _ _ _ _ _ _ h

omit h in
theorem settled {r : State × Option ParityDiff} (hr : Formed r.1) : Formed (Machine.settled r) := by
  unfold Machine.settled
  grind [applyDiff]

theorem devWrite (ten pa : Nat) (bs : List (BitVec 8)) (tag : Bool) : Formed (Machine.devWrite s ten pa bs tag) :=
  Memory.wf_devWrite _ _ _ _ h

theorem diagLine (id slot die pa v : Nat) (syn : BitVec 8) (par : Bool) : Formed (Machine.diagLine s id slot die pa v syn par) :=
  Memory.wf_diagLine _ _ _ _ _ _ _ h

theorem settleEntries (pas : List Nat) : Formed (Machine.settleEntries s pas) := by
  unfold Machine.settleEntries
  grind [update, settleWord, foldl, foldl]

theorem settleStage2 (part ia : Nat) : Formed (Machine.settleStage2 s part ia) := by
  unfold Machine.settleStage2
  grind [update, settleEntries]

theorem settleTables (part va : Nat) : Formed (Machine.settleTables s part va) := by
  unfold Machine.settleTables
  grind [update, settleEntries]

theorem installTlb (cl : Nat) (core : Option Nat) (need : Nat) (e : TlbEntry) : Formed (Machine.installTlb s cl core need e) := by
  unfold Machine.installTlb
  grind [update, onCore, onCluster]

theorem countGuarded (cl part : Nat) (ridx : List Nat) : Formed (Machine.countGuarded s cl part ridx) :=
  Memory.wf_countGuarded _ _ _ h

theorem makeDevPoison (a n : Nat) : Formed { s with dev := s.dev.makePoison a n } :=
  Memory.wf_setDev h (Store.wf_makePoison a n ((Memory.wf_iff s).mp h).2.1)

theorem writeLines (ten pa : Nat) (ls : Sparse RegVal) : Formed (Machine.writeLines s ten pa ls) := by
  refine foldl (fun t rv ht => ?_) ls h
  dsimp only
  split
  · exact (ht.devWrite ..).makeDevPoison ..
  · exact ht.devWrite ..

theorem allocImage (ten pa : Nat) (c : Context) : Formed (Machine.allocImage s ten pa c) := by
  unfold Machine.allocImage
  grind [update, devWrite, writeLines]

theorem readImage (ten pa : Nat) : Formed (Machine.readImage s ten pa).2 := by
  unfold Machine.readImage
  grind [update, devSettle]

theorem evictImage (pa ten : Nat) : Formed (Machine.evictImage s pa ten) := by
  unfold Machine.evictImage
  grind [update, writeLines]

theorem trimCache (core : Nat) : Formed (Machine.trimCache s core) := by
  unfold Machine.trimCache
  grind [update, evictImage, foldl]

theorem contextAt (ten pa : Nat) : Formed (Machine.contextAt s ten pa).2 := by
  unfold Machine.contextAt
  grind [update, readImage]

theorem dropImage (pa : Nat) : Formed (Machine.dropImage s pa) := by
  unfold Machine.dropImage
  grind [update]

theorem setRec (cl ofs k lo n v : Nat) : Formed (Machine.setRec s cl ofs k lo n v) := by
  unfold Machine.setRec
  grind [update, sramWrite]

theorem linkRun (cl : Nat) (x0 : List Nat) : Formed (Machine.linkRun s cl x0) := by
  induction x0 generalizing s with
  | nil => exact h
  | cons o rest ih =>
    cases rest with
    | nil => exact h.sramWrite ..
    | cons n rest => exact ih (h.sramWrite ..)

theorem setRun (cl : Nat) (run : List Nat) : Formed (Machine.setRun s cl run) := by
  unfold Machine.setRun
  grind [update, onCluster, linkRun]

theorem runTail (cl ofs : Nat) : Formed (Machine.runTail s cl ofs) := by
  unfold Machine.runTail
  exact (h.setRec ..).setRun ..

theorem decrement (cl ofs n : Nat) : Formed (Machine.decrement s cl ofs n) := by
  unfold Machine.decrement
  dsimp only
  split
  · exact h
  · split
    · exact h.setRec ..
    · split
      · exact (h.setRec ..).runTail ..
      · exact h.setRec ..

theorem newRecord (home : Nat) (r : NewRec) {a : Nat} {t : State} (ht : Machine.newRecord s home r = some (a, t)) : Formed t := by
  unfold Machine.newRecord at ht
  grind [update, sramWrite, onCluster, allocImage, runTail]

theorem markUnpaired (cl lid : Nat) : Formed (Machine.markUnpaired s cl lid) := by
  unfold Machine.markUnpaired
  grind [update, setLaunch]

theorem newConts (home : Nat) (r : NewRec) {a : Nat} {t : State} (ht : Machine.newConts s home r = some (a, t)) : Formed t := by
  unfold Machine.newConts at ht
  dsimp only at ht
  split at ht
  · exact h.newRecord _ _ ht
  · split at ht
    · cases ht
    · split at ht
      · cases ht
      · rename_i hu
        split at ht
        · cases ht
        · rename_i hv
          cases ht
          have hpair := (h.newRecord _ _ hu).newRecord _ _ hv
          exact hpair

theorem freeRec (cl ofs : Nat) : Formed (Machine.freeRec s cl ofs) := by
  unfold Machine.freeRec
  grind [update, onCluster, dropImage, setRec, setRun]

theorem productGone (cl ofs : Nat) (bad : Bool) : Formed (Machine.productGone s cl ofs bad) := by
  unfold Machine.productGone
  grind [update, setEngine]

theorem retireRec (cl ofs src kind : Nat) (dec : Bool) : Formed (Machine.retireRec s cl ofs src kind dec) := by
  unfold Machine.retireRec
  grind [update, faultEntry, freeRec, productGone]

theorem abortRec (cl ofs src : Nat) : Formed (Machine.abortRec s cl ofs src) := by
  unfold Machine.abortRec
  grind [update, retireRec]

theorem genFill (cl part : Nat) (eng : Option Nat) (c : RegVal) (gen status count : Nat) {a : Bool} {t : State}
    (ht : Machine.genFill s cl part eng c gen status count = some (a, t)) : Formed t := by
  unfold Machine.genFill at ht
  dsimp only at ht
  split at ht
  · split at ht
    · split at ht
      · cases ht
      · cases ht
        exact h
    · split at ht
      · split at ht
        · cases ht
        · split at ht
          · cases ht
            exact h
          · split at ht
            · cases ht
              split
              · exact h.fillWord ..
              · exact (h.fillWord ..).traceStore ..
            · cases ht
              exact h.fillWord ..
      · cases ht
  · cases ht

theorem fillCompletion (cl queue q part ten : Nat) (ldone : RegVal) (gen code count : Nat) : Formed
    (Machine.fillCompletion s cl queue q part ten ldone gen code count) := by
  unfold Machine.fillCompletion
  grind [update, faultEntry, genFill]

theorem completeLaunch (cl lid : Nat) : Formed (Machine.completeLaunch s cl lid) := by
  unfold Machine.completeLaunch
  grind [update, setLaunch, fillCompletion]

theorem dropOldLines (cl hdr : Nat) : Formed (Machine.dropOldLines s cl hdr) := by
  unfold Machine.dropOldLines
  grind [update, onCluster]

theorem unpin (g : Nat) : Formed (Machine.unpin s g) := by
  unfold Machine.unpin
  grind [update, onSlot, dropOldLines]

theorem takeReport (r : Report) : Formed (Machine.takeReport s r) := by
  unfold Machine.takeReport
  grind [update, setLaunch, completeLaunch]

theorem dropAccesses (thr : Nat) : Formed (Machine.dropAccesses s thr) := by
  unfold Machine.dropAccesses
  grind [update]

theorem dropSlotWork (g : Nat) : Formed (Machine.dropSlotWork s g) := by
  unfold Machine.dropSlotWork
  grind [update, onCore, unpin, dropAccesses]

theorem discardReportFor (cl ofs : Nat) : Formed (Machine.discardReportFor s cl ofs) := by
  unfold Machine.discardReportFor
  grind [update]

theorem dropTrapped (p : Nat → Nat → Bool) : Formed (Machine.dropTrapped s p) := by
  unfold Machine.dropTrapped
  grind [update]

theorem discardRec (cl ofs : Nat) (report : Bool) : Formed (Machine.discardRec s cl ofs report) := by
  unfold Machine.discardRec
  grind [update, setSlot, freeRec, productGone, dropAccesses, dropSlotWork, discardReportFor, dropTrapped]

theorem offWaitList (cl : Nat) : Formed (Machine.offWaitList s cl) := by
  unfold Machine.offWaitList
  grind [update]

theorem scrubSram (a n : Nat) : Formed { s with sram := s.sram.scrub a n } :=
  Memory.wf_setSram h (Store.wf_scrub a n ((Memory.wf_iff s).mp h).1)

theorem resetCluster (cl : Nat) : Formed (Machine.resetCluster s cl) := by
  have hwork : Formed (Machine.offWaitList ((s.slots.filterMap fun gx => if clusterOf gx.1 = cl then some gx.1 else none).foldl
      Machine.dropSlotWork s) cl) :=
    (foldl (fun _ _ ht => ht.dropSlotWork ..) _ h).offWaitList ..
  have hrecs := (foldl (fun _ o ht => ht.dropAccesses (thrKey cl o)) (s.cluster cl).usedRecs hwork).dropTrapped fun c _ => c == cl
  exact hrecs.scrubSram (sramKey cl 0) (2 ^ 21)

theorem endLaunches (cl : Nat) : Formed (Machine.endLaunches s cl) := by
  unfold Machine.endLaunches
  grind [update, fillCompletion, foldl]

theorem orphanOf (cls : List Nat) : Formed (Machine.orphanOf s cls) := by
  unfold Machine.orphanOf
  grind [update]

theorem fenceClusters (cls : List Nat) : Formed (Machine.fenceClusters s cls) := by
  unfold Machine.fenceClusters
  grind [update, productGone, discardReportFor, resetCluster, endLaunches, orphanOf, foldl]

theorem fenceCocoon (die n cause : Nat) : Formed (Machine.fenceCocoon s die n cause) := by
  unfold Machine.fenceCocoon
  grind [update, setDie, monitorEvent, fenceClusters]

theorem statusChanged (old : State) : Formed (Machine.statusChanged old s) := by
  unfold Machine.statusChanged
  grind [monitorEvent]

theorem excludeDie (die cause : Nat) : Formed (Machine.excludeDie s die cause) := by
  unfold Machine.excludeDie
  grind [update, setDie, setLaunch, monitorEvent, discardRec, fenceClusters, statusChanged, foldl]

end Formed
end Sys2Proof.Machine
end

section
/-! SUPPORT. The canonical form of the memories (R75, R82, R93, R371): what the operations of an instruction keep: registers, traps, waits,
saved threads, control words, stores and requests. -/

namespace Sys2Proof.Machine.Formed

variable {s : State} (h : Formed s)
include h

theorem check (b : Bool) (c : Cause) : (Machine.check b c s).Formed := by
  unfold Machine.check
  grind [update, Res.Formed]

theorem drainLine (g : Nat) (l : GatherLine) : Formed (Machine.drainLine s g l) := by
  unfold Machine.drainLine
  grind [update, bump]

theorem drainWhere (g : Nat) (p : GatherLine → Bool) : Formed (Machine.drainWhere s g p) := by
  unfold Machine.drainWhere
  grind [update, onSlot, drainLine, foldl]

theorem drainAll (g : Nat) : Formed (Machine.drainAll s g) := by
  unfold Machine.drainAll
  grind [update, drainWhere]

theorem gatherPut (g pa : Nat) (e : Option TlbEntry) (bs : Sparse (BitVec 8)) (tag : Bool) (grd : List Nat) : Formed
    (Machine.gatherPut s g pa e bs tag grd) := by
  unfold Machine.gatherPut
  grind [update, setSlot, onSlot, drainWhere]

theorem setPort (g p : Nat) (q : Port) : Formed (Machine.setPort s g p q) := by
  unfold Machine.setPort
  grind [update, onSlot]

theorem writeElem (g : Nat) (e : OutElem) : Formed (Machine.writeElem s g e) := by
  unfold Machine.writeElem
  grind [update, sramWrite, faultEntry, dropQueueWrite, traceFrom, gatherPut]

theorem writeNext (g p k : Nat) (e : OutElem) : Formed (Machine.writeNext s g p k e) := by
  unfold Machine.writeNext
  grind [update, setPort, writeElem]

theorem putElem (g p : Nat) (e : OutElem) : Formed (Machine.putElem s g p e) := by
  unfold Machine.putElem
  grind [update, bump, setPort]

theorem closeBlock (g p : Nat) : Formed (Machine.closeBlock s g p) := by
  unfold Machine.closeBlock
  grind [update, orFlags, setPort, putElem]

theorem unbindPort (g p : Nat) : Formed (Machine.unbindPort s g p) := by
  unfold Machine.unbindPort
  grind [update, setPort, closeBlock]

theorem writePorts (g : Nat) : Formed (Machine.writePorts s g) := by
  unfold Machine.writePorts
  grind [update, setPort, writeElem, foldl]

theorem closeBlocks (g : Nat) : Formed (Machine.closeBlocks s g) := by
  unfold Machine.closeBlocks
  grind [update, closeBlock, foldl]

theorem flushPorts (g : Nat) : Formed (Machine.flushPorts s g) := by
  unfold Machine.flushPorts
  grind [update, onSlot, writePorts, closeBlocks]

theorem releaseAll (g : Nat) : Formed (Machine.releaseAll s g) := by
  unfold Machine.releaseAll
  grind [update, onCore, foldl]

theorem poisonPages (pa : Nat) (xs : List MByte) : Formed (Machine.poisonPages s pa xs) := by
  refine Memory.wf_setDev h ?_
  generalize xs.zipIdx = l
  suffices hl : ∀ st : Store, st.wf = true →
      (l.foldl (fun (st : Store) xi => if xi.1.2 then st.makePoison (forwardPa s (pa + xi.2)) 1 else st) st).wf = true from
    hl _ ((Memory.wf_iff s).mp h).2.1
  induction l with
  | nil => exact fun st hst => hst
  | cons xi l ih =>
    intro st hst
    refine ih _ ?_
    dsimp only
    split
    · exact Store.wf_makePoison _ _ hst
    · exact hst

theorem setOpenVals (m : Sparse (List (BitVec 32) × Option OutElem)) : Formed { s with openVals := m } := h

theorem setDevTag (g : Nat) (b : Bool) : Formed { s with dev := { s.dev with tags := put false s.dev.tags g b } } := by
  have hd := (Store.wf_iff _).mp ((Memory.wf_iff s).mp h).2.1
  exact Memory.wf_setDev h (Store.wf_of hd.1 (canonical_put false _ _ hd.2.1) hd.2.2.1 hd.2.2.2)

theorem savedPiece (ten pa : Nat) (xs : List MByte) (tag : Bool) : Formed (saveTo.savedPiece s ten pa xs tag) := by
  unfold saveTo.savedPiece
  dsimp only
  split
  · exact ((h.devWrite ..).setDevTag ..).poisonPages ..
  · exact (h.devWrite ..).poisonPages ..

theorem saveTo (g pa : Nat) {t : State} (ht : Machine.saveTo s g pa = some t) : Formed t := by
  unfold Machine.saveTo at ht
  split at ht
  · cases ht
  · cases ht
    refine releaseAll (onSlot (foldl ?_ _ (foldl ?_ _ h)) ..) g
    · exact fun _ _ hu => hu.setOpenVals _
    · exact fun _ _ hu => hu.savedPiece ..

theorem claimArea (g pa : Nat) : Formed (Machine.claimArea s g pa) := by
  unfold Machine.claimArea
  grind [update, onCore, foldl]

theorem restoreArea (g : Nat) (rd : Nat → Nat → List (BitVec 8)) (tag : Nat → Bool) (key : Nat) : Formed (Machine.restoreArea s g rd tag key)
    := by
  unfold Machine.restoreArea
  grind [update, onCore, setPort, foldl]

theorem restoreFrom (g pa : Nat) : Formed (Machine.restoreFrom s g pa) := by
  unfold Machine.restoreFrom
  grind [update, restoreArea]

theorem keepImage (g : Nat) : Formed (Machine.keepImage s g) := by
  unfold Machine.keepImage
  grind [update]

theorem writeBack (g cause st blk ofs : Nat) (p0 : W64) : Formed (Machine.writeBack s g cause st blk ofs p0) := by
  unfold Machine.writeBack
  grind [update, sramWrite, keepImage]

theorem dropGot (g : Nat) : Formed (Machine.dropGot s g) := by
  unfold Machine.dropGot
  grind [update]

theorem idleSlot (g : Nat) : Formed (Machine.idleSlot s g) := by
  unfold Machine.idleSlot
  grind [update, setSlot, drainAll, writePorts, dropGot]

theorem saveFailed (g pa : Nat) : Formed (Machine.saveFailed s g pa) := by
  unfold Machine.saveFailed
  grind [update, faultEntry, monitorEvent]

theorem saveOrRelease (g : Nat) : Formed (Machine.saveOrRelease s g).1 := by
  -- `saveTo` is hidden: the kernel would compute with the addresses of the save area
  obtain ⟨save, hsave⟩ : ∃ f, Machine.saveTo = f := ⟨_, rfl⟩
  unfold Machine.saveOrRelease
  rw [hsave]
  split
  · exact h
  · dsimp only
    split
    · split
      · next hu =>
        rw [← hsave] at hu
        exact ((h.saveTo _ _ hu).onSlot ..).onCluster ..
      · exact ((h.saveFailed ..).flushPorts ..).releaseAll ..
    · exact (h.flushPorts ..).releaseAll ..

theorem deliverTrap (g : Nat) : Formed (Machine.deliverTrap s g) := by
  unfold Machine.deliverTrap
  grind [update, setPart, abortRec, unpin, drainAll, closeBlocks, writeBack, idleSlot, saveOrRelease]

theorem raise (g : Nat) (t : PendTrap) : Formed (Machine.raise s g t) := by
  unfold Machine.raise
  grind [update, onSlot, onCore, fenceCocoon, deliverTrap]

theorem trapHere (g : Nat) (c : Cause) (info : Nat) : Formed (Machine.trapHere s g c info) := by
  unfold Machine.trapHere
  grind [update, raise]

theorem trapSoft (g : Nat) (p0 : W64) : Formed (Machine.trapSoft s g p0) := by
  unfold Machine.trapSoft
  grind [update, raise]

theorem deferTrap (g : Nat) (c : Cause) (ofs : Nat) (rep : Option Rep) (info : Nat) : Formed (Machine.deferTrap s g c ofs rep info) := by
  unfold Machine.deferTrap
  grind [update, onSlot]

theorem seqFail (g : Nat) (c : Cause) (ofs : Nat) (rep : Rep) (info : Nat) : Formed (Machine.seqFail s g c ofs rep info) := by
  unfold Machine.seqFail
  grind [update, onCore, deferTrap]

theorem resumeRec (cl ofs cnt : Nat) : Formed (Machine.resumeRec s cl ofs cnt) := by
  unfold Machine.resumeRec
  grind [update, setRec, runTail]

theorem issue (mark : Bool) {r : Res Unit} (hr : r.Formed) : Ends (Machine.issue mark s r) := by
  cases r with
  | ok a t => exact hr
  | trap c i => exact h.trapHere ..
  | wait w t => exact hr

theorem issueOwn {r : Res Unit} (hr : r.Formed) : Ends (Machine.issueOwn s r) := by
  cases r with
  | ok a t => exact hr
  | trap c i => exact h.trapHere ..
  | wait w t => exact hr

theorem parkAfter (w : Wait) : Formed (Machine.parkAfter s w) := by
  unfold Machine.parkAfter
  grind [update, onSlot]

theorem pushResult (g : Nat) (r : Result) : Formed (Machine.pushResult s g r) := by
  unfold Machine.pushResult
  grind [update, onSlot]

theorem endRotation (cl : Nat) : Formed (Machine.endRotation s cl) := by
  unfold Machine.endRotation
  grind [update, onCluster]

omit h in
theorem of_ite {c : Prop} [Decidable c] {a b : Option State} {t : State} (ha : a = some t → Formed t) (hb : b = some t → Formed t)
    (ht : (if c then a else b) = some t) : Formed t := by
  split at ht
  · exact ha ht
  · exact hb ht

omit h in
theorem of_some {u t : State} (hu : Formed u) (ht : some u = some t) : Formed t := Option.some.inj ht ▸ hu

omit h in
theorem of_none {t : State} (ht : none = some t) : Formed t := nomatch ht

theorem storeQueueWord (cl q val prv : Nat) {t : State} (ht : Machine.storeQueueWord s cl q val prv = some t) : Formed t := by
  revert ht
  exact of_ite of_none (of_ite of_none (of_ite of_none (of_ite of_none (of_some (h.setCluster ..)))))

theorem storePoolWord (cl ofs val : Nat) {t : State} (ht : Machine.storePoolWord s cl ofs val = some t) : Formed t := by
  revert ht
  exact of_ite (of_ite of_none (of_some (h.setCluster ..))) (of_ite of_none (of_some (h.setCluster ..)))

theorem storeCocoonWord (cl n val prv part : Nat) {t : State} (ht : Machine.storeCocoonWord s cl n val prv part = some t) : Formed t := by
  revert ht
  exact of_ite of_none (of_some (h.setDie ..))

theorem storePairWord (cl val : Nat) {t : State} (ht : Machine.storePairWord s cl val = some t) : Formed t := by
  revert ht
  exact of_ite of_none (of_some (h.onCluster ..))

theorem storeRotation (cl val : Nat) {t : State} (ht : Machine.storeRotation s cl val = some t) : Formed t := by
  revert ht
  exact of_ite of_none (of_ite (of_some (h.setCluster ..)) (of_ite of_none (of_some (h.setCluster ..))))

theorem storeHandover (cl val : Nat) : Formed (Machine.storeHandover s cl val) := by
  unfold Machine.storeHandover
  dsimp only
  split
  · exact h
  · split
    · exact h.setCluster ..
    · split
      · exact h.setCluster ..
      · exact (h.endRotation _).onCluster ..

theorem ctlStore (cl ofs size val prv part : Nat) {t : State} (ht : Machine.ctlStore s cl ofs size val prv part = some t) : Formed t := by
  have hput (least : Nat) (x : Cluster) : (if ctlAllowed s cl least prv part then some (s.setCluster cl x) else none) = some t → Formed t :=
    of_ite (of_some (h.setCluster ..)) of_none
  revert ht
  exact of_ite (of_ite (of_ite (h.storeQueueWord _ _ _ _) of_none) of_none) <| of_ite of_none <| of_ite (hput _ _) <| of_ite (hput _ _) <|
    of_ite (of_ite of_none (hput _ _)) <| of_ite (of_ite (of_some h) of_none) <| of_ite (of_ite (h.storeRotation _ _) of_none) <|
    of_ite (hput _ _) <| of_ite (of_ite (h.storePoolWord _ _ _) of_none) <| of_ite (hput _ _) <|
    of_ite (of_ite (of_some (h.storeHandover ..)) of_none) <| of_ite (hput _ _) <| of_ite (hput _ _) <| of_ite (hput _ _) <|
    of_ite (h.storeCocoonWord _ _ _ _ _) <| of_ite (of_ite (h.storePairWord _ _) of_none) <| of_ite (of_ite (of_some h) of_none) of_none

theorem room (c : Cls) : (Machine.room c s).Formed := by
  unfold Machine.room
  grind [update, Res.Formed]

theorem awaitReply : Formed (Machine.awaitReply s) := by
  unfold Machine.awaitReply
  grind [update, parkAfter, reply]

theorem askWalk (g : Nat) (num : Option Nat) (va need kind size ofs data : Nat) : Formed (Machine.askWalk s g num va need kind size ofs data)
    := by
  unfold Machine.askWalk
  grind [update, bump]

theorem findAt (ea len need kind size : Nat) : (Machine.findAt s ea len need kind size).Formed := by
  unfold Machine.findAt
  grind [update, askWalk, Res.Formed]

theorem sendReq (r : Request) : Formed (Machine.sendReq s r) := by
  unfold Machine.sendReq
  grind [update, bump]

theorem dispatchReq (r : Request) (t : Target) (e : Option TlbEntry) : Formed (Machine.dispatchReq s r t e) := by
  unfold Machine.dispatchReq
  grind [update, drainWhere, gatherPut, sendReq]

theorem issueReq (r : Request) (need : Nat) : (Machine.issueReq s r need).Formed := by
  unfold Machine.issueReq
  grind [update, parkAfter, sendReq, dispatchReq, Res.Formed]

theorem parkRing (g : Nat) : Formed (Machine.parkRing s g) := by
  unfold Machine.parkRing
  grind [update, onSlot]

theorem undoPops (g : Nat) (pops : List (Nat × Nat × List Fetched)) (flags : Nat) : Formed (Machine.undoPops s g pops flags) := by
  unfold Machine.undoPops
  grind [update, onSlot, foldl]

theorem failOwn (g : Nat) (c : Cause) (ofs : Nat) (rep : Rep) (info : Nat) : Formed (Machine.failOwn s g c ofs rep info) := by
  unfold Machine.failOwn
  grind [update, onSlot, raise]

theorem failThread (g : Nat) (c : Cause) (ofs : Nat) (num : Option Nat) (info : Nat) : Formed (Machine.failThread s g c ofs num info) := by
  unfold Machine.failThread
  grind [update, setCore, deferTrap, seqFail, failOwn]

theorem failParked (r : Request) (c : Cause) (info : Nat) : Formed (Machine.failParked s r c info) := by
  unfold Machine.failParked
  grind [update, failOwn]

theorem failReq (r : Request) (c : Cause) (info : Nat) : Formed (Machine.failReq s r c info) := by
  unfold Machine.failReq
  grind [update, undoPops, failParked]

theorem ringWrite (cl dw0 va part asid ia data dw6 : Nat) {a : Nat} {t : State}
    (ht : Machine.ringWrite s cl dw0 va part asid ia data dw6 = some (a, t)) : Formed t := by
  unfold Machine.ringWrite at ht
  grind [update, sramWrite, fillWord, onCluster]

end Sys2Proof.Machine.Formed
end

section
/-! SUPPORT. The canonical form of the memories (R75, R82, R93, R371): what ports, the turn of a slot and the ranges of an operation keep.
-/

namespace Sys2Proof.Machine.Formed

variable {s : State} (h : Formed s)
include h

theorem checkSrc (g : Nat) (fs : List Nat) (d : Nat) : (Machine.checkSrc s g fs d).Formed := by
  unfold Machine.checkSrc
  grind [update, Res.Formed]

theorem popPort (g p : Nat) : Formed (Machine.popPort s g p) := by
  unfold Machine.popPort
  grind [update, orFlags, setPort]

theorem popAll (g : Nat) (fs : List Nat) : Formed (Machine.popAll s g fs) := by
  unfold Machine.popAll
  grind [update, popPort, foldl]

theorem placeElem (q : Port) (k : Nat) : (Machine.placeElem s q k).Formed := by
  unfold Machine.placeElem
  grind [update, findAt, Res.Formed.bind, Res.Formed]

theorem beginBlock (q : Port) (k : Nat) : (Machine.beginBlock s q k).Formed := by
  unfold Machine.beginBlock
  grind [update, Res.Formed]

theorem placeBlock (p : Nat) : (Machine.placeBlock s p).Formed := by
  unfold Machine.placeBlock
  grind [update, setPort, placeElem, Res.Formed.bind, Res.Formed]

theorem checkAppend (d : Nat) : (Machine.checkAppend s d).Formed := by
  unfold Machine.checkAppend
  dsimp only
  split
  · exact h
  · split
    · exact h
    · split
      · exact h
      · split
        · exact (h.placeElem ..).bind fun _ _ ht => ht
        · refine Res.Formed.foldl (fun r v hr => ?_) _ (Res.Formed.foldl (fun r v hr => ?_) _ h)
          · exact hr.bind fun l t ht => (ht.placeElem ..).bind fun x u hu => hu
          · exact hr.bind fun l t ht => (ht.beginBlock ..).bind fun x u hu => hu

theorem appendValue (g d : Nat) (v : BitVec 32) (places : List OutElem) : Formed (Machine.appendValue s g d v places) := by
  unfold Machine.appendValue
  grind [update, setPort, closeBlock]

theorem appendPort (g d : Nat) (v : RegVal) (places : List OutElem) : Formed (Machine.appendPort s g d v places) := by
  unfold Machine.appendPort
  grind [update, setPort, putElem, appendValue, foldl]

theorem putResult (d : Nat) (v : RegVal) (places : List OutElem) : Formed (Machine.putResult s d v places) := by
  unfold Machine.putResult
  grind [update, writeReg, appendPort]

theorem checkDst (d : Nat) : (Machine.checkDst s d).Formed := by
  unfold Machine.checkDst
  grind [update, checkAppend, Res.Formed]

omit h in
theorem withData {α : Type} (v : RegVal) {r : Res α} (hr : r.Formed) : (Machine.withData v r).Formed := by
  cases r <;> exact hr

theorem compute (fs : List Nat) (d : Nat) (f : List RegVal → Cause ⊕ (RegVal × Nat)) : (Machine.compute s fs d f).Formed := by
  unfold Machine.compute
  grind [update, orFlags, checkSrc, popAll, putResult, checkDst, withData, Res.Formed.bind, Res.Formed]

theorem computeVal (fs : List Nat) (d : Nat) (f : List RegVal → RegVal) : (Machine.computeVal s fs d f).Formed := by
  unfold Machine.computeVal
  grind [update, compute, Res.Formed]

theorem settleSram (a n : Nat) : Formed { s with sram := s.sram.settleAll a n } :=
  Memory.wf_setSram h (Store.wf_settleAll a n ((Memory.wf_iff s).mp h).1)

theorem codeDw (ofs : Nat) : (Machine.codeDw s ofs).Formed := by
  unfold Machine.codeDw
  dsimp only
  split
  · trivial
  · split
    · exact h
    · refine (h.findAt ..).bind fun te t ht => ?_
      split
      · split
        · trivial
        · split
          · trivial
          · exact ht.settleSram ..
      · split
        · trivial
        · exact ht.devSettle ..
      · exact ht
      · exact ht

theorem blockDesc : (Machine.blockDesc s).Formed := by
  unfold Machine.blockDesc
  grind [update, codeDw, Res.Formed.bind, Res.Formed]

theorem codeWord (d : Nat × Nat) (k : Nat) : (Machine.codeWord s d k).Formed := by
  unfold Machine.codeWord
  grind [update, codeDw, Res.Formed]

theorem codeWords (d : Nat × Nat) (k : Nat) (x0 : Nat) : (Machine.codeWords s d k x0).Formed := by
  induction x0 generalizing s k with
  | zero => exact h
  | succ n ih => exact (h.codeWord ..).bind fun _ _ ht => (ih ht _).bind fun _ _ hu => hu

theorem orWait (w : Option Wait) : (Machine.orWait w s).Formed := by
  unfold Machine.orWait
  grind [update, Res.Formed]

theorem fed (g ea len : Nat) : (Machine.fed s g ea len).Formed := by
  unfold Machine.fed
  grind [update, orWait, Res.Formed]

theorem storeRoom (r : Request) : (Machine.storeRoom s r).Formed := by
  unfold Machine.storeRoom
  grind [update, orWait, Res.Formed.bind, Res.Formed]

theorem sendMarkers (g : Nat) (f : FenceWait) : Formed (Machine.sendMarkers s g f) := by
  unfold Machine.sendMarkers
  grind [update, onSlot, drainAll]

theorem refetch (g : Nat) (f : FenceWait) : Formed (Machine.refetch s g f) := by
  unfold Machine.refetch
  grind [update, onSlot]

theorem advanceFence (g : Nat) : Formed (Machine.advanceFence s g) := by
  unfold Machine.advanceFence
  grind [update, sendMarkers, refetch]

theorem withFence (kind scope : Nat) : (Machine.withFence kind scope s).Formed := by
  unfold Machine.withFence
  grind [update, onSlot, refetch, advanceFence, Res.Formed]

theorem restoreSlot (g : Nat) : Formed (Machine.restoreSlot s g) := by
  unfold Machine.restoreSlot
  grind [update, onSlot, onCluster, devSettle, claimArea, restoreFrom, raise]

theorem startBody (g : Nat) (r : Rep) (word : Nat) (ws : List Nat) (n : Nat) : Formed (Machine.startBody s g r word ws n) := by
  unfold Machine.startBody
  grind [update, onCore]

theorem turnWord (d : Nat × Nat) (w : Nat) : (Machine.turnWord s d w).Formed := by
  unfold Machine.turnWord
  grind [update, codeWords, Res.Formed.bind, Res.Formed]

theorem readPiece (b : Sender) (ea len : Nat) : Formed (Machine.readPiece s b ea len).2 :=
  Memory.wf_readPiece _ _ _ h

theorem readPieces (b : Sender) (x0 : List (Nat × Nat)) : Formed (Machine.readPieces s b x0).2 :=
  Memory.wf_readPieces _ _ h

theorem readMost (b : Sender) (x0 : List (Nat × Nat)) : Formed (Machine.readMost s b x0).2.2 := by
  induction x0 generalizing s with
  | nil => exact h
  | cons p ps ih =>
    have hpiece := h.readPiece b p.1 p.2
    unfold Machine.readMost
    generalize Machine.readPiece s b p.1 p.2 = r at hpiece ⊢
    obtain ⟨span, u⟩ := r
    cases span with
    | ok xs => exact ih hpiece
    | miss va => exact hpiece
    | fail => exact hpiece

theorem readSpan (b : Sender) (ea len : Nat) : Formed (Machine.readSpan s b ea len).2 :=
  Memory.wf_readSpan _ _ _ h

theorem writeOnly (b : Sender) (src : Nat × Nat) (ea : Nat) (xs : List MByte) {a : Option Nat} {t : State}
    (ht : Machine.writeOnly s b src ea xs = some (t, a)) : Formed t :=
  Memory.wf_writeOnly b src ea xs h ht

theorem writePiece (b : Sender) (src : Nat × Nat) (ea : Nat) (xs : List MByte) {t : State} (ht : Machine.writePiece s b src ea xs = some t)
    : Formed t :=
  Memory.wf_writePiece b src ea xs h ht

theorem writeRange (b : Sender) (src : Nat × Nat) (ea : Nat) (xs : List MByte) : Formed (Machine.writeRange s b src ea xs).2 :=
  Memory.wf_writeRange _ _ _ _ h

end Sys2Proof.Machine.Formed
end

section
/-! SUPPORT. The canonical form of the memories (R75, R82, R93, R371): what the matrix unit and its words keep. -/

namespace Sys2Proof.Machine.Formed

variable {s : State} (h : Formed s)
include h

theorem idleFor (g kind mask : Nat) : (Machine.idleFor s g kind mask).Formed := by
  unfold Machine.idleFor
  grind [update, Res.Formed]

theorem orTrap (c : Option Cause) : (Machine.orTrap c s).Formed := by
  unfold Machine.orTrap
  grind [update, Res.Formed]

theorem drainRange (b : Sender) (g ea len : Nat) : Formed (Machine.drainRange s b g ea len) := by
  unfold Machine.drainRange
  grind [update, drainWhere, foldl]

theorem walkedFor (b : Sender) (g ea len need kind : Nat) (data : Nat → Nat) : (Machine.walkedFor s b g ea len need kind data).Formed := by
  unfold Machine.walkedFor
  grind [update, askWalk, Res.Formed]

theorem walked (g ea len need kind : Nat) : (Machine.walked s g ea len need kind).Formed := by
  unfold Machine.walked
  grind [update, walkedFor, Res.Formed]

theorem adoptWalks (g ofs n : Nat) : Formed (Machine.adoptWalks s g ofs n) := by
  unfold Machine.adoptWalks
  grind [update]

theorem enqueueOp (e : MatEntry) : Formed (Machine.enqueueOp s e) := by
  unfold Machine.enqueueOp
  grind [update, setCore, bump, adoptWalks]

theorem runDirect (e : MatEntry) : (Machine.runDirect s e).Formed := by
  unfold Machine.runDirect
  grind [update, parkAfter, enqueueOp, Res.Formed]

theorem startMat (form : MatForm) (op : Instr) (o : MatOperand) : (Machine.startMat s form op o).Formed := by
  unfold Machine.startMat
  grind [update, idleFor, orTrap, runDirect, Res.Formed.bind, Res.Formed]

theorem execMma (o : MatOperand) : Ends (Machine.execMma o s) := by
  unfold Machine.execMma
  grind [update, issue, startMat, Res.Formed, Ends]

theorem execMmq (o : MatOperand) : Ends (Machine.execMmq o s) := by
  unfold Machine.execMmq
  grind [update, issue, startMat, Res.Formed, Ends]

theorem execMml (o : MatOperand) : Ends (Machine.execMml o s) := by
  unfold Machine.execMml
  grind [update, issue, checkSrc, startMat, Res.Formed.bind, Res.Formed, Ends]

theorem recordCheck (b : Sender) (ea : Nat) (k : Option Nat) : Formed (Machine.recordCheck s b ea k).2 := by
  unfold Machine.recordCheck
  grind [update, readSpan]

theorem mmdChecks (o : MatOperand) (e : MatEntry) : (Machine.mmdChecks s o e).Formed := by
  unfold Machine.mmdChecks
  grind [update, drainRange, walkedFor, recordCheck, Res.Formed.bind, Res.Formed]

theorem startMmd (op : Instr) (o : MatOperand) : (Machine.startMmd s op o).Formed := by
  unfold Machine.startMmd
  grind [update, room, checkSrc, idleFor, runDirect, mmdChecks, Res.Formed.bind, Res.Formed]

theorem execMmd (o : MatOperand) : Ends (Machine.execMmd o s) := by
  unfold Machine.execMmd
  grind [update, issue, startMmd, Res.Formed, Ends]

theorem execMmdFull (o : MatOperand) : Ends (Machine.execMmdFull o s) := by
  unfold Machine.execMmdFull
  grind [update, issue, startMmd, Res.Formed, Ends]

theorem parkedReq (r : Request) (need : Nat) : (Machine.parkedReq s r need).Formed := by
  unfold Machine.parkedReq
  grind [update, parkAfter, issueReq, reply, Res.Formed.bind, Res.Formed]

theorem execRinit (m : Bool) (a b : Nat) : Ends (Machine.execRinit m a b s) := by
  unfold Machine.execRinit
  grind [update, issue, room, checkSrc, popAll, fed, drainRange, walkedFor, parkedReq, Res.Formed.bind, Res.Formed, Ends]

theorem execRinval (m : Bool) (a : Nat) : Ends (Machine.execRinval m a s) := by
  unfold Machine.execRinval
  grind [update, issue, room, checkSrc, popAll, fed, drainRange, walked, parkedReq, Res.Formed.bind, Res.Formed, Ends]

theorem execRstat (m : Bool) (d a : Nat) : Ends (Machine.execRstat m d a s) := by
  unfold Machine.execRstat
  grind [update, issue, room, checkSrc, popAll, storeRoom, parkedReq, Res.Formed.bind, Res.Formed, Ends]

theorem maccStChecks (b : Sender) (g acc f : Nat) (a d : RegVal) : (Machine.maccStChecks s b g acc f a d).Formed := by
  unfold Machine.maccStChecks
  grind [Res.Formed, Res.Formed.foldl, Res.Formed.bind, walkedFor]

theorem execMaccSt (o : MaccStOp) : Ends (Machine.execMaccSt o s) := by
  unfold Machine.execMaccSt
  grind [update, issue, room, checkSrc, popAll, enqueueOp, maccStChecks, Res.Formed.bind, Res.Formed, Ends]

theorem execMaccZ (m : Bool) (acc : Nat) : Ends (Machine.execMaccZ m acc s) := by
  unfold Machine.execMaccZ
  grind [update, issue, enqueueOp, Res.Formed, Ends]

theorem execMqfin (m : Bool) (acc slot swz : Nat) : Ends (Machine.execMqfin m acc slot swz s) := by
  unfold Machine.execMqfin
  grind [update, issue, idleFor, orTrap, enqueueOp, Res.Formed.bind, Res.Formed, Ends]

theorem execOclaim (m : Bool) (res : Nat) : Ends (Machine.execOclaim m res s) := by
  unfold Machine.execOclaim
  grind [update, setCore, issue, Res.Formed, Ends]

theorem execOrel (m : Bool) (res : Nat) : Ends (Machine.execOrel m res s) := by
  unfold Machine.execOrel
  grind [update, setCore, issue, idleFor, Res.Formed.bind, Res.Formed, Ends]

theorem oloadChecks (b : Sender) (g res : Nat) (cap : RegVal) (desc : W128) : (Machine.oloadChecks s b g res cap desc).Formed := by
  unfold Machine.oloadChecks
  grind [update, walkedFor, Res.Formed]

theorem startOload (j : OloadJob) : Formed (Machine.startOload s j) := by
  unfold Machine.startOload
  grind [update, bump, onCore, adoptWalks]

theorem execOload (m : Bool) (slot a b : Nat) : Ends (Machine.execOload m slot a b s) := by
  unfold Machine.execOload
  grind [update, issue, room, checkSrc, idleFor, oloadChecks, startOload, Res.Formed.bind, Res.Formed, Ends]

theorem execOstat (m : Bool) (d res : Nat) : Ends (Machine.execOstat m d res s) := by
  unfold Machine.execOstat
  grind [update, writeReg, issue, Res.Formed, Ends]

theorem sendOp (b : SeqBody) (i : Instr) : (Machine.sendOp s b i).Formed := by
  unfold Machine.sendOp
  grind [update, checkSrc, popAll, orTrap, enqueueOp, mmdChecks, maccStChecks, oloadChecks, startOload, Res.Formed.bind, Res.Formed]

theorem seqWord (b : SeqBody) : (Machine.seqWord b s).Formed := by
  unfold Machine.seqWord
  grind [update, Res.Formed]

theorem seqWalk (b : SeqBody) : Formed (Machine.seqWalk s b) := by
  unfold Machine.seqWalk
  grind [update]

theorem execSequencerSend (core : Nat) : Ends (Machine.execSequencerSend core s) := by
  unfold Machine.execSequencerSend
  grind [update, onCore, seqFail, sendOp, seqWord, seqWalk, Res.Formed.bind, Res.Formed, Ends]

theorem dropDone (g n : Nat) : Formed (Machine.dropDone s g n) := by
  unfold Machine.dropDone
  grind [update]

theorem doneOp (core : Nat) (e : MatEntry) (fl : Nat) : Formed (Machine.doneOp s core e fl) := by
  unfold Machine.doneOp
  grind [update, onCore, orFlags, dropDone]

theorem failOp (e : MatEntry) (c : Cause) : Formed (Machine.failOp s e c) := by
  unfold Machine.failOp
  grind [update, failThread]

theorem finishMat (core : Nat) (e : MatEntry) (form : MatForm) (o : MatOperand) : Formed (Machine.finishMat s core e form o) := by
  unfold Machine.finishMat
  grind [update, setCore, doneOp]

theorem drainRecord (e : MatEntry) {t : State} (ht : Machine.drainRecord s e = some t) : Formed t := by
  unfold Machine.drainRecord at ht
  grind [update, drainRange, foldl]

theorem finishMmd (core : Nat) (e : MatEntry) (force : Bool) (o : MatOperand) : Formed (Machine.finishMmd s core e force o) := by
  unfold Machine.finishMmd
  grind [update, setCore, askWalk, readSpan, writeRange, doneOp, failOp]

theorem storePiece (b : Sender) (g num ea : Nat) (bs : List (BitVec 8)) : Formed (Machine.storePiece s b g num ea bs) := by
  unfold Machine.storePiece
  grind [update, sramWrite, faultEntry, dropQueueWrite, traceFrom, gatherPut]

theorem finishMaccSt (core : Nat) (e : MatEntry) (o : MaccStOp) : Formed (Machine.finishMaccSt s core e o) := by
  unfold Machine.finishMaccSt
  dsimp only
  split
  · exact h.askWalk ..
  · refine doneOp (foldlFst (fun acc r hacc => ?_) _ h) ..
    exact foldl (fun _ _ ht => ht.storePiece ..) _ hacc

theorem execMatrixOpComplete (core k : Nat) : Ends (Machine.execMatrixOpComplete core k s) := by
  unfold Machine.execMatrixOpComplete
  grind [update, setCore, doneOp, failOp, finishMat, drainRecord, finishMmd, finishMaccSt, Res.Formed, Ends]

theorem landBlock (core : Nat) (j : OloadJob) (i : Nat) (xs : List MByte) : Formed (Machine.landBlock s core j i xs) := by
  unfold Machine.landBlock
  grind [update, onCore, deferTrap, seqFail, dropDone]

theorem execOloadComplete (core k : Nat) : Ends (Machine.execOloadComplete core k s) := by
  unfold Machine.execOloadComplete
  grind [update, askWalk, failThread, readSpan, landBlock, Res.Formed, Ends]

end Sys2Proof.Machine.Formed
end

section
/-! SUPPORT. The canonical form of the memories (R75, R82, R93, R371): what tables, tiles, tasks, special registers, kicks, memory words and
streams keep. -/

namespace Sys2Proof.Machine.Formed

variable {s : State} (h : Formed s)
include h

theorem tableDw (va : Nat) : (Machine.tableDw s va).Formed := by
  unfold Machine.tableDw
  grind [update, devSettle, findAt, Res.Formed.bind, Res.Formed]

theorem tableAddr (n : Nat) : (Machine.tableAddr s n).Formed := by
  unfold Machine.tableAddr
  grind [update, tableDw, Res.Formed.bind, Res.Formed]

theorem headerPa (va : Nat) : (Machine.headerPa s va).Formed := by
  unfold Machine.headerPa
  grind [update, findAt, Res.Formed.bind, Res.Formed]

theorem learnVer (cl hdr ver act : Nat) : Formed (Machine.learnVer s cl hdr ver act) := by
  unfold Machine.learnVer
  grind [update, onCluster, dropOldLines]

theorem addLine (cl : Nat) (l : MatchLine) : Formed (Machine.addLine s cl l) := by
  unfold Machine.addLine
  grind [update, onCluster]

theorem pinVer (hdr va : Nat) : (Machine.pinVer s hdr va).Formed := by
  unfold Machine.pinVer
  grind [update, onSlot, Res.Formed]

theorem cacheLine (hdr ver idx va len : Nat) : (Machine.cacheLine s hdr ver idx va len).Formed := by
  unfold Machine.cacheLine
  grind [update, walked, Res.Formed.bind, Res.Formed]

theorem searchFrom (hdr ver va cap n key k : Nat) (psn : Bool) (x0 : Nat) : (Machine.searchFrom s hdr ver va cap n key k psn x0).Formed := by
  induction x0 generalizing s k psn with
  | zero => exact h
  | succ fuel ih =>
    unfold Machine.searchFrom
    split
    · exact h
    · refine (h.cacheLine ..).bind fun l t ht => ?_
      dsimp only
      split
      · exact ht
      · split
        · exact ht
        · exact ih ht _ _

theorem searchTable (n key : Nat) : (Machine.searchTable s n key).Formed := by
  unfold Machine.searchTable
  grind [update, tableAddr, headerPa, pinVer, cacheLine, searchFrom, Res.Formed.bind, Res.Formed]

theorem execMatchCacheFill (g : Nat) : Ends (Machine.execMatchCacheFill g s) := by
  unfold Machine.execMatchCacheFill
  grind [update, trapHere, askWalk, readSpan, learnVer, addLine, Res.Formed, Ends]

theorem giveUp : (Machine.giveUp s).Formed := by
  unfold Machine.giveUp
  split
  · exact h
  · refine Res.Formed.bind (Res.Formed.foldl (fun r p hr => hr.bind fun _ _ ht => ht.placeBlock ..) _ h) fun _ t ht => ?_
    dsimp only
    split
    · exact ht.closeBlocks ..
    · split
      · exact ht.closeBlocks ..
      · exact (((ht.closeBlocks _).flushPorts _).drainAll _).releaseAll _

theorem leaveSlot (g actn next params : Nat) : Formed (Machine.leaveSlot s g actn next params) := by
  unfold Machine.leaveSlot
  grind [update, runTail, retireRec, unpin, writeBack, idleSlot]

theorem endAction (e : Entry) : (Machine.endAction s e).Formed := by
  unfold Machine.endAction
  grind [update, onSlot, unpin, dropGot, trapSoft, giveUp, leaveSlot, Res.Formed.bind, Res.Formed]

theorem execEndBlk (o : EndOp) : Ends (Machine.execEndBlk o s) := by
  unfold Machine.execEndBlk
  grind [update, issueOwn, searchTable, endAction, Res.Formed.bind, Res.Formed, Ends]

theorem execMatchKey (m : Bool) (d a table : Nat) : Ends (Machine.execMatchKey m d a table s) := by
  unfold Machine.execMatchKey
  grind [update, unpin, issue, pushResult, checkSrc, popAll, searchTable, Res.Formed.bind, Res.Formed, Ends]

theorem tableChecks (n : Nat) (c : RegVal) (perm : Nat) : (Machine.tableChecks s n c perm).Formed := by
  unfold Machine.tableChecks
  grind [update, tableDw, tableAddr, headerPa, Res.Formed.bind, Res.Formed]

theorem tableFound (t : Option (Nat × Nat × Nat)) : (Machine.tableFound t s).Formed := by
  unfold Machine.tableFound
  grind [update, Res.Formed]

theorem eachRange {f : State → Nat → Nat → Res Unit} (hf : ∀ t a n, Formed t → (f t a n).Formed) (rs : List (Nat × Nat)) :
    (Machine.eachRange f s rs).Formed :=
  Res.Formed.foldl (fun _ _ hr => hr.bind fun _ _ ht => hf _ _ _ ht) rs h

theorem sendTable (fs : List Nat) (cls : Cls) (op : MemOp) (va hdr ord d : Nat) : (Machine.sendTable s fs cls op va hdr ord d).Formed := by
  unfold Machine.sendTable
  dsimp only
  refine Res.Formed.bind (eachRange h (fun t a n ht => ht.walked ..) _) fun _ t ht => ?_
  refine Res.Formed.bind (eachRange ht (fun t a n ht => ht.fed ..) _) fun _ u hu => ?_
  exact Formed.issueReq (foldl (fun _ _ hv => hv.drainRange ..) _ (hu.popAll ..)) ..

theorem execTblWr (m : Bool) (table a b c : Nat) : Ends (Machine.execTblWr m table a b c s) := by
  unfold Machine.execTblWr
  grind [update, issue, room, checkSrc, tableChecks, tableFound, sendTable, Res.Formed.bind, Res.Formed, Ends]

theorem execTblCommit (m : Bool) (d table a : Nat) : Ends (Machine.execTblCommit m d table a s) := by
  unfold Machine.execTblCommit
  grind [update, issue, parkAfter, checkSrc, withFence, tableChecks, tableFound, sendTable, reply, Res.Formed.bind, Res.Formed, Ends]

theorem execTblRd (m : Bool) (d table a b : Nat) : Ends (Machine.execTblRd m d table a b s) := by
  unfold Machine.execTblRd
  grind [update, issue, pushResult, room, checkSrc, popAll, tableChecks, sendTable, Res.Formed.bind, Res.Formed, Ends]

theorem execTblSync (m : Bool) (table a : Nat) : Ends (Machine.execTblSync m table a s) := by
  unfold Machine.execTblSync
  grind [update, issue, room, checkSrc, tableChecks, tableFound, sendTable, Res.Formed.bind, Res.Formed, Ends]

theorem tableSettle (r : Request) (va n : Nat) : Formed (Machine.tableSettle s r va n) := by
  unfold Machine.tableSettle
  grind [update, devSettle, foldl]

theorem tableWrite (r : Request) (va n v : Nat) : Formed (Machine.tableWrite s r va n v) := by
  refine foldlFst (fun acc p hacc => ?_) _ h
  dsimp only
  split
  · exact hacc.devWrite ..
  · exact hacc

theorem copyPoison (r : Request) (dst src n : Nat) : Formed (Machine.copyPoison s r dst src n) := by
  refine foldl (fun t i ht => ?_) _ h
  split
  · exact ht.makeDevPoison ..
  · exact ht

theorem tablePerform (r : Request) : Formed (Machine.tablePerform s r).1 := by
  unfold Machine.tablePerform
  grind [update, tableSettle, tableWrite, copyPoison, setCount]

theorem setTile (cl n v : Nat) : Formed (Machine.setTile s cl n v) := by
  unfold Machine.setTile
  grind [update, onCluster]

omit h in
theorem withTile (n : Nat) {undef : State → Res Unit} {mine : Nat → State → Res Unit} (hundef : (undef s).Formed)
    (hmine : ∀ e, (mine e s).Formed) : (Machine.withTile s n undef mine).Formed := by
  unfold Machine.withTile
  grind [Res.Formed]

theorem tileQuiet (n : Nat) : (Machine.tileQuiet s n).Formed := by
  unfold Machine.tileQuiet
  grind [update, Res.Formed]

theorem execTdef (m : Bool) (tile a b : Nat) : Ends (Machine.execTdef m tile a b s) := by
  unfold Machine.execTdef
  grind [update, issue, checkSrc, popAll, setTile, withTile, tileQuiet, Res.Formed.bind, Res.Formed, Ends]

theorem execTstate (m : Bool) (d tile : Nat) : Ends (Machine.execTstate m d tile s) := by
  unfold Machine.execTstate
  grind [update, writeReg, issue, withTile, Res.Formed, Ends]

theorem execTset (m : Bool) (tile b : Nat) : Ends (Machine.execTset m tile b s) := by
  unfold Machine.execTset
  grind [update, issue, checkSrc, popAll, setTile, withTile, tileQuiet, Res.Formed.bind, Res.Formed, Ends]

theorem failTileWaiters (cl n : Nat) : Formed (Machine.failTileWaiters s cl n) := by
  unfold Machine.failTileWaiters
  grind [update, trapHere, foldl]

theorem execTfree (m : Bool) (tile : Nat) : Ends (Machine.execTfree m tile s) := by
  unfold Machine.execTfree
  grind [update, issue, setTile, withTile, tileQuiet, failTileWaiters, Res.Formed.bind, Res.Formed, Ends]

theorem sendTask (op : MemOp) (ea home ofs d : Nat) : (Machine.sendTask s op ea home ofs d).Formed := by
  unfold Machine.sendTask
  grind [update, awaitReply, sendReq, Res.Formed]

theorem taskDrain : (Machine.taskDrain s).Formed := by
  unfold Machine.taskDrain
  grind [update, drainAll, Res.Formed]

theorem execSpawn (o : R4) : Ends (Machine.execSpawn o s) := by
  unfold Machine.execSpawn
  grind [update, issue, room, checkSrc, popAll, sendTask, taskDrain, Res.Formed.bind, Res.Formed, Ends]

theorem throughCont (fs : List Nat) (d : Nat) (drain : Bool) (op : (Nat → RegVal) → MemOp) : (Machine.throughCont s fs d drain op).Formed := by
  unfold Machine.throughCont
  grind [update, room, checkSrc, popAll, sendTask, taskDrain, Res.Formed.bind, Res.Formed]

theorem execDec (m : Bool) (a b : Nat) : Ends (Machine.execDec m a b s) := by
  unfold Machine.execDec
  grind [update, issue, throughCont, Res.Formed, Ends]

theorem execTget (o : R2) : Ends (Machine.execTget o s) := by
  unfold Machine.execTget
  grind [update, issue, throughCont, Res.Formed, Ends]

theorem execTsetCnt (m : Bool) (a b : Nat) : Ends (Machine.execTsetCnt m a b s) := by
  unfold Machine.execTsetCnt
  grind [update, issue, throughCont, Res.Formed, Ends]

theorem setCount (cl ofs prv src : Nat) (b : Nat) : Formed (Machine.setCount s cl ofs prv src b) := by
  unfold Machine.setCount
  -- the state is hidden: the kernel would compute with its address
  obtain ⟨st, hst⟩ : ∃ st, recState s cl ofs = st := ⟨_, rfl⟩
  rw [hst]
  dsimp only
  split
  · exact h
  · split
    · exact h
    · split
      · exact h.abortRec ..
      · exact h.resumeRec ..
  · split
    · exact (h.setRec ..).runTail ..
    · exact h.setRec ..
  · exact h.setRec ..

theorem spawnAt (g home : Nat) (desc : Nat) (p1 : W64) (succ : Option Nat) {a : RegVal} {t : State}
    (ht : Machine.spawnAt s g home desc p1 succ = some (t, a)) : Formed t := by
  unfold Machine.spawnAt at ht
  dsimp only at ht
  split at ht
  · cases ht
    exact h.markUnpaired ..
  · obtain ⟨os, hos, hres⟩ := Option.map_eq_some_iff.mp ht
    have hnew := h.newConts _ _ hos
    cases hres
    grind [update, setLaunch]

theorem taskPerform (r : Request) (cl ofs : Nat) {a : Option RegVal} {t : State} (ht : Machine.taskPerform s r cl ofs = some (t, a)) : Formed t
    := by
  unfold Machine.taskPerform at ht
  generalize r.op = op at ht
  cases op with
  | dec n => exact (Prod.mk.inj (Option.some.inj ht)).1 ▸ h.decrement ..
  | tset b => exact (Prod.mk.inj (Option.some.inj ht)).1 ▸ h.setCount ..
  | tget => exact (Prod.mk.inj (Option.some.inj ht)).1 ▸ h
  | spawn desc p1 succ =>
    obtain ⟨sv, hsv, hres⟩ := Option.map_eq_some_iff.mp ht
    exact (Prod.mk.inj hres).1 ▸ h.spawnAt _ _ _ _ _ hsv
  | _ => cases ht

theorem execMfs (m : Bool) (d spr : Nat) : Ends (Machine.execMfs m d spr s) := by
  unfold Machine.execMfs
  grind [update, writeReg, issue, Res.Formed, Ends]

theorem writeOwnSpr (g spr v : Nat) : Formed (Machine.writeOwnSpr s g spr v) := by
  unfold Machine.writeOwnSpr
  grind [update, onSlot, setRec]

theorem execMts (m : Bool) (spr a : Nat) : Ends (Machine.execMts m spr a s) := by
  unfold Machine.execMts
  grind [update, issue, parkAfter, sendReq, checkSrc, popAll, withFence, writeOwnSpr, reply, Res.Formed.bind, Res.Formed, Ends]

theorem endTrapped (part : Nat) : Formed (Machine.endTrapped s part) := by
  unfold Machine.endTrapped
  grind [update, setPart, abortRec, foldl]

theorem forwardHeld (part : Nat) (old : List Nat) : Formed (Machine.forwardHeld s part old) := by
  unfold Machine.forwardHeld
  grind [update, onCluster, failReq, foldl]

theorem applyMts (g spr : Nat) (v : Nat) : Formed (Machine.applyMts s g spr v) := by
  unfold Machine.applyMts
  grind [update, setPart, onCluster, endTrapped, forwardHeld, foldl]

theorem invalidate (v : Inval) : Formed (Machine.invalidate s v) := by
  unfold Machine.invalidate
  grind [update, drainWhere, foldl]

theorem execTlbi (m : Bool) (a b : Nat) : Ends (Machine.execTlbi m a b s) := by
  unfold Machine.execTlbi
  grind [update, issue, checkSrc, popAll, invalidate, Res.Formed.bind, Res.Formed, Ends]

theorem execTlbsync (m : Bool) : Ends (Machine.execTlbsync m s) := by
  unfold Machine.execTlbsync
  grind [update, issue, Res.Formed, Ends]

theorem execTlbiComplete (k : Nat) : Ends (Machine.execTlbiComplete k s) := by
  unfold Machine.execTlbiComplete
  grind [update, Res.Formed, Ends]

theorem execDiagSt (m : Bool) (a b c : Nat) : Ends (Machine.execDiagSt m a b c s) := by
  unfold Machine.execDiagSt
  grind [update, issue, room, issueReq, checkSrc, popAll, Res.Formed.bind, Res.Formed, Ends]

theorem execTrap (_m : Bool) (a : Nat) : Ends (Machine.execTrap _m a s) := by
  unfold Machine.execTrap
  grind [update, trapSoft, issueOwn, checkSrc, Res.Formed.bind, Res.Formed, Ends]

theorem execHalt (_m : Bool) : Ends (Machine.execHalt _m s) := by
  unfold Machine.execHalt
  grind [update, retireRec, unpin, writeBack, idleSlot, issueOwn, giveUp, Res.Formed.bind, Res.Formed, Ends]

theorem sendKick (id fn : Nat) (a b : RegVal) (d : Nat) : Formed (Machine.sendKick s id fn a b d) := by
  unfold Machine.sendKick
  grind [update, setEngine, bump, pushResult]

theorem engWord (o : EngOp) (n : EngNeed) : Ends (Machine.engWord o n s) := by
  unfold Machine.engWord
  grind [update, issue, checkSrc, popAll, withFence, sendKick, Res.Formed.bind, Res.Formed, Ends]

theorem execCopyXfer (o : EngOp) : Ends (Machine.execCopyXfer o s) := by
  unfold Machine.execCopyXfer
  grind [update, engWord, Res.Formed, Ends]

theorem execCopyFill (o : EngOp) : Ends (Machine.execCopyFill o s) := by
  unfold Machine.execCopyFill
  grind [update, engWord, Res.Formed, Ends]

theorem execCopyRwrite (o : EngOp) : Ends (Machine.execCopyRwrite o s) := by
  unfold Machine.execCopyRwrite
  grind [update, engWord, Res.Formed, Ends]

theorem execCopyRread (o : EngOp) : Ends (Machine.execCopyRread o s) := by
  unfold Machine.execCopyRread
  grind [update, engWord, Res.Formed, Ends]

theorem execCopyRsend (o : EngOp) : Ends (Machine.execCopyRsend o s) := by
  unfold Machine.execCopyRsend
  grind [update, engWord, Res.Formed, Ends]

theorem execCopyRemap (o : EngOp) : Ends (Machine.execCopyRemap o s) := by
  unfold Machine.execCopyRemap
  grind [update, engWord, Res.Formed, Ends]

theorem execCopyStat (o : EngOp) : Ends (Machine.execCopyStat o s) := by
  unfold Machine.execCopyStat
  grind [update, engWord, Res.Formed, Ends]

theorem execDistDeal (o : EngOp) : Ends (Machine.execDistDeal o s) := by
  unfold Machine.execDistDeal
  grind [update, engWord, Res.Formed, Ends]

theorem execDistCfg (o : EngOp) : Ends (Machine.execDistCfg o s) := by
  unfold Machine.execDistCfg
  grind [update, engWord, Res.Formed, Ends]

theorem execDistStat (o : EngOp) : Ends (Machine.execDistStat o s) := by
  unfold Machine.execDistStat
  grind [update, engWord, Res.Formed, Ends]

theorem execCollAllreduce (o : EngOp) : Ends (Machine.execCollAllreduce o s) := by
  unfold Machine.execCollAllreduce
  grind [update, engWord, Res.Formed, Ends]

theorem execCollReduce (o : EngOp) : Ends (Machine.execCollReduce o s) := by
  unfold Machine.execCollReduce
  grind [update, engWord, Res.Formed, Ends]

theorem execCollBcast (o : EngOp) : Ends (Machine.execCollBcast o s) := by
  unfold Machine.execCollBcast
  grind [update, engWord, Res.Formed, Ends]

theorem execCollAllgather (o : EngOp) : Ends (Machine.execCollAllgather o s) := by
  unfold Machine.execCollAllgather
  grind [update, engWord, Res.Formed, Ends]

theorem execCollStat (o : EngOp) : Ends (Machine.execCollStat o s) := by
  unfold Machine.execCollStat
  grind [update, engWord, Res.Formed, Ends]

theorem execCtxSave (o : EngOp) : Ends (Machine.execCtxSave o s) := by
  unfold Machine.execCtxSave
  grind [update, engWord, Res.Formed, Ends]

theorem execCtxRestore (o : EngOp) : Ends (Machine.execCtxRestore o s) := by
  unfold Machine.execCtxRestore
  grind [update, engWord, Res.Formed, Ends]

theorem execCtxScrub (o : EngOp) : Ends (Machine.execCtxScrub o s) := by
  unfold Machine.execCtxScrub
  grind [update, engWord, Res.Formed, Ends]

theorem execCtxStat (o : EngOp) : Ends (Machine.execCtxStat o s) := by
  unfold Machine.execCtxStat
  grind [update, engWord, Res.Formed, Ends]

theorem execGateRun (o : EngOp) : Ends (Machine.execGateRun o s) := by
  unfold Machine.execGateRun
  grind [update, engWord, Res.Formed, Ends]

theorem execGateStat (o : EngOp) : Ends (Machine.execGateStat o s) := by
  unfold Machine.execGateStat
  grind [update, engWord, Res.Formed, Ends]

theorem execDispatchStat (o : EngOp) : Ends (Machine.execDispatchStat o s) := by
  unfold Machine.execDispatchStat
  grind [update, engWord, Res.Formed, Ends]

theorem execCombineStat (o : EngOp) : Ends (Machine.execCombineStat o s) := by
  unfold Machine.execCombineStat
  grind [update, engWord, Res.Formed, Ends]

theorem replyKick (k : Kick) (v : Nat) : Formed (Machine.replyKick s k v) := by
  unfold Machine.replyKick
  grind [update, onSlot]

theorem engFault (e : Nat) (k : Kick) (seq code addr aux : Nat) : Formed (Machine.engFault s e k seq code addr aux) := by
  unfold Machine.engFault
  grind [update, faultEntry]

theorem askEngWalk (e acc va need kind data : Nat) : Formed (Machine.askEngWalk s e acc va need kind data) := by
  unfold Machine.askEngWalk
  grind [update, bump]

theorem dropEngGot (e acc : Nat) : Formed (Machine.dropEngGot s e acc) := by
  unfold Machine.dropEngGot
  grind [update]

theorem readArg (k : Kick) (len : Nat) : Formed (Machine.readArg s k len).2 := by
  unfold Machine.readArg
  grind [update, readSpan]

theorem enterTiles (e : Nat) (c : Cmd) : Formed (Machine.enterTiles s e c) := by
  unfold Machine.enterTiles
  grind [update, setTile]

theorem enterQueue (e : Nat) : Formed (Machine.enterQueue s e) := by
  refine setEngine (foldlFst (fun acc c hacc => ?_) _ h) ..
  dsimp only
  split
  · exact hacc
  · split
    · exact hacc.enterTiles ..
    · exact hacc

theorem enterAll (e : Nat) : Formed (Machine.enterAll s e) := by
  unfold Machine.enterAll
  grind [update, enterQueue]

theorem pendTile (cl n st blocks : Nat) : Formed (Machine.pendTile s cl n st blocks) := by
  unfold Machine.pendTile
  grind [update, setTile]

theorem drainSource (e : Nat) (c : Cmd) (left : Nat) : Formed (Machine.drainSource s e c left) := by
  unfold Machine.drainSource
  grind [update, setTile, enterAll, pendTile]

theorem leaveTiles (c : Cmd) (ok : Bool) : Formed (Machine.leaveTiles s c ok) := by
  unfold Machine.leaveTiles
  grind [update, setTile]

theorem engFill (e : Nat) (k : Kick) (seq : Nat) (c : RegVal) (gen status count : Nat) : Formed (Machine.engFill s e k seq c gen status count)
    := by
  unfold Machine.engFill
  grind [update, genFill, readSpan, engFault]

theorem popCmd (e seq : Nat) : Formed (Machine.popCmd s e seq) := by
  unfold Machine.popCmd
  grind [update, setEngine]

theorem finishCmd (e : Nat) (c : Cmd) (status count : Nat) : Formed (Machine.finishCmd s e c status count) := by
  unfold Machine.finishCmd
  grind [update, enterAll, leaveTiles, engFill, popCmd]

theorem failCmd (e : Nat) (c : Cmd) (code addr aux : Nat) : Formed (Machine.failCmd s e c code addr aux) := by
  unfold Machine.failCmd
  grind [update, engFault, enterAll, leaveTiles, popCmd]

theorem poisonMet (e : Nat) : Formed (Machine.poisonMet s e) := by
  unfold Machine.poisonMet
  grind [update, fenceCocoon]

theorem failPoison (e : Nat) (c : Cmd) (addr : Nat) : Formed (Machine.failPoison s e c addr) := by
  unfold Machine.failPoison
  grind [update, failCmd, poisonMet]

theorem failRange (e : Nat) (c : Cmd) (need : Nat) (ps : List (Nat × Nat)) : Formed (Machine.failRange s e c need ps) := by
  unfold Machine.failRange
  grind [update, failCmd]

theorem orderFence (ord ea : Nat) : (Machine.orderFence ord ea s).Formed := by
  unfold Machine.orderFence
  grind [update, withFence, Res.Formed]

theorem roomFor (op : MemOp) (c : Cls) : (Machine.roomFor op c s).Formed := by
  unfold Machine.roomFor
  grind [update, room, Res.Formed]

theorem sendAccess (fs : List Nat) (op : MemOp) (ea len need ord : Nat) (rx : Bool) (d : Nat) :
    (Machine.sendAccess s fs op ea len need ord rx d).Formed := by
  unfold Machine.sendAccess
  grind [update, parkAfter, awaitReply, issueReq, popAll, storeRoom, orderFence, roomFor, reply, Res.Formed.bind, Res.Formed]

theorem accessWord (fs : List Nat) (ea : (Nat → RegVal) → Nat) (op : (Nat → RegVal) → MemOp) (mask : (Nat → RegVal) → Nat) (len need ord : Nat)
    (rx : Bool) (d : Nat) : (Machine.accessWord s fs ea op mask len need ord rx d).Formed := by
  unfold Machine.accessWord
  grind [update, checkSrc, sendAccess, Res.Formed.bind, Res.Formed]

theorem loadWord (k : Nat) (o : MemOperand) : Ends (Machine.loadWord k o s) := by
  unfold Machine.loadWord
  grind [update, issue, accessWord, Res.Formed, Ends]

theorem execLdB (o : MemOperand) : Ends (Machine.execLdB o s) := by
  unfold Machine.execLdB
  grind [update, loadWord, Res.Formed, Ends]

theorem execLdH (o : MemOperand) : Ends (Machine.execLdH o s) := by
  unfold Machine.execLdH
  grind [update, loadWord, Res.Formed, Ends]

theorem execLdW (o : MemOperand) : Ends (Machine.execLdW o s) := by
  unfold Machine.execLdW
  grind [update, loadWord, Res.Formed, Ends]

theorem execLdD (o : MemOperand) : Ends (Machine.execLdD o s) := by
  unfold Machine.execLdD
  grind [update, loadWord, Res.Formed, Ends]

theorem execLdQ (o : MemOperand) : Ends (Machine.execLdQ o s) := by
  unfold Machine.execLdQ
  grind [update, loadWord, Res.Formed, Ends]

theorem execLdC (o : MemOperand) : Ends (Machine.execLdC o s) := by
  unfold Machine.execLdC
  grind [update, loadWord, Res.Formed, Ends]

theorem storeWord (k : Nat) (o : MemOperand) : Ends (Machine.storeWord k o s) := by
  unfold Machine.storeWord
  grind [update, issue, accessWord, Res.Formed, Ends]

theorem execStB (o : MemOperand) : Ends (Machine.execStB o s) := by
  unfold Machine.execStB
  grind [update, storeWord, Res.Formed, Ends]

theorem execStH (o : MemOperand) : Ends (Machine.execStH o s) := by
  unfold Machine.execStH
  grind [update, storeWord, Res.Formed, Ends]

theorem execStW (o : MemOperand) : Ends (Machine.execStW o s) := by
  unfold Machine.execStW
  grind [update, storeWord, Res.Formed, Ends]

theorem execStD (o : MemOperand) : Ends (Machine.execStD o s) := by
  unfold Machine.execStD
  grind [update, storeWord, Res.Formed, Ends]

theorem execStQ (o : MemOperand) : Ends (Machine.execStQ o s) := by
  unfold Machine.execStQ
  grind [update, storeWord, Res.Formed, Ends]

theorem execStC (o : MemOperand) : Ends (Machine.execStC o s) := by
  unfold Machine.execStC
  grind [update, storeWord, Res.Formed, Ends]

theorem fullEmptyWord (fn : Nat) (o : MemOperand) : Ends (Machine.fullEmptyWord fn o s) := by
  unfold Machine.fullEmptyWord
  grind [update, issue, accessWord, Res.Formed, Ends]

theorem execLdfe (o : MemOperand) : Ends (Machine.execLdfe o s) := by
  unfold Machine.execLdfe
  grind [update, fullEmptyWord, Res.Formed, Ends]

theorem execLdff (o : MemOperand) : Ends (Machine.execLdff o s) := by
  unfold Machine.execLdff
  grind [update, fullEmptyWord, Res.Formed, Ends]

theorem execStef (o : MemOperand) : Ends (Machine.execStef o s) := by
  unfold Machine.execStef
  grind [update, fullEmptyWord, Res.Formed, Ends]

theorem execStfill (o : MemOperand) : Ends (Machine.execStfill o s) := by
  unfold Machine.execStfill
  grind [update, fullEmptyWord, Res.Formed, Ends]

theorem execFectlRead (o : MemOperand) : Ends (Machine.execFectlRead o s) := by
  unfold Machine.execFectlRead
  grind [update, fullEmptyWord, Res.Formed, Ends]

theorem execFectlEmpty (o : MemOperand) : Ends (Machine.execFectlEmpty o s) := by
  unfold Machine.execFectlEmpty
  grind [update, fullEmptyWord, Res.Formed, Ends]

theorem execFectlFull (o : MemOperand) : Ends (Machine.execFectlFull o s) := by
  unfold Machine.execFectlFull
  grind [update, fullEmptyWord, Res.Formed, Ends]

theorem atomicWord (fn : Nat) (o : AmoOp) : Ends (Machine.atomicWord fn o s) := by
  unfold Machine.atomicWord
  grind [update, issue, accessWord, Res.Formed, Ends]

theorem execAmoAdd (o : AmoOp) : Ends (Machine.execAmoAdd o s) := by
  unfold Machine.execAmoAdd
  grind [update, atomicWord, Res.Formed, Ends]

theorem execAmoAnd (o : AmoOp) : Ends (Machine.execAmoAnd o s) := by
  unfold Machine.execAmoAnd
  grind [update, atomicWord, Res.Formed, Ends]

theorem execAmoOr (o : AmoOp) : Ends (Machine.execAmoOr o s) := by
  unfold Machine.execAmoOr
  grind [update, atomicWord, Res.Formed, Ends]

theorem execAmoXor (o : AmoOp) : Ends (Machine.execAmoXor o s) := by
  unfold Machine.execAmoXor
  grind [update, atomicWord, Res.Formed, Ends]

theorem execAmoMin (o : AmoOp) : Ends (Machine.execAmoMin o s) := by
  unfold Machine.execAmoMin
  grind [update, atomicWord, Res.Formed, Ends]

theorem execAmoMax (o : AmoOp) : Ends (Machine.execAmoMax o s) := by
  unfold Machine.execAmoMax
  grind [update, atomicWord, Res.Formed, Ends]

theorem execAmoMinu (o : AmoOp) : Ends (Machine.execAmoMinu o s) := by
  unfold Machine.execAmoMinu
  grind [update, atomicWord, Res.Formed, Ends]

theorem execAmoMaxu (o : AmoOp) : Ends (Machine.execAmoMaxu o s) := by
  unfold Machine.execAmoMaxu
  grind [update, atomicWord, Res.Formed, Ends]

theorem execAmoSwap (o : AmoOp) : Ends (Machine.execAmoSwap o s) := by
  unfold Machine.execAmoSwap
  grind [update, atomicWord, Res.Formed, Ends]

theorem execAmoCas (o : AmoOp) : Ends (Machine.execAmoCas o s) := by
  unfold Machine.execAmoCas
  grind [update, atomicWord, Res.Formed, Ends]

theorem execAmoFaddF32 (o : AmoOp) : Ends (Machine.execAmoFaddF32 o s) := by
  unfold Machine.execAmoFaddF32
  grind [update, atomicWord, Res.Formed, Ends]

theorem execFenceRw (o : FenceOp) : Ends (Machine.execFenceRw o s) := by
  unfold Machine.execFenceRw
  grind [update, issue, withFence, Res.Formed, Ends]

theorem execFenceX (o : FenceOp) : Ends (Machine.execFenceX o s) := by
  unfold Machine.execFenceX
  grind [update, issue, withFence, Res.Formed, Ends]

theorem execFenceM (o : FenceOp) : Ends (Machine.execFenceM o s) := by
  unfold Machine.execFenceM
  grind [update, issue, withFence, Res.Formed, Ends]

theorem sendBitmap (fs : List Nat) (op : MemOp) (ea len d : Nat) : (Machine.sendBitmap s fs op ea len d).Formed := by
  unfold Machine.sendBitmap
  grind [update, parkAfter, room, issueReq, popAll, storeRoom, reply, Res.Formed.bind, Res.Formed]

theorem execRank (o : R3) : Ends (Machine.execRank o s) := by
  unfold Machine.execRank
  grind [update, issue, checkSrc, sendBitmap, Res.Formed.bind, Res.Formed, Ends]

theorem execSelb (o : R3) : Ends (Machine.execSelb o s) := by
  unfold Machine.execSelb
  grind [update, issue, pushResult, checkSrc, popAll, sendBitmap, Res.Formed.bind, Res.Formed, Ends]

theorem bindPort (o : BindOp) (out : Bool) : Ends (Machine.bindPort o out s) := by
  unfold Machine.bindPort
  grind [update, setPort, unbindPort, issue, checkSrc, placeBlock, Res.Formed.bind, Res.Formed, Ends]

theorem execSbindIn (o : BindOp) : Ends (Machine.execSbindIn o s) := by
  unfold Machine.execSbindIn
  grind [update, bindPort, Res.Formed, Ends]

theorem execSbindOut (o : BindOp) : Ends (Machine.execSbindOut o s) := by
  unfold Machine.execSbindOut
  grind [update, bindPort, Res.Formed, Ends]

theorem execSunbind (m : Bool) (port : Nat) : Ends (Machine.execSunbind m port s) := by
  unfold Machine.execSunbind
  grind [update, unbindPort, issue, placeBlock, Res.Formed.bind, Res.Formed, Ends]

theorem execSstat (m : Bool) (d port : Nat) : Ends (Machine.execSstat m d port s) := by
  unfold Machine.execSstat
  grind [update, writeReg, issue, Res.Formed, Ends]

theorem fetchedInto (g p : Nat) (f : Fetched) : Formed (Machine.fetchedInto s g p f) := by
  unfold Machine.fetchedInto
  grind [update, setPort]

theorem pieceInto (g p : Nat) (xs : List MByte) : Formed (Machine.pieceInto s g p xs) := by
  unfold Machine.pieceInto
  grind [update, setPort, fetchedInto]

theorem fetchElem (g p : Nat) : Formed (Machine.fetchElem s g p) := by
  unfold Machine.fetchElem
  grind [update, askWalk, readSpan, fetchedInto, pieceInto]

theorem execStreamElementArrival (g k : Nat) : Ends (Machine.execStreamElementArrival g k s) := by
  unfold Machine.execStreamElementArrival
  grind [update, writeNext, fetchElem, Res.Formed, Ends]

theorem execRep (o : RepOp) : Ends (Machine.execRep o s) := by
  unfold Machine.execRep
  grind [update, onSlot, issue, checkSrc, popAll, blockDesc, codeWords, startBody, Res.Formed.bind, Res.Formed, Ends]

end Sys2Proof.Machine.Formed
end

section
/-! SUPPORT. The canonical form of the memories (R75, R82, R93, R371): what the performing of a request keeps, and what the agents of a
cluster and of a base die do. -/

namespace Sys2Proof.Machine.Formed

variable {s : State} (h : Formed s)
include h

theorem dropReq (r : Request) : Formed (Machine.dropReq s r) := by
  unfold Machine.dropReq
  grind [update]

theorem reply (r : Request) (v : RegVal) (flags : Nat) : Formed (Machine.reply s r v flags) := by
  unfold Machine.reply
  grind [update, pushResult, dropReq]

theorem nackReq (r : Request) (cl : Nat) : Formed (Machine.nackReq s r cl) := by
  unfold Machine.nackReq
  grind [update, faultEntry, deferTrap, failReq, dropReq]

theorem fePerform (r : Request) (fn val cl ofs : Nat) : Formed (Machine.fePerform s r fn val cl ofs) := by
  have hread := h.settleSram (sramKey cl ofs) 8
  unfold Machine.fePerform
  dsimp only
  generalize { s with sram := s.sram.settleAll (sramKey cl ofs) 8 } = t at hread ⊢
  grind [reply, dropReq, traceFrom, setWordFull, fillWord]

theorem withdrawReq (r : Request) : Formed (Machine.withdrawReq s r) := by
  unfold Machine.withdrawReq
  grind [update, onSlot, undoPops, dropReq]

theorem joinWaitList (r : Request) (cl : Nat) : Formed (Machine.joinWaitList s r cl) := by
  unfold Machine.joinWaitList
  grind [update, bump, onSlot, withdrawReq]

theorem bitmapWord (r : Request) : Formed (Machine.bitmapWord s r).2 := by
  unfold Machine.bitmapWord
  dsimp only
  split
  · exact h.settleSram ..
  · exact h
  · exact h.devSettle ..
  · exact h

theorem bitmapNext (r : Request) (op : MemOp) : Formed (Machine.bitmapNext s r op) := by
  unfold Machine.bitmapNext
  grind [update, failReq, reply]

theorem bitmapPerform (r : Request) : Formed (Machine.bitmapPerform s r) := by
  unfold Machine.bitmapPerform
  grind [update, reply, bitmapWord, bitmapNext]

theorem rinvalAt (r : Request) (w : Nat) (psn : Bool) {write : Nat → State} (hwrite : ∀ v, Formed (write v)) :
    Formed (Machine.rinvalAt s r w psn write) := by
  unfold Machine.rinvalAt
  grind [failReq, dropReq]

theorem rstatAt (r : Request) (v : Nat) (psn : Bool) : Formed (Machine.rstatAt s r v psn) := by
  unfold Machine.rstatAt
  grind [update, failReq, reply]

theorem refuseSlot (r : Request) (cl q : Nat) : Formed (Machine.refuseSlot s r cl q) := by
  unfold Machine.refuseSlot
  grind [update, dropQueueWrite, dropReq, reply]

theorem makeSramPoison (a n : Nat) : Formed { s with sram := s.sram.makePoison a n } :=
  Memory.wf_setSram h (Store.wf_makePoison a n ((Memory.wf_iff s).mp h).1)

theorem setSramSyn (w : Nat) (b : BitVec 8) : Formed { s with sram := { s.sram with syn := put 0 s.sram.syn w b } } := by
  have hsram := (Store.wf_iff _).mp ((Memory.wf_iff s).mp h).1
  exact Memory.wf_setSram h (Store.wf_of hsram.1 hsram.2.1 hsram.2.2.1 (canonical_put 0 _ _ hsram.2.2.2))

theorem writeTagged (a v : Nat) (b : Bool) : Formed { s with sram := s.sram.writeTagged a v b } :=
  Memory.wf_setSram h (Store.wf_writeTagged a v b ((Memory.wf_iff s).mp h).1)

theorem bankPerform (r : Request) (cl ofs : Nat) : Formed (Machine.bankPerform s r cl ofs) := by
  have hread := h.settleSram (sramKey cl ofs) r.len
  unfold Machine.bankPerform
  dsimp only
  generalize hset : s.sram.settleAll (sramKey cl ofs) r.len = st at hread ⊢
  have hrest : Formed (match Machine.taskPerform { s with sram := st } r cl ofs with
      | some (u, some v) => Machine.reply u r v 0
      | some (u, none) => Machine.dropReq u r
      | none => { s with sram := st }) := by
    split
    · next hdone => exact (hread.taskPerform _ _ _ hdone).reply ..
    · next hdone => exact (hread.taskPerform _ _ _ hdone).dropReq ..
    · exact hread
  cases r.op with
  | ld k lc => exact hread.reply ..
  | st v tag =>
    refine dropReq (traceFrom ?_ ..) ..
    cases tag with
    | some b => exact hread.writeTagged ..
    | none => exact hread.sramWrite ..
  | amo fn b c =>
    refine reply (traceFrom ?_ ..) ..
    split
    · split
      · exact (hread.sramWrite ..).makeSramPoison ..
      · exact hread.sramWrite ..
    · exact hread
  | fe fn v =>
    dsimp only
    split
    · exact hread.fePerform ..
    · exact hread.joinWaitList ..
  | rstat => exact hread.rstatAt ..
  | rinit b => exact ((hread.sramWrite ..).traceFrom ..).dropReq ..
  | rinval => exact hread.rinvalAt _ _ _ fun _ => (hread.sramWrite ..).traceFrom ..
  | diag v chk par => exact (((hread.sramWrite ..).setSramSyn ..).traceFrom ..).dropReq ..
  | _ => exact hrest

theorem sramPerform (r : Request) (cl ofs : Nat) : Formed (Machine.sramPerform s r cl ofs) := by
  unfold Machine.sramPerform
  grind [update, refuseSlot, bankPerform]

theorem ctlPerform (r : Request) (cl ofs : Nat) : Formed (Machine.ctlPerform s r cl ofs) := by
  unfold Machine.ctlPerform
  grind [update, traceFrom, ctlStore, failReq, dropReq, reply]

theorem devPerform (r : Request) (pa : Nat) : Formed (Machine.devPerform s r pa) := by
  have hread := h.devSettle (forwardPa s pa) r.len
  unfold Machine.devPerform
  dsimp only
  generalize Machine.devSettle s (forwardPa s pa) r.len = t at hread ⊢
  have hrest : Formed (if tableHeld t r then t else match Machine.tablePerform t r with
      | (u, some v) => Machine.reply u r v 0
      | (u, none) => Machine.dropReq u r) := by
    split
    · exact hread
    · have hdone := hread.tablePerform r
      generalize Machine.tablePerform t r = res at hdone ⊢
      obtain ⟨u, v⟩ := res
      cases v with
      | some v => exact hdone.reply ..
      | none => exact hdone.dropReq ..
  cases r.op with
  | ld k lc => exact hread.reply ..
  | st v tag => exact ((hread.performLine ..).countGuarded ..).dropReq ..
  | amo fn b c =>
    refine reply ?_ ..
    split
    · split
      · exact (hread.performLine ..).makeDevPoison ..
      · exact hread.performLine ..
    · exact hread
  | rstat => exact hread.rstatAt ..
  | rinit b => exact (hread.performLine ..).dropReq ..
  | rinval => exact hread.rinvalAt _ _ _ fun _ => hread.performLine ..
  | diag v chk par => exact (hread.diagLine ..).dropReq ..
  | _ => exact hrest

theorem peerPerform (r : Request) : Formed (Machine.peerPerform s r) := by
  unfold Machine.peerPerform
  grind [update, dropReq, reply, rinvalAt, rstatAt]

theorem performReq (r : Request) : Formed (Machine.performReq s r) := by
  unfold Machine.performReq
  grind [update, nackReq, bitmapPerform, sramPerform, ctlPerform, devPerform, peerPerform]

theorem execSramRequest (rid : Nat) : Ends (Machine.execSramRequest rid s) := by
  unfold Machine.execSramRequest
  grind [update, performReq, Res.Formed, Ends]

theorem execDeviceRead (rid : Nat) : Ends (Machine.execDeviceRead rid s) := by
  unfold Machine.execDeviceRead
  grind [update, performReq, Res.Formed, Ends]

theorem execDeviceAtomic (rid : Nat) : Ends (Machine.execDeviceAtomic rid s) := by
  unfold Machine.execDeviceAtomic
  grind [update, performReq, Res.Formed, Ends]

theorem execReconstruction (k : Nat) : Ends (Machine.execReconstruction k s) := by
  unfold Machine.execReconstruction
  grind [update, settleWord, Res.Formed, Ends]

theorem execDeviceStore (k : Nat) : Ends (Machine.execDeviceStore k s) := by
  unfold Machine.execDeviceStore
  grind [update, performLine, countGuarded, Res.Formed, Ends]

theorem execParityDifference (k : Nat) : Ends (Machine.execParityDifference k s) := by
  unfold Machine.execParityDifference
  grind [update, applyDiff, Res.Formed, Ends]

theorem setParity {m : List Host.Cell} {y : Sparse (BitVec 8)} {l : List Nat} (hm : canonical 0 m = true) (hy : canonical 0 y = true) :
    Formed { s with parity := m, parSyn := y, stale := l } :=
  (Memory.wf_setParity h hm hy : Formed { s with parity := m, parSyn := y })

theorem execParityResync (k : Nat) : Ends (Machine.execParityResync k s) := by
  unfold Machine.execParityResync
  cases s.stale[k]? with
  | none => exact h
  | some stripe =>
    have hlost := fun (ws vs : List Nat) => (foldl (f := Machine.correctWord) (fun _ _ ht => ht.correctWord _) ws h).loseWords vs
    have hwf := fun (ws vs : List Nat) => (Memory.wf_iff _).mp (hlost ws vs)
    exact (hlost _ _).setParity (canonical_foldl_put 0 _ _ _ (hwf _ _).2.2.1) (canonical_foldl_put 0 _ _ _ (hwf _ _).2.2.2)

theorem execFenceMarker (g plane stack : Nat) : Ends (Machine.execFenceMarker g plane stack s) := by
  unfold Machine.execFenceMarker
  grind [update, onSlot, Res.Formed, Ends]

theorem execMarkerAck (g plane stack : Nat) : Ends (Machine.execMarkerAck g plane stack s) := by
  unfold Machine.execMarkerAck
  grind [update, onSlot, Res.Formed, Ends]

theorem execResultReturn (g k : Nat) : Ends (Machine.execResultReturn g k s) := by
  unfold Machine.execResultReturn
  grind [update, setSlot, writeReg, orFlags, Res.Formed, Ends]

omit h in
theorem ite {c : Prop} [Decidable c] {a b : State} (ha : Formed a) (hb : Formed b) : Formed (if c then a else b) := by
  split
  · exact ha
  · exact hb

theorem recheckAll (cl ofs : Nat) (x0 : List Request) : Formed (Machine.recheckAll s cl ofs x0) := by
  induction x0 generalizing s with
  | nil => exact h
  | cons r rs ih =>
    unfold Machine.recheckAll
    cases r.op with
    | fe fn v =>
      dsimp only
      have hdone := h.fePerform r fn v cl ofs
      generalize Machine.fePerform s r fn v cl ofs = t at hdone ⊢
      refine ite (ih h) (ite ?_ (ih (h.onSlot ..)))
      exact ite (ih hdone) hdone
    | _ => exact ih h

theorem execWaitListRecheck (cl : Nat) : Ends (Machine.execWaitListRecheck cl s) := by
  unfold Machine.execWaitListRecheck
  grind [update, onCluster, recheckAll, Res.Formed, Ends]

theorem execFelimitTrap (rid : Nat) : Ends (Machine.execFelimitTrap rid s) := by
  unfold Machine.execFelimitTrap
  grind [update, failReq, Res.Formed, Ends]

theorem execWaitListEntryFreed (cl : Nat) : Ends (Machine.execWaitListEntryFreed cl s) := by
  unfold Machine.execWaitListEntryFreed
  grind [update, Res.Formed, Ends]

theorem execCommitComplete (k : Nat) : Ends (Machine.execCommitComplete k s) := by
  unfold Machine.execCommitComplete
  grind [update, devSettle, devWrite, pushResult, learnVer, Res.Formed, Ends]

theorem performSc (r : Request) : Formed (Machine.performSc s r) := by
  unfold Machine.performSc
  grind [update, applyMts, dropReq, performReq]

theorem execSweepClose : Ends (Machine.execSweepClose s) := by
  unfold Machine.execSweepClose
  grind [update, performSc, foldl, Res.Formed, Ends]

end Sys2Proof.Machine.Formed
end

section
/-! SUPPORT. The canonical form of the memories (R75, R82, R93, R371): what the commands of the engines and the stages of a layer keep. -/

namespace Sys2Proof.Machine.Formed

variable {s : State} (h : Formed s)
include h

theorem setCmd (e : Nat) (c : Cmd) : Formed (Machine.setCmd s e c) := by
  unfold Machine.setCmd
  grind [update, setEngine]

theorem srcBytes (e : Nat) (c : Cmd) (ea len : Nat) {f : List MByte → State → State} (hf : ∀ xs s, Formed s → Formed (f xs s)) :
    Formed (Machine.srcBytes s e c ea len f) := by
  have hread := h.readMost c.kick.sender (piecesOf 64 (ea + c.got.length) (len - c.got.length))
  unfold Machine.srcBytes
  dsimp only
  generalize Machine.readMost s c.kick.sender (piecesOf 64 (ea + c.got.length) (len - c.got.length)) = r at hread ⊢
  obtain ⟨xs, sp, t⟩ := r
  dsimp only at hread ⊢
  by_cases hmet : (anyPsn xs && fences t e) = true
  · rw [if_pos hmet]
    exact hread.poisonMet _
  · rw [if_neg hmet]
    cases sp with
    | ok _ => exact hf _ _ (hread.drainSource ..)
    | miss va => exact ((hread.setCmd ..).drainSource ..).askEngWalk ..
    | fail => exact hread.failRange ..

theorem endWrites (e : Nat) (c : Cmd) (f : Nat × Nat × Bool) : Formed (Machine.endWrites s e c f) := by
  unfold Machine.endWrites
  grind [update, finishCmd, failPoison]

theorem writeAndEnd (e : Nat) (c : Cmd) (ea : Nat) (xs : List MByte) (status count : Nat) : Formed
    (Machine.writeAndEnd s e c ea xs status count) := by
  unfold Machine.writeAndEnd
  grind [update, setCmd, endWrites]

theorem writeNextPiece (e : Nat) (c : Cmd) (f : Nat × Nat × Bool) : Formed (Machine.writeNextPiece s e c f) := by
  unfold Machine.writeNextPiece
  cases c.todo with
  | nil => exact h.endWrites ..
  | cons p ps =>
    dsimp only
    split
    · exact h.askEngWalk ..
    · split
      · exact h.failRange ..
      · next t ht =>
        have hwritten := h.writePiece _ _ _ _ ht
        split
        · exact hwritten.endWrites ..
        · refine setCmd ?_ ..
          split
          · exact hwritten.pendTile ..
          · exact hwritten

/-- The tag of a block, the poison marks of its two words and the key of its line (R376). -/
theorem markBlock (g w0 w1 l k : Nat) (y0 y1 : BitVec 8) : Formed { s with
    dev := { s.dev with tags := put false s.dev.tags g false, syn := put 0 (put 0 s.dev.syn w0 y0) w1 y1 }
    lineKey := put 0 s.lineKey l k } := by
  have hd := (Store.wf_iff _).mp ((Memory.wf_iff s).mp h).2.1
  exact Memory.wf_setDev h (Store.wf_of hd.1 (canonical_put false _ _ hd.2.1) hd.2.2.1 (canonical_put 0 _ _ (canonical_put 0 _ _ hd.2.2.2)))

theorem moveBlock (a d : Nat) : Formed (Machine.moveBlock s a d) := by
  have hread : Formed ([a / 8, a / 8 + 1, d / 8, d / 8 + 1].foldl Machine.settleWord s) := foldl (fun _ _ ht => ht.settleWord _) _ h
  unfold Machine.moveBlock
  dsimp only
  generalize [a / 8, a / 8 + 1, d / 8, d / 8 + 1].foldl Machine.settleWord s = t at hread ⊢
  exact settled ((hread.markBlock (d / 16) _ _ (d / 64) _ _ _).putStored 0 t.cur 0 d _)

theorem retire (table : List (Nat × Nat)) (rrq : Bool) (old : State) :
    Formed (Machine.statusChanged old { s with retired := table, hawk := { s.hawk with rrq := rrq } }) :=
  statusChanged (s := { s with retired := table, hawk := { s.hawk with rrq := rrq } }) h old

theorem movePage (e : Nat) (c : Cmd) : Formed (Machine.movePage s e c) := by
  have hmoved : Formed ((List.range 256).foldl (fun s i => Machine.moveBlock s (4096 * fld c.ap0 12 28 + 16 * i) (4096 * fld c.ap1 12 28 + 16 *
      i)) s) :=
    foldl (fun _ _ ht => ht.moveBlock _ _) _ h
  unfold Machine.movePage
  dsimp only
  generalize (List.range 256).foldl (fun s i => Machine.moveBlock s (4096 * fld c.ap0 12 28 + 16 * i) (4096 * fld c.ap1 12 28 + 16 * i)) s = t
    at hmoved ⊢
  generalize ((List.range 512).any fun i => look 0 t.dev.syn (512 * fld c.ap1 12 28 + i) != 0) = bad
  have hfault : Formed (if bad then Machine.engFault t e c.kick c.seq 0x12 (4096 * fld c.ap0 12 28) 0 else t) := by
    split
    · exact hmoved.engFault ..
    · exact hmoved
  generalize (if bad then Machine.engFault t e c.kick c.seq 0x12 (4096 * fld c.ap0 12 28) 0 else t) = u at hfault ⊢
  have hdone : ∀ v : State, Formed v → ∀ (ps : List (Nat × Partition)) (f : State → Nat × Partition → Inval), Formed
      (List.foldl (fun s kp => Machine.invalidate s (f s kp)) v ps) :=
    fun v hv ps f => foldl (fun _ _ ht => ht.invalidate _) ps hv
  exact ite ((hdone _ (hfault.retire _ _ _) _ _).poisonMet _) ((hdone _ (hfault.retire _ _ _) _ _).setCmd _ _)

theorem remapPage (e : Nat) (c : Cmd) : Formed (Machine.remapPage s e c) := by
  unfold Machine.remapPage
  grind [update, finishCmd, movePage]

theorem runCopy (e : Nat) (c : Cmd) : Formed (Machine.runCopy s e c) := by
  unfold Machine.runCopy
  grind [update, finishCmd, failPoison, srcBytes, writeAndEnd, remapPage]

theorem runDeal (e : Nat) (c : Cmd) : Formed (Machine.runDeal s e c) := by
  unfold Machine.runDeal
  grind [update, onCore, finishCmd, failPoison, srcBytes, foldl]

theorem groupOf (c : Cmd) (n : Nat) : Formed (Machine.groupOf s c n).2 := by
  unfold Machine.groupOf
  grind [update, readSpan]

omit h in
/-- A fold over what holds a state at a place keeps the form of that state. -/
theorem foldlPart {α β : Type} {p : α → State} {f : α → β → α} (hf : ∀ acc b, Formed (p acc) → Formed (p (f acc b))) (l : List β)
    {acc : α} (h : Formed (p acc)) : Formed (p (l.foldl f acc)) := by
  induction l generalizing acc with
  | nil => exact h
  | cons b l ih => exact ih (hf acc b h)

theorem contributions (ms : List (Nat × Nat)) (fn root len : Nat) : Formed (Machine.contributions s ms fn root len).2.1 := by
  unfold Machine.contributions
  refine foldlPart (p := fun acc : Span (List (List MByte)) × State × Nat => acc.2.1) ?_ ms.zipIdx (acc := (.ok [], s, 0)) h
  rintro ⟨sp, t, die⟩ ⟨m, i⟩ ht
  dsimp only at ht ⊢
  cases sp with
  | ok l =>
    dsimp only
    by_cases hg : (!gives fn root i) = true
    · rw [if_pos hg]
      exact ht
    · rw [if_neg hg]
      by_cases hc : (!isThisChip t m.1) = true
      · rw [if_pos hc]
        exact ht
      · rw [if_neg hc]
        cases collHead t m.2 with
        | none => exact ht
        | some c =>
          dsimp only
          have hread := ht.readSpan c.kick.sender c.asrc.addr len
          generalize Machine.readSpan t c.kick.sender c.asrc.addr len = r at hread ⊢
          obtain ⟨sp, u⟩ := r
          cases sp with
          | _ => exact hread
  | _ => exact ht

theorem deliverAll (ms : List (Nat × Nat)) (c : Cmd) (parts : List (List MByte)) : Formed (Machine.deliverAll s ms c parts) := by
  unfold Machine.deliverAll
  grind [update, finishCmd, writeAndEnd, foldl]

/-- What a collective does once its group table is read (R278). -/
theorem combined (ms : List (Nat × Nat)) (fn root len : Nat) {done : List (List MByte) → State → State} {missed : Nat → State → Nat → State}
    {failed : State → Nat → State} (hdone : ∀ ps t, Formed t → Formed (done ps t)) (hmissed : ∀ va t d, Formed t → Formed (missed va t d))
    (hfailed : ∀ t d, Formed t → Formed (failed t d)) : Formed (match Machine.contributions s ms fn root len with
      | (.ok parts, s, _) => done parts s
      | (.miss va, s, d) => missed va s d
      | (.fail, s, d) => failed s d) := by
  have hread := h.contributions ms fn root len
  generalize Machine.contributions s ms fn root len = r at hread ⊢
  obtain ⟨sp, t, d⟩ := r
  cases sp with
  | ok parts => exact hdone _ _ hread
  | miss va => exact hmissed _ _ _ hread
  | fail => exact hfailed _ _ hread

theorem runColl (e : Nat) (c : Cmd) : Formed (Machine.runColl s e c) := by
  have hgroup := h.groupOf c c.members
  unfold Machine.runColl
  generalize Machine.groupOf s c c.members = r at hgroup ⊢
  obtain ⟨sp, t⟩ := r
  cases sp with
  | miss va => exact hgroup.askEngWalk ..
  | fail =>
    dsimp only at hgroup ⊢
    have hread := hgroup.readSpan c.kick.sender (c.ap1 % 2 ^ 72) (8 * c.members)
    generalize Machine.readSpan t c.kick.sender (c.ap1 % 2 ^ 72) (8 * c.members) = r at hread ⊢
    obtain ⟨sp, u⟩ := r
    cases sp with
    | ok _ => exact hread.failPoison ..
    | _ => exact hgroup.failRange ..
  | ok ms =>
    dsimp only at hgroup ⊢
    split
    · exact hgroup.failCmd ..
    · refine ite hgroup ?_
      split
      · refine foldl (fun u d hu => ?_) _ hgroup
        split
        · exact hu.failCmd ..
        · exact hu
      · refine hgroup.combined _ _ _ _ (fun ps u hu => ?_) (fun va u d hu => hu.askEngWalk ..) (fun u d hu => ?_)
        · split
          · split
            · exact hu.failPoison ..
            · exact hu
          · exact hu.deliverAll ..
        · split
          · exact hu.failRange ..
          · exact hu

omit h in
/-- A fold that may fail keeps the form. -/
theorem foldlSome {β γ : Type} {f : State × γ → β → Option (State × γ)} (hf : ∀ sl b sl', Formed sl.1 → f sl b = some sl' → Formed sl'.1)
    (l : List β) {acc : Option (State × γ)} (hacc : ∀ sl, acc = some sl → Formed sl.1) {r : State × γ}
    (hr : l.foldl (fun acc b => acc.bind fun sl => f sl b) acc = some r) : Formed r.1 := by
  induction l generalizing acc with
  | nil => exact hacc r hr
  | cons b l ih =>
    refine ih (fun sl hsl => ?_) hr
    obtain ⟨sl', hsl', hb⟩ := Option.bind_eq_some_iff.mp hsl
    exact hf sl' b sl (hacc sl' hsl') hb

theorem setSramTag (g : Nat) (b : Bool) : Formed { s with sram := { s.sram with tags := put false s.sram.tags g b } } := by
  have hd := (Store.wf_iff _).mp ((Memory.wf_iff s).mp h).1
  exact Memory.wf_setSram h (Store.wf_of hd.1 (canonical_put false _ _ hd.2.1) hd.2.2.1 hd.2.2.2)

theorem savePiece (b : Sender) (e : Nat) (cap : RegVal) (p : Nat × List MByte × Bool) {a : List (Nat × Nat)} {t : State}
    (ht : Machine.savePiece s b e cap p = some (t, a)) : Formed t := by
  unfold Machine.savePiece at ht
  dsimp only at ht
  obtain ⟨sl, hsl, hend⟩ := Option.map_eq_some_iff.mp ht
  have hwritten : Formed sl.1 := by
    refine foldlSome (fun sl q sl' hu hsl' => ?_) _ ?_ hsl
    · obtain ⟨r, hr, rfl⟩ := Option.map_eq_some_iff.mp hsl'
      exact hu.writeOnly _ _ _ _ hr
    · rintro _ ⟨⟩
      exact h
  have hmarked := congrArg Prod.fst hend
  dsimp only at hmarked
  rw [← hmarked]
  split
  · exact hwritten
  · split
    · exact hwritten.setSramTag ..
    · exact hwritten.setDevTag ..
    · exact hwritten

theorem saveAll (b : Sender) (e : Nat) (cap : RegVal) (ps : List (Nat × List MByte × Bool)) {t : State}
    (ht : Machine.saveAll s b e cap ps = some t) : Formed t := by
  unfold Machine.saveAll at ht
  dsimp only at ht
  obtain ⟨sl, hsl, rfl⟩ := Option.map_eq_some_iff.mp ht
  refine countGuarded (foldlSome (fun sl p sl' hu hsl' => ?_) _ ?_ hsl) ..
  · obtain ⟨r, hr, rfl⟩ := Option.map_eq_some_iff.mp hsl'
    exact hu.savePiece _ _ _ _ hr
  · rintro _ ⟨⟩
    exact h

theorem runSave (e : Nat) (c : Cmd) (g : Nat) : Formed (Machine.runSave s e c g) := by
  unfold Machine.runSave
  dsimp only
  split
  · exact h.askEngWalk ..
  · split
    · exact h.failCmd ..
    · next t ht =>
      refine finishCmd ?_ ..
      exact foldl (fun _ _ hu => hu.setOpenVals _) _ (h.saveAll _ _ _ _ ht)

theorem runRestore (e : Nat) (c : Cmd) (g : Nat) : Formed (Machine.runRestore s e c g) := by
  unfold Machine.runRestore
  grind [update, restoreArea, finishCmd, failPoison, srcBytes]

theorem scrubCluster (cl : Nat) : Formed (Machine.scrubCluster s cl) := by
  unfold Machine.scrubCluster
  exact onCluster (foldl (fun _ _ hu => hu.onCore ..) _ (h.scrubSram ..)) ..

theorem runScrub (e : Nat) (c : Cmd) : Formed (Machine.runScrub s e c) := by
  unfold Machine.runScrub
  grind [update, finishCmd, scrubCluster, foldl]

theorem runCtx (e : Nat) (c : Cmd) : Formed (Machine.runCtx s e c) := by
  unfold Machine.runCtx
  grind [update, runSave, runRestore, runScrub]

theorem runCmd (e : Nat) (c : Cmd) : Formed (Machine.runCmd s e c) := by
  unfold Machine.runCmd
  grind [update, writeNextPiece, runCopy, runDeal, runColl, runCtx]

theorem execEngineCommandComplete (e : Nat) : Ends (Machine.execEngineCommandComplete e s) := by
  unfold Machine.execEngineCommandComplete
  grind [update, runCmd, Res.Formed, Ends]

theorem execEngineAccessFailed (e cause : Nat) : Ends (Machine.execEngineAccessFailed e cause s) := by
  unfold Machine.execEngineAccessFailed
  grind [update, failCmd, Res.Formed, Ends]

theorem acceptGate (k : Kick) (seq : Nat) : Formed (Machine.acceptGate s k seq).2 := by
  unfold Machine.acceptGate
  grind [update, readSpan, readArg]

theorem acceptCmd (e : Nat) (k : Kick) (seq : Nat) : Formed (Machine.acceptCmd s e k seq).2 := by
  unfold Machine.acceptCmd
  grind [update, readArg]

theorem takeKick (e : Nat) (k : Kick) (rc : Nat) : Formed (Machine.takeKick s e k rc) := by
  unfold Machine.takeKick
  grind [update, setEngine, replyKick, engFault]

theorem execEngineKickAccept (e : Nat) : Ends (Machine.execEngineKickAccept e s) := by
  unfold Machine.execEngineKickAccept
  dsimp only
  split
  · exact h
  · next k _ =>
    have htaken : Formed (if idOf e = 4 then Machine.acceptGate s k ((s.engine e).seq % 2 ^ 32)
        else Machine.acceptCmd s e k ((s.engine e).seq % 2 ^ 32)).2 := by
      split
      · exact h.acceptGate ..
      · exact h.acceptCmd ..
    generalize (if idOf e = 4 then Machine.acceptGate s k ((s.engine e).seq % 2 ^ 32)
        else Machine.acceptCmd s e k ((s.engine e).seq % 2 ^ 32)) = r at htaken ⊢
    obtain ⟨a, t⟩ := r
    split
    · exact (h.setEngine ..).replyKick ..
    · cases a with
      | miss va => exact htaken.askEngWalk ..
      | rc n => exact htaken.takeKick ..
      | poisoned => exact (htaken.takeKick ..).poisonMet ..
      | layer l => exact (htaken.takeKick ..).setEngine ..
      | cmd c =>
        exact ite (((htaken.takeKick ..).onCluster ..).setEngine ..) (((htaken.takeKick ..).setEngine ..).enterAll ..)

theorem setLayer (die : Nat) (l : Layer) : Formed (Machine.setLayer s die l) := by
  unfold Machine.setLayer
  grind [update, setEngine]

theorem countStage (die id : Nat) : Formed (Machine.countStage s die id) := by
  unfold Machine.countStage
  grind [update, setEngine]

theorem failLayer (die : Nat) (l : Layer) (f : Nat × Nat × Nat) : Formed (Machine.failLayer s die l f) := by
  unfold Machine.failLayer
  grind [update, engFault, setLayer, countStage]

theorem runOp (b : Sender) (id : Nat) (o : StageOp) : Formed (Machine.runOp s b id o).2 := by
  unfold Machine.runOp
  grind [update, readSpan, writeRange]

theorem runOps (b : Sender) (id : Nat) (x0 : List StageOp) (x1 : Nat) : Formed (Machine.runOps s b id x0 x1).2.2 := by
  induction x0 generalizing s x1 with
  | nil => exact h
  | cons o os ih =>
    unfold Machine.runOps
    have hdone := h.runOp b id o
    generalize Machine.runOp s b id o = r at hdone ⊢
    obtain ⟨r, t⟩ := r
    cases r with
    | done => exact ih hdone _
    | _ => exact hdone

theorem layerRead (die : Nat) (l : Layer) (ea len : Nat) {f : List MByte → State → State} (hf : ∀ xs s, Formed s → Formed (f xs s)) :
    Formed (Machine.layerRead s die l ea len f) := by
  unfold Machine.layerRead
  have hread := h.readSpan l.cmd.kick.sender ea len
  generalize Machine.readSpan s l.cmd.kick.sender ea len = r at hread ⊢
  obtain ⟨r, t⟩ := r
  cases r with
  | ok xs => exact ite (hread.failLayer ..) (hf _ _ hread)
  | miss va => exact hread.askEngWalk ..
  | fail => exact hread.failLayer ..

/-- What follows a run of accesses of a stage. -/
theorem afterOps (b : Sender) (id n : Nat) (os : List StageOp) {done : Nat → State → State} {missed : Nat → Nat → Nat → Nat → State → State}
    {failed : Nat × Nat × Nat → Nat → State → State} (hdone : ∀ n t, Formed t → Formed (done n t))
    (hmissed : ∀ va need v n t, Formed t → Formed (missed va need v n t)) (hfailed : ∀ f n t, Formed t → Formed (failed f n t)) :
    Formed (match Machine.runOps s b id os n with
      | (.done, n, s) => done n s
      | (.miss va need v, n, s) => missed va need v n s
      | (.fail f, n, s) => failed f n s) := by
  have hrun := h.runOps b id os n
  generalize Machine.runOps s b id os n = r at hrun ⊢
  obtain ⟨r, n, t⟩ := r
  cases r with
  | done => exact hdone _ _ hrun
  | miss va need v => exact hmissed _ _ _ _ _ hrun
  | fail f => exact hfailed _ _ _ hrun

theorem runPlaces (die : Nat) (l : Layer) : Formed (Machine.runPlaces s die l) := by
  unfold Machine.runPlaces
  exact h.afterOps _ _ _ _ (fun _ _ ht => (ht.setLayer ..).countStage ..) (fun _ _ _ _ _ ht => (ht.setLayer ..).askEngWalk ..)
    fun _ _ _ ht => ht.failLayer ..

theorem runDispatch (die : Nat) (l : Layer) : Formed (Machine.runDispatch s die l) := by
  unfold Machine.runDispatch
  exact ite (h.runPlaces ..) (h.layerRead _ _ _ _ fun _ _ ht => ht.runPlaces ..)

theorem spawnProduct (die : Nat) (l : Layer) (e : Nat) {t : State} (ht : Machine.spawnProduct s die l e = some (.inl t)) : Formed t := by
  unfold Machine.spawnProduct at ht
  dsimp only at ht
  split at ht
  · nomatch ht
  · split at ht
    · nomatch ht
    · split at ht
      · nomatch ht
      · split at ht
        · nomatch ht
        · obtain ⟨os, hos, hend⟩ := Option.map_eq_some_iff.mp ht
          have hnew := h.newConts _ _ hos
          rw [← Sum.inl.inj hend]
          split
          · exact hnew
          · exact hnew

theorem spawnFrom (die : Nat) (l : Layer) (x0 : List Nat) : Formed (Machine.spawnFrom s die l x0) := by
  induction x0 generalizing s l with
  | nil => exact h.setLayer ..
  | cons e es ih =>
    unfold Machine.spawnFrom
    split
    · exact h.setLayer ..
    · exact h.failLayer ..
    · next t ht => exact ih (h.spawnProduct _ _ _ ht) _

theorem readResults (die : Nat) (l : Layer) {f : List (Nat × Nat × Nat) → State → State} (hf : ∀ res s, Formed s → Formed (f res s))
    (ps : List (Nat × Nat × Nat × Nat × Nat)) (acc : List (Nat × Nat × Nat)) : Formed (Machine.readResults s die l f ps acc) := by
  induction ps generalizing s acc with
  | nil => exact hf _ _ h
  | cons p ps ih =>
    unfold Machine.readResults
    have hread := h.readSpan l.cmd.kick.sender (resultAddr l p) (cfgRB l.cfg)
    generalize Machine.readSpan s l.cmd.kick.sender (resultAddr l p) (cfgRB l.cfg) = r at hread ⊢
    obtain ⟨r, t⟩ := r
    cases r with
    | ok xs => exact ite (hread.failLayer ..) (ih hread _)
    | miss va => exact hread.askEngWalk ..
    | fail => exact hread.failLayer ..

theorem endLayer (die : Nat) (l : Layer) (status count : Nat) : Formed (Machine.endLayer s die l status count) := by
  unfold Machine.endLayer
  grind [update, setEngine, engFill]

theorem runCombine (die : Nat) (l : Layer) : Formed (Machine.runCombine s die l) := by
  unfold Machine.runCombine
  refine h.readResults _ _ (fun res t ht => ?_) _ _
  exact ht.afterOps _ _ _ _ (fun _ _ hu => (hu.countStage ..).endLayer ..) (fun _ _ _ _ _ hu => (hu.setLayer ..).askEngWalk ..)
    fun _ _ _ hu => hu.failLayer ..

theorem stageDone (die : Nat) (l : Layer) : Formed (Machine.stageDone s die l) := by
  unfold Machine.stageDone
  grind [update, dropEngGot]

theorem execDispatchStage (die : Nat) : Ends (Machine.execDispatchStage die s) := by
  unfold Machine.execDispatchStage
  grind [update, runDispatch, stageDone, Res.Formed, Ends]

theorem execProductSpawn (die : Nat) : Ends (Machine.execProductSpawn die s) := by
  unfold Machine.execProductSpawn
  grind [update, spawnFrom, Res.Formed, Ends]

theorem execCombineStage (die : Nat) : Ends (Machine.execCombineStage die s) := by
  unfold Machine.execCombineStage
  grind [update, endLayer, runCombine, Res.Formed, Ends]

end Sys2Proof.Machine.Formed
end

section
/-! SUPPORT. The canonical form of the memories (R75, R82, R93, R371): what the words that compute keep: integers, capabilities and vectors.
-/

namespace Sys2Proof.Machine.Formed

variable {s : State} (h : Formed s)
include h

theorem binary (o : R3) (f : W64 → W64 → W64) : Ends (Machine.binary o s f) := by
  unfold Machine.binary
  grind [update, issue, computeVal, Res.Formed, Ends]

theorem unary (o : R2) (f : W64 → W64) : Ends (Machine.unary o s f) := by
  unfold Machine.unary
  grind [update, issue, computeVal, Res.Formed, Ends]

theorem execAdd (o : R3) : Ends (Machine.execAdd o s) := by
  unfold Machine.execAdd
  grind [update, binary, Res.Formed, Ends]

theorem execSub (o : R3) : Ends (Machine.execSub o s) := by
  unfold Machine.execSub
  grind [update, binary, Res.Formed, Ends]

theorem execAnd (o : R3) : Ends (Machine.execAnd o s) := by
  unfold Machine.execAnd
  grind [update, binary, Res.Formed, Ends]

theorem execOr (o : R3) : Ends (Machine.execOr o s) := by
  unfold Machine.execOr
  grind [update, binary, Res.Formed, Ends]

theorem execXor (o : R3) : Ends (Machine.execXor o s) := by
  unfold Machine.execXor
  grind [update, binary, Res.Formed, Ends]

theorem execAndn (o : R3) : Ends (Machine.execAndn o s) := by
  unfold Machine.execAndn
  grind [update, binary, Res.Formed, Ends]

theorem execOrn (o : R3) : Ends (Machine.execOrn o s) := by
  unfold Machine.execOrn
  grind [update, binary, Res.Formed, Ends]

theorem execXnor (o : R3) : Ends (Machine.execXnor o s) := by
  unfold Machine.execXnor
  grind [update, binary, Res.Formed, Ends]

theorem execShl (o : R3) : Ends (Machine.execShl o s) := by
  unfold Machine.execShl
  grind [update, binary, Res.Formed, Ends]

theorem execShr (o : R3) : Ends (Machine.execShr o s) := by
  unfold Machine.execShr
  grind [update, binary, Res.Formed, Ends]

theorem execSra (o : R3) : Ends (Machine.execSra o s) := by
  unfold Machine.execSra
  grind [update, binary, Res.Formed, Ends]

theorem execRotl (o : R3) : Ends (Machine.execRotl o s) := by
  unfold Machine.execRotl
  grind [update, binary, Res.Formed, Ends]

theorem execRotr (o : R3) : Ends (Machine.execRotr o s) := by
  unfold Machine.execRotr
  grind [update, binary, Res.Formed, Ends]

theorem execMin (o : R3) : Ends (Machine.execMin o s) := by
  unfold Machine.execMin
  grind [update, binary, Res.Formed, Ends]

theorem execMax (o : R3) : Ends (Machine.execMax o s) := by
  unfold Machine.execMax
  grind [update, binary, Res.Formed, Ends]

theorem execMinu (o : R3) : Ends (Machine.execMinu o s) := by
  unfold Machine.execMinu
  grind [update, binary, Res.Formed, Ends]

theorem execMaxu (o : R3) : Ends (Machine.execMaxu o s) := by
  unfold Machine.execMaxu
  grind [update, binary, Res.Formed, Ends]

theorem execCmpeq (o : R3) : Ends (Machine.execCmpeq o s) := by
  unfold Machine.execCmpeq
  grind [update, binary, Res.Formed, Ends]

theorem execCmpne (o : R3) : Ends (Machine.execCmpne o s) := by
  unfold Machine.execCmpne
  grind [update, binary, Res.Formed, Ends]

theorem execCmplt (o : R3) : Ends (Machine.execCmplt o s) := by
  unfold Machine.execCmplt
  grind [update, binary, Res.Formed, Ends]

theorem execCmpltu (o : R3) : Ends (Machine.execCmpltu o s) := by
  unfold Machine.execCmpltu
  grind [update, binary, Res.Formed, Ends]

theorem execCmple (o : R3) : Ends (Machine.execCmple o s) := by
  unfold Machine.execCmple
  grind [update, binary, Res.Formed, Ends]

theorem execCmpleu (o : R3) : Ends (Machine.execCmpleu o s) := by
  unfold Machine.execCmpleu
  grind [update, binary, Res.Formed, Ends]

theorem execSel (o : R4) : Ends (Machine.execSel o s) := by
  unfold Machine.execSel
  grind [update, issue, computeVal, Res.Formed, Ends]

theorem execClz (o : R2) : Ends (Machine.execClz o s) := by
  unfold Machine.execClz
  grind [update, unary, Res.Formed, Ends]

theorem execCtz (o : R2) : Ends (Machine.execCtz o s) := by
  unfold Machine.execCtz
  grind [update, unary, Res.Formed, Ends]

theorem execPopc (o : R2) : Ends (Machine.execPopc o s) := by
  unfold Machine.execPopc
  grind [update, unary, Res.Formed, Ends]

theorem execBswap (o : R2) : Ends (Machine.execBswap o s) := by
  unfold Machine.execBswap
  grind [update, unary, Res.Formed, Ends]

theorem execAbs (o : R2) : Ends (Machine.execAbs o s) := by
  unfold Machine.execAbs
  grind [update, unary, Res.Formed, Ends]

theorem execNeg (o : R2) : Ends (Machine.execNeg o s) := by
  unfold Machine.execNeg
  grind [update, unary, Res.Formed, Ends]

theorem execMul (o : R3) : Ends (Machine.execMul o s) := by
  unfold Machine.execMul
  grind [update, binary, Res.Formed, Ends]

theorem execMulh (o : R3) : Ends (Machine.execMulh o s) := by
  unfold Machine.execMulh
  grind [update, binary, Res.Formed, Ends]

theorem execMulhu (o : R3) : Ends (Machine.execMulhu o s) := by
  unfold Machine.execMulhu
  grind [update, binary, Res.Formed, Ends]

theorem division (o : R3) (f : W64 → W64 → W64) : Ends (Machine.division o s f) := by
  unfold Machine.division
  grind [update, issue, compute, Res.Formed, Ends]

theorem execDiv (o : R3) : Ends (Machine.execDiv o s) := by
  unfold Machine.execDiv
  grind [update, division, Res.Formed, Ends]

theorem execDivu (o : R3) : Ends (Machine.execDivu o s) := by
  unfold Machine.execDivu
  grind [update, division, Res.Formed, Ends]

theorem execRem (o : R3) : Ends (Machine.execRem o s) := by
  unfold Machine.execRem
  grind [update, division, Res.Formed, Ends]

theorem execRemu (o : R3) : Ends (Machine.execRemu o s) := by
  unfold Machine.execRemu
  grind [update, division, Res.Formed, Ends]

theorem execMadd (o : R4) : Ends (Machine.execMadd o s) := by
  unfold Machine.execMadd
  grind [update, issue, computeVal, Res.Formed, Ends]

theorem immediate (o : ImmOp) (f : W64 → W64 → W64) (g : BitVec 32 → BitVec 32 → W64) : Ends (Machine.immediate o s f g) := by
  unfold Machine.immediate
  grind [update, issue, computeVal, Res.Formed, Ends]

theorem execAddi (o : ImmOp) : Ends (Machine.execAddi o s) := by
  unfold Machine.execAddi
  grind [update, immediate, Res.Formed, Ends]

theorem execAndi (o : ImmOp) : Ends (Machine.execAndi o s) := by
  unfold Machine.execAndi
  grind [update, immediate, Res.Formed, Ends]

theorem execOri (o : ImmOp) : Ends (Machine.execOri o s) := by
  unfold Machine.execOri
  grind [update, immediate, Res.Formed, Ends]

theorem execXori (o : ImmOp) : Ends (Machine.execXori o s) := by
  unfold Machine.execXori
  grind [update, immediate, Res.Formed, Ends]

theorem execShli (o : ImmOp) : Ends (Machine.execShli o s) := by
  unfold Machine.execShli
  grind [update, immediate, Res.Formed, Ends]

theorem execShri (o : ImmOp) : Ends (Machine.execShri o s) := by
  unfold Machine.execShri
  grind [update, immediate, Res.Formed, Ends]

theorem execSrai (o : ImmOp) : Ends (Machine.execSrai o s) := by
  unfold Machine.execSrai
  grind [update, immediate, Res.Formed, Ends]

theorem execCmpeqi (o : ImmOp) : Ends (Machine.execCmpeqi o s) := by
  unfold Machine.execCmpeqi
  grind [update, immediate, Res.Formed, Ends]

theorem execCmplti (o : ImmOp) : Ends (Machine.execCmplti o s) := by
  unfold Machine.execCmplti
  grind [update, immediate, Res.Formed, Ends]

theorem execCmpltui (o : ImmOp) : Ends (Machine.execCmpltui o s) := by
  unfold Machine.execCmpltui
  grind [update, immediate, Res.Formed, Ends]

theorem execMini (o : ImmOp) : Ends (Machine.execMini o s) := by
  unfold Machine.execMini
  grind [update, immediate, Res.Formed, Ends]

theorem execMaxi (o : ImmOp) : Ends (Machine.execMaxi o s) := by
  unfold Machine.execMaxi
  grind [update, immediate, Res.Formed, Ends]

theorem execLi (o : LiOp) : Ends (Machine.execLi o s) := by
  unfold Machine.execLi
  grind [update, issue, computeVal, Res.Formed, Ends]

theorem replacePart (o : LiOp) (n : Nat) : Ends (Machine.replacePart o n s) := by
  unfold Machine.replacePart
  grind [update, issue, computeVal, Res.Formed, Ends]

theorem execLiq1 (o : LiOp) : Ends (Machine.execLiq1 o s) := by
  unfold Machine.execLiq1
  grind [update, replacePart, Res.Formed, Ends]

theorem execLiq2 (o : LiOp) : Ends (Machine.execLiq2 o s) := by
  unfold Machine.execLiq2
  grind [update, replacePart, Res.Formed, Ends]

theorem execLiq3 (o : LiOp) : Ends (Machine.execLiq3 o s) := by
  unfold Machine.execLiq3
  grind [update, replacePart, Res.Formed, Ends]

theorem execExt (o : FieldOp) : Ends (Machine.execExt o s) := by
  unfold Machine.execExt
  grind [update, issue, computeVal, Res.Formed, Ends]

theorem execExtS (o : FieldOp) : Ends (Machine.execExtS o s) := by
  unfold Machine.execExtS
  grind [update, issue, computeVal, Res.Formed, Ends]

theorem execIns (o : FieldOp) : Ends (Machine.execIns o s) := by
  unfold Machine.execIns
  grind [update, issue, computeVal, Res.Formed, Ends]

theorem skipRange (n : Nat) : (Machine.skipRange s n).Formed := by
  unfold Machine.skipRange
  grind [update, blockDesc, codeWords, Res.Formed.bind, Res.Formed]

theorem skipWord (o : SkipOp) (test : W64 → Bool) : Ends (Machine.skipWord o s test) := by
  unfold Machine.skipWord
  grind [update, onSlot, issue, checkSrc, popAll, skipRange, Res.Formed.bind, Res.Formed, Ends]

theorem execSkipZ (o : SkipOp) : Ends (Machine.execSkipZ o s) := by
  unfold Machine.execSkipZ
  grind [update, skipWord, Res.Formed, Ends]

theorem execSkipNz (o : SkipOp) : Ends (Machine.execSkipNz o s) := by
  unfold Machine.execSkipNz
  grind [update, skipWord, Res.Formed, Ends]

theorem execSkipNeg (o : SkipOp) : Ends (Machine.execSkipNeg o s) := by
  unfold Machine.execSkipNeg
  grind [update, skipWord, Res.Formed, Ends]

theorem execSkipNneg (o : SkipOp) : Ends (Machine.execSkipNneg o s) := by
  unfold Machine.execSkipNneg
  grind [update, skipWord, Res.Formed, Ends]

theorem execHmix (o : R4) : Ends (Machine.execHmix o s) := by
  unfold Machine.execHmix
  grind [update, issue, computeVal, Res.Formed, Ends]

theorem execMov (o : R2) : Ends (Machine.execMov o s) := by
  unfold Machine.execMov
  grind [update, issue, computeVal, Res.Formed, Ends]

theorem capBinary (o : R3) (f : RegVal → RegVal → RegVal) : Ends (Machine.capBinary o s f) := by
  unfold Machine.capBinary
  grind [update, issue, computeVal, Res.Formed, Ends]

theorem capUnary (o : R2) (f : RegVal → RegVal) : Ends (Machine.capUnary o s f) := by
  unfold Machine.capUnary
  grind [update, issue, computeVal, Res.Formed, Ends]

theorem capImmediate (o : CapImmOp) (f : RegVal → RegVal) : Ends (Machine.capImmediate o s f) := by
  unfold Machine.capImmediate
  grind [update, issue, computeVal, Res.Formed, Ends]

theorem execCadd (o : R3) : Ends (Machine.execCadd o s) := by
  unfold Machine.execCadd
  grind [update, capBinary, Res.Formed, Ends]

theorem execCaddI (o : CapImmOp) : Ends (Machine.execCaddI o s) := by
  unfold Machine.execCaddI
  grind [update, capImmediate, Res.Formed, Ends]

theorem execCbnd (o : R3) : Ends (Machine.execCbnd o s) := by
  unfold Machine.execCbnd
  grind [update, capBinary, Res.Formed, Ends]

theorem execCbndX (o : R3) : Ends (Machine.execCbndX o s) := by
  unfold Machine.execCbndX
  grind [update, capBinary, Res.Formed, Ends]

theorem execCbndI (o : CapImmOp) : Ends (Machine.execCbndI o s) := by
  unfold Machine.execCbndI
  grind [update, capImmediate, Res.Formed, Ends]

theorem execCperm (o : R3) : Ends (Machine.execCperm o s) := by
  unfold Machine.execCperm
  grind [update, capBinary, Res.Formed, Ends]

theorem execCpermI (o : CapImmOp) : Ends (Machine.execCpermI o s) := by
  unfold Machine.execCpermI
  grind [update, capImmediate, Res.Formed, Ends]

theorem execCclr (o : R2) : Ends (Machine.execCclr o s) := by
  unfold Machine.execCclr
  grind [update, capUnary, Res.Formed, Ends]

theorem execCgetAddr (o : R2) : Ends (Machine.execCgetAddr o s) := by
  unfold Machine.execCgetAddr
  grind [update, capUnary, Res.Formed, Ends]

theorem execCgetBase (o : R2) : Ends (Machine.execCgetBase o s) := by
  unfold Machine.execCgetBase
  grind [update, capUnary, Res.Formed, Ends]

theorem execCgetTop (o : R2) : Ends (Machine.execCgetTop o s) := by
  unfold Machine.execCgetTop
  grind [update, capUnary, Res.Formed, Ends]

theorem execCgetPerm (o : R2) : Ends (Machine.execCgetPerm o s) := by
  unfold Machine.execCgetPerm
  grind [update, capUnary, Res.Formed, Ends]

theorem execCgetTag (o : R2) : Ends (Machine.execCgetTag o s) := by
  unfold Machine.execCgetTag
  grind [update, capUnary, Res.Formed, Ends]

theorem execCsub (o : R3) : Ends (Machine.execCsub o s) := by
  unfold Machine.execCsub
  grind [update, capBinary, Res.Formed, Ends]

theorem execCcmp (o : R3) : Ends (Machine.execCcmp o s) := by
  unfold Machine.execCcmp
  grind [update, capBinary, Res.Formed, Ends]

theorem typed (o : R3) (f : RegVal → Nat → RegVal) : Ends (Machine.typed o s f) := by
  unfold Machine.typed
  grind [update, issue, compute, Res.Formed, Ends]

theorem execCseal (o : R3) : Ends (Machine.execCseal o s) := by
  unfold Machine.execCseal
  grind [update, typed, Res.Formed, Ends]

theorem execCunseal (o : R3) : Ends (Machine.execCunseal o s) := by
  unfold Machine.execCunseal
  grind [update, typed, Res.Formed, Ends]

theorem vecFixed (o : VecOp) (fs : List Nat) (f : Nat → Bool → List RegVal → RegVal × Nat) : Ends (Machine.vecFixed o fs s f) := by
  unfold Machine.vecFixed
  grind [update, issue, compute, Res.Formed, Ends]

theorem vecLate (o : VecOp) (fs : List Nat) (f : Nat → Bool → List RegVal → RegVal × Nat) : Ends (Machine.vecLate o fs s f) := by
  unfold Machine.vecLate
  grind [update, issue, pushResult, checkSrc, popAll, putResult, checkDst, withData, Res.Formed.bind, Res.Formed, Ends]

theorem vecWord (o : VecOp) (n : Nat) (f : Nat → Bool → List Nat → Nat × Nat) : Ends (Machine.vecWord o n s f) := by
  unfold Machine.vecWord
  grind [update, vecFixed, Res.Formed, Ends]

theorem arithWord (o : VecOp) (g : Nat → Num → Num → Num × Nat) (f : Int → Int → Int) : Ends (Machine.arithWord o s g f) := by
  unfold Machine.arithWord
  grind [update, vecWord, Res.Formed, Ends]

theorem execVadd (o : VecOp) : Ends (Machine.execVadd o s) := by
  unfold Machine.execVadd
  grind [update, arithWord, Res.Formed, Ends]

theorem execVsub (o : VecOp) : Ends (Machine.execVsub o s) := by
  unfold Machine.execVsub
  grind [update, arithWord, Res.Formed, Ends]

theorem execVmul (o : VecOp) : Ends (Machine.execVmul o s) := by
  unfold Machine.execVmul
  grind [update, arithWord, Res.Formed, Ends]

theorem execVdiv (o : VecOp) : Ends (Machine.execVdiv o s) := by
  unfold Machine.execVdiv
  grind [update, arithWord, Res.Formed, Ends]

theorem execVsqrt (o : VecOp) : Ends (Machine.execVsqrt o s) := by
  unfold Machine.execVsqrt
  grind [update, vecWord, Res.Formed, Ends]

theorem execVmin (o : VecOp) : Ends (Machine.execVmin o s) := by
  unfold Machine.execVmin
  grind [update, vecWord, Res.Formed, Ends]

theorem execVmax (o : VecOp) : Ends (Machine.execVmax o s) := by
  unfold Machine.execVmax
  grind [update, vecWord, Res.Formed, Ends]

theorem execVabs (o : VecOp) : Ends (Machine.execVabs o s) := by
  unfold Machine.execVabs
  grind [update, vecWord, Res.Formed, Ends]

theorem execVneg (o : VecOp) : Ends (Machine.execVneg o s) := by
  unfold Machine.execVneg
  grind [update, vecWord, Res.Formed, Ends]

theorem bitWord (o : VecOp) (f : Nat → Nat → Nat) : Ends (Machine.bitWord o s f) := by
  unfold Machine.bitWord
  grind [update, vecWord, Res.Formed, Ends]

theorem execVand (o : VecOp) : Ends (Machine.execVand o s) := by
  unfold Machine.execVand
  grind [update, bitWord, Res.Formed, Ends]

theorem execVor (o : VecOp) : Ends (Machine.execVor o s) := by
  unfold Machine.execVor
  grind [update, bitWord, Res.Formed, Ends]

theorem execVxor (o : VecOp) : Ends (Machine.execVxor o s) := by
  unfold Machine.execVxor
  grind [update, bitWord, Res.Formed, Ends]

theorem execVshl (o : VecOp) : Ends (Machine.execVshl o s) := by
  unfold Machine.execVshl
  grind [update, bitWord, Res.Formed, Ends]

theorem execVshr (o : VecOp) : Ends (Machine.execVshr o s) := by
  unfold Machine.execVshr
  grind [update, bitWord, Res.Formed, Ends]

theorem execVsra (o : VecOp) : Ends (Machine.execVsra o s) := by
  unfold Machine.execVsra
  grind [update, bitWord, Res.Formed, Ends]

theorem fmaWord (o : VecOp) (np nc : Bool) : Ends (Machine.fmaWord o s np nc) := by
  unfold Machine.fmaWord
  grind [update, vecWord, Res.Formed, Ends]

theorem execVfma (o : VecOp) : Ends (Machine.execVfma o s) := by
  unfold Machine.execVfma
  grind [update, fmaWord, Res.Formed, Ends]

theorem execVfms (o : VecOp) : Ends (Machine.execVfms o s) := by
  unfold Machine.execVfms
  grind [update, fmaWord, Res.Formed, Ends]

theorem execVfnma (o : VecOp) : Ends (Machine.execVfnma o s) := by
  unfold Machine.execVfnma
  grind [update, fmaWord, Res.Formed, Ends]

theorem cmpWord (o : VecOp) (quiet : Bool) (f : LaneOrd → Bool) : Ends (Machine.cmpWord o s quiet f) := by
  unfold Machine.cmpWord
  grind [update, vecFixed, foldl, Res.Formed, Ends]

theorem execVcmpEq (o : VecOp) : Ends (Machine.execVcmpEq o s) := by
  unfold Machine.execVcmpEq
  grind [update, cmpWord, Res.Formed, Ends]

theorem execVcmpNe (o : VecOp) : Ends (Machine.execVcmpNe o s) := by
  unfold Machine.execVcmpNe
  grind [update, cmpWord, Res.Formed, Ends]

theorem execVcmpLt (o : VecOp) : Ends (Machine.execVcmpLt o s) := by
  unfold Machine.execVcmpLt
  grind [update, cmpWord, Res.Formed, Ends]

theorem execVcmpLe (o : VecOp) : Ends (Machine.execVcmpLe o s) := by
  unfold Machine.execVcmpLe
  grind [update, cmpWord, Res.Formed, Ends]

theorem execVcmpGt (o : VecOp) : Ends (Machine.execVcmpGt o s) := by
  unfold Machine.execVcmpGt
  grind [update, cmpWord, Res.Formed, Ends]

theorem execVcmpGe (o : VecOp) : Ends (Machine.execVcmpGe o s) := by
  unfold Machine.execVcmpGe
  grind [update, cmpWord, Res.Formed, Ends]

theorem execVcmpUn (o : VecOp) : Ends (Machine.execVcmpUn o s) := by
  unfold Machine.execVcmpUn
  grind [update, cmpWord, Res.Formed, Ends]

theorem execVsel (o : VecOp) : Ends (Machine.execVsel o s) := by
  unfold Machine.execVsel
  grind [update, vecFixed, Res.Formed, Ends]

theorem reduceWord (o : VecOp) (n : Nat) (f : Nat → Bool → List RegVal → List (Nat × Nat) → RegVal × Nat) : Ends (Machine.reduceWord o n s f)
    := by
  unfold Machine.reduceWord
  grind [update, vecFixed, Res.Formed, Ends]

theorem execVredsum (o : VecOp) : Ends (Machine.execVredsum o s) := by
  unfold Machine.execVredsum
  grind [update, reduceWord, Res.Formed, Ends]

theorem execVredmax (o : VecOp) : Ends (Machine.execVredmax o s) := by
  unfold Machine.execVredmax
  grind [update, reduceWord, Res.Formed, Ends]

theorem execVredmin (o : VecOp) : Ends (Machine.execVredmin o s) := by
  unfold Machine.execVredmin
  grind [update, reduceWord, Res.Formed, Ends]

theorem execVredargmax (o : VecOp) : Ends (Machine.execVredargmax o s) := by
  unfold Machine.execVredargmax
  grind [update, reduceWord, foldl, Res.Formed, Ends]

theorem execVshuf (o : VecOp) : Ends (Machine.execVshuf o s) := by
  unfold Machine.execVshuf
  grind [update, vecFixed, Res.Formed, Ends]

theorem execVbcast (o : VecOp) : Ends (Machine.execVbcast o s) := by
  unfold Machine.execVbcast
  grind [update, vecFixed, Res.Formed, Ends]

theorem execVins (o : VecOp) : Ends (Machine.execVins o s) := by
  unfold Machine.execVins
  grind [update, vecFixed, Res.Formed, Ends]

theorem execVext (o : VecOp) : Ends (Machine.execVext o s) := by
  unfold Machine.execVext
  grind [update, vecFixed, Res.Formed, Ends]

theorem specialWord (o : VecOp) (g : Num → Num × Nat) : Ends (Machine.specialWord o s g) := by
  unfold Machine.specialWord
  grind [update, vecLate, Res.Formed, Ends]

theorem execVexp2 (o : VecOp) : Ends (Machine.execVexp2 o s) := by
  unfold Machine.execVexp2
  grind [update, specialWord, Res.Formed, Ends]

theorem execVlog2 (o : VecOp) : Ends (Machine.execVlog2 o s) := by
  unfold Machine.execVlog2
  grind [update, specialWord, Res.Formed, Ends]

theorem execVrcp (o : VecOp) : Ends (Machine.execVrcp o s) := by
  unfold Machine.execVrcp
  grind [update, specialWord, Res.Formed, Ends]

theorem execVrsqrt (o : VecOp) : Ends (Machine.execVrsqrt o s) := by
  unfold Machine.execVrsqrt
  grind [update, specialWord, Res.Formed, Ends]

theorem execVtanh (o : VecOp) : Ends (Machine.execVtanh o s) := by
  unfold Machine.execVtanh
  grind [update, specialWord, Res.Formed, Ends]

theorem execVsig (o : VecOp) : Ends (Machine.execVsig o s) := by
  unfold Machine.execVsig
  grind [update, specialWord, Res.Formed, Ends]

theorem execVgelu (o : VecOp) : Ends (Machine.execVgelu o s) := by
  unfold Machine.execVgelu
  grind [update, specialWord, Res.Formed, Ends]

theorem convertWord (o : VecOp) (whole : Bool) : Ends (Machine.convertWord o whole s) := by
  unfold Machine.convertWord
  grind [update, vecFixed, foldl, Res.Formed, Ends]

theorem execVcvt (o : VecOp) : Ends (Machine.execVcvt o s) := by
  unfold Machine.execVcvt
  grind [update, convertWord, Res.Formed, Ends]

theorem execVcvtI (o : VecOp) : Ends (Machine.execVcvtI o s) := by
  unfold Machine.execVcvtI
  grind [update, convertWord, Res.Formed, Ends]

theorem execSmerge (o : VecOp) : Ends (Machine.execSmerge o s) := by
  unfold Machine.execSmerge
  grind [update, vecLate, Res.Formed, Ends]

end Sys2Proof.Machine.Formed
end

section
/-! SUPPORT. The canonical form of the memories (R75, R82, R93, R371): what page walks, the retry ring, launches and handovers keep. -/

namespace Sys2Proof.Machine.Formed

variable {s : State} (h : Formed s)
include h

theorem failWalk (w : WalkJob) (c : Cause) : Formed (Machine.failWalk s w c) := by
  unfold Machine.failWalk
  grind [update, onCluster, failThread, failCmd, takeKick, failLayer]

theorem parkRetry (g : Nat) (num : Option Nat) : Formed (Machine.parkRetry s g num) := by
  unfold Machine.parkRetry
  grind [update, parkRing]

theorem resumeAt (r : Request) (t : Target) (e : Option TlbEntry) : Formed (Machine.resumeAt s r t e) := by
  have hsent := (h.dropReq r).dispatchReq r t e
  unfold Machine.resumeAt
  dsimp only
  refine ite h ?_
  generalize Machine.dispatchReq (Machine.dropReq s r) r t e = u at hsent ⊢
  have honward := fun (b : Bool) f => ite (c := b = true) (hsent.onSlot r.slot f) hsent
  cases (u.slot r.slot).status with
  | parked w =>
    cases w with
    | walk => exact honward _ _
    | ring => exact honward _ _
    | reply n => exact honward _ _
    | _ => exact hsent
  | _ => exact hsent

theorem resumeReq (r : Request) : Formed (Machine.resumeReq s r) := by
  unfold Machine.resumeReq
  grind [update, failReq, resumeAt]

theorem walkReq (r : Request) : Formed (Machine.walkReq s r) := by
  unfold Machine.walkReq
  grind [update, bump, settleTables, installTlb, failParked, parkRetry, resumeAt, resumeReq]

theorem walkJob (w : WalkJob) : Formed (Machine.walkJob s w) := by
  unfold Machine.walkJob
  grind [update, bump, settleTables, installTlb, failCmd, failWalk, parkRetry]

theorem execPageWalkComplete (k : Nat) : Ends (Machine.execPageWalkComplete k s) := by
  unfold Machine.execPageWalkComplete
  grind [update, walkReq, walkJob, Res.Formed, Ends]

theorem writeReqEntry (r : Request) : Formed (Machine.writeReqEntry s r) := by
  unfold Machine.writeReqEntry
  grind [update, ringWrite]

theorem writeJobEntry (w : WalkJob) : Formed (Machine.writeJobEntry s w) := by
  unfold Machine.writeJobEntry
  grind [update, ringWrite]

theorem writeOldest (cl : Nat) : Formed (Machine.writeOldest s cl) := by
  unfold Machine.writeOldest
  grind [update, failParked, failWalk, writeReqEntry, writeJobEntry]

theorem execRetryEntryWrite (cl : Nat) : Ends (Machine.execRetryEntryWrite cl s) := by
  unfold Machine.execRetryEntryWrite
  grind [update, writeOldest, Res.Formed, Ends]

theorem entryAt (c : RegVal) : (Machine.entryAt s c).Formed := by
  unfold Machine.entryAt
  grind [update, room, findAt, Res.Formed.bind, Res.Formed]

theorem takeEntry (cl ofs : Nat) {t : State} (ht : Machine.takeEntry s cl ofs = some t) : Formed t := by
  unfold Machine.takeEntry at ht
  exact of_ite of_none (of_some ((h.sramWrite ..).setWordFull ..)) ht

theorem clearDevEntry (pa : Nat) : Formed (Machine.clearDevEntry s pa) := by
  unfold Machine.clearDevEntry
  grind [update, devWrite]

theorem retryReq (r : Request) (cl ofs : Nat) : Formed (Machine.retryReq s r cl ofs) := by
  unfold Machine.retryReq
  grind [update]

theorem supplyReq (r : Request) (b : RegVal) : Formed (Machine.supplyReq s r b) := by
  have hdropped := h.dropReq r
  unfold Machine.supplyReq
  dsimp only
  cases r.op with
  | st v tag => exact hdropped
  | diag v chk par => exact hdropped
  | rinit b => exact hdropped
  | rinval => exact hdropped
  | _ => exact hdropped.writeReg ..

theorem supplyJob (w : WalkJob) (b : RegVal) : Formed (Machine.supplyJob s w b) := by
  unfold Machine.supplyJob
  grind [update, onSlot, pieceInto]

theorem completeEntry (cl ofs : Nat) (b : RegVal) (retry : Bool) : Formed (Machine.completeEntry s cl ofs b retry) := by
  unfold Machine.completeEntry
  grind [update, retryReq, supplyReq, supplyJob]

theorem failEntry (cl ofs : Nat) (c : Cause) : Formed (Machine.failEntry s cl ofs c) := by
  unfold Machine.failEntry
  grind [update, failParked, failWalk]

theorem entryWord (fs : List Nat) {act : State → Nat → Nat → (Nat → RegVal) → State}
    (hact : ∀ t cl ofs v, Formed t → Formed (act t cl ofs v)) : (Machine.entryWord s fs act).Formed := by
  obtain ⟨take, htake⟩ : ∃ f, Machine.takeEntry = f := ⟨_, rfl⟩
  have htaken : ∀ u cl ofs v, Formed u → take u cl ofs = some v → Formed v := htake ▸ fun _ _ _ _ hu hv => hu.takeEntry _ _ hv
  unfold Machine.entryWord
  rw [htake]
  split
  · trivial
  · refine (h.checkSrc ..).bind fun _ t ht => (ht.entryAt ..).bind fun te u hu => ?_
    have hpopped := hu.popAll u.cur fs
    dsimp only
    split
    · split
      · next v hv => exact hact _ _ _ _ (htaken _ _ _ _ hpopped hv)
      · exact hpopped
    · exact hpopped.clearDevEntry ..
    · exact hpopped

theorem execPortwr (m : Bool) (a b c : Nat) : Ends (Machine.execPortwr m a b c s) :=
  h.issue m (h.entryWord _ fun _ _ _ _ ht => ht.completeEntry ..)

theorem execPortfail (m : Bool) (a b : Nat) : Ends (Machine.execPortfail m a b s) :=
  h.issue m (h.entryWord _ fun _ _ _ _ ht => ht.failEntry ..)

theorem readCode (b : Sender) (p : Packet) : Formed (Machine.readCode s b p).2 := by
  unfold Machine.readCode
  grind [update, readSpan]

theorem askSchedWalk (cl q va : Nat) : Formed (Machine.askSchedWalk s cl q va) := by
  unfold Machine.askSchedWalk
  grind [update, bump]

theorem settlePacket (cl : Nat) (p : Packet) : Formed (Machine.settlePacket s cl p) := by
  unfold Machine.settlePacket
  grind [update, setLaunch, faultEntry, onCluster, fillCompletion, readCode, askSchedWalk]

theorem takePacket (cl q : Nat) : Formed (Machine.takePacket s cl q).2 := by
  unfold Machine.takePacket
  exact ((h.settleSram ..).setWordFull ..).onCluster ..

theorem execAcceptLaunch (cl q : Nat) : Ends (Machine.execAcceptLaunch cl q s) := by
  unfold Machine.execAcceptLaunch
  by_cases hready : (!acceptReady s cl q) = true
  · rw [if_pos hready]
    exact h
  · rw [if_neg hready]
    split
    · exact h.settlePacket ..
    · have htaken := h.takePacket cl q
      generalize Machine.takePacket s cl q = r at htaken ⊢
      obtain ⟨p, t⟩ := r
      exact ite htaken (htaken.settlePacket ..)

theorem creationSent (cl lid wid : Nat) (l : Launch) (made : Bool) : Formed (Machine.creationSent s cl lid wid l made) := by
  unfold Machine.creationSent
  grind [update, setLaunch, completeLaunch]

theorem createNext (cl lid : Nat) {t : State} (ht : Machine.createNext s cl lid = some t) : Formed t := by
  unfold Machine.createNext at ht
  split at ht
  · exact of_none ht
  · next l _ =>
    split at ht
    · exact of_none ht
    · split at ht
      · exact of_some (h.creationSent ..) ht
      · refine of_ite (of_some (h.creationSent ..)) (of_ite (of_some (h.creationSent ..)) (of_ite of_none fun hmade => ?_)) ht
        obtain ⟨os, hos, hend⟩ := Option.map_eq_some_iff.mp hmade
        exact hend ▸ (h.newConts _ _ hos).creationSent ..

theorem getD {o : Option State} (ho : ∀ t, o = some t → Formed t) : Formed (o.getD s) := by
  cases o with
  | some t => exact ho t rfl
  | none => exact h

theorem execCreateContinuation (cl lid : Nat) : Ends (Machine.execCreateContinuation cl lid s) :=
  h.getD fun _ => h.createNext _ _

theorem reportArrives (discard : Bool) (k : Nat) : Formed (Machine.reportArrives s discard k) := by
  unfold Machine.reportArrives
  grind [update, takeReport]

theorem execRetirementReport (k : Nat) : Ends (Machine.execRetirementReport k s) := by
  unfold Machine.execRetirementReport
  grind [update, reportArrives, Res.Formed, Ends]

theorem execDiscardReport (k : Nat) : Ends (Machine.execDiscardReport k s) := by
  unfold Machine.execDiscardReport
  grind [update, reportArrives, Res.Formed, Ends]

theorem execSuccessorDecrement (k : Nat) : Ends (Machine.execSuccessorDecrement k s) := by
  unfold Machine.execSuccessorDecrement
  grind [update, decrement, Res.Formed, Ends]

theorem execTakeRunListHead (cl : Nat) : Ends (Machine.execTakeRunListHead cl s) := by
  unfold Machine.execTakeRunListHead
  split
  · next o g _ =>
    dsimp only
    have hsettled := (h.settleSram (sramKey cl o) 64).endRotation cl
    generalize Machine.endRotation _ cl = t at hsettled ⊢
    have htaken := ((hsettled.setRun cl ((t.cluster cl).run.erase o)).setRec cl o 0 40 4 2).sramWrite cl (o + 56) 8 0
    generalize Machine.sramWrite _ cl (o + 56) 8 0 = u at htaken ⊢
    have hctx := htaken.contextAt (fld (recDw u cl o 1) 16 12) (recCtx u cl o)
    generalize Machine.contextAt u (fld (recDw u cl o 1) 16 12) (recCtx u cl o) = r at hctx ⊢
    exact (hctx.setSlot ..).trimCache ..
  · exact h

theorem execTrapDelivery (g : Nat) : Ends (Machine.execTrapDelivery g s) := by
  unfold Machine.execTrapDelivery
  grind [update, deliverTrap, Res.Formed, Ends]

theorem writeHandler (part : Nat) {t : State} (ht : Machine.writeHandler s part = some t) : Formed t := by
  unfold Machine.writeHandler at ht
  grind [update, setPart, sramWrite, sramWriteCap, fillWord, abortRec]

theorem execHandlerEntryWrite (part : Nat) : Ends (Machine.execHandlerEntryWrite part s) :=
  h.getD fun _ => h.writeHandler _

theorem execRotationStart (cl val : Nat) : Ends (Machine.execRotationStart cl val s) :=
  h.getD fun _ => h.storeRotation _ _

theorem markVisited (g : Nat) : Formed (Machine.markVisited s g) := by
  unfold Machine.markVisited
  grind [update, onCluster]

theorem withdraw (g : Nat) : Formed (Machine.withdraw s g) := by
  unfold Machine.withdraw
  grind [update, onSlot, onCore, unpin, releaseAll, withdrawReq]

theorem beginVisit (g : Nat) : Formed (Machine.beginVisit s g) := by
  unfold Machine.beginVisit
  grind [update, onSlot, markVisited, withdraw]

theorem abortSave (g pa : Nat) : Formed (Machine.abortSave s g pa) := by
  unfold Machine.abortSave
  grind [update, onSlot, saveFailed]

theorem finishVisit (g : Nat) : Formed (Machine.finishVisit s g) := by
  unfold Machine.finishVisit
  grind [update, onSlot, onCluster, runTail, drainAll, saveTo, writeBack, idleSlot, deliverTrap, abortSave]

theorem execSlotHandover (g : Nat) : Ends (Machine.execSlotHandover g s) := by
  unfold Machine.execSlotHandover
  grind [update, markVisited, beginVisit, finishVisit, Res.Formed, Ends]

/-- A granule as a cluster image takes it: its poison and the full bits of its doublewords. -/
theorem imageGranule (bad : Bool) (a n b c : Nat) (f g : Bool) : Formed { s with
    dev := ((if bad then s.dev.makePoison a n else s.dev).setFull b f).setFull c g } := by
  have hdev := ((Memory.wf_iff s).mp h).2.1
  refine Memory.wf_setDev h (Store.wf_setFull _ _ (Store.wf_setFull _ _ ?_))
  cases bad with
  | true => exact Store.wf_makePoison _ _ hdev
  | false => exact hdev

theorem writeImage (cl pa : Nat) : Formed (Machine.writeImage s cl pa) := by
  unfold Machine.writeImage
  refine devWrite (foldl (fun t n ht => ht.devWrite ..) _ (foldl (fun t i ht => ?_) _ h)) ..
  exact (ht.devWrite noTenant (pa + 16 * i) _ _).imageGranule _ _ _ _ _ _ _

theorem blankCluster (cl : Nat) : Formed (Machine.blankCluster s cl) :=
  (h.scrubSram (sramKey cl 0) (2 ^ 21)).onCluster ..

/-- A granule of a slice as an image gives it. -/
theorem loadedGranule (bad : Bool) (a n v b c : Nat) (tag f g : Bool) : Formed { s with
    sram := ((if bad then (s.sram.writeTagged a v tag).makePoison a n else s.sram.writeTagged a v tag).setFull b f).setFull c g } := by
  have hsram := Store.wf_writeTagged a v tag ((Memory.wf_iff s).mp h).1
  refine Memory.wf_setSram h (Store.wf_setFull _ _ (Store.wf_setFull _ _ ?_))
  cases bad with
  | true => exact Store.wf_makePoison _ _ hsram
  | false => exact hsram

theorem loadImage (cl pa : Nat) : Formed (Machine.loadImage s cl pa) := by
  unfold Machine.loadImage
  refine onCluster (onCluster (foldl (fun t n ht => ht.setTile ..) _ (foldl (fun t i ht => ?_) _ (h.devSettle pa imageSize))) ..) ..
  exact ht.loadedGranule _ _ _ _ _ _ _ _ _

theorem evictAll (cl : Nat) : Formed (Machine.evictAll s cl) := by
  unfold Machine.evictAll
  grind [update, evictImage, foldl]

theorem moveOut (cl pout pa : Nat) : Formed (Machine.moveOut s cl pout pa) := by
  unfold Machine.moveOut
  grind [update, onCluster, writeImage, evictAll]

theorem vfAnswer (vf : Nat) (rd : Bool) (tag status val : Nat) : Formed (Machine.vfAnswer s vf rd tag status val) := by
  unfold Machine.vfAnswer
  grind [update]

theorem peerAnswer (chip ten kind : Nat) (v : Option Nat) : Formed (Machine.peerAnswer s chip ten kind v) := by
  unfold Machine.peerAnswer
  grind [update]

theorem nackPeers (at_ : Nat → Nat → Bool) : Formed (Machine.nackPeers s at_) := by
  unfold Machine.nackPeers
  grind [update, peerAnswer, foldl]

theorem nackVfs (cl : Nat) : Formed (Machine.nackVfs s cl) := by
  unfold Machine.nackVfs
  grind [update, vfAnswer, foldl]

theorem nackEngine (cl e : Nat) : Formed (Machine.nackEngine s cl e) := by
  unfold Machine.nackEngine
  grind [update, failCmd, takeKick, failLayer]

theorem nackCreation (cl from_ lid : Nat) : Formed (Machine.nackCreation s cl from_ lid) := by
  unfold Machine.nackCreation
  grind [update, creationSent]

theorem nackSlot (cl g : Nat) : Formed (Machine.nackSlot s cl g) := by
  unfold Machine.nackSlot
  grind [update, faultEntry, setPort, trapHere, failThread, fetchedInto, foldl]

theorem nackHeld (cl hin : Nat) : Formed (Machine.nackHeld s cl hin) := by
  unfold Machine.nackHeld
  grind [update, nackReq, nackPeers, nackVfs, nackEngine, nackCreation, nackSlot, foldl]

theorem finishMove (cl : Nat) : Formed (Machine.finishMove s cl) := by
  unfold Machine.finishMove
  refine onCluster ?_ ..
  generalize hu : Machine.blankCluster _ cl = u
  have hu : Formed u := hu ▸ (ite ((h.endRotation ..).moveOut ..) (h.endRotation ..)).blankCluster _
  exact ite hu (ite (hu.loadImage ..) ((hu.monitorEvent ..).nackHeld ..))

theorem execClusterHandover (cl val : Nat) : Ends (Machine.execClusterHandover cl val s) := by
  unfold Machine.execClusterHandover
  grind [update, storeHandover, finishMove, Res.Formed, Ends]

end Sys2Proof.Machine.Formed
end

section
/-! SUPPORT. The canonical form of the memories (R75, R82, R93, R371): what the links, losses and soft errors, Hawkmoth and the router of
pairs keep. -/

namespace Sys2Proof.Machine.Formed

variable {s : State} (h : Formed s)
include h

theorem execQueueWordStore (cl q val prv part : Nat) : Ends (Machine.execQueueWordStore cl q val prv part s) :=
  ite (h.getD fun _ => h.ctlStore _ _ _ _ _ _) h

theorem execPoolWordStore (cl ofs val prv part : Nat) : Ends (Machine.execPoolWordStore cl ofs val prv part s) :=
  ite (h.getD fun _ => h.ctlStore _ _ _ _ _ _) h

theorem execCocoonWordStore (cl n val prv part : Nat) : Ends (Machine.execCocoonWordStore cl n val prv part s) :=
  ite (h.getD fun _ => h.ctlStore _ _ _ _ _ _) h

theorem execPairWordStore (cl val prv part : Nat) : Ends (Machine.execPairWordStore cl val prv part s) :=
  h.getD fun _ => h.ctlStore _ _ _ _ _ _

theorem execControlWordWrite (cl ofs size val prv part : Nat) : Ends (Machine.execControlWordWrite cl ofs size val prv part s) :=
  h.getD fun _ => h.ctlStore _ _ _ _ _ _

theorem setSramTags {β : Type} (l : List β) (g : β → Nat) (b : Bool) :
    Formed { s with sram := { s.sram with tags := l.foldl (fun t k => put false t (g k) b) s.sram.tags } } := by
  have hd := (Store.wf_iff _).mp ((Memory.wf_iff s).mp h).1
  exact Memory.wf_setSram h (Store.wf_of hd.1 (canonical_foldl_put false _ _ _ hd.2.1) hd.2.2.1 hd.2.2.2)

theorem linkWrite (cl ofs n data : Nat) (qs : List Nat) (mayTag : Nat → Bool) (tags : Nat) (full : Bool) : Formed
    (Machine.linkWrite s cl ofs n data qs mayTag tags full) := by
  have hwritten := (h.sramWrite cl ofs n data).setSramTags ((wholeGranules ofs n).zipIdx.filter fun ki => bitAt tags ki.2 && mayTag ki.1)
    (fun ki => sramKey cl (16 * ki.1) / 16) true
  unfold Machine.linkWrite
  exact ite (foldl (fun _ _ ht => ht.setWordFull ..) _ hwritten) hwritten

theorem vfSramWrite (vf cl ofs n addr data tags : Nat) (full : Bool) : Formed (Machine.vfSramWrite s vf cl ofs n addr data tags full) := by
  unfold Machine.vfSramWrite
  grind [update, dropQueueWrite, linkWrite]

theorem vfDevWrite (part va n data : Nat) : Formed (Machine.vfDevWrite s part va n data) := by
  unfold Machine.vfDevWrite
  refine foldlFst (fun acc p hacc => ?_) _ h
  have hread := hacc.settleStage2 part p.1
  dsimp only
  split
  · exact hread.devWrite ..
  · exact hread

theorem vfWrite (vf part addr n data tags : Nat) (full : Bool) : Formed (Machine.vfWrite s vf part addr n data tags full) := by
  unfold Machine.vfWrite
  split
  · exact h.vfDevWrite ..
  · split
    · exact ite h (h.vfSramWrite ..)
    · exact h
  · split
    · exact ite h (h.getD fun _ => h.ctlStore _ _ _ _ _ _)
    · exact h
  · exact h

theorem execVfPostedWrite (vf addr len data tags : Nat) (full : Bool) : Ends (Machine.execVfPostedWrite vf addr len data tags full s) := by
  unfold Machine.execVfPostedWrite
  grind [update, vfAnswer, vfWrite, Res.Formed, Ends]

theorem linkReadSram (cl ofs n : Nat) : Formed (Machine.linkReadSram s cl ofs n).2 :=
  (h.settleSram (sramKey cl ofs) n)

theorem linkReadDev (ten pa n : Nat) : Formed (Machine.linkReadDev s ten pa n).2 := by
  unfold Machine.linkReadDev
  grind [update, devSettle]

theorem readDevPieces {walk : State → Nat → State} (hwalk : ∀ t a, Formed t → Formed (walk t a)) (pa : State → Nat → Option Nat)
    (ten : State → Nat → Nat) (ps : List (Nat × Nat)) : Formed (Machine.readDevPieces s walk pa ten ps).2 := by
  induction ps generalizing s with
  | nil => exact h
  | cons p ps ih =>
    unfold Machine.readDevPieces
    have hwalked := hwalk s p.1 h
    dsimp only
    split
    · exact hwalked
    · next x _ =>
      have hread := hwalked.linkReadDev (ten (walk s p.1) x) x p.2
      generalize Machine.linkReadDev (walk s p.1) (ten (walk s p.1) x) x p.2 = r at hread ⊢
      obtain ⟨v, t⟩ := r
      have hrest := ih hread
      dsimp only
      generalize Machine.readDevPieces t walk pa ten ps = q at hrest ⊢
      obtain ⟨w, u⟩ := q
      cases w with
      | _ => exact hrest

theorem vfRead (part addr n : Nat) : Formed (Machine.vfRead s part addr n).2 := by
  unfold Machine.vfRead
  split
  · exact h.readDevPieces (fun _ _ ht => ht.settleStage2 ..) ..
  · split
    · split
      · exact h
      · exact h.linkReadSram ..
    · exact h
  · split
    · split
      · exact h
      · exact h
    · exact h
  · exact h

theorem execVfTaggedRead (vf tag addr len : Nat) : Ends (Machine.execVfTaggedRead vf tag addr len s) := by
  unfold Machine.execVfTaggedRead
  grind [update, vfAnswer, vfRead, Res.Formed, Ends]

theorem refusePeer (chip ten kind addr : Nat) : Formed (Machine.refusePeer s chip ten kind addr) := by
  unfold Machine.refusePeer
  grind [update, faultEntry, monitorEvent, foldl]

theorem tracePeer (cl ofs chip : Nat) : Formed (Machine.tracePeer s cl ofs chip) := by
  unfold Machine.tracePeer
  grind [update, traceStore]

theorem peerFe (chip ten fn cl ofs data : Nat) : Formed (Machine.peerFe s chip ten fn cl ofs data) := by
  unfold Machine.peerFe
  grind [update, setWordFull, fillWord, peerAnswer, linkReadSram, tracePeer]

theorem peerAtomic (chip ten cl ofs n data : Nat) : Formed (Machine.peerAtomic s chip ten cl ofs n data) := by
  unfold Machine.peerAtomic
  refine ite (h.peerFe ..) ?_
  have hread := h.linkReadSram cl ofs n
  generalize Machine.linkReadSram s cl ofs n = r at hread ⊢
  obtain ⟨old, t⟩ := r
  refine peerAnswer (tracePeer ?_ ..) ..
  dsimp only
  split
  · exact ite ((hread.sramWrite ..).makeSramPoison ..) (hread.sramWrite ..)
  · exact hread

theorem peerSram (chip ten kind cl ofs n addr data : Nat) : Formed (Machine.peerSram s chip ten kind cl ofs n addr data) := by
  unfold Machine.peerSram
  grind [update, dropQueueWrite, peerAnswer, linkWrite, linkReadSram, tracePeer, peerAtomic]

theorem exportWrite (part ten va n data : Nat) (count : Bool) : Formed (Machine.exportWrite s part ten va n data count) := by
  unfold Machine.exportWrite
  refine foldlFst (fun acc p hacc => ?_) _ h
  have hread := hacc.settleTables part p.1
  dsimp only
  split
  · split
    · exact (hread.devWrite ..).countGuarded ..
    · exact hread.devWrite ..
  · exact hread

theorem exportAtomic (part ten va n data old : Nat) : Formed (Machine.exportAtomic s part ten va n data old) := by
  unfold Machine.exportAtomic
  dsimp only
  split
  · exact ite ((h.exportWrite ..).makeDevPoison ..) (h.exportWrite ..)
  · exact h

theorem peerExport (chip ten kind part num ofs n data : Nat) : Formed (Machine.peerExport s chip ten kind part num ofs n data) := by
  unfold Machine.peerExport
  grind [update, settleTables, peerAnswer, readDevPieces, exportWrite, exportAtomic]

theorem peerDo (e chip ten kind addr len data : Nat) : Formed (Machine.peerDo s e chip ten kind addr len data) := by
  unfold Machine.peerDo
  grind [update, peerAnswer, peerSram, peerExport]

theorem execPeerRequest (via : PeerRoute) (ten kind addr len data : Nat) : Ends (Machine.execPeerRequest via ten kind addr len data s) := by
  unfold Machine.execPeerRequest
  grind [update, peerAnswer, refusePeer, peerDo, Res.Formed, Ends]

theorem peerServe (k : Nat) : Formed (Machine.peerServe s k) := by
  unfold Machine.peerServe
  grind [update, peerDo]

theorem flrClose (part : Nat) (cls : List Nat) : Formed (Machine.flrClose s part cls) := by
  unfold Machine.flrClose
  grind [update, onCluster, nackReq, nackPeers, foldl]

theorem flrEngines (part : Nat) : Formed (Machine.flrEngines s part) := by
  unfold Machine.flrEngines
  grind [update]

theorem flrCluster (cl : Nat) : Formed (Machine.flrCluster s cl) := by
  unfold Machine.flrCluster
  grind [update, setSlot, onCore, onCluster, dropSlotWork, discardRec, scrubCluster, foldl]

theorem flrPart (part : Nat) : Formed (Machine.flrPart s part) := by
  unfold Machine.flrPart
  grind [update, setPart, flrClose, flrEngines, flrCluster, foldl]

theorem execFunctionLevelReset (vf : Nat) : Ends (Machine.execFunctionLevelReset vf s) := by
  unfold Machine.execFunctionLevelReset
  grind [update, flrPart, Res.Formed, Ends]

theorem replyPoison (r : Request) : Formed (Machine.replyPoison s r) := by
  unfold Machine.replyPoison
  grind [update, reply]

theorem stopPart : Formed (Machine.stopPart s) := by
  unfold Machine.stopPart
  grind [update, endLaunches, pushResult, replyPoison, foldl]

theorem raiseRrq : Formed (Machine.raiseRrq s) := by
  unfold Machine.raiseRrq
  grind [update]

omit h in
theorem Ends.ite {c : Prop} [Decidable c] {a b : Host.Outcome State Fault Refusal} (ha : Ends a) (hb : Ends b) :
    Ends (if c then a else b) := by
  split
  · exact ha
  · exact hb

theorem execStackLoss (stack : Nat) : Ends (Machine.execStackLoss stack s) := by
  unfold Machine.execStackLoss
  refine Ends.ite h ?_
  have hsent : Formed ((resentAtomics s stack).foldl (fun t rp =>
      Machine.replyPoison { t with dev := t.dev.makePoison (rp.2 / 8 * 8) 8 } rp.1) s) :=
    foldl (fun _ _ ht => (ht.makeDevPoison ..).replyPoison _) _ h
  dsimp only
  generalize (resentAtomics s stack).foldl (fun t rp =>
      Machine.replyPoison { t with dev := t.dev.makePoison (rp.2 / 8 * 8) 8 } rp.1) s = t at hsent ⊢
  have hraised := raiseRrq (s := { t with lost := t.lost ++ [stack], diffs := t.diffs.filter fun d => parityStack d.pa != stack }) hsent
  generalize Machine.raiseRrq _ = u at hraised ⊢
  have hlost := (hraised.monitorEvent 4 stack 0).statusChanged s
  exact ite hlost.stopPart hlost

theorem execPlaneLoss (plane : Nat) : Ends (Machine.execPlaneLoss plane s) := by
  unfold Machine.execPlaneLoss
  grind [update, monitorEvent, statusChanged, stopPart, raiseRrq, foldl, Res.Formed, Ends]

theorem execDieExclusion (die cause : Nat) : Ends (Machine.execDieExclusion die cause s) := by
  unfold Machine.execDieExclusion
  grind [update, excludeDie, Res.Formed, Ends]

theorem execCocoonFencing (die n cause : Nat) : Ends (Machine.execCocoonFencing die n cause s) := by
  unfold Machine.execCocoonFencing
  grind [update, fenceCocoon, Res.Formed, Ends]

theorem spoilCached (k idx : Nat) : Formed (Machine.spoilCached s k idx) := by
  unfold Machine.spoilCached
  grind [update]

theorem dropTlb (place idx : Nat) : Formed (Machine.dropTlb s place idx) := by
  unfold Machine.dropTlb
  grind [update, onCore, onCluster]

theorem dropMatch (cl idx : Nat) : Formed (Machine.dropMatch s cl idx) := by
  unfold Machine.dropMatch
  grind [update, onCluster]

theorem execSoftError (kind place idx bit : Nat) (fixable : Bool) : Ends (Machine.execSoftError kind place idx bit fixable s) := by
  unfold Machine.execSoftError
  refine Ends.ite (h.dropTlb ..) (Ends.ite (h.dropMatch ..) (Ends.ite h ?_))
  split
  · exact ite (h.spoilCached ..) (ite h (writeReg (s := { s with free := s.free + 1 }) h ..))
  · exact h.onCore ..
  · exact h.onCore ..
  · exact h.makeSramPoison ..
  · exact h
  · exact h

omit h in
theorem bootFrom (len image : Nat) : Formed (Machine.bootFrom s len image) := by
  have hreset : Formed State.reset := rfl
  exact hreset

omit h in
theorem execPowerOnBoot (len image : Nat) : Ends (Machine.execPowerOnBoot len image s) :=
  bootFrom len image

theorem respond (code seq rst len body : Nat) : Formed (Machine.respond s code seq rst len body) := by
  unfold Machine.respond
  grind [update]

theorem serve (i : MgmtReq) {f : State → State} (hf : Formed (f s)) : Ends (Machine.serve s i f) := by
  unfold Machine.serve
  refine Ends.ite h ?_
  cases i with
  | status _ => exact hf
  | _ => exact ite hf h

theorem doorbell (ofs len data : Nat) : Formed (Machine.doorbell s ofs len data) := by
  unfold Machine.doorbell
  grind [update, respond]

theorem clearEvents (ofs len data : Nat) : Formed (Machine.clearEvents s ofs len data) := by
  unfold Machine.clearEvents
  grind [update]

theorem execManagementWindowWrite (ofs len data : Nat) : Ends (Machine.execManagementWindowWrite ofs len data s) := by
  unfold Machine.execManagementWindowWrite
  grind [update, doorbell, clearEvents, Res.Formed, Ends]

theorem execStatus (seq : Nat) : Ends (Machine.execStatus seq s) := by
  unfold Machine.execStatus
  grind [update, respond, serve, Res.Formed, Ends]

theorem execAttest (seq nonce : Nat) : Ends (Machine.execAttest seq nonce s) :=
  h.serve _ (h.respond ..)

theorem execIdkey (seq : Nat) : Ends (Machine.execIdkey seq s) := by
  unfold Machine.execIdkey
  grind [update, respond, serve, Res.Formed, Ends]

theorem execExtend (seq digest : Nat) : Ends (Machine.execExtend seq digest s) := by
  unfold Machine.execExtend
  grind [update, respond, serve, Res.Formed, Ends]

theorem execFwchunk (seq ofs total len data : Nat) : Ends (Machine.execFwchunk seq ofs total len data s) := by
  unfold Machine.execFwchunk
  grind [update, respond, serve, Res.Formed, Ends]

theorem execSetchip (seq chip : Nat) : Ends (Machine.execSetchip seq chip s) := by
  unfold Machine.execSetchip
  grind [update, respond, serve, Res.Formed, Ends]

theorem unbindVf (vf : Nat) : Formed (Machine.unbindVf s vf) := by
  unfold Machine.unbindVf
  grind [update]

theorem execBindvf (seq vf part : Nat) : Ends (Machine.execBindvf seq vf part s) := by
  unfold Machine.execBindvf
  grind [update, setPart, respond, serve, unbindVf, Res.Formed, Ends]

theorem execKeyinstall (seq ten : Nat) : Ends (Machine.execKeyinstall seq ten s) := by
  unfold Machine.execKeyinstall
  grind [update, respond, serve, Res.Formed, Ends]

theorem execKeyerase (seq ten : Nat) : Ends (Machine.execKeyerase seq ten s) := by
  unfold Machine.execKeyerase
  grind [update, respond, serve, Res.Formed, Ends]

theorem execAddrmap (seq chip mac ip : Nat) : Ends (Machine.execAddrmap seq chip mac ip s) := by
  unfold Machine.execAddrmap
  grind [update, respond, serve, Res.Formed, Ends]

theorem execQpset (seq qp port cls ten chip peerQp psn : Nat) : Ends (Machine.execQpset seq qp port cls ten chip peerQp psn s) := by
  unfold Machine.execQpset
  grind [update, respond, serve, Res.Formed, Ends]

theorem execQpclear (seq qp port : Nat) : Ends (Machine.execQpclear seq qp port s) := by
  unfold Machine.execQpclear
  grind [update, respond, serve, Res.Formed, Ends]

theorem execReset (seq : Nat) : Ends (Machine.execReset seq s) := by
  unfold Machine.execReset
  grind [update, bootFrom, respond, serve, Res.Formed, Ends]

theorem execMonitorEvent : Ends (Machine.execMonitorEvent s) := by
  unfold Machine.execMonitorEvent
  grind [update, Res.Formed, Ends]

theorem setDieStep (die step cause : Nat) : Formed (Machine.setDieStep s die step cause) := by
  unfold Machine.setDieStep
  grind [update, setDie, monitorEvent]

theorem setPartStep (step cause : Nat) : Formed (Machine.setPartStep s step cause) := by
  unfold Machine.setPartStep
  grind [update, monitorEvent, statusChanged, setDieStep, foldl]

theorem sampleDie (die temp rail slow : Nat) : Formed (Machine.sampleDie s die temp rail slow) := by
  unfold Machine.sampleDie
  grind [update, setDie, setDieStep]

theorem execMonitorSample (die temp stackTemp railDrop oscSlow : Nat) : Ends (Machine.execMonitorSample die temp stackTemp railDrop oscSlow s)
    := by
  unfold Machine.execMonitorSample
  grind [update, excludeDie, setPartStep, sampleDie, Res.Formed, Ends]

theorem execClockStepClimb (die : Nat) : Ends (Machine.execClockStepClimb die s) := by
  unfold Machine.execClockStepClimb
  grind [update, setDie, setDieStep, Res.Formed, Ends]

theorem agreeKey (port : Nat) : Formed (Machine.agreeKey s port) := by
  unfold Machine.agreeKey
  grind [update]

theorem execLinkKeyRenewal (port : Nat) : Ends (Machine.execLinkKeyRenewal port s) := by
  unfold Machine.execLinkKeyRenewal
  grind [update, agreeKey, Res.Formed, Ends]

theorem execScalePortLinkChange (port : Nat) (up : Bool) : Ends (Machine.execScalePortLinkChange port up s) := by
  unfold Machine.execScalePortLinkChange
  grind [update, agreeKey, Res.Formed, Ends]

theorem fenceAround (cl : Nat) : Formed (Machine.fenceAround s cl) := by
  unfold Machine.fenceAround
  grind [update, fenceCocoon]

theorem routeMsgs (k : Nat) (p : Pair) : Formed (Machine.routeMsgs s k p) := by
  unfold Machine.routeMsgs
  grind [update, fenceAround]

theorem execPairedMessageCompare (k : Nat) : Ends (Machine.execPairedMessageCompare k s) := by
  unfold Machine.execPairedMessageCompare
  grind [update, routeMsgs, Res.Formed, Ends]

theorem carryRecord (old : State) (p : Pair) : Formed (Machine.carryRecord old s p) := by
  unfold Machine.carryRecord
  exact foldl (fun _ _ hu => ite hu (hu.sramWrite ..)) _ h

theorem secLeaves (g : Nat) : Formed (Machine.secLeaves s g) := (h.keepImage g).setSlot ..

theorem followRecord (old : State) (own : Bool) (p : Pair) : Formed (Machine.followRecord old s own p) := by
  unfold Machine.followRecord
  extract_lets gp gs t u v st w x
  clear_value gp gs
  have ht : Formed t := by
    simp only [t]
    split
    · exact ite h (h.setSlot ..)
    · exact h
  have hv : Formed v := by
    simp only [v]
    split
    · exact (dropSlotWork (s := u) ht _).setSlot ..
    · exact ht
  have hx : Formed x := by
    refine carryRecord ?_ old p
    simp only [w]
    split
    · exact ht.secLeaves ..
    · exact ht
  clear_value t u v st w x
  exact ite (hv.freeRec ..) (ite (ht.carryRecord ..) (ite ht (ite (ite hx (hx.runTail ..)) (hx.onCluster ..))))

theorem followAll (old : State) (own : Option (Nat × Nat)) : Formed (Machine.followAll old s own) := by
  unfold Machine.followAll
  exact foldl (fun _ _ hu => hu.followRecord ..) _ h

theorem secondaryStart (g h : Nat) : Formed (Machine.secondaryStart s g h) := by
  unfold Machine.secondaryStart
  grind [update, setSlot]

theorem pairMove {run : State → Nat → Host.Outcome State Fault Refusal} (hrun : ∀ s g, Formed s → Ends (run s g)) (k : Nat) (p : Pair)
    (g g' : Nat) : Ends (Machine.pairMove run s k p g g') := by
  have hprimary : Ends (if p.msgP.isEmpty then run s g else .next s) := Ends.ite (hrun s g h) h
  have hsecondary : Ends (if p.msgS.isEmpty then run (Machine.secondaryStart s g g') g else .next (Machine.secondaryStart s g g')) :=
    Ends.ite (hrun _ g (h.secondaryStart g g')) (h.secondaryStart g g')
  unfold Machine.pairMove
  extract_lets runP runS
  generalize (if p.msgP.isEmpty then run s g else .next s) = o at hprimary ⊢
  generalize (if p.msgS.isEmpty then run (Machine.secondaryStart s g g') g else .next (Machine.secondaryStart s g g')) = o'
    at hsecondary ⊢
  cases o with
  | next t =>
    cases o' with
    | next u =>
      dsimp -zeta only
      extract_lets mp ms doneP doneS sec base base' q base''
      have hbase : Formed base := ite hprimary h
      exact followRecord (s := base'') hbase ..
    | _ => exact hsecondary
  | _ => exact hprimary

theorem pairSend {run : State → Host.Outcome State Fault Refusal} (hrun : ∀ s, Formed s → Ends (run s)) (k : Nat) (p : Pair)
    (g g' : Nat) : Ends (Machine.pairSend run s k p g g') := by
  have hprimary := hrun s h
  have hsecondary := hrun _ (h.secondaryStart g g')
  unfold Machine.pairSend
  dsimp only
  generalize run s = o at hprimary ⊢
  generalize run (Machine.secondaryStart s g g') = o' at hsecondary ⊢
  cases o with
  | next t =>
    cases o' with
    | next u => exact Ends.ite hprimary ((h.fenceAround ..).fenceAround ..)
    | _ => exact hsecondary
  | _ => exact hprimary

theorem sameMsg (k : Nat) (m : List W64) : Formed (Machine.sameMsg s k m) := by
  unfold Machine.sameMsg
  grind [update]

end Sys2Proof.Machine.Formed
end

section
/-! PROOFS. Every step keeps the canonical form of every memory (R75, R82, R93, R371): each word and each step of an agent does, so a turn, a
move and a step do. -/

namespace Sys2Proof.Machine

/-- The state that the turn of a slot leaves, or in which its word runs, has the form. -/
def Turn.Formed : Turn → Prop
  | .done s => Machine.Formed s
  | .run _ s => Machine.Formed s

namespace Formed

variable {s : State} (h : Formed s)
include h

theorem turn : (Machine.turn s).Formed := by
  unfold Machine.turn
  extract_lets g x unsent kept s' t y r body word
  have ht : Formed t := onSlot (s := s') h ..
  have hbody : ((Machine.blockDesc t).bind body).Formed := ht.blockDesc.bind fun _ _ hu => (hu.codeWords ..).bind fun _ _ hv => hv
  have hword : ((Machine.blockDesc t).bind word).Formed := ht.blockDesc.bind fun _ _ hu =>
    (codeWord (ite (hu.onSlot ..) hu) ..).bind fun _ _ hv => hv.turnWord ..
  have hplace := ht.blockDesc
  clear_value t body word
  generalize (Machine.blockDesc t).bind body = b at hbody ⊢
  generalize (Machine.blockDesc t).bind word = w at hword ⊢
  generalize Machine.blockDesc t = place
  split
  · exact h.restoreSlot g
  · split
    · exact ht.raise ..
    · split
      · exact ht.onSlot ..
      · split
        · split
          · exact ht.parkAfter ..
          · cases b with
            | ok b u => exact (hbody.startBody ..).onSlot ..
            | trap c i => exact ht.trapHere ..
            | wait w u => exact hbody.parkAfter ..
        · cases w with
          | ok i u => exact hword
          | trap c i =>
            refine trapHere (s := match place with
              | .ok d _ => if d.2 ≤ y.ofs then t.onSlot g fun x => { x with ofs := d.2 - 1 } else t
              | _ => t) ?_ ..
            split
            · exact ite (ht.onSlot ..) ht
            · exact ht
          | wait w u => exact hword.parkAfter ..

/-- Every word and every step of an agent keeps the form (R75, R82, R93, R371). -/
theorem exec (i : Instr) : Ends (Machine.exec i s) := by
  cases i with
  | add o => exact h.execAdd o
  | sub o => exact h.execSub o
  | and o => exact h.execAnd o
  | or o => exact h.execOr o
  | xor o => exact h.execXor o
  | andn o => exact h.execAndn o
  | orn o => exact h.execOrn o
  | xnor o => exact h.execXnor o
  | shl o => exact h.execShl o
  | shr o => exact h.execShr o
  | sra o => exact h.execSra o
  | rotl o => exact h.execRotl o
  | rotr o => exact h.execRotr o
  | min o => exact h.execMin o
  | max o => exact h.execMax o
  | minu o => exact h.execMinu o
  | maxu o => exact h.execMaxu o
  | cmpeq o => exact h.execCmpeq o
  | cmpne o => exact h.execCmpne o
  | cmplt o => exact h.execCmplt o
  | cmpltu o => exact h.execCmpltu o
  | cmple o => exact h.execCmple o
  | cmpleu o => exact h.execCmpleu o
  | sel o => exact h.execSel o
  | clz o => exact h.execClz o
  | ctz o => exact h.execCtz o
  | popc o => exact h.execPopc o
  | bswap o => exact h.execBswap o
  | abs o => exact h.execAbs o
  | neg o => exact h.execNeg o
  | mul o => exact h.execMul o
  | mulh o => exact h.execMulh o
  | mulhu o => exact h.execMulhu o
  | div o => exact h.execDiv o
  | divu o => exact h.execDivu o
  | rem o => exact h.execRem o
  | remu o => exact h.execRemu o
  | madd o => exact h.execMadd o
  | addi o => exact h.execAddi o
  | andi o => exact h.execAndi o
  | ori o => exact h.execOri o
  | xori o => exact h.execXori o
  | shli o => exact h.execShli o
  | shri o => exact h.execShri o
  | srai o => exact h.execSrai o
  | cmpeqi o => exact h.execCmpeqi o
  | cmplti o => exact h.execCmplti o
  | cmpltui o => exact h.execCmpltui o
  | mini o => exact h.execMini o
  | maxi o => exact h.execMaxi o
  | li o => exact h.execLi o
  | liq1 o => exact h.execLiq1 o
  | liq2 o => exact h.execLiq2 o
  | liq3 o => exact h.execLiq3 o
  | ext o => exact h.execExt o
  | extS o => exact h.execExtS o
  | ins o => exact h.execIns o
  | skipZ o => exact h.execSkipZ o
  | skipNz o => exact h.execSkipNz o
  | skipNeg o => exact h.execSkipNeg o
  | skipNneg o => exact h.execSkipNneg o
  | rank o => exact h.execRank o
  | selb o => exact h.execSelb o
  | hmix o => exact h.execHmix o
  | mov o => exact h.execMov o
  | cadd o => exact h.execCadd o
  | cbnd o => exact h.execCbnd o
  | cbndX o => exact h.execCbndX o
  | cperm o => exact h.execCperm o
  | cclr o => exact h.execCclr o
  | cgetAddr o => exact h.execCgetAddr o
  | cgetBase o => exact h.execCgetBase o
  | cgetTop o => exact h.execCgetTop o
  | cgetPerm o => exact h.execCgetPerm o
  | cgetTag o => exact h.execCgetTag o
  | csub o => exact h.execCsub o
  | ccmp o => exact h.execCcmp o
  | cseal o => exact h.execCseal o
  | cunseal o => exact h.execCunseal o
  | caddI o => exact h.execCaddI o
  | cpermI o => exact h.execCpermI o
  | cbndI o => exact h.execCbndI o
  | vadd o => exact h.execVadd o
  | vsub o => exact h.execVsub o
  | vmul o => exact h.execVmul o
  | vmin o => exact h.execVmin o
  | vmax o => exact h.execVmax o
  | vabs o => exact h.execVabs o
  | vneg o => exact h.execVneg o
  | vdiv o => exact h.execVdiv o
  | vsqrt o => exact h.execVsqrt o
  | vand o => exact h.execVand o
  | vor o => exact h.execVor o
  | vxor o => exact h.execVxor o
  | vshl o => exact h.execVshl o
  | vshr o => exact h.execVshr o
  | vsra o => exact h.execVsra o
  | vfma o => exact h.execVfma o
  | vfms o => exact h.execVfms o
  | vfnma o => exact h.execVfnma o
  | vcmpEq o => exact h.execVcmpEq o
  | vcmpNe o => exact h.execVcmpNe o
  | vcmpLt o => exact h.execVcmpLt o
  | vcmpLe o => exact h.execVcmpLe o
  | vcmpGt o => exact h.execVcmpGt o
  | vcmpGe o => exact h.execVcmpGe o
  | vcmpUn o => exact h.execVcmpUn o
  | vsel o => exact h.execVsel o
  | vredsum o => exact h.execVredsum o
  | vredmax o => exact h.execVredmax o
  | vredmin o => exact h.execVredmin o
  | vredargmax o => exact h.execVredargmax o
  | vshuf o => exact h.execVshuf o
  | vbcast o => exact h.execVbcast o
  | vins o => exact h.execVins o
  | vext o => exact h.execVext o
  | vexp2 o => exact h.execVexp2 o
  | vlog2 o => exact h.execVlog2 o
  | vrcp o => exact h.execVrcp o
  | vrsqrt o => exact h.execVrsqrt o
  | vtanh o => exact h.execVtanh o
  | vsig o => exact h.execVsig o
  | vgelu o => exact h.execVgelu o
  | vcvt o => exact h.execVcvt o
  | vcvtI o => exact h.execVcvtI o
  | smerge o => exact h.execSmerge o
  | ldB o => exact h.execLdB o
  | ldH o => exact h.execLdH o
  | ldW o => exact h.execLdW o
  | ldD o => exact h.execLdD o
  | ldQ o => exact h.execLdQ o
  | ldC o => exact h.execLdC o
  | stB o => exact h.execStB o
  | stH o => exact h.execStH o
  | stW o => exact h.execStW o
  | stD o => exact h.execStD o
  | stQ o => exact h.execStQ o
  | stC o => exact h.execStC o
  | ldfe o => exact h.execLdfe o
  | ldff o => exact h.execLdff o
  | stef o => exact h.execStef o
  | stfill o => exact h.execStfill o
  | fectlRead o => exact h.execFectlRead o
  | fectlEmpty o => exact h.execFectlEmpty o
  | fectlFull o => exact h.execFectlFull o
  | amoAdd o => exact h.execAmoAdd o
  | amoAnd o => exact h.execAmoAnd o
  | amoOr o => exact h.execAmoOr o
  | amoXor o => exact h.execAmoXor o
  | amoMin o => exact h.execAmoMin o
  | amoMax o => exact h.execAmoMax o
  | amoMinu o => exact h.execAmoMinu o
  | amoMaxu o => exact h.execAmoMaxu o
  | amoSwap o => exact h.execAmoSwap o
  | amoCas o => exact h.execAmoCas o
  | amoFaddF32 o => exact h.execAmoFaddF32 o
  | fenceRw o => exact h.execFenceRw o
  | fenceX o => exact h.execFenceX o
  | fenceM o => exact h.execFenceM o
  | sbindIn o => exact h.execSbindIn o
  | sbindOut o => exact h.execSbindOut o
  | sunbind mk port => exact h.execSunbind mk port
  | sstat mk d port => exact h.execSstat mk d port
  | rep o => exact h.execRep o
  | mma o => exact h.execMma o
  | mmq o => exact h.execMmq o
  | mml o => exact h.execMml o
  | mmd o => exact h.execMmd o
  | mmdFull o => exact h.execMmdFull o
  | rinit mk a b => exact h.execRinit mk a b
  | rinval mk a => exact h.execRinval mk a
  | rstat mk d a => exact h.execRstat mk d a
  | maccSt o => exact h.execMaccSt o
  | maccZ mk acc => exact h.execMaccZ mk acc
  | mqfin mk acc slot swz => exact h.execMqfin mk acc slot swz
  | oclaim mk res => exact h.execOclaim mk res
  | orel mk res => exact h.execOrel mk res
  | oload mk slot a b => exact h.execOload mk slot a b
  | ostat mk d res => exact h.execOstat mk d res
  | tdef mk tile a b => exact h.execTdef mk tile a b
  | tstate mk d tile => exact h.execTstate mk d tile
  | tset mk tile b => exact h.execTset mk tile b
  | tfree mk tile => exact h.execTfree mk tile
  | endBlk o => exact h.execEndBlk o
  | matchKey mk d a table => exact h.execMatchKey mk d a table
  | tblWr mk table a b c => exact h.execTblWr mk table a b c
  | tblCommit mk d table a => exact h.execTblCommit mk d table a
  | tblRd mk d table a b => exact h.execTblRd mk d table a b
  | tblSync mk table a => exact h.execTblSync mk table a
  | spawn o => exact h.execSpawn o
  | dec mk a b => exact h.execDec mk a b
  | tget o => exact h.execTget o
  | tsetCnt mk a b => exact h.execTsetCnt mk a b
  | mfs mk d spr => exact h.execMfs mk d spr
  | mts mk spr a => exact h.execMts mk spr a
  | tlbi mk a b => exact h.execTlbi mk a b
  | tlbsync mk => exact h.execTlbsync mk
  | portwr mk a b c => exact h.execPortwr mk a b c
  | portfail mk a b => exact h.execPortfail mk a b
  | diagSt mk a b c => exact h.execDiagSt mk a b c
  | trap mk a => exact h.execTrap mk a
  | halt mk => exact h.execHalt mk
  | copyXfer o => exact h.execCopyXfer o
  | copyFill o => exact h.execCopyFill o
  | copyRwrite o => exact h.execCopyRwrite o
  | copyRread o => exact h.execCopyRread o
  | copyRsend o => exact h.execCopyRsend o
  | copyRemap o => exact h.execCopyRemap o
  | copyStat o => exact h.execCopyStat o
  | distDeal o => exact h.execDistDeal o
  | distCfg o => exact h.execDistCfg o
  | distStat o => exact h.execDistStat o
  | collAllreduce o => exact h.execCollAllreduce o
  | collReduce o => exact h.execCollReduce o
  | collBcast o => exact h.execCollBcast o
  | collAllgather o => exact h.execCollAllgather o
  | collStat o => exact h.execCollStat o
  | ctxSave o => exact h.execCtxSave o
  | ctxRestore o => exact h.execCtxRestore o
  | ctxScrub o => exact h.execCtxScrub o
  | ctxStat o => exact h.execCtxStat o
  | gateRun o => exact h.execGateRun o
  | gateStat o => exact h.execGateStat o
  | dispatchStat o => exact h.execDispatchStat o
  | combineStat o => exact h.execCombineStat o
  | acceptLaunch cl q => exact h.execAcceptLaunch cl q
  | createContinuation cl lid => exact h.execCreateContinuation cl lid
  | retirementReport k => exact h.execRetirementReport k
  | successorDecrement k => exact h.execSuccessorDecrement k
  | takeRunListHead cl => exact h.execTakeRunListHead cl
  | resultReturn g k => exact h.execResultReturn g k
  | waitListRecheck cl => exact h.execWaitListRecheck cl
  | felimitTrap rid => exact h.execFelimitTrap rid
  | waitListEntryFreed cl => exact h.execWaitListEntryFreed cl
  | matchCacheFill g => exact h.execMatchCacheFill g
  | commitComplete k => exact h.execCommitComplete k
  | sweepClose => exact h.execSweepClose
  | sequencerSend core => exact h.execSequencerSend core
  | matrixOpComplete core k => exact h.execMatrixOpComplete core k
  | oloadComplete core k => exact h.execOloadComplete core k
  | trapDelivery g => exact h.execTrapDelivery g
  | handlerEntryWrite part => exact h.execHandlerEntryWrite part
  | pageWalkComplete k => exact h.execPageWalkComplete k
  | retryEntryWrite cl => exact h.execRetryEntryWrite cl
  | tlbiComplete k => exact h.execTlbiComplete k
  | streamElementArrival g port => exact h.execStreamElementArrival g port
  | sramRequest rid => exact h.execSramRequest rid
  | deviceStore k => exact h.execDeviceStore k
  | parityDifference k => exact h.execParityDifference k
  | deviceRead rid => exact h.execDeviceRead rid
  | reconstruction k => exact h.execReconstruction k
  | deviceAtomic rid => exact h.execDeviceAtomic rid
  | fenceMarker g plane stack => exact h.execFenceMarker g plane stack
  | markerAck g plane stack => exact h.execMarkerAck g plane stack
  | parityResync k => exact h.execParityResync k
  | engineKickAccept e => exact h.execEngineKickAccept e
  | engineCommandComplete e => exact h.execEngineCommandComplete e
  | engineAccessFailed e cause => exact h.execEngineAccessFailed e cause
  | dispatchStage die => exact h.execDispatchStage die
  | productSpawn die => exact h.execProductSpawn die
  | combineStage die => exact h.execCombineStage die
  | rotationStart cl val => exact h.execRotationStart cl val
  | slotHandover g => exact h.execSlotHandover g
  | clusterHandover cl val => exact h.execClusterHandover cl val
  | queueWordStore cl q val prv part => exact h.execQueueWordStore cl q val prv part
  | poolWordStore cl ofs val prv part => exact h.execPoolWordStore cl ofs val prv part
  | cocoonWordStore cl n val prv part => exact h.execCocoonWordStore cl n val prv part
  | pairWordStore cl val prv part => exact h.execPairWordStore cl val prv part
  | controlWordWrite cl ofs size val prv part => exact h.execControlWordWrite cl ofs size val prv part
  | vfPostedWrite vf addr len data tags full => exact h.execVfPostedWrite vf addr len data tags full
  | vfTaggedRead vf tag addr len => exact h.execVfTaggedRead vf tag addr len
  | peerRequest via ten kind addr len data => exact h.execPeerRequest via ten kind addr len data
  | functionLevelReset vf => exact h.execFunctionLevelReset vf
  | status seq => exact h.execStatus seq
  | attest seq nonce => exact h.execAttest seq nonce
  | idkey seq => exact h.execIdkey seq
  | extend seq digest => exact h.execExtend seq digest
  | fwchunk seq ofs total len data => exact h.execFwchunk seq ofs total len data
  | setchip seq chip => exact h.execSetchip seq chip
  | bindvf seq vf part => exact h.execBindvf seq vf part
  | keyinstall seq ten => exact h.execKeyinstall seq ten
  | keyerase seq ten => exact h.execKeyerase seq ten
  | addrmap seq chip mac ip => exact h.execAddrmap seq chip mac ip
  | qpset seq qp port cls ten chip peerQp psn => exact h.execQpset seq qp port cls ten chip peerQp psn
  | qpclear seq qp port => exact h.execQpclear seq qp port
  | reset seq => exact h.execReset seq
  | powerOnBoot len image => exact execPowerOnBoot len image
  | monitorEvent => exact h.execMonitorEvent
  | monitorSample die temp stackTemp railDrop oscSlow => exact h.execMonitorSample die temp stackTemp railDrop oscSlow
  | clockStepClimb die => exact h.execClockStepClimb die
  | linkKeyRenewal port => exact h.execLinkKeyRenewal port
  | stackLoss stack => exact h.execStackLoss stack
  | planeLoss plane => exact h.execPlaneLoss plane
  | dieExclusion die cause => exact h.execDieExclusion die cause
  | cocoonFencing die n cause => exact h.execCocoonFencing die n cause
  | discardReport k => exact h.execDiscardReport k
  | pairedMessageCompare k => exact h.execPairedMessageCompare k
  | softError kind place idx bit fixable => exact h.execSoftError kind place idx bit fixable
  | scalePortLinkChange port up => exact h.execScalePortLinkChange port up
  | managementWindowWrite ofs len data => exact h.execManagementWindowWrite ofs len data

theorem runSlot (g : Nat) : Ends (Machine.runSlot s g) := by
  have hturn := turn (s := { s with cur := g }.onCore (coreOf g) fun c => { c with last := g % 16 }) h
  unfold Machine.runSlot
  generalize Machine.turn ({ s with cur := g }.onCore (coreOf g) fun c => { c with last := g % 16 }) = t at hturn ⊢
  cases t with
  | done t => exact hturn
  | run i t => exact exec hturn i

theorem slotMove (g : Nat) : Ends (Machine.slotMove s g) := by
  unfold Machine.slotMove
  split
  · exact h.runSlot g
  · split
    · exact h.pairMove (fun _ _ ht => ht.runSlot _) ..
    · exact h

theorem sendMove (core : Nat) : Ends (Machine.sendMove s core) := by
  unfold Machine.sendMove
  split
  · exact h.execSequencerSend core
  · split
    · exact h.pairSend (fun _ ht => ht.execSequencerSend core) ..
    · exact h

theorem streamMove (g k : Nat) : Ends (Machine.streamMove s g k) := by
  unfold Machine.streamMove
  split
  · exact h.execStreamElementArrival ..
  · exact (h.sameMsg ..).execStreamElementArrival ..

theorem runInbox : Ends (Machine.runInbox s) := by
  unfold Machine.runInbox
  split
  · exact h
  · next k _ =>
    dsimp only
    split
    · exact Ends.ite (exec (s := { s with inbox := s.inbox.eraseIdx k }) h _) h
    · exact h

theorem requestRun (r : MgmtReq) : Ends (r.run s) := by
  cases r with
  | status q => exact h.execStatus q
  | attest q n => exact h.execAttest q n
  | idkey q => exact h.execIdkey q
  | extend q d => exact h.execExtend q d
  | fwchunk q o t l d => exact h.execFwchunk q o t l d
  | setchip q c => exact h.execSetchip q c
  | bindvf q v p => exact h.execBindvf q v p
  | keyinstall q t => exact h.execKeyinstall q t
  | keyerase q t => exact h.execKeyerase q t
  | addrmap q c m i => exact h.execAddrmap q c m i
  | qpset q n p c t v e k => exact h.execQpset q n p c t v e k
  | qpclear q n p => exact h.execQpclear q n p
  | reset q => exact h.execReset q

/-- Every move keeps the form: it is the step of an agent, a turn, or what serves a request. -/
theorem moveRun (m : Move) : Ends (m.run s) := by
  cases m with
  | inbox => exact h.runInbox
  | slot g => exact h.slotMove g
  | request =>
    dsimp only [Move.run]
    split
    · exact h.requestRun _
    · exact ite (h.respond ..) h
  | peer k => exact ite (h.peerServe k) h
  | sequencerSend core => exact h.sendMove core
  | streamElementArrival g port => exact h.streamMove g port
  | acceptLaunch cl q => exact h.execAcceptLaunch cl q
  | createContinuation cl lid => exact h.execCreateContinuation cl lid
  | retirementReport k => exact h.execRetirementReport k
  | discardReport k => exact h.execDiscardReport k
  | successorDecrement k => exact h.execSuccessorDecrement k
  | takeRunListHead cl => exact h.execTakeRunListHead cl
  | resultReturn g k => exact h.execResultReturn g k
  | waitListRecheck cl => exact h.execWaitListRecheck cl
  | felimitTrap rid => exact h.execFelimitTrap rid
  | waitListEntryFreed cl => exact h.execWaitListEntryFreed cl
  | matchCacheFill g => exact h.execMatchCacheFill g
  | commitComplete k => exact h.execCommitComplete k
  | sweepClose => exact h.execSweepClose
  | matrixOpComplete core k => exact h.execMatrixOpComplete core k
  | oloadComplete core k => exact h.execOloadComplete core k
  | trapDelivery g => exact h.execTrapDelivery g
  | handlerEntryWrite part => exact h.execHandlerEntryWrite part
  | pageWalkComplete k => exact h.execPageWalkComplete k
  | retryEntryWrite cl => exact h.execRetryEntryWrite cl
  | tlbiComplete k => exact h.execTlbiComplete k
  | sramRequest rid => exact h.execSramRequest rid
  | deviceStore k => exact h.execDeviceStore k
  | parityDifference k => exact h.execParityDifference k
  | deviceRead rid => exact h.execDeviceRead rid
  | reconstruction k => exact h.execReconstruction k
  | deviceAtomic rid => exact h.execDeviceAtomic rid
  | fenceMarker g p k => exact h.execFenceMarker g p k
  | markerAck g p k => exact h.execMarkerAck g p k
  | parityResync k => exact h.execParityResync k
  | engineKickAccept e => exact h.execEngineKickAccept e
  | engineCommandComplete e => exact h.execEngineCommandComplete e
  | dispatchStage die => exact h.execDispatchStage die
  | productSpawn die => exact h.execProductSpawn die
  | combineStage die => exact h.execCombineStage die
  | slotHandover g => exact h.execSlotHandover g
  | clusterHandover cl => exact h.execClusterHandover cl 0
  | monitorEvent => exact h.execMonitorEvent
  | pairedMessageCompare k => exact h.execPairedMessageCompare k

theorem runMove (m : Move) : Ends (Machine.runMove s m) := by
  have hmoved := h.moveRun m
  unfold Machine.runMove
  generalize m.run s = o at hmoved ⊢
  cases o with
  | next t => exact ite hmoved (hmoved.followAll ..)
  | _ => exact hmoved

theorem step : Ends (Machine.step s) := by
  unfold Machine.step
  split
  · exact h
  · exact runMove (s := { s with sched := s.sched.tail }) h _

end Formed

/-- Settles O58: every operation of the model keeps the canonical form, and a step is made of them. -/
theorem memoryStaysCanonical : Obligations.MemoryStaysCanonical := by
  unfold Obligations.MemoryStaysCanonical
  intro s t hs ht
  have hends := Formed.step (s := s) hs
  rw [ht] at hends
  exact hends

end Sys2Proof.Machine
end

section
/-! PROOFS. The checks of an access in their order (R74, R347), and the trap of a word whose access fails one: every memory word is
`accessWord` of its access. -/

namespace Sys2Proof.Machine

/-! ## The checks of a capability -/

theorem isGlobal_iff (a : Nat) : isGlobal a = true ↔ 2 ^ 71 ≤ a % 2 ^ 72 := by
  simp only [isGlobal, bitAt]
  grind

section CapCheck
variable {c : RegVal} {ea len mask align : Nat}

/-- A capability that covers an access and grants it is checked for a canonical and an aligned address (R74). -/
theorem capCheck_of_granted {b t : Nat} (htag : c.tag = true) (hseal : c.otype = 0) (hbounds : capBounds c = some (b, t)) (hlo : b ≤ ea)
    (hhi : ea + len ≤ t) (hperm : hasPerm c (mask ||| if 2 ^ 71 ≤ ea % 2 ^ 72 then permGLB else 0) = true) :
    capCheck c ea len mask align =
      if placeOf ea len = .bad then some .noncanon else if ea % align ≠ 0 then some .align else none := by
  have hin : ¬(ea < b ∨ t < ea + len) := by omega
  simp only [← isGlobal_iff] at hperm
  simp [capCheck, htag, hseal, hbounds, hin, hperm]

/-- A capability that does not cover an access (R74). -/
theorem capCheck_of_outside (htag : c.tag = true) (hseal : c.otype = 0)
    (hout : ¬∃ b t, capBounds c = some (b, t) ∧ b ≤ ea ∧ ea + len ≤ t) : capCheck c ea len mask align = some .capbound := by
  simp only [capCheck, htag, hseal]
  cases hbounds : capBounds c with
  | none => simp
  | some bt =>
    obtain ⟨b, t⟩ := bt
    have hin : ea < b ∨ t < ea + len := by
      by_contra hin
      exact hout ⟨b, t, hbounds, by omega, by omega⟩
    simp [hin]

/-- A capability that covers an access and does not grant it (R74). -/
theorem capCheck_of_not_granted {b t : Nat} (htag : c.tag = true) (hseal : c.otype = 0) (hbounds : capBounds c = some (b, t)) (hlo : b ≤ ea)
    (hhi : ea + len ≤ t) (hperm : ¬hasPerm c (mask ||| if 2 ^ 71 ≤ ea % 2 ^ 72 then permGLB else 0) = true) :
    capCheck c ea len mask align = some .capperm := by
  have hin : ¬(ea < b ∨ t < ea + len) := by omega
  simp only [← isGlobal_iff] at hperm
  simp [capCheck, htag, hseal, hbounds, hin, hperm]

end CapCheck

/-! ## The memory words as accesses -/

/-- The word that makes an access. -/
def Access.word (a : Access) (s : State) : Res Unit := accessWord s a.fs a.ea a.op a.mask a.len a.need a.ord a.rx a.d

/-- An instruction that issues as the word of an access (R348). -/
def IssuesAccess (i : Instr) (m : Bool) (a : Access) : Prop := ∀ s, exec i s = issue m s (a.word s)

theorem effAddr_eq_memAddr (o : MemOperand) (v : Nat → RegVal) : effAddr (v 0) (v 1) o.sh o.disp = memAddr o v := by
  have hdisp : sext 32 o.disp = (BitVec.ofNat 32 o.disp).toInt := by
    rw [← sext_toNat _ (by decide), BitVec.toNat_ofNat]
    simp [sext]
  simp [effAddr, memAddr, low, hdisp]

theorem loadWord_eq (o : MemOperand) (k : Nat) (s : State) : loadWord k o s = issue o.s s ((loadOf o k (kindSize k)).word s) := by
  simp only [loadWord, Access.word, loadOf, effAddr_eq_memAddr]

theorem storeWord_eq (o : MemOperand) (k : Nat) (s : State) :
    storeWord k o s = issue o.s s ((storeOf o (k = 5) (kindSize k)).word s) := by
  simp [storeWord, Access.word, storeOf, effAddr_eq_memAddr, fld_zero]

theorem fullEmptyWord_eq (o : MemOperand) (fn : Nat) (s : State) :
    fullEmptyWord fn o s = issue o.s s ((feOf o fn (fn == 2 || fn == 3) (fn == 0 || fn == 1 || fn == 4)
      (memAddr { o with sh := if 4 ≤ fn then 0 else o.sh })).word s) := by
  have haddr : (fun v => effAddr (v 0) (v 1) (if 4 ≤ fn then 0 else o.sh) o.disp) = memAddr { o with sh := if 4 ≤ fn then 0 else o.sh } :=
    funext fun v => effAddr_eq_memAddr { o with sh := if 4 ≤ fn then 0 else o.sh } v
  simp only [fullEmptyWord, Access.word, feOf, haddr]

theorem atomicWord_eq (o : AmoOp) (fn : Nat) (s : State) : atomicWord fn o s = issue o.s s ((amoOf o fn).word s) := by
  simp only [atomicWord, Access.word, amoOf, fld_zero]

theorem accessWords_issue : ∀ p ∈ accessWords, ∀ o : MemOperand, IssuesAccess (p.1 o) o.s (p.2 o) := by
  simp only [accessWords, List.forall_mem_cons]
  exact ⟨(loadWord_eq · 0), (loadWord_eq · 1), (loadWord_eq · 2), (loadWord_eq · 3), (loadWord_eq · 4), (loadWord_eq · 5),
    (storeWord_eq · 0), (storeWord_eq · 1), (storeWord_eq · 2), (storeWord_eq · 3), (storeWord_eq · 4), (storeWord_eq · 5),
    (fullEmptyWord_eq · 0), (fullEmptyWord_eq · 1), (fullEmptyWord_eq · 2), (fullEmptyWord_eq · 3), (fullEmptyWord_eq · 4),
    (fullEmptyWord_eq · 5), (fullEmptyWord_eq · 6), List.forall_mem_nil _⟩

theorem atomicWords_issue : ∀ p ∈ atomicWords, ∀ o : AmoOp, IssuesAccess (p.1 o) o.s (amoOf o p.2) := by
  simp only [atomicWords, List.forall_mem_cons]
  exact ⟨(atomicWord_eq · 0), (atomicWord_eq · 1), (atomicWord_eq · 2), (atomicWord_eq · 3), (atomicWord_eq · 4), (atomicWord_eq · 5),
    (atomicWord_eq · 6), (atomicWord_eq · 7), (atomicWord_eq · 8), (atomicWord_eq · 9), (atomicWord_eq · 10), List.forall_mem_nil _⟩

/-- A word of an access whose sources pass traps on the first cause of its capability, and ACCESS where its address names nothing (R347). -/
theorem IssuesAccess.refuses {i : Instr} {m : Bool} {a : Access} (h : IssuesAccess i m a) : Refuses i a := by
  intro s hsrc v
  refine ⟨fun c hc => ?_, fun hcap hplace => ?_⟩
  · rw [h, Access.word, accessWord, hsrc, Res.bind_ok]
    dsimp only
    rw [hc, issue_trap]
  · rw [h, Access.word, accessWord, hsrc, Res.bind_ok]
    dsimp only
    rw [hcap]
    dsimp only
    rw [hplace]
    rfl

/-- Settles O19: a memory word is the word of its access, which makes the checks of `capCheck` before that of the address. -/
theorem accessChecksTrapInOrder : Obligations.AccessChecksTrapInOrder := by
  unfold Obligations.AccessChecksTrapInOrder
  refine ⟨⟨fun p hp o => (accessWords_issue p hp o).refuses, fun p hp o => (atomicWords_issue p hp o).refuses⟩, ?_⟩
  intro c ea len mask align inside granted
  refine ⟨fun htag => ?_, fun htag hseal => ?_, fun htag hseal hout => capCheck_of_outside htag hseal hout, ?_, ?_, ?_, ?_⟩
  · simp [capCheck, htag]
  · simp [capCheck, htag, hseal]
  · rintro htag hseal ⟨b, t, hbounds, hlo, hhi⟩ hperm
    exact capCheck_of_not_granted htag hseal hbounds hlo hhi hperm
  · rintro htag hseal ⟨b, t, hbounds, hlo, hhi⟩ hperm hbad
    rw [capCheck_of_granted htag hseal hbounds hlo hhi hperm, if_pos hbad]
  · rintro htag hseal ⟨b, t, hbounds, hlo, hhi⟩ hperm hgood halign
    rw [capCheck_of_granted htag hseal hbounds hlo hhi hperm, if_neg hgood, if_pos halign]
  · rintro htag hseal ⟨b, t, hbounds, hlo, hhi⟩ hperm hgood halign
    rw [capCheck_of_granted htag hseal hbounds hlo hhi hperm, if_neg hgood, if_neg (not_not.mpr halign)]

end Sys2Proof.Machine
end

section
/-! PROOFS. The TILE instructions (R83, R84, R240-R242): what each comes to by the state of its entry. -/

namespace Sys2Proof.Machine

/-! ## What a TILE instruction finds at its entry (R240) -/

section WithTile
variable {s : State} {n : Nat} {undef : State → Res Unit} {mine : Nat → State → Res Unit}

theorem withTile_of_undef (h : tileDef (tileOf s (clusterOf s.cur) n) = false) : withTile s n undef mine = undef s := by
  simp [withTile, h]

theorem withTile_of_own (h : tileDef (tileOf s (clusterOf s.cur) n) = true)
    (hown : tileTen (tileOf s (clusterOf s.cur) n) = (s.slot s.cur).ten) :
    withTile s n undef mine = mine (tileOf s (clusterOf s.cur) n) s := by
  simp [withTile, h, hown]

theorem withTile_of_other (h : tileDef (tileOf s (clusterOf s.cur) n) = true)
    (hother : tileTen (tileOf s (clusterOf s.cur) n) ≠ (s.slot s.cur).ten) : withTile s n undef mine = .trap .access 0 := by
  simp [withTile, h, hother]

theorem tileQuiet_of_idle (h : tileInFlight s (clusterOf s.cur) n = false) : tileQuiet s n = .ok () s := by
  simp [tileQuiet, h]

end WithTile

/-! ## The instructions -/

/-- `tdef` on a region that passes its checks (R84, R241). -/
theorem exec_tdef {s : State} {tile a b ofs len : Nat} (m : Bool) (hsrc : checkSrc s s.cur [a, b] 0 = .ok () s)
    (hregion : tileRegion s s.cur (fieldVal s s.cur [a, b] 0) (fieldVal s s.cur [a, b] 1).bits.toNat = .inr (ofs, len))
    (hmay : tileDef (tileOf s (clusterOf s.cur) tile) = false ∨
      (tileTen (tileOf s (clusterOf s.cur) tile) = (s.slot s.cur).ten ∧ tileInFlight s (clusterOf s.cur) tile = false)) :
    exec (.tdef m tile a b) s = .next (issued m s.cur (setTile (popAll s s.cur [a, b]) (clusterOf s.cur) tile
      (makeTile (s.slot s.cur).ten (fld (fieldVal s s.cur [a, b] 1).bits.toNat 0 12) (fld (fieldVal s s.cur [a, b] 1).bits.toNat 12 12)
        (fld (fieldVal s s.cur [a, b] 1).bits.toNat 24 3) (len / 64 - 1) (ofs / 64)))) := by
  rw [exec, execTdef, hsrc, Res.bind_ok]
  dsimp only
  rw [hregion]
  dsimp only
  cases hdef : tileDef (tileOf s (clusterOf s.cur) tile) with
  | false => rw [withTile_of_undef hdef, issue_ok]
  | true =>
    obtain ⟨hown, hidle⟩ := hmay.resolve_left (by simp [hdef])
    rw [withTile_of_own hdef hown, tileQuiet_of_idle hidle, Res.bind_ok, issue_ok]

/-- `tset` of an entry on which no command is in flight (R242). -/
theorem exec_tset_of_own {s : State} {tile b : Nat} (m : Bool) (hsrc : checkSrc s s.cur [b] 0 = .ok () s)
    (hdef : tileDef (tileOf s (clusterOf s.cur) tile) = true) (hown : tileTen (tileOf s (clusterOf s.cur) tile) = (s.slot s.cur).ten)
    (hidle : tileInFlight s (clusterOf s.cur) tile = false) :
    exec (.tset m tile b) s = .next (issued m s.cur (setTile (popAll s s.cur [b]) (clusterOf s.cur) tile
      (setFld (tileOf s (clusterOf s.cur) tile) 126 2 (fld (fieldVal s s.cur [b] 0).bits.toNat 0 2)))) := by
  rw [exec, execTset, hsrc, Res.bind_ok]
  dsimp only
  rw [withTile_of_own hdef hown, tileQuiet_of_idle hidle, Res.bind_ok, issue_ok]

theorem exec_tset_of_undef {s : State} {tile b : Nat} (m : Bool) (hsrc : checkSrc s s.cur [b] 0 = .ok () s)
    (hdef : tileDef (tileOf s (clusterOf s.cur) tile) = false) :
    exec (.tset m tile b) s = .next (issued m s.cur (popAll s s.cur [b])) := by
  rw [exec, execTset, hsrc, Res.bind_ok]
  dsimp only
  rw [withTile_of_undef hdef, issue_ok]

/-- `tfree` of an entry on which no command is in flight (R242). -/
theorem exec_tfree_of_own {s : State} {tile : Nat} (m : Bool) (hdef : tileDef (tileOf s (clusterOf s.cur) tile) = true)
    (hown : tileTen (tileOf s (clusterOf s.cur) tile) = (s.slot s.cur).ten) (hidle : tileInFlight s (clusterOf s.cur) tile = false) :
    exec (.tfree m tile) s = .next (issued m s.cur
      (failTileWaiters (setTile s (clusterOf s.cur) tile 0) (clusterOf s.cur) tile)) := by
  rw [exec, execTfree, withTile_of_own hdef hown, tileQuiet_of_idle hidle, Res.bind_ok, issue_ok]

theorem makeTile_eq (ten len ofs n : Nat) : makeTile ten (fld n 0 12) (fld n 12 12) (fld n 24 3) (len / 64 - 1) (ofs / 64) =
    2 ^ 125 + n / 2 ^ 24 % 8 * 2 ^ 122 + ten * 2 ^ 110 + n % 2 ^ 12 * 2 ^ 98 + n / 2 ^ 12 % 2 ^ 12 * 2 ^ 86 + (len / 64 - 1) * 2 ^ 71
      + ofs / 64 * 2 ^ 56 := by
  rw [makeTile, fld_zero]
  rfl

/-- Settles O29: each TILE instruction, by what it finds at its entry. -/
theorem tileWords : Obligations.TileWords := by
  unfold Obligations.TileWords
  refine ⟨?tdef, ?tstate, ?tset, ?tfree, ?other⟩
  case tdef =>
    intro m tile a b s ofs len n e hsrc hregion hmay
    rw [exec_tdef m hsrc hregion hmay, makeTile_eq]
  case tstate =>
    refine fun m d tile s => ⟨fun hdef => ?_, fun hdef hown => ?_⟩
    · rw [exec, execTstate, withTile_of_undef hdef, issue_ok]
    · rw [exec, execTstate, withTile_of_own hdef hown, issue_ok]
      rfl
  case tset =>
    intro m tile b s e p hsrc
    refine ⟨fun hdef => exec_tset_of_undef m hsrc hdef, fun hdef hown hidle => ?_⟩
    rw [exec_tset_of_own m hsrc hdef hown hidle, fld_zero]
    rfl
  case tfree =>
    refine fun m tile s => ⟨fun hdef => ?_, fun hdef hown hidle => exec_tfree_of_own m hdef hown hidle⟩
    rw [exec, execTfree, withTile_of_undef hdef, issue_ok]
  case other =>
    intro m d tile s e hdef hother i hi
    simp only [List.mem_cons, List.not_mem_nil, or_false] at hi
    obtain rfl | rfl := hi
    · rw [exec, execTstate, withTile_of_other hdef hother, issue_trap]
    · rw [exec, execTfree, withTile_of_other hdef hother, issue_trap]

end Sys2Proof.Machine
end

section
/-! PROOFS. Why a walk that fails does not leave its thread in the walk (R224, R352): an access of a word's own has no operation number, so
its thread waits in the retried-access state. -/

namespace Sys2Proof.Machine

/-- A walk of a request that fails where the retry ring is valid: the request is held for the ring, and its thread waits there (R352, R359). -/
theorem walkReq_of_fault {s : State} {r : Request} {f : WalkFault}
    (hwalk : walkFor (settleTables s (threadSender s r.slot).part r.ea) (threadSender s r.slot) r.ea (reqNeed r.op) = .inl f)
    (hring : ringValid (settleTables s (threadSender s r.slot).part r.ea) (threadSender s r.slot).cl = true) :
    let u := settleTables s (threadSender s r.slot).part r.ea
    walkReq s r = (parkRing { u with net := u.net.map fun p =>
      if p.id = r.id then { r with phase := .held, fault := f.code, ia := f.ia, since := u.nextId } else p } r.slot).bump := by
  dsimp only
  rw [walkReq]
  dsimp only
  rw [hwalk]
  dsimp only
  rw [hring]
  rfl

/-- A parked thread that an access on the retry ring stops. -/
theorem status_parkRing {s : State} {g : Nat} {w : Wait} (hg : (s.slot g).status = .parked w) :
    ((parkRing s g).slot g).status = .parked .ring := by
  simp [parkRing, hg]

theorem exec_pageWalkComplete_of_req {s : State} {k : Nat} {r : Request} (hready : walkReady s k = true)
    (hr : (walkingReqs s)[k]? = some r) : exec (.pageWalkComplete k) s = .next (walkReq s r) := by
  have hk : k < (walkingReqs s).length := (List.getElem?_eq_some_iff.mp hr).1
  rw [exec, execPageWalkComplete]
  simp only [hready, hk, hr]
  rfl

/-- A load of the thread in slot 0 whose page is to be walked. -/
def walkingLoad : Request := { newReq State.reset 0 .plain (.ld 3 false) 0 8 0 1 with id := 1 }

/-- A part whose slot 0 waits for the walk of its load; no page is mapped, and the retry ring of its cluster is valid. -/
def walkingState : State :=
  { State.reset with
    slots := [(0, { Slot.reset with status := .parked .walk })]
    clusters := [(0, { Cluster.reset with retryq := 2 ^ 63 })]
    net := [walkingLoad] }

/-- What the statement says of a failed walk: its parked thread is in the retried-access state already. -/
theorem ring_of_walksAndRetryEntries (h : Obligations.WalksAndRetryEntries) {s : State} {k : Nat} {r : Request} {f : WalkFault} {w : Wait}
    (hr : (walkingReqs s)[k]? = some r) (hready : walkReady s k = true)
    (hwalk : walkFor (settleTables s (threadSender s r.slot).part r.ea) (threadSender s r.slot) r.ea (reqNeed r.op) = .inl f)
    (hring : ringValid (settleTables s (threadSender s r.slot).part r.ea) (threadSender s r.slot).cl = true)
    (hparked : ((settleTables s (threadSender s r.slot).part r.ea).slot r.slot).status = .parked w) : w = .ring := by
  unfold Obligations.WalksAndRetryEntries at h
  obtain ⟨-, hwalks, -⟩ := h
  obtain ⟨-, hfails⟩ := (hwalks k s r hr).2 hready
  obtain ⟨-, hclaimed⟩ := hfails f hwalk
  have hleft := Host.Outcome.next.inj ((exec_pageWalkComplete_of_req hready hr).symm.trans (hclaimed hring))
  rw [walkReq_of_fault hwalk hring] at hleft
  have hstatus := congrArg (fun t : State => (t.slot r.slot).status) hleft
  simp only [State.slot_bump] at hstatus
  have hring : SlotStatus.parked .ring = .parked w := by
    refine (Eq.trans (status_parkRing (w := w) ?_).symm hstatus).trans hparked
    exact hparked
  exact (SlotStatus.parked.inj hring).symm

/-- Refutes O47: its clause on a failed walk leaves the thread of the access in the walk, for it gives `parkRetry` the offset of the word
as the number of an operation; the access of a word's own has no such number, and its thread goes to the retried-access state. -/
theorem not_walksAndRetryEntries : ¬Obligations.WalksAndRetryEntries := by
  intro h
  obtain ⟨f, hwalk⟩ : ∃ f, walkFor (settleTables walkingState (threadSender walkingState walkingLoad.slot).part walkingLoad.ea)
      (threadSender walkingState walkingLoad.slot) walkingLoad.ea (reqNeed walkingLoad.op) = .inl f :=
    Sum.isLeft_iff.mp (by decide +kernel)
  have hready : walkReady walkingState 0 = true := by decide +kernel
  have hring : ringValid (settleTables walkingState (threadSender walkingState walkingLoad.slot).part walkingLoad.ea)
      (threadSender walkingState walkingLoad.slot).cl = true := by decide +kernel
  have hparked : ((settleTables walkingState (threadSender walkingState walkingLoad.slot).part walkingLoad.ea).slot walkingLoad.slot).status
      = .parked .walk := by decide +kernel
  exact absurd (ring_of_walksAndRetryEntries h (k := 0) rfl hready hwalk hring hparked) (by decide)

end Sys2Proof.Machine
end

section
/-! SUPPORT. What the function-level reset of a partition does to a cluster: what it empties stays empty in the steps that follow, and none of
them changes the owner (R403). -/

namespace Sys2Proof.Machine

/-- A cluster that holds no launch, no context page and no tile, and whose TLB and match cache are empty (R403). -/
def Cluster.Bare (c : Cluster) : Prop :=
  c.usedCtx = [] ∧ c.launches = [] ∧ c.tiles = [] ∧ c.tlb = [] ∧ c.lines = [] ∧ c.hdrLines = []

/-- A cluster that changed into another with its owner, which is bare if it was. -/
def Cluster.Sheds (c d : Cluster) : Prop := d.owner = c.owner ∧ (c.Bare → d.Bare)

theorem Cluster.sheds_withFaultW (c : Cluster) (w : Nat) : c.Sheds { c with faultW := w } := ⟨rfl, id⟩
theorem Cluster.sheds_withTrace (c : Cluster) (w : Nat) : c.Sheds { c with trace := w } := ⟨rfl, id⟩
theorem Cluster.sheds_withRechecks (c : Cluster) (l : List (Nat × Nat)) : c.Sheds { c with rechecks := l } := ⟨rfl, id⟩
theorem Cluster.sheds_withSaveUsed (c : Cluster) (l : List Nat) : c.Sheds { c with saveUsed := l } := ⟨rfl, id⟩
theorem Cluster.sheds_withRun (c : Cluster) (l : List Nat) : c.Sheds { c with run := l } := ⟨rfl, id⟩
theorem Cluster.sheds_withQueues (c : Cluster) (l : Sparse Nat) : c.Sheds { c with queues := l } := ⟨rfl, id⟩
theorem Cluster.sheds_withRecs (c : Cluster) (l m : List Nat) : c.Sheds { c with usedRecs := l, run := m } := ⟨rfl, id⟩

theorem Cluster.sheds_filterLines (c : Cluster) (p : MatchLine → Bool) :
    c.Sheds { c with lines := c.lines.filter p, hdrLines := c.hdrLines.filter p } :=
  ⟨rfl, fun ⟨hctx, hlaunches, htiles, htlb, hlines, hhdr⟩ => ⟨hctx, hlaunches, htiles, htlb, by simp [hlines], by simp [hhdr]⟩⟩

theorem Cluster.sheds_filterRecs (c : Cluster) (p q : Nat → Bool) :
    c.Sheds { c with usedRecs := c.usedRecs.filter p, usedCtx := c.usedCtx.filter q } :=
  ⟨rfl, fun ⟨hctx, hlaunches, htiles, htlb, hlines, hhdr⟩ => ⟨by simp [hctx], hlaunches, htiles, htlb, hlines, hhdr⟩⟩

/-- Every cluster has kept its owner and, if it was bare, is so still. -/
structure Shed (s t : State) : Prop where
  sheds : ∀ cl, (s.cluster cl).Sheds (t.cluster cl)

namespace Shed

protected theorem refl (s : State) : Shed s s := ⟨fun _ => ⟨rfl, id⟩⟩

section Steps
variable {s t : State} (h : Shed s t)
include h

theorem trans {u : State} (hu : Shed t u) : Shed s u :=
  ⟨fun cl => ⟨(hu.sheds cl).1.trans (h.sheds cl).1, (hu.sheds cl).2 ∘ (h.sheds cl).2⟩⟩

/-- A change of other parts of the state. -/
theorem of_eq {u : State} (hc : u.clusters = t.clusters) : Shed s u :=
  ⟨fun cl => by simpa only [State.cluster, hc] using h.sheds cl⟩

theorem foldl {β : Type} {f : State → β → State} (hf : ∀ t b, Shed s t → Shed s (f t b)) (l : List β) : Shed s (l.foldl f t) := by
  induction l generalizing t with
  | nil => exact h
  | cons b l ih => exact ih (hf t b h)

theorem setCluster (cl : Nat) {x : Cluster} (hx : (t.cluster cl).Sheds x) : Shed s (t.setCluster cl x) := by
  refine ⟨fun i => ?_⟩
  rw [State.cluster_setCluster]
  split
  · next hi =>
    subst hi
    exact ⟨hx.1.trans (h.sheds i).1, hx.2 ∘ (h.sheds i).2⟩
  · exact h.sheds i

theorem onCluster (cl : Nat) {f : Cluster → Cluster} (hf : ∀ c : Cluster, c.Sheds (f c)) : Shed s (t.onCluster cl f) := h.setCluster cl (hf _)

theorem setSlot (g : Nat) (x : Slot) : Shed s (t.setSlot g x) := h.of_eq rfl
theorem onSlot (g : Nat) (f : Slot → Slot) : Shed s (t.onSlot g f) := h.of_eq rfl
theorem onCore (c : Nat) (f : Core → Core) : Shed s (t.onCore c f) := h.of_eq rfl
theorem setPart (p : Nat) (x : Partition) : Shed s (t.setPart p x) := h.of_eq rfl
theorem setEngine (e : Nat) (x : Engine) : Shed s (t.setEngine e x) := h.of_eq rfl
theorem setNet (l : List Request) : Shed s { t with net := l } := h.of_eq rfl
theorem setWalks (l : List WalkJob) : Shed s { t with walks := l } := h.of_eq rfl
theorem setDev (m : Store) : Shed s { t with dev := m } := h.of_eq rfl
theorem setSram (m : Store) : Shed s { t with sram := m } := h.of_eq rfl
theorem sramWrite (cl ofs n v : Nat) : Shed s (sramWrite t cl ofs n v) := h.setSram _

/-! ### Reports -/

theorem setWordFull (cl ofs : Nat) (f : Bool) : Shed s (setWordFull t cl ofs f) := by
  unfold Machine.setWordFull
  dsimp only
  split
  · exact h
  · exact (h.setCluster cl (Cluster.sheds_withRechecks _ _)).of_eq rfl

theorem faultEntry (cl fsrc fcode ten fseq addr aux : Nat) : Shed s (faultEntry t cl fsrc fcode ten fseq addr aux) := by
  unfold Machine.faultEntry Machine.fillWord
  dsimp only
  split
  · exact h.setCluster cl (Cluster.sheds_withFaultW _ _)
  · exact setCluster (setWordFull (sramWrite (sramWrite (sramWrite (sramWrite h ..) ..) ..) ..) ..) cl (Cluster.sheds_withFaultW _ _)

theorem monitorEvent (kind d1 d2 : Nat) : Shed s (monitorEvent t kind d1 d2) := h.of_eq rfl

theorem traceFrom (g cl ofs : Nat) : Shed s (traceFrom t g cl ofs) := by
  unfold Machine.traceFrom
  split
  · exact h
  · unfold Machine.traceStore
    dsimp only
    split
    · exact h
    · exact setCluster (sramWrite (sramWrite h ..) ..) _ (Cluster.sheds_withTrace _ _)

/-! ### Device memory -/

theorem loseWords (ws : List Nat) : Shed s (loseWords t ws) := by
  refine (h.setDev _).foldl (fun u l hu => ?_) _
  unfold reportLost
  split
  · dsimp only
    split
    · exact (hu.monitorEvent ..).faultEntry ..
    · exact hu.monitorEvent ..
  · exact hu.monitorEvent ..

theorem setPageErrs (m : Sparse Nat) : Shed s { t with pageErrs := m } := h.of_eq rfl

theorem countError (w : Nat) : Shed s (countError t w) := by
  unfold Machine.countError
  dsimp only
  split
  · exact monitorEvent (h.setPageErrs _) ..
  · exact h.setPageErrs _

theorem correctWord (w : Nat) : Shed s (correctWord t w) := by
  unfold Machine.correctWord
  split
  · exact (h.setDev _).countError w
  · exact h

theorem correctParity (k : Nat) : Shed s (correctParity t k) := by
  unfold Machine.correctParity
  split
  · exact h.of_eq rfl
  · exact h

theorem rebuildWord (w : Nat) : Shed s (rebuildWord t w) := by
  unfold Machine.rebuildWord
  dsimp only
  split
  · exact (h.setDev _).countError w
  · exact h.setDev _

theorem rebuildUnit (w : Nat) : Shed s (rebuildUnit t w) := by
  unfold Machine.rebuildUnit
  have hrow : Shed s ((unitWords w).foldl correctRow t) :=
    h.foldl (fun _ _ hu => (hu.foldl (fun _ v hv => hv.correctWord v) _).correctParity _) _
  refine loseWords ?_ _
  split
  · exact hrow
  · exact hrow.foldl (fun _ v hv => hv.rebuildWord v) _

theorem settleWord (w : Nat) : Shed s (settleWord t w) := by
  unfold Machine.settleWord
  split
  · exact h.rebuildUnit w
  · split
    · exact h.correctWord w
    · exact h.rebuildUnit w
    · exact h

theorem applyDiff (d : ParityDiff) : Shed s (applyDiff t d) := by
  unfold Machine.applyDiff
  dsimp only
  split
  · exact h.of_eq rfl
  · exact (h.foldl (fun _ kb ht => ht.correctParity ((localAddr d.pa + kb.1) / 8)) d.bytes).of_eq rfl

theorem putStored (id slot die pa : Nat) (bs : Sparse (BitVec 8)) : Shed s (putStored t id slot die pa bs).1 := by
  unfold Machine.putStored
  dsimp only
  split
  · exact h.setDev _
  · split
    · exact h.applyDiff _
    · exact h.setDev _

theorem writeLine (id slot die ten line : Nat) (bs : Sparse (BitVec 8)) (tags : Nat) :
    Shed s (writeLine t id slot die ten line bs tags).1 := by
  unfold Machine.writeLine
  dsimp only
  have hsettled := h.foldl (f := fun u i => Machine.settleWord u (8 * (forwardPa t (64 * line) / 64) + i))
    (fun _ _ hu => hu.settleWord _) (List.range 8)
  generalize (List.range 8).foldl _ t = u at hsettled ⊢
  refine putStored ?_ ..
  exact hsettled.of_eq rfl

theorem devWrite (ten pa : Nat) (bs : List (BitVec 8)) (tag : Bool) : Shed s (devWrite t ten pa bs tag) := by
  refine h.foldl (fun u lm hu => ?_) _
  unfold settled
  split
  · exact (hu.writeLine ..).applyDiff _
  · exact hu.writeLine ..

/-! ### Records -/

theorem setRec (cl ofs k lo n v : Nat) : Shed s (setRec t cl ofs k lo n v) := h.sramWrite ..

theorem setRun (cl : Nat) (run : List Nat) : Shed s (setRun t cl run) := by
  unfold Machine.setRun
  have hlink : ∀ u, Shed s u → Shed s (linkRun u cl run) := by
    induction run with
    | nil => exact fun _ hu => hu
    | cons o run ih =>
      cases run with
      | nil => exact fun _ hu => hu.sramWrite ..
      | cons n rest => exact fun _ hu => ih _ (hu.sramWrite ..)
  exact hlink _ (h.onCluster cl fun c => Cluster.sheds_withRun c _)

theorem setOrphans (l : List (Nat × Nat)) : Shed s { t with orphans := l } := h.of_eq rfl
theorem dropImage (pa : Nat) : Shed s (dropImage t pa) := h.of_eq rfl

theorem freeRec (cl ofs : Nat) : Shed s (freeRec t cl ofs) := by
  unfold Machine.freeRec
  dsimp only
  have hrec := h.setRec cl ofs 0 40 4 0
  generalize Machine.setRec t cl ofs 0 40 4 0 = u at hrec ⊢
  have hfreed := ((hrec.setOrphans (u.orphans.filter (· != (cl, ofs)))).dropImage (recCtx t cl ofs)).onCluster cl
    (f := fun c => { c with usedRecs := c.usedRecs.filter (· != ofs), usedCtx := c.usedCtx.filter (· != recCtx t cl ofs) })
    fun c => Cluster.sheds_filterRecs c _ _
  split
  · exact hfreed.setRun ..
  · exact hfreed

theorem productGone (cl ofs : Nat) (bad : Bool) : Shed s (productGone t cl ofs bad) := by
  unfold Machine.productGone
  split
  · exact h
  · exact h.of_eq rfl

theorem abortRec (cl ofs src : Nat) : Shed s (abortRec t cl ofs src) := by
  unfold Machine.abortRec Machine.retireRec
  extract_lets part w1 w6 after orphan freed told lcl
  have hfreed : Shed s freed := h.freeRec cl ofs
  have htold : Shed s told := by
    simp only [told]
    clear_value freed
    split
    · exact hfreed.productGone ..
    · split
      · split
        · split
          · exact hfreed
          · exact hfreed.of_eq rfl
        · exact hfreed.faultEntry ..
      · exact hfreed
  clear_value told
  split
  · exact htold
  · split
    · split
      · exact htold.faultEntry ..
      · split
        · exact htold
        · exact htold.of_eq rfl
    · exact htold.faultEntry ..

/-! ### A thread that traps -/

theorem drainLine (g : Nat) (l : GatherLine) : Shed s (drainLine t g l) := h.of_eq rfl

theorem drainWhere (g : Nat) (p : GatherLine → Bool) : Shed s (drainWhere t g p) := by
  unfold Machine.drainWhere
  exact (h.foldl (fun _ l hu => hu.drainLine g l) _).onSlot ..

theorem gatherPut (g pa : Nat) (e : Option TlbEntry) (bs : Sparse (BitVec 8)) (tag : Bool) (grd : List Nat) :
    Shed s (gatherPut t g pa e bs tag grd) := by
  unfold Machine.gatherPut
  dsimp only
  refine drainWhere ?_ ..
  split
  · exact h.setSlot ..
  · refine onSlot ?_ ..
    split
    · exact h.drainWhere ..
    · exact h

theorem writeElem (g : Nat) (e : OutElem) : Shed s (writeElem t g e) := by
  unfold Machine.writeElem
  split
  · split
    · exact h.faultEntry ..
    · split
      · exact h.faultEntry ..
      · exact (h.sramWrite ..).traceFrom ..
  · exact h.gatherPut ..
  · split
    · exact h.gatherPut ..
    · exact h
  · exact h

theorem closeBlocks (g : Nat) : Shed s (closeBlocks t g) := by
  refine h.foldl (fun u p hu => ?_) _
  unfold closeBlock
  extract_lets q
  split
  · exact hu
  · exact hu.of_eq rfl

theorem writePorts (g : Nat) : Shed s (writePorts t g) :=
  h.foldl (fun _ _ hu => foldl (hu.onSlot ..) (f := fun s e => Machine.writeElem s g e) (fun _ e hv => hv.writeElem g e) _) _

theorem flushPorts (g : Nat) : Shed s (flushPorts t g) := ((h.closeBlocks g).writePorts g).onSlot ..

theorem releaseAll (g : Nat) : Shed s (releaseAll t g) := h.foldl (fun _ _ hu => hu.onCore ..) _

theorem saveTo {g pa : Nat} {u : State} (hu : saveTo t g pa = some u) : Shed s u := by
  unfold Machine.saveTo at hu
  split at hu
  · exact absurd hu (by simp)
  · cases hu
    refine releaseAll (onSlot (foldl (foldl h ?_ _) ?_ _) ..) g
    · intro v p hv
      unfold saveTo.savedPiece poisonPages
      dsimp only
      refine setDev ?_ _
      split
      · exact (hv.devWrite ..).setDev _
      · exact hv.devWrite ..
    · exact fun _ _ hv => hv.of_eq rfl

theorem saveOrRelease (g : Nat) : Shed s (saveOrRelease t g).1 := by
  -- `saveTo` is hidden: the kernel would compute with the addresses of the save area
  obtain ⟨save, hsave⟩ : ∃ f, Machine.saveTo = f := ⟨_, rfl⟩
  unfold Machine.saveOrRelease
  rw [hsave]
  split
  · exact h
  · dsimp only
    split
    · split
      · next hu =>
        rw [← hsave] at hu
        exact onCluster (onSlot (saveTo h hu) ..) _ fun c => Cluster.sheds_withSaveUsed c _
      · exact releaseAll (flushPorts (monitorEvent (faultEntry h ..) ..) g) g
    · exact releaseAll (flushPorts h g) g

theorem unpin (g : Nat) : Shed s (unpin t g) := by
  unfold Machine.unpin
  split
  · exact h
  · unfold dropOldLines
    dsimp only
    exact (h.onSlot g _).onCluster _ fun c => Cluster.sheds_filterLines c _

theorem keepImage (g : Nat) : Shed s (keepImage t g) := h.of_eq rfl

theorem writeBack (g cause st blk ofs : Nat) (p0 : W64) : Shed s (writeBack t g cause st blk ofs p0) := by
  rw [writeBack_eq]
  exact keepImage (sramWrite (sramWrite h ..) ..) g

theorem idleSlot (g : Nat) : Shed s (idleSlot t g) := by
  unfold Machine.idleSlot Machine.dropGot
  exact setSlot (setWalks (drainWhere (writePorts h g) g _) _) ..

theorem deliverTrap (g : Nat) : Shed s (deliverTrap t g) := by
  unfold Machine.deliverTrap
  split
  · exact h
  · split
    · exact h.closeBlocks g
    · extract_lets cl part
      have hsaved := (h.drainWhere g fun _ => true).saveOrRelease g
      rw [← drainAll] at hsaved
      generalize Machine.saveOrRelease (drainAll t g) g = r at hsaved ⊢
      obtain ⟨u, lost⟩ := r
      have hback := fun cause st blk ofs p0 => (((hsaved.drainWhere g fun _ => true).writeBack g cause st blk ofs p0).unpin g).idleSlot g
      dsimp only
      split
      · exact (hback ..).abortRec ..
      · exact (hback ..).setPart ..

/-- A trap of another cause than POISON, which would fence a cocoon. -/
theorem raise (g : Nat) {p : PendTrap} (hp : p.cause ≠ .poison) : Shed s (raise t g p) := by
  unfold Machine.raise
  simp only [if_neg hp]
  have hraised := fun f l k => ((h.onCore (coreOf g) f).setWalks l).onSlot g k
  split
  · exact (hraised ..).deliverTrap g
  · exact hraised ..

theorem undoPops (g : Nat) (pops : List (Nat × Nat × List Fetched)) (flags : Nat) : Shed s (undoPops t g pops flags) := h.onSlot ..

theorem failReq (r : Request) {c : Cause} (hc : c ≠ .poison) (info : Nat) : Shed s (failReq t r c info) :=
  (((h.undoPops ..).setNet _).onSlot ..).raise _ hc

theorem nackReq (r : Request) (cl : Nat) : Shed s (nackReq t r cl) := by
  have hlate : Shed s (deferTrap (dropReq t r) r.slot .access r.ofs (if r.rep.active then some r.rep else none) r.ea) := h.of_eq rfl
  have hfail := h.failReq r (c := .access) (by decide) r.ea
  unfold Machine.nackReq
  dsimp only
  generalize deferTrap (dropReq t r) r.slot .access r.ofs (if r.rep.active then some r.rep else none) r.ea = u at hlate ⊢
  generalize Machine.failReq t r .access r.ea = v at hfail ⊢
  split
  · exact hlate
  · exact hlate
  · split
    · exact hlate
    · exact hfail
  · split
    · exact faultEntry (h.setNet _) ..
    · exact hfail
  · exact hfail

/-! ### The steps of the reset (R403) -/

theorem setPeerIn (l : List PeerWait) : Shed s { t with peerIn := l } := h.of_eq rfl

theorem nackPeers (p : Nat → Nat → Bool) : Shed s (nackPeers t p) := by
  unfold Machine.nackPeers
  refine foldl (h.setPeerIn _) (fun u w hu => ?_) _
  unfold peerAnswer
  split
  · exact hu.of_eq rfl
  · exact hu

theorem flrClose (part : Nat) (cls : List Nat) : Shed s (flrClose t part cls) := by
  have hclosed := h.foldl (f := fun s cl => s.onCluster cl fun c => { c with queues := c.queues.map fun q => (q.1, setFld q.2 63 1 0) })
    (fun u cl hu => hu.onCluster cl fun c => Cluster.sheds_withQueues c _) cls
  unfold Machine.flrClose
  dsimp only
  generalize List.foldl _ t cls = u at hclosed ⊢
  exact (nackPeers (hclosed.foldl (fun _ r hv => hv.nackReq r _) _) _).of_eq rfl

theorem dropSlotWork (g : Nat) : Shed s (dropSlotWork t g) := by
  unfold Machine.dropSlotWork Machine.dropAccesses
  dsimp only
  refine onCore ?_ ..
  exact (h.unpin g).of_eq rfl

theorem dropAccesses (thr : Nat) : Shed s (dropAccesses t thr) := h.of_eq rfl
theorem dropTrapped (p : Nat → Nat → Bool) : Shed s (dropTrapped t p) := h.of_eq rfl

theorem discardRec (cl ofs : Nat) : Shed s (discardRec t cl ofs false) := by
  unfold Machine.discardRec
  dsimp only
  refine freeRec (dropTrapped (dropAccesses ?_ _) _) ..
  have hgone := h.productGone cl ofs true
  simp only [Bool.false_eq_true, if_false]
  split
  · exact (hgone.dropSlotWork _).setSlot ..
  · exact hgone

theorem scrubCluster (cl : Nat) : Shed s (scrubCluster t cl) := by
  unfold Machine.scrubCluster
  dsimp only
  exact ((h.setSram _).foldl (fun _ _ hu => hu.onCore ..) _).onCluster cl fun c => Cluster.sheds_withRecs c _ _

theorem flrCluster (cl : Nat) : Shed s (flrCluster t cl) := by
  unfold Machine.flrCluster
  extract_lets discarded gs dropped scrubbed quiet
  have hdiscarded : Shed s discarded := h.foldl (fun _ o hu => hu.discardRec cl o) _
  have hdropped : Shed s dropped := hdiscarded.foldl (fun _ g hu => (hu.dropSlotWork g).setSlot ..) _
  have hscrubbed : Shed s scrubbed := scrubCluster (hdropped.setWalks _) cl
  have hquiet : Shed s quiet := hscrubbed.foldl (fun _ _ hu => hu.onCore ..) _
  clear_value quiet
  exact hquiet.onCluster cl fun _ => ⟨rfl, fun _ => ⟨rfl, rfl, rfl, rfl, rfl, rfl⟩⟩

end Steps
end Shed

theorem bare_flrCluster (s : State) (cl : Nat) : ((flrCluster s cl).cluster cl).Bare := by
  unfold flrCluster
  extract_lets discarded gs dropped scrubbed quiet
  clear_value quiet
  rw [State.cluster_onCluster_self]
  exact ⟨rfl, rfl, rfl, rfl, rfl, rfl⟩

theorem bare_foldl_flrCluster {s : State} {cl : Nat} {cls : List Nat} (h : cl ∈ cls ∨ (s.cluster cl).Bare) :
    ((cls.foldl flrCluster s).cluster cl).Bare := by
  induction cls generalizing s with
  | nil => exact h.resolve_left (List.not_mem_nil)
  | cons c cls ih =>
    refine ih ?_
    rcases h with h | h
    · rcases List.mem_cons.mp h with rfl | h
      · exact .inr (bare_flrCluster s cl)
      · exact .inl h
    · exact .inr ((((Shed.refl s).flrCluster c).sheds cl).2 h)

/-- The reset empties the clusters of the partition and leaves every owner (R403). -/
theorem flrPart_clusters (s : State) (part : Nat) :
    (∀ cl ∈ clustersOf s part, ((flrPart s part).cluster cl).Bare) ∧
      ∀ cl, ((flrPart s part).cluster cl).owner = (s.cluster cl).owner := by
  unfold flrPart
  extract_lets cls closed p untrapped
  have hclosed : Shed s closed := (Shed.refl s).flrClose part cls
  clear_value closed
  have huntrapped : Shed s untrapped := hclosed.setPart ..
  clear_value untrapped
  have hengines : Shed s (flrEngines untrapped part) := huntrapped.of_eq rfl
  exact ⟨fun cl hcl => bare_foldl_flrCluster (.inl hcl), fun cl => ((hengines.foldl (fun _ c hu => hu.flrCluster c) cls).sheds cl).1⟩

end Sys2Proof.Machine
end

section
/-! PROOFS. What a virtual function and another part reach (R70, R75, R297, R300-R302, R369, R403). -/

namespace Sys2Proof.Machine

/-! ## Slices without errors -/

theorem Store.sound_of_clean {st : Store} {w : Nat} (h : look 0 st.syn w = 0) : st.sound w := fun k => by
  rw [h]
  simp [synKind]

theorem Store.settleAll_clean {st : Store} {a n : Nat} (h : ∀ w ∈ wordsOf a n, look 0 st.syn w = 0) : st.settleAll a n = st :=
  Store.settleAll_sound a n fun w hw => Store.sound_of_clean (h w hw)

/-- A read of a slice without errors is one of its bytes. -/
theorem sramRead_of_sound {s : State} {cl ofs n : Nat} (h : ∀ w ∈ wordsOf (sramKey cl ofs) n, s.sram.sound w) :
    sramRead s cl ofs n = rdN s.sram.bytes (sramKey cl ofs) n := by
  rw [sramRead, Store.settleAll_sound _ _ h]
  rfl

/-- Entries made the same value, by keys. -/
theorem look_foldl_put_const {α β : Type} [DecidableEq α] (d v : α) (f : β → Nat) (l : List β) {m : Sparse α} (i : Nat) (h : canonical d m = true) :
    look d (l.foldl (fun t x => put d t (f x) v) m) i = if ∃ x ∈ l, f x = i then v else look d m i := by
  induction l generalizing m with
  | nil => simp
  | cons x l ih =>
    rw [List.foldl_cons, ih (canonical_put d _ _ h), look_put d _ _ _ h]
    by_cases hl : ∃ y ∈ l, f y = i
    · obtain ⟨y, hy, hyi⟩ := hl
      rw [if_pos ⟨y, hy, hyi⟩, if_pos ⟨y, List.mem_cons_of_mem _ hy, hyi⟩]
    · rw [if_neg hl]
      by_cases hx : i = f x
      · rw [if_pos hx, if_pos ⟨x, List.mem_cons_self, hx.symm⟩]
      · rw [if_neg hx, if_neg]
        rintro ⟨y, hy, hyi⟩
        rcases List.mem_cons.mp hy with rfl | hy
        · exact hx hyi.symm
        · exact hl ⟨y, hy, hyi⟩

/-! ## A write of a link to a slice (R297) -/

theorem setWordFull_sram (s : State) (cl ofs : Nat) (f : Bool) :
    (setWordFull s cl ofs f).sram.bytes = s.sram.bytes ∧ (setWordFull s cl ofs f).sram.syn = s.sram.syn ∧
      (setWordFull s cl ofs f).sram.tags = s.sram.tags := by
  unfold setWordFull
  split <;> exact ⟨rfl, rfl, rfl⟩

theorem foldl_setWordFull_sram (cl : Nat) (f : Bool) (l : List Nat) (s : State) :
    (l.foldl (fun s o => setWordFull s cl o f) s).sram.bytes = s.sram.bytes ∧
      (l.foldl (fun s o => setWordFull s cl o f) s).sram.syn = s.sram.syn ∧
      (l.foldl (fun s o => setWordFull s cl o f) s).sram.tags = s.sram.tags := by
  induction l generalizing s with
  | nil => exact ⟨rfl, rfl, rfl⟩
  | cons o l ih =>
    obtain ⟨hbytes, hsyn, htags⟩ := setWordFull_sram s cl o f
    obtain ⟨ibytes, isyn, itags⟩ := ih (setWordFull s cl o f)
    exact ⟨ibytes.trans hbytes, isyn.trans hsyn, itags.trans htags⟩

section LinkWrite
variable (s : State) (cl ofs n data : Nat) (qs : List Nat) (mayTag : Nat → Bool) (tags : Nat) (full : Bool)

theorem linkWrite_bytes_syn :
    (linkWrite s cl ofs n data qs mayTag tags full).sram.bytes = (s.sram.write (sramKey cl ofs) n data).bytes ∧
      (linkWrite s cl ofs n data qs mayTag tags full).sram.syn = (s.sram.write (sramKey cl ofs) n data).syn := by
  unfold linkWrite
  dsimp only
  split
  · obtain ⟨hbytes, hsyn, -⟩ := foldl_setWordFull_sram cl true (wordsFilled _ cl ofs n qs) _
    exact ⟨hbytes, hsyn⟩
  · exact ⟨rfl, rfl⟩

/-- The tags of a slice once a write of a link has cleared those of its granules and set those that it may. -/
theorem linkWrite_tags :
    (linkWrite s cl ofs n data qs mayTag tags full).sram.tags =
      ((wholeGranules ofs n).zipIdx.filter fun ki => bitAt tags ki.2 && mayTag ki.1).foldl
        (fun t ki => put false t (sramKey cl (16 * ki.1) / 16) true) (s.sram.write (sramKey cl ofs) n data).tags := by
  unfold linkWrite
  dsimp only
  split
  · obtain ⟨-, -, htags⟩ := foldl_setWordFull_sram cl true (wordsFilled _ cl ofs n qs) _
    exact htags
  · rfl

variable {s cl ofs n data qs mayTag tags full} (hwf : s.sram.wf = true)
include hwf

theorem sramRead_linkWrite : sramRead (linkWrite s cl ofs n data qs mayTag tags full) cl ofs n = data % 2 ^ (8 * n) := by
  obtain ⟨hbytes, hsyn⟩ := linkWrite_bytes_syn s cl ofs n data qs mayTag tags full
  have hsound : ∀ w ∈ wordsOf (sramKey cl ofs) n, (linkWrite s cl ofs n data qs mayTag tags full).sram.sound w := fun w hw => by
    rw [Store.sound, hsyn]
    exact Store.sound_write (sramKey cl ofs) n data w hwf (.inl hw)
  rw [sramRead_of_sound hsound, hbytes, Store.write, rdN_wrN_same _ _ _ ((Store.wf_iff _).mp (Store.wf_settleAll _ _ hwf)).1, Nat.pow_mul]

theorem sramByte_linkWrite_other (hclean : ∀ w ∈ wordsOf (sramKey cl ofs) n, look 0 s.sram.syn w = 0) {a : Nat}
    (ha : a < sramKey cl ofs ∨ sramKey cl ofs + n ≤ a) : sramByte (linkWrite s cl ofs n data qs mayTag tags full) a = sramByte s a := by
  rw [sramByte, (linkWrite_bytes_syn s cl ofs n data qs mayTag tags full).1, Store.write, Store.settleAll_clean hclean]
  dsimp only
  rw [wrN, look_setRange _ _ _ _ ((Store.wf_iff _).mp hwf).1, length_bytesOf, if_neg (by omega)]
  rfl

theorem tagAt_linkWrite {a : Nat} (ha : sramKey cl ofs ≤ a) (han : a < sramKey cl ofs + n)
    (htag : (linkWrite s cl ofs n data qs mayTag tags full).sram.tagAt a = true) : ∃ k, sramKey cl (16 * k) / 16 = a / 16 ∧ mayTag k = true := by
  have hcan := ((Store.wf_iff _).mp (Store.wf_write (sramKey cl ofs) n data hwf)).2.1
  rw [Store.tagAt, linkWrite_tags, look_foldl_put_const false true _ _ _ hcan] at htag
  split at htag
  · next hset =>
    obtain ⟨ki, hki, hat⟩ := hset
    rw [List.mem_filter, Bool.and_eq_true] at hki
    exact ⟨ki.1, hat, hki.2.2⟩
  · have hmem : a / 16 ∈ granulesOf (sramKey cl ofs) n := by
      rw [granulesOf, if_neg (by omega), List.mem_range'_1]
      omega
    rw [Store.write] at htag
    dsimp only at htag
    rw [look_foldl_put_const false false (fun g => g) _ _ ((Store.wf_iff _).mp (Store.wf_settleAll _ _ hwf)).2.1,
      if_pos ⟨_, hmem, rfl⟩] at htag
    exact absurd htag (by decide)

end LinkWrite

/-! ## A read of a link (R297) -/

theorem linkReadSram_of_clean {s : State} {cl ofs n : Nat} (hclean : ∀ w ∈ wordsOf (sramKey cl ofs) n, look 0 s.sram.syn w = 0)
    (hwf : s.sram.wf = true) : linkReadSram s cl ofs n = (sramRead s cl ofs n, { s with free := s.free + n }) := by
  have hsettled := Store.settleAll_clean hclean
  have hbytes : linkBytes s ((List.range n).map fun i => look 0 s.sram.bytes (sramKey cl ofs + i))
      (fun i => s.sram.poisoned (sramKey cl ofs + i) 1) = rangeOf 0 n (sramKey cl ofs) s.sram.bytes := by
    rw [rangeOf_eq_map _ _ _ ((canonical_iff _ _).mp ((Store.wf_iff _).mp hwf).1).1]
    refine List.ext_getElem (by simp [linkBytes]) fun i hi _ => ?_
    have hin : i < n := by simpa [linkBytes] using hi
    have hpsn : s.sram.poisoned (sramKey cl ofs + i) 1 = false := by
      rw [Store.poisoned, List.any_eq_false]
      intro w hw
      rw [hclean w]
      · decide
      · simp only [wordsOf, List.mem_range'_1, if_neg (show n ≠ 0 by omega), Nat.one_ne_zero, if_false] at hw ⊢
        omega
    simp [linkBytes, hpsn]
  unfold linkReadSram
  simp only [hsettled]
  rw [sramRead_of_sound fun w hw => Store.sound_of_clean (hclean w hw), rdN, ← hbytes]

/-! ## Requests of virtual functions (R297, R300) -/

section Vf
variable {s : State} {vf addr len part vc ofs cl : Nat}

theorem exec_vfPostedWrite_unbooted (hbooted : s.hawk.booted = false) (data tags : Nat) (full : Bool) :
    exec (.vfPostedWrite vf addr len data tags full) s = .next s := by
  change execVfPostedWrite .. = _
  simp [execVfPostedWrite, hbooted]

theorem exec_vfTaggedRead_unbooted (hbooted : s.hawk.booted = false) (tag : Nat) : exec (.vfTaggedRead vf tag addr len) s = .next s := by
  change execVfTaggedRead .. = _
  simp [execVfTaggedRead, hbooted]

theorem vfHeld_of_unbound (h : vfPart s vf = none) : vfHeld s vf addr len = false := by
  simp [vfHeld, vfTarget, h]

theorem exec_vfPostedWrite_unbound (hbooted : s.hawk.booted = true) (hpart : vfPart s vf = none) (data tags : Nat) (full : Bool) :
    exec (.vfPostedWrite vf addr len data tags full) s = .next (vfAnswer s vf false 0 1 0) := by
  change execVfPostedWrite .. = _
  simp [execVfPostedWrite, hbooted, hpart, vfHeld_of_unbound hpart]

theorem exec_vfTaggedRead_unbound (hbooted : s.hawk.booted = true) (hpart : vfPart s vf = none) (tag : Nat) :
    exec (.vfTaggedRead vf tag addr len) s = .next (vfAnswer s vf true tag 1 0) := by
  change execVfTaggedRead .. = _
  simp [execVfTaggedRead, hbooted, hpart, vfHeld_of_unbound hpart]

variable (hbooted : s.hawk.booted = true) (hpart : vfPart s vf = some part) (hplace : placeOf addr len = .sram 0x3FFFF vc ofs)
  (hcl : linkCluster s part vc = some cl)

include hpart hplace hcl in
/-- A request for a slice waits where its cluster is being handed over. -/
theorem vfHeld_of_slice : vfHeld s vf addr len = (!nacked s cl && heldAt s part noCluster cl) := by
  simp [vfHeld, vfTarget, hpart, hplace, hcl]

include hbooted hpart hplace hcl

theorem exec_vfPostedWrite_slice (hnack : nacked s cl = false) (hlen : 0 < len) (data tags : Nat) (full : Bool) :
    exec (.vfPostedWrite vf addr len data tags full) s =
      .next (if heldAt s part noCluster cl then s else vfSramWrite s vf cl ofs len addr data tags full) := by
  change execVfPostedWrite .. = _
  rw [execVfPostedWrite, hbooted, vfHeld_of_slice hpart hplace hcl, hnack]
  cases heldAt s part noCluster cl with
  | true => rfl
  | false => simp [hpart, vfWrite, hplace, hcl, hnack, Nat.pos_iff_ne_zero.mp hlen]

theorem exec_vfTaggedRead_slice (hlen : 0 < len) (tag : Nat) :
    exec (.vfTaggedRead vf tag addr len) s = .next (
      if nacked s cl then vfAnswer s vf true tag 2 0
      else if heldAt s part noCluster cl then s
      else vfAnswer (linkReadSram s cl ofs len).2 vf true tag 0 (linkReadSram s cl ofs len).1) := by
  change execVfTaggedRead .. = _
  rw [execVfTaggedRead, hbooted, vfHeld_of_slice hpart hplace hcl]
  cases hnack : nacked s cl with
  | true => simp [hpart, vfRead, hplace, hcl, hnack, Nat.pos_iff_ne_zero.mp hlen]
  | false =>
    cases heldAt s part noCluster cl with
    | true => rfl
    | false => simp [hpart, vfRead, hplace, hcl, hnack, Nat.pos_iff_ne_zero.mp hlen]

end Vf

theorem vfSramWrite_of_foreign {s : State} {vf cl ofs n q : Nat} (h : (queuesHit s cl ofs n).find? (fun q => !vfMayWrite s cl vf q) = some q)
    (addr data tags : Nat) (full : Bool) : vfSramWrite s vf cl ofs n addr data tags full = dropQueueWrite s cl q addr vf := by
  simp only [vfSramWrite, h]

theorem vfSramWrite_of_own {s : State} {vf cl ofs n : Nat} (h : (queuesHit s cl ofs n).find? (fun q => !vfMayWrite s cl vf q) = none)
    (addr data tags : Nat) (full : Bool) : vfSramWrite s vf cl ofs n addr data tags full =
      linkWrite s cl ofs n data (queuesHit s cl ofs n) (capField s cl ((List.range 16).filter (vfMayWrite s cl vf))) tags full := by
  simp only [vfSramWrite, h]

/-! ## Requests of another part (R301, R302) -/

section Peer
variable {s : State} {via : PeerRoute} {ten kind addr len data c t : Nat}

theorem exec_peerRequest_none (h : len = 0 ∨ peerFrom s via ten = none) : exec (.peerRequest via ten kind addr len data) s = .next s := by
  change execPeerRequest .. = _
  rcases h with h | h
  · simp [execPeerRequest, h]
  · simp [execPeerRequest, h]

variable (hfrom : peerFrom s via ten = some (c, t)) (hlen : 0 < len)
include hfrom hlen

theorem exec_peerRequest_scaleOut (hkind : kind = 2) (hport : 36 ≤ via.port) :
    exec (.peerRequest via ten kind addr len data) s = .next (peerAnswer s c t kind none) := by
  change execPeerRequest .. = _
  simp [execPeerRequest, hfrom, Nat.pos_iff_ne_zero.mp hlen, hkind, hport]

variable (hkind : kind ≠ 2 ∨ via.port < 36)
include hkind

theorem exec_peerRequest_refused (hentry : peerEntry s (decide (via.port < 36)) c t kind addr len = none) :
    exec (.peerRequest via ten kind addr len data) s = .next (peerAnswer (refusePeer s c t kind addr) c t kind none) := by
  change execPeerRequest .. = _
  have hout : ¬(kind = 2 ∧ 36 ≤ via.port) := by omega
  simp only [execPeerRequest, hfrom, if_neg (Nat.pos_iff_ne_zero.mp hlen), if_neg hout, hentry]

theorem exec_peerRequest_granted {e : Nat} (hentry : peerEntry s (decide (via.port < 36)) c t kind addr len = some e) :
    exec (.peerRequest via ten kind addr len data) s = .next (
      if peerHeld s e kind addr len data || peerBehind s.peerIn c t addr len then
        { s with peerIn := s.peerIn ++ [{ chip := c, ten := t, kind := kind, addr := addr, len := len, data := data, entry := e }] }
      else peerDo s e c t kind addr len data) := by
  change execPeerRequest .. = _
  have hout : ¬(kind = 2 ∧ 36 ≤ via.port) := by omega
  simp only [execPeerRequest, hfrom, if_neg (Nat.pos_iff_ne_zero.mp hlen), if_neg hout, hentry]

end Peer

/-- The source of a request over scale-out is that of its queue pair (R301, R319). -/
theorem peerFrom_scaleOut {s : State} {via : PeerRoute} {ten c t : Nat} (hlive : portLive s via.port = true) (hport : 36 ≤ via.port)
    (h : peerFrom s via ten = some (c, t)) : ∃ q ∈ s.hawk.qps, q.qp = via.qp ∧ q.port + 36 = via.port ∧ q.chip = c ∧ q.ten = t := by
  rw [peerFrom, hlive, if_neg (by decide), if_neg (by omega), Option.map_eq_some_iff] at h
  obtain ⟨q, hq, hct⟩ := h
  have hp := List.find?_some hq
  simp only [Bool.and_eq_true, beq_iff_eq] at hp
  obtain ⟨rfl, rfl⟩ := Prod.mk.inj hct
  exact ⟨q, List.mem_of_find?_eq_some hq, hp.1, hp.2, rfl, rfl⟩

/-- Settles O51: a request of a link is answered, held, dropped or performed by what its partition maps and by the entry that decides; a write
performed sets tags in capability fields of the function's queues alone; and the reset of a function empties its clusters. -/
theorem linksReachWhatTheyMay : Obligations.LinksReachWhatTheyMay := by
  unfold Obligations.LinksReachWhatTheyMay
  refine ⟨?write, ?unbound, ?read, ?peer, ?source, ?reset⟩
  case write =>
    intro vf addr len data tags part vc ofs cl full s hbooted hpart hplace hcl hnack hlen
    have hexec := exec_vfPostedWrite_slice hbooted hpart hplace hcl hnack hlen data tags full
    refine ⟨fun hheld => by rw [hexec, if_pos hheld], fun hheld => ?_⟩
    rw [hheld, if_neg (by decide)] at hexec
    refine ⟨fun q hq => by rw [hexec, vfSramWrite_of_foreign hq], fun hown hwf hclean => ?_⟩
    rw [vfSramWrite_of_own hown] at hexec
    exact ⟨_, hexec, sramRead_linkWrite hwf, fun a ha => sramByte_linkWrite_other hwf hclean ha, fun a ha han => tagAt_linkWrite hwf ha han⟩
  case unbound =>
    intro vf tag addr len data tags full s
    refine ⟨fun hbooted => ⟨exec_vfPostedWrite_unbooted hbooted .., exec_vfTaggedRead_unbooted hbooted _⟩, fun hbooted hpart => ⟨?_, ?_⟩⟩
    · exact ⟨_, exec_vfPostedWrite_unbound hbooted hpart .., rfl⟩
    · exact ⟨_, exec_vfTaggedRead_unbound hbooted hpart _, rfl⟩
  case read =>
    intro vf tag addr len part vc ofs cl s hbooted hpart hlen hplace hcl
    have hexec := exec_vfTaggedRead_slice hbooted hpart hplace hcl hlen tag
    refine ⟨fun hnack => ⟨_, hexec, by rw [if_pos hnack]; rfl⟩, fun hnack hheld => ?_, fun hnack hheld hclean hwf => ⟨_, hexec, ?_⟩⟩
    · rw [hexec, hnack, if_neg (by decide), if_pos hheld]
    · rw [hnack, hheld, if_neg (by decide), if_neg (by decide), linkReadSram_of_clean hclean hwf]
      rfl
  case peer =>
    intro via ten kind addr len data s
    refine ⟨exec_peerRequest_none, fun c t hfrom hlen => ⟨fun hkind hport => ?_, fun hkind => ⟨fun hnone => ?_, fun ke hke => ⟨fun hno => ?_, fun hyes => ?_⟩⟩⟩⟩
    · rw [exec_peerRequest_scaleOut hfrom hlen hkind hport, peerAnswer, if_pos (.inr hkind)]
      rfl
    · exact exec_peerRequest_refused hfrom hlen hkind (by simp only [peerEntry, hnone])
    · exact exec_peerRequest_refused hfrom hlen hkind (by simp only [peerEntry, hke, hno, Bool.false_eq_true, if_false])
    · have hexec := exec_peerRequest_granted (addr := addr) (data := data) hfrom hlen hkind (e := ke.2) (by simp only [peerEntry, hke, hyes, if_true])
      refine ⟨fun hwait => ?_, fun hheld hbehind => ⟨fun k vc ofs cl hplace hcl => ?_, fun k num ofs hplace => ?_⟩⟩
      · rw [hexec, if_pos (by simpa using hwait)]
      · rw [hexec, hheld, hbehind, if_neg (by decide)]
        simp only [peerDo, hplace, hcl]
      · rw [hexec, hheld, hbehind, if_neg (by decide)]
        simp only [peerDo, hplace]
        rfl
  case source =>
    intro via ten s
    refine ⟨fun hdead => ?_, fun hlive hport => ?_, fun hlive hport c t hfrom => peerFrom_scaleOut hlive hport hfrom⟩
    · simp [peerFrom, hdead]
    · simp [peerFrom, hlive, hport]
  case reset =>
    intro vf s
    have hexec : exec (.functionLevelReset vf) s = execFunctionLevelReset vf s := rfl
    refine ⟨fun hpart => ?_, fun part hpart => ⟨fun hwaits => ?_, fun hwaits => ?_⟩⟩
    · rw [hexec, execFunctionLevelReset, hpart]
    · simp only [hexec, execFunctionLevelReset, hpart, hwaits, if_true]
    · refine ⟨flrPart s part, ?_, fun cl hcl => ?_⟩
      · simp only [hexec, execFunctionLevelReset, hpart, hwaits, Bool.false_eq_true, if_false]
      · obtain ⟨hbare, howner⟩ := flrPart_clusters s part
        obtain ⟨hctx, hlaunches, htiles, htlb, hlines, hhdr⟩ := hbare cl hcl
        exact ⟨hctx, hlaunches, htiles, htlb, hlines, hhdr, howner cl⟩

end Sys2Proof.Machine
end

section
/-! SUPPORT. Bytes of numbers and of blocks, and the correction of a word in place (R3, R371). -/

namespace Sys2Proof.Machine

/-! ## Bytes of a number -/

theorem testBit_ofBytes (l : List (BitVec 8)) (i : Nat) {j : Nat} (hj : j < 8) : (ofBytes l).testBit (8 * i + j) = (l.getD i 0).getLsbD j := by
  induction l generalizing i with
  | nil => simp [ofBytes]
  | cons b l ih =>
    have hsum : ofBytes (b :: l) = 2 ^ 8 * ofBytes l + b.toNat := by
      rw [ofBytes]
      omega
    rw [hsum, Nat.testBit_two_pow_mul_add _ b.isLt]
    cases i with
    | zero => simp [hj, BitVec.getLsbD]
    | succ i =>
      rw [if_neg (by omega), show 8 * (i + 1) + j - 8 = 8 * i + j by omega, ih]
      rfl

theorem ofBytes_lt (l : List (BitVec 8)) : ofBytes l < 256 ^ l.length := by
  induction l with
  | nil => simp [ofBytes]
  | cons b l ih =>
    have hb := b.isLt
    rw [ofBytes, List.length_cons, Nat.pow_succ]
    omega

/-- Byte `i` of a number. -/
theorem byte_ofBytes (l : List (BitVec 8)) (i : Nat) : ofBytes l / 256 ^ i % 256 = (l.getD i 0).toNat := by
  induction l generalizing i with
  | nil => simp [ofBytes]
  | cons b l ih =>
    have hb := b.isLt
    cases i with
    | zero =>
      simp only [ofBytes, Nat.pow_zero, Nat.div_one, List.getD_cons_zero]
      omega
    | succ i =>
      rw [ofBytes, Nat.pow_succ', ← Nat.div_div_eq_div_mul, show (b.toNat + 256 * ofBytes l) / 256 = ofBytes l by omega, ih]
      rfl

theorem getD_bytesOf (n v : Nat) {i : Nat} (hi : i < n) : (bytesOf n v).getD i 0 = BitVec.ofNat 8 (v / 256 ^ i) := by
  induction n generalizing v i with
  | zero => omega
  | succ n ih =>
    cases i with
    | zero => simp [bytesOf]
    | succ i =>
      rw [bytesOf, List.getD_cons_succ, ih _ (by omega), Nat.div_div_eq_div_mul, Nat.pow_succ']

/-! ## Bytes of a block -/

theorem blockByte_ofBytes (l : List (BitVec 8)) {i : Nat} (hi : i < 16) : blockByte (BitVec.ofNat 128 (ofBytes l)) i = l.getD i 0 := by
  refine BitVec.eq_of_getLsbD_eq fun j hj => ?_
  rw [blockByte, BitVec.getLsbD_extractLsb', BitVec.getLsbD_ofNat, testBit_ofBytes l i hj]
  simp [hj, show 8 * i + j < 128 by omega]

theorem ofBytes_blockByte (v : W128) : BitVec.ofNat 128 (ofBytes ((List.range 16).map (blockByte v))) = v := by
  refine BitVec.eq_of_getLsbD_eq fun k hk => ?_
  have hsplit : k = 8 * (k / 8) + k % 8 := by omega
  rw [BitVec.getLsbD_ofNat, hsplit, testBit_ofBytes _ _ (by omega), ← hsplit]
  have hbyte : k / 8 < 16 := by omega
  simp [hk, hbyte, blockByte, ← hsplit, show k % 8 < 8 by omega]

/-! ## Bytes of a memory -/

section Memory
variable {m : List Host.Cell} (h : canonical 0 m = true)
include h

theorem look_wrN (a n v i : Nat) : look 0 (wrN m a n v) i = if a ≤ i ∧ i < a + n then BitVec.ofNat 8 (v / 256 ^ (i - a)) else look 0 m i := by
  rw [wrN, look_setRange _ _ _ _ h, length_bytesOf]
  split
  · next hin => exact getD_bytesOf n v (by omega)
  · rfl

theorem getD_rangeOf (a n : Nat) {i : Nat} (hi : i < n) : (rangeOf 0 n a m).getD i 0 = look 0 m (a + i) := by
  rw [rangeOf_eq_map _ _ _ ((canonical_iff _ _).mp h).1]
  simp [List.getD_eq_getElem?_getD, hi]

/-- The bytes listed from a base, each at its place. -/
theorem look_wrListed_map (base : Nat) (f : Nat → BitVec 8) (k n a : Nat) :
    look 0 (wrListed m base ((List.range' k n).map fun i => (i, f i))) a =
      if base + k ≤ a ∧ a < base + k + n then f (a - base) else look 0 m a := by
  induction n generalizing m k with
  | zero => simp [wrListed, show ¬(base + k ≤ a ∧ a < base + k) by omega]
  | succ n ih =>
    rw [List.range'_succ, List.map_cons, wrListed, ih (canonical_put 0 _ _ h), look_put 0 _ _ _ h]
    by_cases hk : a = base + k
    · subst hk
      rw [if_neg (by omega), if_pos rfl, if_pos (by omega)]
      congr 1
      omega
    · rw [if_neg hk]
      by_cases hin : base + k ≤ a ∧ a < base + k + (n + 1)
      · rw [if_pos hin, if_pos (by omega)]
      · rw [if_neg hin, if_neg (by omega)]

/-- A bit of a word of eight bytes flipped is that bit of one of its bytes. -/
theorem byte_flipped (w : Nat) {k i : Nat} (hi : i < 8) : BitVec.ofNat 8 ((rdN m (8 * w) 8 ^^^ 2 ^ k) / 256 ^ i) =
    if k / 8 = i then look 0 m (8 * w + i) ^^^ BitVec.ofNat 8 (2 ^ (k % 8)) else look 0 m (8 * w + i) := by
  have hpow : 256 ^ i = 2 ^ (8 * i) := by rw [Nat.pow_mul]
  have hbit (j : Nat) (hj : j < 8) : (rdN m (8 * w) 8).testBit (8 * i + j) = (look 0 m (8 * w + i)).getLsbD j := by
    rw [rdN, testBit_ofBytes _ _ hj, getD_rangeOf h _ _ hi]
  refine BitVec.eq_of_getLsbD_eq fun j hj => ?_
  rw [BitVec.getLsbD_ofNat, hpow, Nat.testBit_div_two_pow, Nat.testBit_xor, Nat.add_comm j, hbit j hj, Nat.testBit_two_pow]
  split
  · next hk =>
    rw [BitVec.getLsbD_xor, BitVec.getLsbD_ofNat, Nat.testBit_two_pow]
    simp [hj, show (k = 8 * i + j) = (k % 8 = j) by rw [eq_iff_iff]; omega]
  · next hk => simp [hj, show ¬k = 8 * i + j by omega]

/-- A single-bit error put right in place leaves what a read gives of every byte (R371). -/
theorem correctedByte_fixed {syn : Sparse (BitVec 8)} (hsyn : canonical 0 syn = true) {w k : Nat} (hk : synKind (look 0 syn w) = .fix k)
    (a : Nat) : correctedByte (if k < 64 then wrN m (8 * w) 8 (rdN m (8 * w) 8 ^^^ 2 ^ k) else m) (put 0 syn w 0) a = correctedByte m syn a := by
  unfold correctedByte
  rw [look_put 0 _ _ _ hsyn]
  by_cases hw : a / 8 = w
  · rw [if_pos hw, hw, hk, show synKind 0 = .clean from rfl]
    dsimp only
    by_cases hlt : k < 64
    · have hin : 8 * w ≤ a ∧ a < 8 * w + 8 := by omega
      rw [if_pos hlt, look_wrN h, if_pos hin, byte_flipped h w (by omega), show 8 * w + (a - 8 * w) = a by omega,
        show a - 8 * w = a % 8 by omega]
    · rw [if_neg hlt, if_neg (by omega)]
  · rw [if_neg hw]
    have hout : look 0 (if k < 64 then wrN m (8 * w) 8 (rdN m (8 * w) 8 ^^^ 2 ^ k) else m) a = look 0 m a := by
      split
      · rw [look_wrN h, if_neg (by omega)]
      · rfl
    rw [hout]

end Memory

/-- A word without an error reads as its bytes. -/
theorem correctedByte_of_clean {m : List Host.Cell} {syn : Sparse (BitVec 8)} {a : Nat} (h : look 0 syn (a / 8) = 0) :
    correctedByte m syn a = look 0 m a := by
  rw [correctedByte, h]
  rfl

end Sys2Proof.Machine
end

section
/-! PROOFS. Loads at the base die (R91, R371): on a clean line nothing is settled and the bytes are those of the reader's key. -/

namespace Sys2Proof.Machine

/-! ## A clean line -/

section CleanLine
variable {s : State} {line : Nat} (h : LineClean s line)
include h

/-- The word of an address of a clean line. -/
theorem LineClean.word {pa : Nat} (hpa : pa / 64 = line) :
    forwardPa s (8 * (pa / 8)) = 8 * (pa / 8) ∧ look 0 s.dev.syn (pa / 8) = 0 ∧ s.lost.contains (dataStack (8 * (pa / 8))) = false := by
  refine h _ ?_
  rw [wordsOf, if_neg (by decide), List.mem_range'_1]
  omega

theorem LineClean.forwardPa {pa : Nat} (hpa : pa / 64 = line) : forwardPa s pa = pa := by
  obtain ⟨hfwd, -, -⟩ := h.word hpa
  have hpage : 8 * (pa / 8) / 4096 = pa / 4096 := by omega
  unfold Machine.forwardPa at hfwd ⊢
  rw [hpage] at hfwd
  split
  · next r hr =>
    rw [hr] at hfwd
    dsimp only at hfwd
    omega
  · rfl

theorem LineClean.syn {pa : Nat} (hpa : pa / 64 = line) : look 0 s.dev.syn (pa / 8) = 0 := (h.word hpa).2.1

theorem LineClean.held {pa : Nat} (hpa : pa / 64 = line) : s.lost.contains (dataStack pa) = false := by
  have hstack : dataStack (8 * (pa / 8)) = dataStack pa := by
    unfold dataStack stripeOf unitOf
    rw [show 8 * (pa / 8) / 7680 = pa / 7680 by omega, show 8 * (pa / 8) / 512 = pa / 512 by omega]
  rw [← hstack]
  exact (h.word hpa).2.2

/-- A word of the line, by its number. -/
theorem LineClean.settleWord {w : Nat} (hw : w / 8 = line) : settleWord s w = s := by
  have hpa : 8 * w / 64 = line := by omega
  have hsyn := h.syn hpa
  rw [show 8 * w / 8 = w by omega] at hsyn
  unfold Machine.settleWord
  rw [h.held hpa, hsyn]
  rfl

theorem LineClean.storedByte {pa : Nat} (hpa : pa / 64 = line) : storedByte s pa = look 0 s.dev.bytes pa := by
  rw [Machine.storedByte, h.held hpa, if_neg (by decide)]

variable {pa n : Nat} (hline : pa / 64 = line) (hend : pa % 64 + n ≤ 64)
include hline hend

omit h in
theorem mem_wordsOf_line {w : Nat} (hw : w ∈ wordsOf pa n) : w / 8 = line := by
  rw [wordsOf] at hw
  split at hw
  · exact absurd hw List.not_mem_nil
  · rw [List.mem_range'_1] at hw
    omega

theorem LineClean.forwardWord {w : Nat} (hw : w ∈ wordsOf pa n) : Machine.forwardPa s (8 * w) / 8 = w := by
  rw [h.forwardPa (pa := 8 * w) (by have := mem_wordsOf_line hline hend hw; omega)]
  omega

theorem LineClean.devSettle : devSettle s pa n = s := by
  unfold Machine.devSettle
  have hwords : ∀ w ∈ wordsOf pa n, Machine.settleWord s (Machine.forwardPa s (8 * w) / 8) = s := fun w hw => by
    rw [h.forwardWord hline hend hw, h.settleWord (mem_wordsOf_line hline hend hw)]
  generalize wordsOf pa n = ws at hwords
  induction ws with
  | nil => rfl
  | cons w ws ih => rw [List.foldl_cons, hwords w List.mem_cons_self, ih fun v hv => hwords v (List.mem_cons_of_mem _ hv)]

theorem LineClean.devPoisoned (hruns : s.stopped = false) : devPoisoned s pa n = false := by
  rw [Machine.devPoisoned, hruns, Bool.false_or, List.any_eq_false]
  intro w hw
  have hpa : 8 * w / 64 = line := by
    have := mem_wordsOf_line hline hend hw
    omega
  have hsyn := h.syn hpa
  rw [show 8 * w / 8 = w by omega] at hsyn
  rw [h.forwardWord hline hend hw, wordPoisoned, h.held hpa, hsyn]
  simp

omit h in
/-- Bytes of a line that no page's retirement moves, under a tenant's key. -/
theorem devBytes_of_line (hfwd : ∀ a, a / 64 = line → Machine.forwardPa s a = a) (ten : Nat) :
    devBytes s ten pa n = (List.range' pa n).map (keyedByte s ten) := by
  induction n generalizing pa with
  | zero => rfl
  | succ n ih =>
    rw [Machine.devBytes, List.range'_succ, List.map_cons, hfwd pa hline]
    cases n with
    | zero => rfl
    | succ n => rw [ih (by omega) (by omega)]

theorem LineClean.devBytes (ten : Nat) : devBytes s ten pa n = (List.range' pa n).map (keyedByte s ten) :=
  devBytes_of_line hline hend (fun _ ha => h.forwardPa ha) ten

theorem LineClean.badWords : unasked.badWords s pa n = [] := by
  rw [unasked.badWords, h.forwardPa hline, List.filter_eq_nil_iff]
  intro w hw
  have hsyn := h.syn (pa := 8 * w) (by have := mem_wordsOf_line hline hend hw; omega)
  rw [show 8 * w / 8 = w by omega] at hsyn
  rw [hsyn]
  decide

end CleanLine

/-! ## Answers -/

/-- The answer of a request whose own changes leave the slots and the requests. -/
theorem answers_reply {s t : State} {r : Request} (hslots : t.slots = s.slots) (v : RegVal) (fl : Nat) : Answers s (reply t r v fl) r v fl := by
  have hslot : (dropReq t r).slot r.slot = s.slot r.slot := by simp only [dropReq, State.slot, hslots]
  unfold reply pushResult
  refine ⟨fun hg => ?_, fun q hq => ?_⟩
  · rw [if_neg (by rw [noSlot]; omega), State.slot_onSlot_self, hslot]
  · have hnet : q ∈ (dropReq t r).net := by
      split at hq
      · exact hq
      · exact hq
    simpa [dropReq] using (List.mem_filter.mp hnet).2

theorem reply_dev (t : State) (r : Request) (v : RegVal) (fl : Nat) :
    (reply t r v fl).dev = t.dev ∧ (reply t r v fl).lineKey = t.lineKey ∧ (reply t r v fl).lost = t.lost ∧
      (reply t r v fl).retired = t.retired ∧ (reply t r v fl).keys = t.keys := by
  unfold reply pushResult
  split <;> exact ⟨rfl, rfl, rfl, rfl, rfl⟩

theorem getD_overlay (bs : List (BitVec 8)) (own : Sparse (BitVec 8)) (i : Nat) :
    (overlay bs own).getD i 0 = if i < bs.length then (find own i).getD (bs.getD i 0) else 0 := by
  unfold overlay
  split
  · next hi => simp [List.getD_eq_getElem?_getD, hi]
  · next hi => simp [List.getD_eq_getElem?_getD, hi]

/-! ## A load -/

section AtTheDie
variable {s : State} {rid pa : Nat} {r : Request} (h : AtDie s rid r pa) (hend : pa % 64 + r.len ≤ 64)
include h hend

theorem exec_deviceRead_load {k : Nat} {lc : Bool} (hop : r.op = .ld k lc) :
    exec (.deviceRead rid) s = .next (reply s r (loadVal k lc (ofBytes (overlay (devBytes s r.ten pa r.len) r.own))
      (r.otag.getD (look false s.dev.tags (pa / 16))) false) 0) := by
  have hreach : r.reach = r.len := by rw [Request.reach, hop]; rfl
  have hread : isDevRead r = true := by simp only [isDevRead, h.tgt, hop]
  have hidle : rebuilding s r = false := by
    simp only [rebuilding, h.tgt, hreach, h.whole.badWords rfl hend]
    decide
  have hready : devReadReady s r = true := by rw [devReadReady, readFree, hread, hidle, h.free]; rfl
  change execDeviceRead rid s = _
  rw [execDeviceRead, h.sent]
  dsimp only
  rw [hready, hidle, performReq, h.phase, if_neg (by decide), h.tgt]
  simp only [hop, isBitmap, devPerform, h.whole.forwardPa rfl, h.whole.devSettle rfl hend, h.whole.devPoisoned rfl hend h.runs]
  rfl

end AtTheDie

/-- A load on a clean line answers with the bytes that its tenant's key gives, its thread's own bytes over them. -/
theorem deviceRead_load {s : State} {rid pa : Nat} {r : Request} (h : AtDie s rid r pa) (hlen : r.len ≤ 16)
    (hend : pa % 64 + r.len ≤ 64) {k : Nat} {lc : Bool} (hop : r.op = .ld k lc) :
    ∃ t v, exec (.deviceRead rid) s = .next t ∧ t.dev = s.dev ∧ Answers s t r v 0 ∧ v.psn = false ∧
      v.tag = (k == 5 && lc && r.otag.getD (look false s.dev.tags (pa / 16))) ∧
      ∀ i < 16, v.bits.toNat / 256 ^ i % 256 = if i < r.len then ((find r.own i).getD (keyedByte s r.ten (pa + i))).toNat else 0 := by
  refine ⟨_, _, exec_deviceRead_load h hend hop, (reply_dev ..).1, answers_reply rfl .., rfl, rfl, fun i hi => ?_⟩
  have hbytes := h.whole.devBytes rfl hend r.ten
  have hlength : (overlay (devBytes s r.ten pa r.len) r.own).length = r.len := by simp [overlay, hbytes]
  have hlt : ofBytes (overlay (devBytes s r.ten pa r.len) r.own) < 2 ^ 128 := by
    refine Nat.lt_of_lt_of_le (ofBytes_lt _) ?_
    rw [hlength, show 2 ^ 128 = 256 ^ 16 by decide]
    exact Nat.pow_le_pow_right (by decide) hlen
  rw [show (loadVal k lc (ofBytes (overlay (devBytes s r.ten pa r.len) r.own)) (r.otag.getD (look false s.dev.tags (pa / 16))) false).bits =
    BitVec.ofNat 128 (ofBytes (overlay (devBytes s r.ten pa r.len) r.own)) from rfl, BitVec.toNat_ofNat, Nat.mod_eq_of_lt hlt, byte_ofBytes,
    getD_overlay, hbytes, List.length_map, List.length_range']
  split
  · next hin => simp [List.getD_eq_getElem?_getD, hin]
  · rfl

end Sys2Proof.Machine
end

section
/-! PROOFS. A line written at its base die under the key of its tenant (R91-R93): what a read under that key gives, the parity difference that
leaves, the drained lines and the atomics. -/

namespace Sys2Proof.Machine

/-! ## Entries listed by place -/

theorem find_map_range' {α : Type} (f : Nat → α) (k n j : Nat) :
    find ((List.range' k n).map fun i => (i, f i)) j = if k ≤ j ∧ j < k + n then some (f j) else none := by
  induction n generalizing k with
  | zero => simp [find, show ¬(k ≤ j ∧ j < k) by omega]
  | succ n ih =>
    rw [List.range'_succ, List.map_cons, find, ih]
    by_cases hlt : j < k
    · rw [if_pos hlt, if_neg (by omega)]
    · by_cases heq : j = k
      · subst heq
        rw [if_neg hlt, if_pos rfl, if_pos (by omega)]
      · rw [if_neg hlt, if_neg heq]
        by_cases hin : k + 1 ≤ j ∧ j < k + 1 + n
        · rw [if_pos hin, if_pos (by omega)]
        · rw [if_neg hin, if_neg (by omega)]

theorem bytesAt_eq_map (o n v : Nat) : bytesAt o n v = (List.range' o n).map fun i => (i, BitVec.ofNat 8 (v / 256 ^ (i - o))) := by
  refine List.ext_getElem (by simp [bytesAt]) fun i hi _ => ?_
  have hin : i < n := by simpa [bytesAt] using hi
  have hbyte := getD_bytesOf n v hin
  rw [List.getD_eq_getElem?_getD, List.getElem?_eq_getElem (by simpa using hin), Option.getD_some] at hbyte
  simp [bytesAt, hbyte]

/-! ## What is stored of a line (R93) -/

/-- The plain bytes of a line once listed bytes stand over those that a tenant's key reads. -/
def plainLine (s : State) (ten line : Nat) (bs : Sparse (BitVec 8)) (j : Nat) : BitVec 8 := (find bs j).getD (keyedByte s ten (64 * line + j))

/-- The parity difference of bytes stored over a line that its stack holds. -/
def lineDiff (s : State) (id slot die line : Nat) (stored : Sparse (BitVec 8)) : ParityDiff :=
  { id := id, slot := slot, die := die, pa := 64 * line, bytes := stored.map fun kb => (kb.1, kb.2 ^^^ look 0 s.dev.bytes (64 * line + kb.1))
    poor := false }

/-- Between `s` and `t` a line has been stored under a key, with the bytes `f`. -/
structure LineWritten (s t : State) (line key : Nat) (f : Nat → BitVec 8) : Prop where
  bytes   : ∀ a, look 0 t.dev.bytes a = if a / 64 = line then f (a % 64) else look 0 s.dev.bytes a
  lineKey : ∀ l, look 0 t.lineKey l = if l = line then key else look 0 s.lineKey l
  lost    : t.lost = s.lost
  retired : t.retired = s.retired
  keys    : t.keys = s.keys

theorem LineWritten.reply {s t : State} {line key : Nat} {f : Nat → BitVec 8} (h : LineWritten s t line key f) (r : Request) (v : RegVal) (fl : Nat) :
    LineWritten s (reply t r v fl) line key f := by
  obtain ⟨hdev, hkey, hlost, hretired, hkeys⟩ := reply_dev t r v fl
  exact ⟨fun a => by rw [hdev, h.bytes a], fun l => by rw [hkey, h.lineKey l], hlost.trans h.lost, hretired.trans h.retired, hkeys.trans h.keys⟩

/-- A line that a tenant wrote reads under its key as the plain bytes that were written. -/
theorem LineWritten.keyedByte {s t : State} {line ten : Nat} {plain : Nat → BitVec 8}
    (h : LineWritten s t line (look 0 s.keys ten) (sealLine (look 0 s.keys ten) line plain)) (hclean : LineClean s line)
    (hkey : look 0 s.keys ten ≠ 0) {a : Nat} (ha : a / 64 = line) : keyedByte t ten a = plain (a % 64) := by
  have hheld (x : Nat) (hx : x / 64 = line) : Machine.storedByte t x = sealLine (look 0 s.keys ten) line plain (x % 64) := by
    rw [Machine.storedByte, h.lost, hclean.held hx, if_neg (by decide), h.bytes, if_pos hx]
  have hblock : storedBlock t a = Config.cipher (look 0 s.keys ten) (a / 16)
      (BitVec.ofNat 128 (ofBytes ((List.range 16).map fun j => plain (a % 64 / 16 * 16 + j)))) := by
    rw [storedBlock, ← ofBytes_blockByte (Config.cipher _ _ _)]
    congr 2
    refine List.map_congr_left fun i hi => ?_
    rw [List.mem_range] at hi
    rw [hheld _ (by omega), sealLine, if_neg hkey, show (a / 16 * 16 + i) % 64 / 16 = a % 64 / 16 by omega,
      show (a / 16 * 16 + i) % 64 % 16 = i by omega, show 4 * line + a % 64 / 16 = a / 16 by omega]
  rw [Machine.keyedByte, h.lineKey, if_pos ha, if_neg hkey, h.keys, hblock, Equiv.symm_apply_apply, blockByte_ofBytes _ (by omega)]
  simp only [List.getD_eq_getElem?_getD, List.getElem?_map, List.getElem?_range (show a % 16 < 16 by omega), Option.map_some, Option.getD_some]
  congr 1
  omega

theorem sealedBytes_of_key {s : State} {ten : Nat} (hten : ten ≠ noTenant) (hkey : look 0 s.keys ten ≠ 0) (line : Nat) (bs : Sparse (BitVec 8)) :
    sealedBytes s ten line bs =
      (List.range' 0 64).map fun i => (i, sealLine (look 0 s.keys ten) line (plainLine s ten line bs) i) := by
  have hwrite : writeKey s ten = look 0 s.keys ten := by rw [writeKey, if_neg hten, if_neg hkey]
  rw [sealedBytes, hwrite, if_neg (fun hboth => hkey hboth.2), List.range_eq_range']
  rfl

section Perform
variable {s : State} {line ten : Nat} (hclean : LineClean s line) (hten : ten ≠ noTenant) (hkey : look 0 s.keys ten ≠ 0)
  (id slot die : Nat) (bs : Sparse (BitVec 8)) (tags : Nat)
include hclean

theorem LineClean.settleLine : (List.range 8).foldl (fun s i => Machine.settleWord s (8 * line + i)) s = s := by
  have hwords : ∀ i ∈ List.range 8, Machine.settleWord s (8 * line + i) = s := fun i hi => by
    rw [List.mem_range] at hi
    exact hclean.settleWord (by omega)
  generalize List.range 8 = l at hwords
  induction l with
  | nil => rfl
  | cons i l ih => rw [List.foldl_cons, hwords i List.mem_cons_self, ih fun v hv => hwords v (List.mem_cons_of_mem _ hv)]

include hten hkey

/-- What a store to a clean line puts at its data stack, with the line's tags, check bits and key set. -/
theorem writeLine_of_clean : ∃ u : State, writeLine s id slot die ten line bs tags = putStored u id slot die (64 * line) (sealedBytes s ten line bs) ∧
    u.dev.bytes = s.dev.bytes ∧
    u.lineKey = (if look 0 s.lineKey line = look 0 s.keys ten then s.lineKey else put 0 s.lineKey line (look 0 s.keys ten)) ∧
    u.lost = s.lost ∧ u.retired = s.retired ∧ u.keys = s.keys ∧ u.slots = s.slots ∧ u.stores = s.stores ∧ u.diffs = s.diffs := by
  have hwrite : writeKey s ten = look 0 s.keys ten := by rw [writeKey, if_neg hten, if_neg hkey]
  have hfwd : Machine.forwardPa s (64 * line) / 64 = line := by rw [hclean.forwardPa (by omega)]; omega
  unfold writeLine
  dsimp only
  rw [hfwd, hclean.settleLine, hwrite]
  exact ⟨_, rfl, rfl, rfl, rfl, rfl, rfl, rfl, rfl, rfl⟩

omit hclean hten hkey in
/-- Bytes stored where the data stack answers: the difference is one to be sent unless the parity stack is lost (R378). -/
theorem putStored_of_held {u : State} {pa : Nat} (hheld : u.lost.contains (dataStack pa) = false) (stored : Sparse (BitVec 8)) :
    putStored u id slot die pa stored =
      ({ u with dev := { u.dev with bytes := wrListed u.dev.bytes pa stored } },
       if u.lost.contains (parityStack pa) then none
       else some { id := id, slot := slot, die := die, pa := pa, poor := false,
                   bytes := stored.map fun kb => (kb.1, kb.2 ^^^ storedByte u (pa + kb.1)) }) := by
  unfold putStored
  rw [hheld]
  dsimp only
  cases u.lost.contains (parityStack pa) with
  | true => rfl
  | false => rfl

/-- The bytes of the difference of a store to a clean line. -/
theorem lineDiff_bytes {u : State} (hlost : u.lost = s.lost) (hbytes : u.dev.bytes = s.dev.bytes) :
    (sealedBytes s ten line bs).map (fun kb => (kb.1, kb.2 ^^^ storedByte u (64 * line + kb.1))) =
      (lineDiff s id slot die line (sealedBytes s ten line bs)).bytes := by
  refine List.map_congr_left fun kb hkb => ?_
  rw [sealedBytes_of_key hten hkey, List.mem_map] at hkb
  obtain ⟨i, hi, rfl⟩ := hkb
  rw [List.mem_range'_1] at hi
  rw [storedByte, hlost, hclean.held (by dsimp only; omega), if_neg (by decide), hbytes]

theorem performLine_of_clean :
    let t := performLine s id slot die ten line bs tags
    t.dev.bytes = wrListed s.dev.bytes (64 * line) (sealedBytes s ten line bs) ∧
    t.lineKey = (if look 0 s.lineKey line = look 0 s.keys ten then s.lineKey else put 0 s.lineKey line (look 0 s.keys ten)) ∧
    t.diffs = (if s.lost.contains (parityStack (64 * line)) then s.diffs
      else s.diffs ++ [lineDiff s id slot die line (sealedBytes s ten line bs)]) ∧
    t.lost = s.lost ∧ t.retired = s.retired ∧ t.keys = s.keys ∧ t.slots = s.slots ∧ t.stores = s.stores := by
  obtain ⟨u, hput, hbytes, hlineKey, hlost, hretired, hkeys, hslots, hstores, hdiffs⟩ := writeLine_of_clean hclean hten hkey id slot die bs tags
  have hheld : u.lost.contains (dataStack (64 * line)) = false := hlost ▸ hclean.held (by omega)
  dsimp only
  rw [performLine, hput, putStored_of_held id slot die hheld, lineDiff_bytes hclean hten hkey id slot die bs hlost hbytes, hlost]
  refine ⟨congrArg (wrListed · _ _) hbytes, hlineKey, ?_, rfl, hretired, hkeys, hslots, hstores⟩
  dsimp only
  rw [hdiffs]
  cases s.lost.contains (parityStack (64 * line)) with
  | true => exact List.append_nil _
  | false => rfl

omit hclean in
theorem find_lineDiff {i : Nat} (hi : i < 64) : (find (lineDiff s id slot die line (sealedBytes s ten line bs)).bytes i).getD 0 =
    look 0 s.dev.bytes (64 * line + i) ^^^ sealLine (look 0 s.keys ten) line (plainLine s ten line bs) i := by
  have hbytes : (lineDiff s id slot die line (sealedBytes s ten line bs)).bytes = (List.range' 0 64).map fun i =>
      (i, sealLine (look 0 s.keys ten) line (plainLine s ten line bs) i ^^^ look 0 s.dev.bytes (64 * line + i)) := by
    rw [lineDiff, sealedBytes_of_key hten hkey, List.map_map]
    rfl
  rw [hbytes, find_map_range' (fun i => sealLine (look 0 s.keys ten) line (plainLine s ten line bs) i ^^^ look 0 s.dev.bytes (64 * line + i)),
    if_pos (by omega), Option.getD_some, BitVec.xor_comm]

/-- A store to a clean line leaves its plain bytes enciphered under the key of its tenant. -/
theorem lineWritten_performLine (hwf : s.dev.wf = true) (hlineKey : canonical 0 s.lineKey = true) :
    LineWritten s (performLine s id slot die ten line bs tags) line (look 0 s.keys ten)
      (sealLine (look 0 s.keys ten) line (plainLine s ten line bs)) := by
  obtain ⟨hbytes, hline, -, hlost, hretired, hkeys, -, -⟩ := performLine_of_clean hclean hten hkey id slot die bs tags
  refine ⟨fun a => ?_, fun l => ?_, hlost, hretired, hkeys⟩
  · rw [hbytes, sealedBytes_of_key hten hkey, look_wrListed_map ((Store.wf_iff _).mp hwf).1]
    by_cases ha : a / 64 = line
    · rw [if_pos (by omega), if_pos ha, show a - 64 * line = a % 64 by omega]
    · rw [if_neg (by omega), if_neg ha]
  · rw [hline]
    split
    · next hsame =>
      split
      · next hl => rw [hl, hsame]
      · rfl
    · exact look_put 0 _ _ _ hlineKey

end Perform

/-! ## Drained lines (R91) -/

theorem countGuarded_nil (s : State) (cl part : Nat) : countGuarded s cl part [] = s := by
  unfold countGuarded
  dsimp only
  split
  · rfl
  · split <;> rfl

/-- A store that has left its place among the drained ones changes nothing that a read gives. -/
theorem LineClean.withStores {s : State} {line : Nat} (h : LineClean s line) (l : List DevStore) : LineClean { s with stores := l } line := h

theorem keyedByte_withStores (s : State) (l : List DevStore) (ten a : Nat) : keyedByte { s with stores := l } ten a = keyedByte s ten a := rfl

theorem exec_deviceStore {s : State} {k : Nat} {d : DevStore} (hd : s.stores[k]? = some d) (hready : storeReady s d = true) (hgrd : d.grd = [])
    (hpeer : toPeer d.line = false) : exec (.deviceStore k) s =
      .next (performLine { s with stores := s.stores.erase d } d.id d.slot d.die d.ten d.line d.bytes d.tags) := by
  change execDeviceStore k s = _
  rw [execDeviceStore, hd]
  dsimp only
  rw [hready, hpeer, hgrd]
  exact congrArg Host.Outcome.next (countGuarded_nil ..)

/-! ## Atomics (R208) -/

theorem sext_eq_toInt {n : Nat} (hn : 0 < n) (x : Nat) : sext n x = (BitVec.ofNat n x).toInt := by
  obtain ⟨n, rfl⟩ := Nat.exists_eq_add_of_lt hn
  rw [sext, BitVec.toInt_eq_toNat_cond, BitVec.toNat_ofNat]
  have hpow : 2 ^ (0 + n + 1) = 2 * 2 ^ (0 + n + 1 - 1) := by rw [Nat.pow_succ, Nat.mul_comm]; rfl
  generalize x % 2 ^ (0 + n + 1) = y at *
  rw [hpow]
  by_cases hy : y < 2 ^ (0 + n + 1 - 1)
  · rw [if_pos hy, if_pos (by omega)]
  · rw [if_neg hy, if_neg (by omega)]

/-- What an atomic writes, or leaves where it writes nothing, and its flags. -/
theorem amoNew_leaves {fn n : Nat} (hfn : fn ≤ 10) (hn : 0 < n) (old b c : Nat) :
    (amoNew fn n old b c).1.getD old = amoLeaves fn n old b c ∧ (amoNew fn n old b c).2 = if fn = 10 then (addF32 old b).2 else 0 := by
  have hcases : fn = 0 ∨ fn = 1 ∨ fn = 2 ∨ fn = 3 ∨ fn = 4 ∨ fn = 5 ∨ fn = 6 ∨ fn = 7 ∨ fn = 8 ∨ fn = 9 ∨ fn = 10 := by omega
  rcases hcases with rfl | rfl | rfl | rfl | rfl | rfl | rfl | rfl | rfl | rfl | rfl
  case inr.inr.inr.inr.inl => exact ⟨by simp [amoNew, amoLeaves, sext_eq_toInt hn], rfl⟩
  case inr.inr.inr.inr.inr.inl => exact ⟨by simp [amoNew, amoLeaves, sext_eq_toInt hn], rfl⟩
  case inr.inr.inr.inr.inr.inr.inr.inr.inr.inl =>
    refine ⟨?_, rfl⟩
    unfold amoNew amoLeaves
    by_cases hc : old = c
    · simp [hc]
    · simp [hc]
  all_goals exact ⟨rfl, rfl⟩

section AtTheDie
variable {s : State} {rid pa : Nat} {r : Request} (h : AtDie s rid r pa) (hend : pa % 64 + r.len ≤ 64)
  (hstale : s.stale.contains (stripeOf pa) = false) {fn b c : Nat} (hop : r.op = .amo fn b c)
include h hend hstale hop

/-- An atomic on a clean line: its new value is stored, and it answers with the old one. -/
theorem exec_deviceAtomic_amo : exec (.deviceAtomic rid) s =
    .next (reply ((amoNew fn (8 * r.len) (devRead s r.ten pa r.len) b c).1.elim s fun v =>
        performLine s r.id r.slot (dieOf (clusterOf r.slot)) r.ten (pa / 64) (bytesAt (pa % 64) r.len v) 0) r
      (RegVal.ofNat (devRead s r.ten pa r.len)) (amoNew fn (8 * r.len) (devRead s r.ten pa r.len) b c).2) := by
  have hread : isDevRead r = false := by simp only [isDevRead, h.tgt, hop]
  have hdev : isDev r = true := by simp only [isDev, h.tgt]
  have hready : atomicReady s r = true := by
    rw [atomicReady, atomicFree, hread, hdev, h.free, hop, h.tgt]
    dsimp only
    rw [h.whole.forwardPa rfl, hstale]
    rfl
  change execDeviceAtomic rid s = _
  rw [execDeviceAtomic, h.sent]
  dsimp only
  rw [hready, if_pos rfl, performReq, h.phase, if_neg (by decide), h.tgt]
  simp only [hop, isBitmap, devPerform, h.whole.forwardPa rfl, h.whole.devSettle rfl hend, h.whole.devPoisoned rfl hend h.runs]
  cases (amoNew fn (8 * r.len) (devRead s r.ten pa r.len) b c).1 with
  | none => rfl
  | some v => rfl

end AtTheDie

theorem devRead_lt (s : State) (ten pa n : Nat) : devRead s ten pa n < 2 ^ (8 * n) := by
  have hlength : (devBytes s ten pa n).length = n := by
    induction n generalizing pa with
    | zero => rfl
    | succ n ih => rw [devBytes, List.length_cons, ih]
  have hlt := ofBytes_lt (devBytes s ten pa n)
  rwa [hlength, show (256 : Nat) = 2 ^ 8 from rfl, ← Nat.pow_mul] at hlt

theorem forwardPa_congr {s t : State} (h : t.retired = s.retired) (pa : Nat) : forwardPa t pa = forwardPa s pa := by
  rw [forwardPa, forwardPa, h]

theorem keyedByte_reply (s : State) (r : Request) (v : RegVal) (fl ten a : Nat) : keyedByte (reply s r v fl) ten a = keyedByte s ten a := by
  unfold reply pushResult
  split <;> rfl

theorem devRead_reply (s : State) (r : Request) (v : RegVal) (fl ten pa n : Nat) : devRead (reply s r v fl) ten pa n = devRead s ten pa n := by
  obtain ⟨-, -, -, hretired, -⟩ := reply_dev s r v fl
  have hbytes : devBytes (reply s r v fl) ten pa n = devBytes s ten pa n := by
    induction n generalizing pa with
    | zero => rfl
    | succ n ih => rw [devBytes, devBytes, ih, forwardPa_congr hretired, keyedByte_reply]
  rw [devRead, devRead, hbytes]

/-- The bytes of a line in which a number has been written read as that number, and the others as before. -/
theorem LineWritten.number {s t : State} {line ten pa n v : Nat} (hline : pa / 64 = line) (hend : pa % 64 + n ≤ 64)
    (h : LineWritten s t line (look 0 s.keys ten) (sealLine (look 0 s.keys ten) line (plainLine s ten line (bytesAt (pa % 64) n v))))
    (hclean : LineClean s line) (hkey : look 0 s.keys ten ≠ 0) :
    devRead t ten pa n = v % 2 ^ (8 * n) ∧ ∀ a, a / 64 = line → a < pa ∨ pa + n ≤ a → Machine.keyedByte t ten a = Machine.keyedByte s ten a := by
  have hfind (a : Nat) : find (bytesAt (pa % 64) n v) (a % 64) =
      if pa % 64 ≤ a % 64 ∧ a % 64 < pa % 64 + n then some (BitVec.ofNat 8 (v / 256 ^ (a % 64 - pa % 64))) else none := by
    rw [bytesAt_eq_map, find_map_range']
  refine ⟨?_, fun a ha hout => ?_⟩
  · have hfwd (a : Nat) (ha : a / 64 = line) : forwardPa t a = a := (forwardPa_congr h.retired a).trans (hclean.forwardPa ha)
    have hbytes : (List.range' pa n).map (Machine.keyedByte t ten) = bytesOf n v := by
      refine List.ext_getElem (by simp) fun i hi _ => ?_
      have hin : i < n := by simpa using hi
      have hbyte := getD_bytesOf n v hin
      rw [List.getD_eq_getElem?_getD, List.getElem?_eq_getElem (by simpa using hin), Option.getD_some] at hbyte
      rw [List.getElem_map, List.getElem_range', hbyte, h.keyedByte hclean hkey (by omega), plainLine, hfind, if_pos (by omega), Option.getD_some]
      congr 3
      omega
    rw [devRead, devBytes_of_line hline hend hfwd, hbytes, ofBytes_bytesOf, show (256 : Nat) = 2 ^ 8 from rfl, ← Nat.pow_mul]
  · rw [h.keyedByte hclean hkey ha, plainLine, hfind, if_neg (by omega), Option.getD_none, show 64 * line + a % 64 = a by omega]

theorem LineWritten.elsewhere {s t : State} {line key : Nat} {f : Nat → BitVec 8} (h : LineWritten s t line key f) {a : Nat} (ha : a / 64 ≠ line) :
    look 0 t.dev.bytes a = look 0 s.dev.bytes a ∧ look 0 t.lineKey (a / 64) = look 0 s.lineKey (a / 64) := by
  rw [h.bytes, if_neg ha, h.lineKey, if_neg ha]
  exact ⟨rfl, rfl⟩

end Sys2Proof.Machine
end

section
/-! PROOFS. A difference at the parity stack (R91, R381): what it changes, and when it makes the unit stale. -/

namespace Sys2Proof.Machine

/-! ## Words corrected in place (R371) -/

/-- A word in which a read corrects nothing. -/
def Uncorrected (syn : Sparse (BitVec 8)) (w : Nat) : Prop := ∀ k, synKind (look 0 syn w) ≠ .fix k

/-- Bytes `m` with syndromes `syn` have become `m'` with `syn'`: single-bit errors of some words have been put right in place. -/
structure Corrects (m : List Host.Cell) (syn : Sparse (BitVec 8)) (m' : List Host.Cell) (syn' : Sparse (BitVec 8)) : Prop where
  bytes : canonical 0 m' = true
  syns  : canonical 0 syn' = true
  reads : ∀ a, correctedByte m' syn' a = correctedByte m syn a
  syn   : ∀ w, look 0 syn' w = look 0 syn w ∨ ∃ k, synKind (look 0 syn w) = .fix k ∧ look 0 syn' w = 0

namespace Corrects
variable {m m' m'' : List Host.Cell} {syn syn' syn'' : Sparse (BitVec 8)}

protected theorem refl (hm : canonical 0 m = true) (hsyn : canonical 0 syn = true) : Corrects m syn m syn := ⟨hm, hsyn, fun _ => rfl, fun _ => .inl rfl⟩

theorem trans (h : Corrects m syn m' syn') (h' : Corrects m' syn' m'' syn'') : Corrects m syn m'' syn'' := by
  refine ⟨h'.bytes, h'.syns, fun a => (h'.reads a).trans (h.reads a), fun w => ?_⟩
  rcases h'.syn w with hsame | ⟨i, hi, hzero⟩
  · rw [hsame]
    exact h.syn w
  · rcases h.syn w with hsame' | ⟨j, hj, -⟩
    · exact .inr ⟨i, hsame' ▸ hi, hzero⟩
    · exact .inr ⟨j, hj, hzero⟩

theorem fixed (hm : canonical 0 m = true) (hsyn : canonical 0 syn = true) {w k : Nat} (hk : synKind (look 0 syn w) = .fix k) :
    Corrects m syn (if k < 64 then wrN m (8 * w) 8 (rdN m (8 * w) 8 ^^^ 2 ^ k) else m) (put 0 syn w 0) := by
  refine ⟨?_, canonical_put 0 _ _ hsyn, correctedByte_fixed hm hsyn hk, fun v => ?_⟩
  · split
    · exact canonical_wrN _ _ _ hm
    · exact hm
  · rw [look_put 0 _ _ _ hsyn]
    by_cases hv : v = w
    · exact .inr ⟨k, hv ▸ hk, if_pos hv⟩
    · exact .inl (if_neg hv)

variable (h : Corrects m syn m' syn') (w : Nat)
include h

theorem uncorrected {w : Nat} (hw : Uncorrected syn w) : Uncorrected syn' w := fun i hi => by
  rcases h.syn w with hsame | ⟨j, hj, -⟩
  · exact hw i (hsame ▸ hi)
  · exact hw j hj

/-- An uncorrectable word stays uncorrectable, and no other becomes so. -/
theorem bad : (synKind (look 0 syn' w) == .bad) = (synKind (look 0 syn w) == .bad) := by
  rcases h.syn w with hsame | ⟨k, hk, hzero⟩
  · rw [hsame]
  · rw [hk, hzero]
    rfl

/-- Poison stays poison, and no other word becomes so. -/
theorem poison : (synKind (look 0 syn' w) == .poison) = (synKind (look 0 syn w) == .poison) := by
  rcases h.syn w with hsame | ⟨k, hk, hzero⟩
  · rw [hsame]
  · rw [hk, hzero]
    rfl

end Corrects

/-- A byte of a word in which a read corrects nothing reads as it is stored. -/
theorem correctedByte_of_uncorrected {syn : Sparse (BitVec 8)} {a : Nat} (h : Uncorrected syn (a / 8)) (m : List Host.Cell) :
    correctedByte m syn a = look 0 m a := by
  unfold correctedByte
  split
  · next k hk => exact absurd hk (h k)
  · rfl

theorem byte_xor_zero (x : BitVec 8) : x ^^^ 0 = x := BitVec.xor_zero

theorem correctedByte_congr {m m' : List Host.Cell} {a : Nat} (h : look 0 m a = look 0 m' a) (syn : Sparse (BitVec 8)) :
    correctedByte m syn a = correctedByte m' syn a := by
  simp only [correctedByte, h]

/-! ## Words of parity read (R371) -/

/-- Between `s` and `t` single-bit errors of parity words have been put right, and nothing else of the part has changed. -/
structure ParityRead (s t : State) : Prop where
  rest     : t = { s with parity := t.parity, parSyn := t.parSyn }
  corrects : Corrects s.parity s.parSyn t.parity t.parSyn

theorem correctParity_of_fix {s : State} {k i : Nat} (h : synKind (look 0 s.parSyn k) = .fix i) : correctParity s k =
    { s with parity := if i < 64 then wrN s.parity (8 * k) 8 (rdN s.parity (8 * k) 8 ^^^ 2 ^ i) else s.parity, parSyn := put 0 s.parSyn k 0 } := by
  simp only [correctParity, h]

theorem correctParity_of_uncorrected {s : State} {k : Nat} (h : Uncorrected s.parSyn k) : correctParity s k = s := by
  unfold correctParity
  split
  · next i hi => exact absurd hi (h i)
  · rfl

/-- A word is one in which a read corrects a bit, or nothing. -/
theorem fix_or_uncorrected (syn : Sparse (BitVec 8)) (w : Nat) : (∃ k, synKind (look 0 syn w) = .fix k) ∨ Uncorrected syn w := by
  by_cases h : ∃ k, synKind (look 0 syn w) = .fix k
  · exact .inl h
  · exact .inr fun k hk => h ⟨k, hk⟩

theorem parityRead_correctParity {s : State} (hparity : canonical 0 s.parity = true) (hparSyn : canonical 0 s.parSyn = true) (k : Nat) :
    ParityRead s (correctParity s k) ∧ Uncorrected (correctParity s k).parSyn k := by
  rcases fix_or_uncorrected s.parSyn k with ⟨i, hi⟩ | hnone
  · rw [correctParity_of_fix hi]
    refine ⟨⟨rfl, .fixed hparity hparSyn hi⟩, fun j => ?_⟩
    rw [look_put 0 _ _ _ hparSyn, if_pos rfl]
    simp [synKind]
  · rw [correctParity_of_uncorrected hnone]
    exact ⟨⟨rfl, .refl hparity hparSyn⟩, hnone⟩

/-- The words of a difference read: what a read gives stays, and in none of them is a bit left to correct. -/
theorem parityRead_foldl {s t : State} (h : ParityRead s t) (a : Nat) (bs : Sparse (BitVec 8)) :
    let u := bs.foldl (fun s kb => correctParity s ((a + kb.1) / 8)) t
    ParityRead s u ∧ (∀ k, Uncorrected t.parSyn k → Uncorrected u.parSyn k) ∧ ∀ kb ∈ bs, Uncorrected u.parSyn ((a + kb.1) / 8) := by
  induction bs generalizing t with
  | nil => exact ⟨h, fun _ hk => hk, fun _ hkb => absurd hkb List.not_mem_nil⟩
  | cons b bs ih =>
    obtain ⟨hstep, hclean⟩ := parityRead_correctParity h.corrects.bytes h.corrects.syns ((a + b.1) / 8)
    obtain ⟨hread, hkeep, hrest⟩ := ih (t := correctParity t ((a + b.1) / 8)) ⟨by rw [hstep.rest, h.rest], h.corrects.trans hstep.corrects⟩
    refine ⟨hread, fun k hk => hkeep k (hstep.corrects.uncorrected hk), fun kb hkb => ?_⟩
    rcases List.mem_cons.mp hkb with rfl | hkb
    · exact hkeep _ hclean
    · exact hrest kb hkb

/-! ## The difference applied -/

theorem find_below {α : Type} {m : Sparse α} {lo j : Nat} (h : rising lo m = true) (hj : j < lo) : find m j = none := by
  cases m with
  | nil => rfl
  | cons kv m =>
    simp only [rising, Bool.and_eq_true, decide_eq_true_eq] at h
    rw [find, if_pos (by omega)]

theorem find_some_mem {α : Type} {m : Sparse α} {j : Nat} {v : α} (h : find m j = some v) : (j, v) ∈ m := by
  induction m with
  | nil => cases h
  | cons kv m ih =>
    rw [find] at h
    split at h
    · cases h
    · split at h
      · next hj =>
        cases h
        exact hj ▸ List.mem_cons_self
      · exact List.mem_cons_of_mem _ (ih h)

/-- Bytes combined into a memory, each at its place above a base. -/
theorem look_foldl_xor (base a : Nat) {bs : Sparse (BitVec 8)} {lo : Nat} (hbs : rising lo bs = true) {m : List Host.Cell}
    (h : canonical 0 m = true) :
    look 0 (bs.foldl (fun m kb => put 0 m (base + kb.1) (look 0 m (base + kb.1) ^^^ kb.2)) m) a =
      if base ≤ a then look 0 m a ^^^ (find bs (a - base)).getD 0 else look 0 m a := by
  induction bs generalizing m lo with
  | nil => simp [find]
  | cons kb bs ih =>
    obtain ⟨k, b⟩ := kb
    simp only [rising, Bool.and_eq_true, decide_eq_true_eq] at hbs
    rw [List.foldl_cons, ih hbs.2 (canonical_put 0 _ _ h), look_put 0 _ _ _ h, find]
    by_cases hk : a = base + k
    · subst hk
      simp [find_below hbs.2 (Nat.lt_succ_self k)]
    · rw [if_neg hk]
      by_cases hbase : base ≤ a
      · rw [if_pos hbase, if_pos hbase]
        by_cases hlt : a - base < k
        · rw [if_pos hlt, find_below hbs.2 (by omega)]
        · rw [if_neg hlt, if_neg (by omega)]
      · rw [if_neg hbase, if_neg hbase]

theorem canonical_foldl_xor (base : Nat) (bs : Sparse (BitVec 8)) {m : List Host.Cell} (h : canonical 0 m = true) :
    canonical 0 (bs.foldl (fun m kb => put 0 m (base + kb.1) (look 0 m (base + kb.1) ^^^ kb.2)) m) = true :=
  canonical_foldl_put 0 bs (fun kb => base + kb.1) (fun m kb => look 0 m (base + kb.1) ^^^ kb.2) h

section Apply
variable {s : State} {d : ParityDiff}

/-- A difference whose words can be read is combined into what a read gives of them. -/
theorem applyDiff_of_words (hpoor : d.poor = false) (hwords : ∀ kb ∈ d.bytes, synKind (look 0 s.parSyn ((localAddr d.pa + kb.1) / 8)) ≠ .bad)
    (hparity : canonical 0 s.parity = true) (hparSyn : canonical 0 s.parSyn = true) (hbs : rising 0 d.bytes = true) :
    (applyDiff s d).diffs = s.diffs ∧ (applyDiff s d).stale = s.stale ∧
      ∀ a, correctedByte (applyDiff s d).parity (applyDiff s d).parSyn a =
        if localAddr d.pa ≤ a then correctedByte s.parity s.parSyn a ^^^ (find d.bytes (a - localAddr d.pa)).getD 0
        else correctedByte s.parity s.parSyn a := by
  have hgood : (d.poor || d.bytes.any fun kb => synKind (look 0 s.parSyn ((localAddr d.pa + kb.1) / 8)) == .bad) = false := by
    rw [hpoor, Bool.false_or, List.any_eq_false]
    exact fun kb hkb hbad => hwords kb hkb (by simpa using hbad)
  obtain ⟨hread, -, hclean⟩ := parityRead_foldl ⟨rfl, .refl hparity hparSyn⟩ (localAddr d.pa) d.bytes
  unfold applyDiff
  dsimp only
  rw [hgood, if_neg (by decide)]
  generalize List.foldl (fun s kb => correctParity s ((localAddr d.pa + kb.1) / 8)) s d.bytes = t at hread hclean ⊢
  refine ⟨by rw [hread.rest], by rw [hread.rest], fun a => ?_⟩
  have hxor := look_foldl_xor (localAddr d.pa) a hbs hread.corrects.bytes
  rw [← hread.corrects.reads a]
  by_cases hbase : localAddr d.pa ≤ a
  · rw [if_pos hbase] at hxor ⊢
    cases hfind : find d.bytes (a - localAddr d.pa) with
    | none =>
      rw [hfind, Option.getD_none, byte_xor_zero] at hxor
      rw [Option.getD_none, byte_xor_zero]
      exact correctedByte_congr hxor _
    | some v =>
      have hunc := hclean _ (find_some_mem hfind)
      rw [show localAddr d.pa + (a - localAddr d.pa) = a by omega] at hunc
      rw [correctedByte_of_uncorrected hunc, correctedByte_of_uncorrected hunc, hxor, hfind]
  · rw [if_neg hbase] at hxor ⊢
    exact correctedByte_congr hxor _

/-- A difference that cannot be applied makes the unit of its stripe stale (R381). -/
theorem applyDiff_of_bad (h : d.poor = true ∨ ¬∀ kb ∈ d.bytes, synKind (look 0 s.parSyn ((localAddr d.pa + kb.1) / 8)) ≠ .bad) :
    (applyDiff s d).diffs = s.diffs ∧ (applyDiff s d).parity = s.parity ∧ stripeOf d.pa ∈ (applyDiff s d).stale := by
  have hbad : (d.poor || d.bytes.any fun kb => synKind (look 0 s.parSyn ((localAddr d.pa + kb.1) / 8)) == .bad) = true := by
    rw [Bool.or_eq_true, List.any_eq_true]
    refine h.imp id fun hnot => ?_
    by_contra hno
    exact hnot fun kb hkb hkind => hno ⟨kb, hkb, by rw [hkind]; rfl⟩
  unfold applyDiff
  dsimp only
  rw [hbad, if_pos rfl]
  refine ⟨rfl, rfl, ?_⟩
  dsimp only
  split
  · next hin => simpa using hin
  · simp

end Apply

end Sys2Proof.Machine
end

section
/-! PROOFS. A unit rebuilt from the rest of its stripe (R373, R374), a stale parity unit made afresh (R381), and what each access does at a base
die. -/

namespace Sys2Proof.Machine

/-! ## Words of a stripe read (R371) -/

/-- Between `s` and `t` single-bit errors of data words have been put right and counted. -/
structure WordsRead (s t : State) : Prop where
  rest     : t = { s with dev := t.dev, pageErrs := t.pageErrs, hawk := t.hawk }
  corrects : Corrects s.dev.bytes s.dev.syn t.dev.bytes t.dev.syn

theorem countError_rest (s : State) (w : Nat) : countError s w = { s with pageErrs := (countError s w).pageErrs, hawk := (countError s w).hawk } := by
  unfold countError
  dsimp only
  split <;> rfl

theorem correctWord_of_fix {s : State} {w k : Nat} (h : synKind (look 0 s.dev.syn w) = .fix k) :
    correctWord s w = countError { s with dev := { s.dev with
      bytes := if k < 64 then wrN s.dev.bytes (8 * w) 8 (rdN s.dev.bytes (8 * w) 8 ^^^ 2 ^ k) else s.dev.bytes
      syn := put 0 s.dev.syn w 0 } } w := by
  simp only [correctWord, Store.settle, h]

theorem correctWord_of_uncorrected {s : State} {w : Nat} (h : Uncorrected s.dev.syn w) : correctWord s w = s := by
  unfold correctWord
  split
  · next k hk => exact absurd hk (h k)
  · rfl

theorem wordsRead_correctWord {s t : State} (h : WordsRead s t) (w : Nat) : WordsRead s (correctWord t w) := by
  rcases fix_or_uncorrected t.dev.syn w with ⟨k, hk⟩ | hnone
  · rw [correctWord_of_fix hk, countError_rest]
    refine ⟨?_, h.corrects.trans (.fixed h.corrects.bytes h.corrects.syns hk)⟩
    dsimp only
    rw [h.rest]
  · rwa [correctWord_of_uncorrected hnone]

theorem wordsRead_foldl {s t : State} (h : WordsRead s t) (ws : List Nat) : WordsRead s (ws.foldl correctWord t) := by
  induction ws generalizing t with
  | nil => exact h
  | cons w ws ih => exact ih (wordsRead_correctWord h w)

/-- Between `s` and `t` data words and parity words of stripes have been read. -/
structure RowsRead (s t : State) : Prop where
  rest   : t = { s with dev := t.dev, pageErrs := t.pageErrs, hawk := t.hawk, parity := t.parity, parSyn := t.parSyn }
  dev    : Corrects s.dev.bytes s.dev.syn t.dev.bytes t.dev.syn
  parity : Corrects s.parity s.parSyn t.parity t.parSyn

theorem rowsRead_correctRow {s t : State} (h : RowsRead s t) (w : Nat) : RowsRead s (correctRow t w) := by
  unfold correctRow
  dsimp only
  have hwords := wordsRead_foldl ⟨rfl, .refl h.dev.bytes h.dev.syns⟩
    (((List.range 15).map fun j => w / 960 * 960 + j * 64 + w % 64).filter fun v => !t.lost.contains (dataStack (8 * v)))
  generalize List.foldl correctWord t _ = u at hwords ⊢
  have hparity : u.parity = t.parity ∧ u.parSyn = t.parSyn := by
    rw [hwords.rest]
    exact ⟨rfl, rfl⟩
  obtain ⟨hread, -⟩ := parityRead_correctParity (s := u) (hparity.1 ▸ h.parity.bytes) (hparity.2 ▸ h.parity.syns) (localAddr (8 * w) / 8)
  have hcorrects := hread.corrects
  rw [hparity.1, hparity.2] at hcorrects
  have hdev : (correctParity u (localAddr (8 * w) / 8)).dev = u.dev := by rw [hread.rest]
  refine ⟨?_, hdev ▸ h.dev.trans hwords.corrects, h.parity.trans hcorrects⟩
  rw [hread.rest, hwords.rest, h.rest]

theorem rowsRead_foldl {s t : State} (h : RowsRead s t) (ws : List Nat) : RowsRead s (ws.foldl correctRow t) := by
  induction ws generalizing t with
  | nil => exact h
  | cons w ws ih => exact ih (rowsRead_correctRow h w)

namespace RowsRead
variable {s t : State} (h : RowsRead s t)
include h

theorem lost : t.lost = s.lost := by rw [h.rest]
theorem stale : t.stale = s.stale := by rw [h.rest]
theorem diffs : t.diffs = s.diffs := by rw [h.rest]
theorem rebuilds : t.rebuilds = s.rebuilds := by rw [h.rest]

theorem unitByte (stripe j off : Nat) : unitByte t stripe j off = unitByte s stripe j off := h.dev.reads _

theorem parityByte (pa : Nat) : parityByte t pa = parityByte s pa := by
  rw [Machine.parityByte, Machine.parityByte, h.diffs, h.parity.reads]

theorem rebuiltByte (pa : Nat) : rebuiltByte t pa = rebuiltByte s pa := by
  simp only [Machine.rebuiltByte, h.unitByte, h.parityByte]

theorem canRebuild (w : Nat) : canRebuild t w = canRebuild s w := by
  simp only [Machine.canRebuild, h.stale, h.lost, bne, h.parity.bad, h.dev.bad]

end RowsRead

/-! ## Words written back (R373) -/

/-- Between `s` and `t` the words listed have been written back as their stripes rebuild them. -/
structure Rebuilt (s t : State) (done : List Nat) : Prop where
  rest  : t = { s with dev := t.dev, pageErrs := t.pageErrs, hawk := t.hawk }
  bytes : canonical 0 t.dev.bytes = true
  syns  : canonical 0 t.dev.syn = true
  other : ∀ v, v ∉ done → look 0 t.dev.syn v = look 0 s.dev.syn v ∧ ∀ i < 8, look 0 t.dev.bytes (8 * v + i) = look 0 s.dev.bytes (8 * v + i)
  these : ∀ v ∈ done, look 0 t.dev.syn v = 0 ∧ ∀ i < 8, look 0 t.dev.bytes (8 * v + i) = rebuiltByte s (8 * v + i)

theorem mem_unitWords {v w : Nat} : v ∈ unitWords w ↔ v / 64 = w / 64 := by
  simp only [unitWords, List.mem_map, List.mem_range]
  constructor
  · rintro ⟨i, hi, rfl⟩
    omega
  · intro hv
    exact ⟨v % 64, by omega, by omega⟩

theorem ofNat_byte_ofBytes (l : List (BitVec 8)) (i : Nat) : BitVec.ofNat 8 (ofBytes l / 256 ^ i) = l.getD i 0 :=
  BitVec.eq_of_toNat_eq (by rw [BitVec.toNat_ofNat, ← byte_ofBytes])

/-- What a unit is rebuilt from does not change as its own words are written back. -/
theorem Rebuilt.rebuiltByte {s t : State} {done : List Nat} (h : Rebuilt s t done) {w a : Nat} (hdone : ∀ v ∈ done, v / 64 = w / 64)
    (ha : a / 512 = w / 64) : rebuiltByte t a = rebuiltByte s a := by
  have hparity : parityByte t a = parityByte s a := by rw [h.rest]; rfl
  unfold Machine.rebuiltByte
  rw [hparity]
  refine List.foldl_ext _ _ _ fun x j hj => ?_
  split
  · rfl
  · next hunit =>
    rw [List.mem_range] at hj
    have hout : (stripeOf a * 7680 + j * 512 + a % 512) / 8 ∉ done := fun hmem => by
      have hw := hdone _ hmem
      unfold stripeOf unitOf at *
      omega
    obtain ⟨hsyn, hbytes⟩ := h.other _ hout
    have hbyte := hbytes ((stripeOf a * 7680 + j * 512 + a % 512) % 8) (Nat.mod_lt _ (by decide))
    rw [Nat.div_add_mod] at hbyte
    simp only [unitByte, correctedByte, hsyn, hbyte]

theorem rebuildWord_rest (s : State) (v : Nat) : rebuildWord s v = { s with
    dev := { s.dev with bytes := wrN s.dev.bytes (8 * v) 8 (ofBytes ((List.range 8).map fun i => rebuiltByte s (8 * v + i)))
                        syn := put 0 s.dev.syn v 0 }
    pageErrs := (rebuildWord s v).pageErrs, hawk := (rebuildWord s v).hawk } := by
  unfold rebuildWord
  dsimp only
  split
  · exact countError_rest ..
  · rfl

theorem Rebuilt.step {s t : State} {done : List Nat} (h : Rebuilt s t done) {v w : Nat} (hdone : ∀ v ∈ done, v / 64 = w / 64)
    (hv : v / 64 = w / 64) : Rebuilt s (rebuildWord t v) (v :: done) := by
  have hput (u : Nat) := look_put 0 v u (0 : BitVec 8) h.syns
  have hwr := look_wrN h.bytes (8 * v) 8 (ofBytes ((List.range 8).map fun i => Machine.rebuiltByte t (8 * v + i)))
  have hbytes' := canonical_wrN (8 * v) 8 (ofBytes ((List.range 8).map fun i => Machine.rebuiltByte t (8 * v + i))) h.bytes
  have hsyns' : canonical 0 (put 0 t.dev.syn v 0) = true := canonical_put 0 v 0 h.syns
  rw [rebuildWord_rest]
  refine ⟨?_, hbytes', hsyns', fun u hu => ?_, fun u hu => ?_⟩
  · dsimp only
    rw [h.rest]
  · rw [List.mem_cons, not_or] at hu
    obtain ⟨hsyn, hbytes⟩ := h.other u hu.2
    refine ⟨(hput u).trans ((if_neg hu.1).trans hsyn), fun i hi => (hwr _).trans ?_⟩
    rw [if_neg (by omega)]
    exact hbytes i hi
  · by_cases huv : u = v
    · subst huv
      refine ⟨(hput u).trans (if_pos rfl), fun i hi => (hwr _).trans ?_⟩
      rw [if_pos (by omega), ofNat_byte_ofBytes, show 8 * u + i - 8 * u = i by omega]
      simp only [List.getD_eq_getElem?_getD, List.getElem?_map, List.getElem?_range hi, Option.map_some, Option.getD_some]
      exact h.rebuiltByte hdone (w := w) (by omega)
    · obtain ⟨hsyn, hbytes⟩ := h.these u ((List.mem_cons.mp hu).resolve_left huv)
      refine ⟨(hput u).trans ((if_neg huv).trans hsyn), fun i hi => (hwr _).trans ?_⟩
      rw [if_neg (by omega)]
      exact hbytes i hi

theorem Rebuilt.foldl {s t : State} {done : List Nat} (h : Rebuilt s t done) {w : Nat} (hdone : ∀ v ∈ done, v / 64 = w / 64) (vs : List Nat)
    (hvs : ∀ v ∈ vs, v / 64 = w / 64) : Rebuilt s (vs.foldl rebuildWord t) (vs.reverse ++ done) := by
  induction vs generalizing t done with
  | nil => exact h
  | cons v vs ih =>
    have hall : ∀ u ∈ v :: done, u / 64 = w / 64 := fun u hu => by
      rcases List.mem_cons.mp hu with rfl | hu
      · exact hvs u List.mem_cons_self
      · exact hdone u hu
    simpa using ih (h.step hdone (hvs v List.mem_cons_self)) hall fun u hu => hvs u (List.mem_cons_of_mem _ hu)

/-! ## Lines reported lost (R374) -/

theorem setWordFull_hawk_rebuilds (s : State) (cl ofs : Nat) (f : Bool) :
    (setWordFull s cl ofs f).hawk = s.hawk ∧ (setWordFull s cl ofs f).rebuilds = s.rebuilds := by
  unfold setWordFull
  split <;> exact ⟨rfl, rfl⟩

theorem sramWrite_hawk_rebuilds (s : State) (cl ofs n v : Nat) :
    (sramWrite s cl ofs n v).hawk = s.hawk ∧ (sramWrite s cl ofs n v).rebuilds = s.rebuilds := ⟨rfl, rfl⟩

theorem fillWord_hawk_rebuilds (s : State) (cl ofs v : Nat) :
    (fillWord s cl ofs v).hawk = s.hawk ∧ (fillWord s cl ofs v).rebuilds = s.rebuilds := by
  rw [fillWord, (setWordFull_hawk_rebuilds ..).1, (setWordFull_hawk_rebuilds ..).2]
  exact sramWrite_hawk_rebuilds ..

theorem faultEntry_hawk_rebuilds (s : State) (cl fsrc fcode ten fseq addr aux : Nat) :
    (faultEntry s cl fsrc fcode ten fseq addr aux).hawk = s.hawk ∧ (faultEntry s cl fsrc fcode ten fseq addr aux).rebuilds = s.rebuilds := by
  unfold faultEntry
  dsimp only
  split
  · exact ⟨State.setCluster_hawk .., State.setCluster_rebuilds ..⟩
  · exact ⟨(State.setCluster_hawk ..).trans ((fillWord_hawk_rebuilds ..).1.trans ((sramWrite_hawk_rebuilds ..).1.trans
        ((sramWrite_hawk_rebuilds ..).1.trans (sramWrite_hawk_rebuilds ..).1))),
      (State.setCluster_rebuilds ..).trans ((fillWord_hawk_rebuilds ..).2.trans ((sramWrite_hawk_rebuilds ..).2.trans
        ((sramWrite_hawk_rebuilds ..).2.trans (sramWrite_hawk_rebuilds ..).2)))⟩

/-- A line reported lost: host firmware gets the event, and no earlier one is dropped. -/
theorem reportLost_events (s : State) (pa : Nat) :
    (reportLost s pa).rebuilds = s.rebuilds ∧ ∃ ia, (reportLost s pa).hawk.evHeld = s.hawk.evHeld ++ [(3, pa % 2 ^ 64, ia)] := by
  unfold reportLost
  split
  · next p ia _ =>
    dsimp only
    split
    · next cl _ =>
      obtain ⟨hhawk, hrebuilds⟩ := faultEntry_hawk_rebuilds (monitorEvent s 3 pa ia) cl 0x03 0x40 0 0 ia pa
      exact ⟨hrebuilds, ia % 2 ^ 64, congrArg Hawkmoth.evHeld hhawk⟩
    · exact ⟨rfl, ia % 2 ^ 64, rfl⟩
  · exact ⟨rfl, 0, rfl⟩

theorem foldl_reportLost (ls : List Nat) (s : State) :
    (ls.foldl (fun s l => reportLost s (64 * l)) s).dev = s.dev ∧ (ls.foldl (fun s l => reportLost s (64 * l)) s).rebuilds = s.rebuilds ∧
      (∀ e ∈ s.hawk.evHeld, e ∈ (ls.foldl (fun s l => reportLost s (64 * l)) s).hawk.evHeld) ∧
      ∀ l ∈ ls, ∃ ia, (3, 64 * l % 2 ^ 64, ia) ∈ (ls.foldl (fun s l => reportLost s (64 * l)) s).hawk.evHeld := by
  induction ls generalizing s with
  | nil => exact ⟨rfl, rfl, fun _ he => he, fun _ hl => absurd hl List.not_mem_nil⟩
  | cons l ls ih =>
    obtain ⟨hrebuilds, ia, hev⟩ := reportLost_events s (64 * l)
    obtain ⟨idev, irebuilds, ikeep, inew⟩ := ih (reportLost s (64 * l))
    refine ⟨idev.trans (dev_reportLost ..), irebuilds.trans hrebuilds, fun e he => ikeep e ?_, fun k hk => ?_⟩
    · rw [hev]
      exact List.mem_append_left _ he
    · rcases List.mem_cons.mp hk with rfl | hk
      · refine ⟨ia, ikeep _ ?_⟩
        rw [hev]
        exact List.mem_append_right _ List.mem_cons_self
      · exact inew k hk

theorem loseWords_facts (s : State) (ws : List Nat) :
    (loseWords s ws).dev.bytes = s.dev.bytes ∧ (loseWords s ws).rebuilds = s.rebuilds ∧
      ∀ w ∈ ws, ∃ ia, (3, 64 * (w / 8) % 2 ^ 64, ia) ∈ (loseWords s ws).hawk.evHeld := by
  obtain ⟨hdev, hrebuilds, -, hnew⟩ := foldl_reportLost (ws.map (· / 8)).eraseDups
    { s with dev := { s.dev with syn := ws.foldl (fun t w => put 0 t w 0xFF) s.dev.syn } }
  have hbytes := congrArg Store.bytes hdev
  exact ⟨hbytes, hrebuilds, fun w hw => hnew _ (List.mem_eraseDups.mpr (List.mem_map.mpr ⟨w, hw, rfl⟩))⟩

/-! ## The reconstruction of a unit (R373, R374) -/

theorem rebuiltByte_eq_filter (s : State) (pa : Nat) : rebuiltByte s pa =
    ((List.range 15).filter (· != unitOf pa)).foldl (fun x j => x ^^^ unitByte s (stripeOf pa) j (pa % 512)) (parityByte s pa) := by
  rw [rebuiltByte, List.foldl_filter]
  refine List.foldl_ext _ _ _ fun x j _ => ?_
  by_cases hj : j = unitOf pa
  · simp [hj]
  · simp [hj]

theorem settleWord_of_bad {s : State} {w : Nat} (hlost : s.lost.contains (dataStack (8 * w)) = false) (hbad : synKind (look 0 s.dev.syn w) = .bad) :
    settleWord s w = rebuildUnit s w := by
  rw [settleWord, hlost, if_neg (by decide)]
  simp only [hbad]

section Unit
variable {s : State} {w : Nat} (hlost : s.lost.contains (dataStack (8 * w)) = false) (hwf : s.dev.wf = true)
  (hparity : canonical 0 s.parity = true) (hparSyn : canonical 0 s.parSyn = true)
include hlost hwf hparity hparSyn

/-- A unit of a stack that answers, rebuilt: the words that can be are written back, and the uncorrectable ones that cannot are lost. -/
theorem rebuildUnit_of_held : ∃ t lost, rebuildUnit s w = loseWords t lost ∧ t.rebuilds = s.rebuilds ∧
    (∀ v ∈ lost, canRebuild s v = false) ∧
    ∀ v ∈ unitWords w,
      (synKind (look 0 s.dev.syn v) ≠ .poison → canRebuild s v = true →
        look 0 t.dev.syn v = 0 ∧ ∀ i < 8, look 0 t.dev.bytes (8 * v + i) = rebuiltByte s (8 * v + i)) ∧
      (synKind (look 0 s.dev.syn v) = .bad → canRebuild s v = false → v ∈ lost) := by
  have hdev := (Store.wf_iff _).mp hwf
  have hrows := rowsRead_foldl ⟨rfl, .refl hdev.1 hdev.2.2.2, .refl hparity hparSyn⟩ (unitWords w)
  unfold rebuildUnit
  rw [hlost]
  dsimp only
  simp only [Bool.false_eq_true, if_false]
  generalize List.foldl correctRow s (unitWords w) = u at hrows ⊢
  have hable : ∀ v ∈ (unitWords w).filter (fun v => synKind (look 0 u.dev.syn v) != .poison && canRebuild u v), v / 64 = w / 64 := fun v hv =>
    mem_unitWords.mp (List.mem_filter.mp hv).1
  have hbuilt := (Rebuilt.mk (s := u) rfl hrows.dev.bytes hrows.dev.syns (fun _ _ => ⟨rfl, fun _ _ => rfl⟩)
    (fun _ hv => absurd hv List.not_mem_nil)).foldl (fun _ hv => absurd hv List.not_mem_nil) _ hable
  refine ⟨_, _, rfl, by rw [hbuilt.rest]; exact hrows.rebuilds, fun v hv => ?_, fun v hv => ⟨fun hkind hcan => ?_, fun hkind hcan => ?_⟩⟩
  · rw [List.mem_filter, hrows.canRebuild, Bool.and_eq_true, Bool.not_eq_true'] at hv
    exact hv.2.1
  · have hin : v ∈ (unitWords w).filter (fun v => synKind (look 0 u.dev.syn v) != .poison && canRebuild u v) := by
      rw [List.mem_filter, bne, hrows.dev.poison, hrows.canRebuild, hcan]
      exact ⟨hv, by rw [beq_eq_false_iff_ne.mpr hkind]; rfl⟩
    obtain ⟨hsyn, hbytes⟩ := hbuilt.these v (List.mem_append_left _ (List.mem_reverse.mpr hin))
    exact ⟨hsyn, fun i hi => (hbytes i hi).trans (hrows.rebuiltByte _)⟩
  · rw [List.mem_filter, hrows.canRebuild, hrows.dev.bad, hcan, hkind]
    exact ⟨hv, by decide⟩

end Unit

/-! ## A stale parity unit made afresh (R381) -/

theorem look_foldl_put_range (base n : Nat) (f : Nat → BitVec 8) {m : Sparse (BitVec 8)} (h : canonical 0 m = true) (a : Nat) :
    look 0 ((List.range n).foldl (fun m i => put 0 m (base + i) (f i)) m) a = if base ≤ a ∧ a < base + n then f (a - base) else look 0 m a := by
  induction n with
  | zero => simp [show ¬(base ≤ a ∧ a < base) by omega]
  | succ n ih =>
    rw [List.range_succ, List.foldl_append, List.foldl_cons, List.foldl_nil,
      look_put 0 _ _ _ (canonical_foldl_put 0 _ (fun i => base + i) (fun _ i => f i) h), ih]
    by_cases ha : a = base + n
    · subst ha
      rw [if_pos rfl, if_pos (by omega), show base + n - base = n by omega]
    · rw [if_neg ha]
      by_cases hin : base ≤ a ∧ a < base + n
      · rw [if_pos hin, if_pos (by omega)]
      · rw [if_neg hin, if_neg (by omega)]

/-- A stripe whose data words can all be read: nothing is lost, and the parity unit is that of what a read of them gives. -/
theorem exec_parityResync {s : State} {k stripe : Nat} (hk : s.stale[k]? = some stripe) (hwf : s.dev.wf = true)
    (hwords : ∀ i < 960, synKind (look 0 s.dev.syn (stripe * 960 + i)) ≠ .bad ∧ s.lost.contains (dataStack (8 * (stripe * 960 + i))) = false) :
    ∃ u, WordsRead s u ∧ exec (.parityResync k) s = .next { u with
      parity := (List.range 512).foldl (fun m i => put 0 m (stripe * 512 + i) (freshParity u stripe i)) u.parity
      parSyn := (List.range 64).foldl (fun m i => put 0 m (stripe * 512 / 8 + i) 0) u.parSyn
      stale := u.stale.erase stripe } := by
  have hdev := (Store.wf_iff _).mp hwf
  have hread := wordsRead_foldl ⟨rfl, .refl hdev.1 hdev.2.2.2⟩
    (((List.range 960).map fun i => stripe * 960 + i).filter fun w => !s.lost.contains (dataStack (8 * w)))
  have hexec : exec (.parityResync k) s = execParityResync k s := rfl
  rw [hexec, execParityResync, hk]
  dsimp only
  generalize List.foldl correctWord s _ = u at hread ⊢
  have hnone : ((List.range 960).map fun i => stripe * 960 + i).filter (fun w =>
      synKind (look 0 u.dev.syn w) == .bad || (s.lost.contains (dataStack (8 * w)) && look 0 u.dev.syn w != 0xFF)) = [] := by
    rw [List.filter_eq_nil_iff]
    intro w hw
    obtain ⟨i, hi, rfl⟩ := List.mem_map.mp hw
    obtain ⟨hkind, hheld⟩ := hwords i (List.mem_range.mp hi)
    rw [hread.corrects.bad, hheld]
    simpa using hkind
  rw [hnone]
  exact ⟨u, hread, rfl⟩

theorem freshParity_of_idle {s : State} (h : s.diffs = []) (stripe off : Nat) :
    freshParity s stripe off = (List.range 15).foldl (fun x j => x ^^^ unitByte s stripe j off) 0 := by
  rw [freshParity, h]
  rfl

/-! ## The statement -/

section Access
variable {s : State} {rid pa : Nat} {r : Request} (h : AtDie s rid r pa) (hend : pa % 64 + r.len ≤ 64)
  (hstale : s.stale.contains (stripeOf pa) = false) {fn b c : Nat} (hop : r.op = .amo fn b c)
include h hend hstale hop

/-- An atomic that leaves its word as it was. -/
theorem deviceAtomic_kept (hnew : (amoNew fn (8 * r.len) (devRead s r.ten pa r.len) b c).1 = none) :
    ∃ t, exec (.deviceAtomic rid) s = .next t ∧ devRead t r.ten pa r.len = devRead s r.ten pa r.len ∧
      (∀ a, keyedByte t r.ten a = keyedByte s r.ten a) ∧ t.dev = s.dev ∧ t.lineKey = s.lineKey ∧
      Answers s t r (RegVal.ofNat (devRead s r.ten pa r.len)) (amoNew fn (8 * r.len) (devRead s r.ten pa r.len) b c).2 := by
  have hexec := exec_deviceAtomic_amo h hend hstale hop
  rw [hnew, Option.elim_none] at hexec
  exact ⟨_, hexec, devRead_reply .., fun a => keyedByte_reply .., (reply_dev ..).1, (reply_dev ..).2.1, answers_reply rfl ..⟩

/-- An atomic that stores a number in its word, under the key of its tenant. -/
theorem deviceAtomic_stored {v : Nat} (hnew : (amoNew fn (8 * r.len) (devRead s r.ten pa r.len) b c).1 = some v) (hwf : s.dev.wf = true)
    (hlineKey : canonical 0 s.lineKey = true) (hten : r.ten ≠ noTenant) (hkey : look 0 s.keys r.ten ≠ 0) :
    ∃ t, exec (.deviceAtomic rid) s = .next t ∧ devRead t r.ten pa r.len = v % 2 ^ (8 * r.len) ∧
      (∀ a, a / 64 = pa / 64 → a < pa ∨ pa + r.len ≤ a → keyedByte t r.ten a = keyedByte s r.ten a) ∧
      (∀ a, a / 64 ≠ pa / 64 → look 0 t.dev.bytes a = look 0 s.dev.bytes a ∧ look 0 t.lineKey (a / 64) = look 0 s.lineKey (a / 64)) ∧
      Answers s t r (RegVal.ofNat (devRead s r.ten pa r.len)) (amoNew fn (8 * r.len) (devRead s r.ten pa r.len) b c).2 := by
  have hexec := exec_deviceAtomic_amo h hend hstale hop
  rw [hnew, Option.elim_some] at hexec
  have hwritten := (lineWritten_performLine h.whole hten hkey r.id r.slot (dieOf (clusterOf r.slot)) (bytesAt (pa % 64) r.len v) 0 hwf hlineKey).reply
    r (RegVal.ofNat (devRead s r.ten pa r.len)) (amoNew fn (8 * r.len) (devRead s r.ten pa r.len) b c).2
  obtain ⟨hread, hothers⟩ := LineWritten.number rfl hend hwritten h.whole hkey
  obtain ⟨-, -, -, -, -, -, hslots, -⟩ :=
    performLine_of_clean h.whole hten hkey r.id r.slot (dieOf (clusterOf r.slot)) (bytesAt (pa % 64) r.len v) 0
  exact ⟨_, hexec, hread, hothers, fun a ha => hwritten.elsewhere ha, answers_reply hslots ..⟩

end Access

/-- Settles O45: on clean lines the block cipher is undone by the reader's key; a difference is combined into what reads of the parity unit
give; and a unit's words are rebuilt from the other units, which its rebuilding leaves. -/
theorem deviceAccessResults : Obligations.DeviceAccessResults := by
  unfold Obligations.DeviceAccessResults
  refine ⟨?access, ?store, ?difference, ?held, ?rebuild, ?resync⟩
  case access =>
    intro rid pa s r h hpos hlen hend
    refine ⟨fun k lc hop => deviceRead_load h hlen hend hop, fun fn b c hop hfn hb hwf hlineKey hkeyed hstale => ?_⟩
    obtain ⟨hten, hkey⟩ := hkeyed
    obtain ⟨hleaves, hflags⟩ := amoNew_leaves hfn (show 0 < 8 * r.len by omega) (devRead s r.ten pa r.len) b c
    cases hnew : (amoNew fn (8 * r.len) (devRead s r.ten pa r.len) b c).1 with
    | none =>
      obtain ⟨t, hexec, hread, hbytes, hdev, hline, hanswers⟩ := deviceAtomic_kept h hend hstale hop hnew
      rw [hnew, Option.getD_none] at hleaves
      refine ⟨t, hexec, ?_, fun a _ _ => hbytes a, fun a _ => ⟨by rw [hdev], by rw [hline]⟩, hflags ▸ hanswers⟩
      rw [hread, ← hleaves, Nat.mod_eq_of_lt (devRead_lt ..)]
    | some v =>
      obtain ⟨t, hexec, hread, hbytes, helsewhere, hanswers⟩ := deviceAtomic_stored h hend hstale hop hnew hwf hlineKey hten hkey
      rw [hnew, Option.getD_some] at hleaves
      exact ⟨t, hexec, hleaves ▸ hread, hbytes, helsewhere, hflags ▸ hanswers⟩
  case store =>
    intro k s d hd hready hgrd hpeer hwf hlineKey _ _ hkeyed hclean
    obtain ⟨hten, hkey⟩ := hkeyed
    have hcleanU := hclean.withStores (s.stores.erase d)
    have hwritten := lineWritten_performLine hcleanU hten hkey d.id d.slot d.die d.bytes d.tags hwf hlineKey
    obtain ⟨-, -, hdiffs, -, -, -, -, hstores⟩ := performLine_of_clean hcleanU hten hkey d.id d.slot d.die d.bytes d.tags
    refine ⟨_, exec_deviceStore hd hready hgrd hpeer, hstores, fun i hi => ?_, ?_, fun a ha => hwritten.elsewhere ha, ?_⟩
    · rw [hwritten.keyedByte hcleanU hkey (by omega), plainLine, show (64 * d.line + i) % 64 = i by omega, keyedByte_withStores]
    · rw [hwritten.lineKey, if_pos rfl]
    · change if s.lost.contains (parityStack (64 * d.line)) then _ else _
      split
      · next hlost => exact hdiffs.trans (if_pos hlost)
      · next hlost =>
        refine ⟨_, hdiffs.trans (if_neg hlost), rfl, rfl, rfl, fun i hi =>
          (find_lineDiff (s := { s with stores := s.stores.erase d }) hten hkey _ _ _ _ hi).trans ?_⟩
        rw [hwritten.bytes, if_pos (by omega), show (64 * d.line + i) % 64 = i by omega]
  case difference =>
    intro k s d hd hparity hparSyn hbs
    have hexec : exec (.parityDifference k) s = .next (applyDiff { s with diffs := s.diffs.erase d } d) := by
      rw [show exec (.parityDifference k) s = execParityDifference k s from rfl, execParityDifference, hd]
    refine ⟨fun hpoor hwords => ?_, fun hbad => ?_⟩
    · obtain ⟨hdiffs, hstale, hreads⟩ := applyDiff_of_words (s := { s with diffs := s.diffs.erase d }) hpoor hwords hparity hparSyn hbs
      refine ⟨_, hexec, hdiffs, hstale, fun i => (hreads _).trans ?_, fun a ha => (hreads a).trans (if_neg (by omega))⟩
      rw [if_pos (Nat.le_add_right ..), Nat.add_sub_cancel_left]
    · obtain ⟨hdiffs, hsame, hstale⟩ := applyDiff_of_bad (s := { s with diffs := s.diffs.erase d }) hbad
      exact ⟨_, hexec, hdiffs, hsame, hstale⟩
  case held =>
    intro k w s hk hstale
    have hready : rebuildReady s w = false := by rw [rebuildReady, hstale]; rfl
    rw [show exec (.reconstruction k) s = execReconstruction k s from rfl, execReconstruction, hk]
    dsimp only
    rw [hready]
    rfl
  case rebuild =>
    intro k w s hk hstale hlost hbad hwf hparity hparSyn
    have hexec : exec (.reconstruction k) s = .next (rebuildUnit { s with rebuilds := s.rebuilds.erase w } w) := by
      have hready : rebuildReady s w = true := by rw [rebuildReady, hstale]; rfl
      rw [show exec (.reconstruction k) s = execReconstruction k s from rfl, execReconstruction, hk]
      dsimp only
      rw [hready, if_pos rfl, settleWord_of_bad (s := { s with rebuilds := s.rebuilds.erase w }) hlost hbad]
    obtain ⟨t, lost, hunit, hrebuilds, hcannot, hwords⟩ :=
      rebuildUnit_of_held (s := { s with rebuilds := s.rebuilds.erase w }) hlost hwf hparity hparSyn
    obtain ⟨hbytes, hkept, hevents⟩ := loseWords_facts t lost
    rw [hunit] at hexec
    refine ⟨_, hexec, hkept.trans hrebuilds, fun v hv => ⟨fun hkind hcan => ?_, fun hkind hcan => ?_⟩⟩
    · obtain ⟨hsyn, hword⟩ := (hwords v hv).1 hkind hcan
      have hout : v ∉ lost := fun hin => by
        have := (hcannot v hin).symm.trans hcan
        exact absurd this (by decide)
      refine ⟨by rw [syn_loseWords, if_neg hout, hsyn], fun i hi => ?_⟩
      rw [hbytes, hword i hi]
      exact rebuiltByte_eq_filter s _
    · have hin := (hwords v hv).2 hkind hcan
      exact ⟨by rw [syn_loseWords, if_pos hin], hevents v hin⟩
  case resync =>
    intro k stripe s hk hdiffs hwf hparity hparSyn hwords
    obtain ⟨u, hread, hexec⟩ := exec_parityResync hk hwf hwords
    have hdiffs' : u.diffs = [] := by rw [hread.rest]; exact hdiffs
    have hunit (j off : Nat) : unitByte u stripe j off = unitByte s stripe j off := hread.corrects.reads _
    have hparity' : u.parity = s.parity := by rw [hread.rest]
    have hlook := look_foldl_put_range (stripe * 512) 512 (freshParity u stripe) (hparity' ▸ hparity)
    refine ⟨_, hexec, ?_, hread.corrects.reads, fun i hi => ?_, fun a ha => ?_⟩
    · dsimp only
      rw [hread.rest]
    · rw [hlook, if_pos (by omega), freshParity_of_idle hdiffs', show stripe * 512 + i - stripe * 512 = i by omega]
      simp only [hunit]
    · rw [hlook, if_neg (by omega), hparity']

end Sys2Proof.Machine
end

section
/-! PROOFS. Special registers (R101, R259-R261): what `mfs` gives, and which of its ways a `mts` goes. -/

namespace Sys2Proof.Machine

/-! ## `mfs` -/

/-- The register PRIO reads the thread's priority (R259). The number is a variable, so that the kernel reads no record to compare. -/
theorem readSpr_prio {s : State} {g spr : Nat} (h : spr = 0x014) : readSpr s g spr = recPrio s (clusterOf g) (s.slot g).recOfs := by
  unfold readSpr
  split
  case h_8 => rfl
  all_goals contradiction

section Read
variable {m : Bool} {d spr : Nat} {s : State}

theorem exec_mfs_of_below (h : (s.slot s.cur).prv < sprReadPriv spr) : exec (.mfs m d spr) s = .next (trapHere s s.cur .priv 0) := by
  simp only [exec, execMfs, if_pos h, issue_trap]

theorem exec_mfs_of_privileged (h : sprReadPriv spr ≤ (s.slot s.cur).prv) :
    exec (.mfs m d spr) s = .next (issued m s.cur (writeReg s s.cur d (RegVal.ofNat (readSpr s s.cur spr)))) := by
  simp only [exec, execMfs, if_neg h.not_gt, issue_ok]

end Read

/-! ## `mts` -/

section Write
variable {m : Bool} {spr a : Nat} {s : State}

theorem exec_mts_of_below (h : (s.slot s.cur).prv < (sprWritePriv spr).getD 0) :
    exec (.mts m spr a) s = .next (trapHere s s.cur .priv 0) := by
  simp only [exec, execMts, if_pos h, issue_trap]

variable (hprv : (sprWritePriv spr).getD 0 ≤ (s.slot s.cur).prv) (hsrc : checkSrc s s.cur [a] 0 = .ok () s)
include hprv hsrc

theorem exec_mts_of_badValue {c : Cause} (hval : sprValueCheck s s.cur spr (srcInt s [a] 0).toNat = some c) :
    exec (.mts m spr a) s = .next (trapHere s s.cur c 0) := by
  rw [srcInt] at hval
  simp only [exec, execMts, if_neg hprv.not_gt, hsrc, Res.bind_ok, hval, issue_trap]

variable (hval : sprValueCheck s s.cur spr (srcInt s [a] 0).toNat = none)
include hval

/-- A register of the thread or of its record is written as the word issues. -/
theorem exec_mts_of_own (hown : sprShared spr = false) : exec (.mts m spr a) s =
    .next (issued m s.cur (writeOwnSpr (popAll s s.cur [a]) s.cur spr (srcInt s [a] 0).toNat)) := by
  rw [srcInt] at hval ⊢
  simp only [exec, execMts, if_neg hprv.not_gt, hsrc, Res.bind_ok, hval, hown, Bool.not_false, if_true, issue_ok]

/-- A shared register is written by a request that leaves after a fence, and for whose reply the thread waits (R261). -/
theorem exec_mts_of_shared (hshared : sprShared spr = true) {u : State} (hfence : withFence 1 4 s = .ok () u) :
    let q := popAll u u.cur [a]
    exec (.mts m spr a) s = .next (issued m s.cur (parkAfter
      (sendReq q { newReq q q.cur .sc (.mts spr (srcInt s [a] 0)) 0 8 3 0 with phase := .sent }) (.reply u.nextId))) := by
  rw [srcInt] at hval ⊢
  simp only [exec, execMts, if_neg hprv.not_gt, hsrc, Res.bind_ok, hval, hshared, Bool.not_true, Bool.false_eq_true, if_false, hfence, issue_ok]

end Write

/-! ## The values of `mts` -/

section Values
variable {s : State} {g v : Nat}

/-- A value is refused for `RND` and for `PRIO` alone (R101, R259). -/
theorem sprValueCheck_of_free {spr : Nat} (hwrite : (sprWritePriv spr).isSome = true) (hrnd : spr ≠ 0x001) (hprio : spr ≠ 0x014) :
    sprValueCheck s g spr v = none := by
  simp [sprValueCheck, Option.isSome_iff_ne_none.mp hwrite, hrnd, hprio]

theorem sprValueCheck_rnd : sprValueCheck s g 0x001 v = if 6 ≤ v % 8 then some .illegal else none := by
  simp [sprValueCheck, sprWritePriv, fld_zero]

theorem sprValueCheck_prio : sprValueCheck s g 0x014 v =
    if (s.slot g).prv = 0 ∧ recPrio s (clusterOf g) (s.slot g).recOfs < v % 16 then some .priv else none := by
  simp [sprValueCheck, sprWritePriv, fld_zero]

end Values

/-! ## The thread's own registers -/

section Own
variable (s : State) (g v : Nat)

theorem writeOwnSpr_stat :
    writeOwnSpr s g 0x000 v = s.onSlot g fun x => { x with ctx := { x.ctx with stat := BitVec.ofNat 64 (v % 32) } } := by
  simp [writeOwnSpr, fld_zero]

theorem writeOwnSpr_rnd :
    writeOwnSpr s g 0x001 v = s.onSlot g fun x => { x with ctx := { x.ctx with rnd := BitVec.ofNat 64 (v % 16) } } := by
  simp [writeOwnSpr, fld_zero]

theorem writeOwnSpr_felim : writeOwnSpr s g 0x002 v = s.onSlot g fun x => { x with ctx := { x.ctx with felim := v % 2 ^ 32 } } := by
  simp [writeOwnSpr, fld_zero]

theorem writeOwnSpr_prio : writeOwnSpr s g 0x014 v = setRec s (clusterOf g) (s.slot g).recOfs 0 44 4 (v % 16) := by
  simp [writeOwnSpr, fld_zero]

end Own

/-- Settles O34: `mfs` by the privilege that its register asks for; `mts` by that privilege, by what its value is checked for, and by
whether its register is the thread's own or a shared one. -/
theorem specialRegisterWords : Obligations.SpecialRegisterWords := by
  unfold Obligations.SpecialRegisterWords
  refine ⟨fun m d s r hr => ?reads,
    fun m a s hsrc => ⟨?stat, fun hmode => ?rnd, fun hmode => ?rndReserved, ?felim, fun hprio => ?prio, fun huser hprio => ?prioAbove,
      fun r hr => ?shared⟩⟩
  case reads =>
    have hrow : sprReadPriv r.1 = r.2.1 ∧ readSpr s s.cur r.1 = r.2.2 := by
      fin_cases hr
      pick_goal 8 -- PRIO
      · exact ⟨rfl, readSpr_prio rfl⟩
      all_goals exact ⟨rfl, rfl⟩
    rw [← hrow.1, ← hrow.2]
    exact ⟨exec_mfs_of_below, exec_mfs_of_privileged⟩
  case stat =>
    rw [exec_mts_of_own (Nat.zero_le _) hsrc (sprValueCheck_of_free rfl (by decide) (by decide)) rfl, writeOwnSpr_stat]
  case rnd =>
    rw [exec_mts_of_own (Nat.zero_le _) hsrc (sprValueCheck_rnd.trans (if_neg hmode.not_ge)) rfl, writeOwnSpr_rnd]
  case rndReserved => exact exec_mts_of_badValue (Nat.zero_le _) hsrc (sprValueCheck_rnd.trans (if_pos hmode))
  case felim =>
    rw [exec_mts_of_own (Nat.zero_le _) hsrc (sprValueCheck_of_free rfl (by decide) (by decide)) rfl, writeOwnSpr_felim]
  case prio =>
    have hallowed : ¬((s.slot s.cur).prv = 0 ∧ recPrio s (clusterOf s.cur) (s.slot s.cur).recOfs < (srcInt s [a] 0).toNat % 16) := by omega
    rw [exec_mts_of_own (Nat.zero_le _) hsrc (sprValueCheck_prio.trans (if_neg hallowed)) rfl, writeOwnSpr_prio]
  case prioAbove => exact exec_mts_of_badValue (Nat.zero_le _) hsrc (sprValueCheck_prio.trans (if_pos ⟨huser, hprio⟩))
  case shared =>
    have hrow : sprWritePriv r.1 = some r.2 ∧ r.1 ≠ 0x001 ∧ r.1 ≠ 0x014 ∧ sprShared r.1 = true := by fin_cases hr <;> decide
    obtain ⟨hpriv, hrnd, hprio, hshared⟩ := hrow
    have hleast : (sprWritePriv r.1).getD 0 = r.2 := by rw [hpriv, Option.getD_some]
    exact ⟨fun hbelow => exec_mts_of_below (hleast ▸ hbelow), fun hprv u hfence =>
      exec_mts_of_shared (hleast ▸ hprv) hsrc (sprValueCheck_of_free (by rw [hpriv, Option.isSome_some]) hrnd hprio) hshared hfence⟩

end Sys2Proof.Machine
end

section
/-! PROOFS. Why a matrix operation that is ready may leave no result (R113, R351, R395): one whose operands have become poison since its
checks fails in place of completing. -/

namespace Sys2Proof.Machine

theorem deferred_orFlags (s : State) (g fl : Nat) : ((orFlags s g fl).slot g).deferred = (s.slot g).deferred := by
  rw [orFlags, State.slot_onSlot_self]

/-- An operation that leaves the queue defers no trap. -/
theorem deferred_doneOp (s : State) (core : Nat) (e : MatEntry) (fl : Nat) :
    ((doneOp s core e fl).slot e.slot).deferred = (s.slot e.slot).deferred :=
  deferred_orFlags (s.onCore core fun c => { c with queue := c.queue.erase e }) e.slot fl

/-- An operation whose operands are spoiled as it would complete traps POISON (R395). -/
theorem exec_matrixOpComplete_of_spoiled {core k : Nat} {s : State} {e : MatEntry} (hready : entryReady s core k = true)
    (hentry : (s.core core).queue[k]? = some e) (hspoiled : opSpoiled s (s.core core) e = true) :
    exec (.matrixOpComplete core k) s = .next (failOp s e .poison) := by
  simp only [exec, execMatrixOpComplete, hready, if_true, hentry, hspoiled]

/-- An `mma` of slot 0 of the part on the operand slots 0 and 1, that zeroes its accumulator. -/
def spoiledMma : MatOperand := ⟨false, 0, 0, 1, 20, 1, true⟩

def spoiledEntry : MatEntry :=
  newEntry State.reset 0 (.mma spoiledMma) RegVal.zero RegVal.zero RegVal.zero RegVal.zero

/-- A part whose slot 0 holds both operand slots and the accumulator and has that operation in the queue of core 0; since it was queued,
the first doubleword of operand slot 0 has become poison. -/
def spoiledPart : State :=
  { State.reset with
    slots := [(0, { Slot.reset with status := .ready })]
    cores := [(0, { Core.reset with
      holder := [(0, 0), (1, 0), (16, 0)], hdrs := [(0, makeHdr 0 true 1 2 3 31), (1, makeHdr 0 true 1 1 3 63)], opPsn := [0]
      queue := [spoiledEntry] })] }

/-- The operation is ready, at the head of the queue and of a supported shape, but spoiled. -/
theorem ready_spoiledPart : entryReady spoiledPart 0 0 = true ∧ (spoiledPart.core 0).queue[0]? = some spoiledEntry ∧
    matShape (spoiledPart.core 0) .mma spoiledMma.a spoiledMma.b = some (false, 64) ∧
    opSpoiled spoiledPart (spoiledPart.core 0) spoiledEntry = true := by
  refine ⟨?_, ?_, ?_, ?_⟩ <;> decide +kernel

/-- Its failure defers a trap of its thread, which had none. -/
theorem deferred_spoiledPart : (spoiledPart.slot spoiledEntry.slot).deferred = none ∧
    ((failOp spoiledPart spoiledEntry .poison).slot spoiledEntry.slot).deferred.isSome = true := by
  refine ⟨?_, ?_⟩ <;> decide +kernel

/-- Refutes O26: its first clause says that a ready `mma` of a supported shape always completes. One whose operands have become poison since
its checks fails with a deferred POISON trap instead (R351, R395; log entry 85, DESIGN CHOICE), and no hypothesis excludes it. -/
theorem not_arrayResults : ¬ Obligations.ArrayResults := by
  unfold Obligations.ArrayResults
  rintro ⟨hresults, -⟩
  obtain ⟨hready, hentry, hshape, hspoiled⟩ := ready_spoiledPart
  obtain ⟨hbefore, hfailed⟩ := deferred_spoiledPart
  obtain ⟨v, fl, hexec, -⟩ := hresults 0 0 spoiledPart spoiledEntry .mma spoiledMma 64 false List.mem_cons_self hready hentry hshape
  rw [exec_matrixOpComplete_of_spoiled hready hentry hspoiled] at hexec
  rw [Host.Outcome.next.inj hexec, deferred_doneOp, State.slot_setCore, hbefore] at hfailed
  exact absurd hfailed (by decide)

end Sys2Proof.Machine
end

section
/-! PROOFS. The words of the array (R113-R118, R226-R236): once their checks pass they join their core's queue; what the checks trap on, in
order (R108, R113, R348). -/

namespace Sys2Proof.Machine

/-! ## Joining the queue (R114, R228) -/

theorem idleFor_of_idle {s : State} {g kind mask : Nat} (h : namedBusy s g kind mask = false) : idleFor s g kind mask = .ok () s := by
  simp [idleFor, h]

/-- A word that its thread issues takes the next number as it joins the queue. -/
theorem enqueueOp_newEntry (s u : State) (g : Nat) (op : Instr) (c0 c1 a b : RegVal) :
    enqueueOp u (newEntry s g op c0 c1 a b) = queued u (newEntry s g op c0 c1 a b) := rfl

/-- An operation that its thread issues waits in the queue. -/
theorem runDirect_newEntry (s u : State) (g : Nat) (op : Instr) (c0 c1 a b : RegVal) :
    runDirect u (newEntry s g op c0 c1 a b) = .ok () (queuedDirect u (newEntry s g op c0 c1 a b)) := rfl

section Start
variable {s : State} {o : MatOperand} {form : MatForm} {op : Instr}

/-- What `mma`, `mmq` and `mml` do once nothing that comes first is pending. -/
theorem startMat_of_idle (hidle : namedBusy s s.cur 0 (maskOf [16 + o.acc, o.a, o.b]) = false) :
    startMat s form op o =
      (orTrap (matChecks (s.core (coreOf s.cur)) form o (entryOf s op RegVal.zero RegVal.zero RegVal.zero RegVal.zero)) s).bind fun _ u =>
        .ok () (queuedDirect u (entryOf s op RegVal.zero RegVal.zero RegVal.zero RegVal.zero)) := by
  simp only [startMat, idleFor_of_idle hidle, Res.bind_ok, entryOf, runDirect_newEntry]

theorem startMmd_of_checks {u : State} (hsrc : checkSrc s s.cur [o.c, o.c + 1] 0 = .ok () s)
    (hidle : namedBusy s s.cur 0 (maskOf [16 + o.acc, o.a, o.b]) = false)
    (hroom : hasRoom s s.cur (if devClass (readReg s s.cur o.c).addr then .device else .relaxed) = true)
    (hchecks : mmdChecks s o (entryOf s op (readReg s s.cur o.c) (readReg s s.cur (o.c + 1)) RegVal.zero RegVal.zero) = .ok () u) :
    startMmd s op o =
      .ok () (queuedDirect u (entryOf s op (readReg s s.cur o.c) (readReg s s.cur (o.c + 1)) RegVal.zero RegVal.zero)) := by
  rw [entryOf] at hchecks ⊢
  simp only [startMmd, hsrc, idleFor_of_idle hidle, room_of_hasRoom hroom, hchecks, Res.bind_ok, runDirect_newEntry]

end Start

/-- Settles O24: the checks of each word pass, so only the queue is left. -/
theorem arrayWordsJoinTheQueue : Obligations.ArrayWordsJoinTheQueue := by
  unfold Obligations.ArrayWordsJoinTheQueue
  refine ⟨fun o s hidle => ⟨fun hchecks => ?mma, fun hchecks => ?mmq, fun hsrc hchecks => ?mml,
    fun op hop hsrc hroom u hchecks => ?mmd⟩, fun o s u hsrc hroom hchecks => ?maccSt, fun m acc s hclaim => ?maccZ,
    fun m acc slot swz s hidle hchecks => ?mqfin⟩
  case mma => simp only [exec, execMma, startMat_of_idle hidle, hchecks, orTrap, Res.bind_ok, issue_ok]
  case mmq => simp only [exec, execMmq, startMat_of_idle hidle, hchecks, orTrap, Res.bind_ok, issue_ok]
  case mml => simp only [exec, execMml, hsrc, startMat_of_idle hidle, hchecks, orTrap, Res.bind_ok, issue_ok]
  case mmd =>
    obtain rfl | rfl := List.mem_pair.mp hop
    · simp only [exec, execMmd, startMmd_of_checks hsrc hidle hroom hchecks, issue_ok]
    · simp only [exec, execMmdFull, startMmd_of_checks hsrc hidle hroom hchecks, issue_ok]
  case maccSt =>
    simp only [exec, execMaccSt, hsrc, room_of_hasRoom hroom, hchecks, Res.bind_ok, issue_ok, enqueueOp_newEntry, entryOf]
  case maccZ =>
    simp only [exec, execMaccZ, hclaim, Bool.not_true, Bool.false_eq_true, if_false, issue_ok, enqueueOp_newEntry, entryOf]
  case mqfin =>
    simp only [exec, execMqfin, idleFor_of_idle hidle, hchecks, orTrap, Res.bind_ok, issue_ok, enqueueOp_newEntry, entryOf]

/-! ## The checks, in order (R108, R113, R348) -/

section Order
variable {c : Core} {g acc swz : Nat} {keeps : Bool} {slots : List Nat}

/-- The accumulator and every slot are claimed, and every slot is loaded (R108, R113). -/
def Usable (c : Core) (g acc : Nat) (slots : List Nat) : Prop :=
  c.claims g (16 + acc) = true ∧ ∀ n ∈ slots, c.claims g n = true ∧ (c.hdr n).getLsbD 63 = true

/-- No slot holds poison, nor does an accumulator whose contents are kept (R395). -/
def Unspoiled (c : Core) (acc : Nat) (keeps : Bool) (slots : List Nat) : Prop :=
  (∀ n ∈ slots, ∀ k ∈ c.opPsn, k / 2048 ≠ n) ∧ (keeps = true → ∀ k ∈ c.accPsn, k / 4096 ≠ acc)

theorem not_usable_iff : ¬Usable c g acc slots ↔
    c.claims g (16 + acc) = false ∨ (slots.any fun n => !c.claims g n || !hdrFull (c.hdr n)) = true := by
  simp only [Usable, hdrFull, bitAt_toNat, List.any_eq_true, Bool.or_eq_true, Bool.not_eq_true', not_and_or, not_forall, Bool.not_eq_true,
    exists_prop]

theorem unspoiled_iff : Unspoiled c acc keeps slots ↔ (slots.any c.slotPsn || (keeps && c.accBad acc)) = false := by
  simp [Unspoiled, Core.slotPsn, Core.accBad, imp_iff_not_or]

theorem oriented_iff : (∀ n ∈ slots, (c.hdr n).toNat / 2 ^ 60 % 8 = swz) ↔ (slots.any fun n => hdrSwz (c.hdr n) != swz) = false := by
  simp [hdrSwz, fld]

theorem slotChecks_of_unusable (h : ¬Usable c g acc slots) : slotChecks c g acc keeps slots swz = some .slot := by
  obtain hacc | hslot := not_usable_iff.mp h
  · rw [slotChecks, hacc]
    rfl
  · rw [slotChecks, hslot, if_pos rfl, ite_self]

/-- With every resource claimed and loaded, the orientation and then the contents decide. -/
theorem slotChecks_of_usable (h : Usable c g acc slots) : slotChecks c g acc keeps slots swz =
    if slots.any fun n => hdrSwz (c.hdr n) != swz then some .swizzle
    else if slots.any c.slotPsn || (keeps && c.accBad acc) then some .poison else none := by
  obtain ⟨hacc, hslot⟩ := not_or.mp fun hbad => not_usable_iff.mpr hbad h
  rw [slotChecks, Bool.eq_true_of_not_eq_false hacc, Bool.eq_false_of_not_eq_true hslot]
  rfl

end Order

section Mat
variable {form : MatForm} {o : MatOperand} {c : Core} {e : MatEntry} {x : Cause}

theorem matChecks_of_slot (h : slotChecks c e.slot o.acc (!o.z) [o.a, o.b] o.swz = some x) : matChecks c form o e = some x := by
  rw [matChecks, h]

theorem matChecks_of_shape (hslot : slotChecks c e.slot o.acc (!o.z) [o.a, o.b] o.swz = none) (hshape : matShape c form o.a o.b = none) :
    matChecks c form o e = some .format := by
  rw [matChecks, hslot]
  simp only [hshape]

end Mat

/-- Settles O25: each check is reached once those before it pass. -/
theorem arrayChecksTrapInOrder : Obligations.ArrayChecksTrapInOrder := by
  unfold Obligations.ArrayChecksTrapInOrder
  refine ⟨fun c g acc swz keeps slots => ⟨slotChecks_of_unusable, fun husable horiented => ?swizzle,
    fun husable horiented hspoiled => ?poison, fun husable horiented hclean => ?pass⟩, fun o s x hidle p hp => ?mat,
    fun m acc s hclaim => ?maccZ⟩
  case swizzle =>
    rw [oriented_iff, Bool.not_eq_false] at horiented
    rw [slotChecks_of_usable husable, if_pos horiented]
  case poison =>
    have hbad := mt unspoiled_iff.mpr hspoiled
    rw [Bool.not_eq_false] at hbad
    rw [slotChecks_of_usable husable, oriented_iff.mp horiented, hbad]
    rfl
  case pass =>
    rw [slotChecks_of_usable husable, oriented_iff.mp horiented, unspoiled_iff.mp hclean]
    rfl
  case mat =>
    have htraps : ∀ y,
        matChecks (s.core (coreOf s.cur)) p.1 o (entryOf s p.2 RegVal.zero RegVal.zero RegVal.zero RegVal.zero) = some y →
        exec p.2 s = .next (trapHere s s.cur y 0) := fun y hy => by
      obtain rfl | rfl := List.mem_pair.mp hp
      · simp only [exec, execMma, startMat_of_idle hidle, hy, orTrap, Res.bind_trap, issue_trap]
      · simp only [exec, execMmq, startMat_of_idle hidle, hy, orTrap, Res.bind_trap, issue_trap]
    exact ⟨fun hslot => htraps x (matChecks_of_slot hslot), fun hslot hshape => htraps .format (matChecks_of_shape hslot hshape)⟩
  case maccZ => simp only [exec, execMaccZ, hclaim, Bool.not_false, if_true, issue_trap]

end Sys2Proof.Machine
end

section
/-! PROOFS. Claims, loads and status of resources (R108-R110, R237-R239). -/

namespace Sys2Proof.Machine

/-! ## A granted resource (R108) -/

section Grant
variable (c : Core) (g : Nat) {n : Nat}

theorem grantRes_of_slot (h : n < 16) : grantRes c n g = { c with holder := ins c.holder n g, hdrs := del c.hdrs n } := by
  rw [grantRes]
  exact if_pos h

theorem grantRes_of_acc (h : 16 ≤ n) : grantRes c n g = { c with
    holder := ins c.holder n g
    acc := c.acc.filter fun e => e.1 / 4096 != n - 16
    accPsn := c.accPsn.filter fun k => k / 4096 != n - 16
    accInt := del c.accInt (n - 16) } := by
  rw [grantRes]
  exact if_neg (by omega)

theorem find_holder_grantRes : find (grantRes c n g).holder n = some g := by
  obtain h | h := Nat.lt_or_ge n 16
  · rw [grantRes_of_slot c g h, find_ins, if_pos rfl]
  · rw [grantRes_of_acc c g h, find_ins, if_pos rfl]

/-- A granted slot's header is zero. -/
theorem hdr_grantRes (hn : n < 16) (h : rising 0 c.hdrs = true) : (grantRes c n g).hdr n = 0 := by
  rw [grantRes_of_slot c g hn, Core.hdr, look_del _ n n h, if_pos rfl]

/-- A granted accumulator holds zero. -/
theorem acc_grantRes (hn : 16 ≤ n) (h : rising 0 c.acc = true) {i : Nat} (hi : i < 4096) :
    look 0 (grantRes c n g).acc (4096 * (n - 16) + i) = 0 := by
  have hkey : (4096 * (n - 16) + i) / 4096 = n - 16 := by omega
  rw [grantRes_of_acc c g hn, look_filter _ (fun k => k / 4096 != n - 16) _ h, hkey, bne_self_eq_false]
  rfl

/-- A granted accumulator is in FP32 mode. -/
theorem accInt_grantRes (hn : 16 ≤ n) (h : rising 0 c.accInt = true) : look false (grantRes c n g).accInt (n - 16) = false := by
  rw [grantRes_of_acc c g hn, look_del _ _ _ h, if_pos rfl]

end Grant

/-! ## The words (R237-R239) -/

/-- A claim of a resource that another thread holds parks its thread, which waits in line for it. -/
theorem exec_oclaim_of_held {m : Bool} {res g : Nat} {s : State} (hheld : find (s.core (coreOf s.cur)).holder res = some g)
    (hother : g ≠ s.cur) :
    ∃ t, exec (.oclaim m res) s = .next t ∧ (t.slot s.cur).status = .parked (.claim res) ∧
      (res, s.cur) ∈ (t.core (coreOf s.cur)).waiting := by
  by_cases hline : (s.core (coreOf s.cur)).waiting.contains (res, s.cur) = true
  · refine ⟨s.onSlot s.cur fun x => { x with status := .parked (.claim res), mark := false }, ?_, ?_, ?_⟩
    · simp only [exec, execOclaim, hheld, if_neg hother, if_pos hline, issue_wait]
    · rw [State.slot_onSlot_self]
    · exact List.contains_iff_mem.mp hline
  · refine ⟨_, by simp only [exec, execOclaim, hheld, if_neg hother, if_neg hline, issue_wait]; rfl, ?_, ?_⟩
    · rw [State.slot_onSlot_self]
    · rw [State.core_onSlot, State.core_setCore_self]
      exact List.mem_append_right _ List.mem_cons_self

/-- Settles O27: a granted resource reads as zero, and each word whose checks pass is its one effect. -/
theorem claimLoadStatusWords : Obligations.ClaimLoadStatusWords := by
  unfold Obligations.ClaimLoadStatusWords
  refine ⟨fun m res s => ⟨fun hfree => ?free, fun hown => ?own, fun g => exec_oclaim_of_held, fun hidle => ⟨fun hclaim => ?rel,
    fun hclaim => ?keep⟩⟩,
    fun c n g => ⟨find_holder_grantRes c g, hdr_grantRes c g, fun hn => ⟨fun i hi h => ?acc, accInt_grantRes c g hn⟩⟩,
    fun m slot a b s u hsrc hidle hroom hchecks => ?oload, fun m d res s => ?ostat⟩
  case free => simp only [exec, execOclaim, hfree, issue_ok]
  case own => simp only [exec, execOclaim, hown, if_true, issue_ok]
  case rel => simp only [exec, execOrel, idleFor_of_idle hidle, Res.bind_ok, hclaim, if_true, issue_ok]
  case keep => simp only [exec, execOrel, idleFor_of_idle hidle, Res.bind_ok, hclaim, Bool.false_eq_true, if_false, issue_ok]
  case acc => exact acc_grantRes c g hn h (by omega)
  case oload => simp only [exec, execOload, hsrc, idleFor_of_idle hidle, room_of_hasRoom hroom, hchecks, Res.bind_ok, issue_ok]
  case ostat => simp only [exec, execOstat, ostatVal, Bool.not_eq_true', issue_ok]

end Sys2Proof.Machine
end

section
/-! PROOFS. The record words (R119-R121, R230): each sends one access and parks its thread until the reply; `rinit` checks its descriptor
first. -/

namespace Sys2Proof.Machine

/-! ## Whose turn it is after lines drain (R129) -/

theorem drainWhere_cur (s : State) (g : Nat) (p : GatherLine → Bool) : (drainWhere s g p).cur = s.cur := by
  have hlines : ∀ (ls : List GatherLine) (t : State), (ls.foldl (fun t l => drainLine t g l) t).cur = t.cur := fun ls => by
    induction ls with
    | nil => exact fun t => rfl
    | cons l ls ih => exact fun t => (ih (drainLine t g l)).trans rfl
  exact hlines _ s

@[simp] theorem drainRange_cur (s : State) (b : Sender) (g ea len : Nat) : (drainRange s b g ea len).cur = s.cur := by
  unfold drainRange
  induction piecesOf 64 ea len generalizing s with
  | nil => rfl
  | cons q qs ih =>
    rw [List.foldl_cons, ih]
    split
    · exact drainWhere_cur ..
    · exact drainWhere_cur ..
    · rfl

/-! ## A request that parks its thread (R230) -/

/-- The thread parks until the reply of request `rid`, unless its access has parked it already. -/
def parkedFor (t : State) (rid : Nat) : State := match (t.slot t.cur).status with | .parked _ => t | _ => parkAfter t (.reply rid)

theorem parkedReq_of_located {s : State} {r : Request} {need : Nat} {tgt : Target} {e : Option TlbEntry}
    (h : locate s r.slot r.ea r.reach need = some (.at_ tgt e)) :
    parkedReq s r need = .ok () (parkedFor (dispatchReq s r tgt e) s.nextId) := by
  simp only [parkedReq, issueReq_of_located h, Res.bind_ok, parkedFor]
  cases ((dispatchReq s r tgt e).slot (dispatchReq s r tgt e).cur).status <;> rfl

/-! ## The descriptor of `rinit` (R121) -/

theorem rinit_fits_iff (n : Nat) : (1 ≤ n % 1024 ∧ n % 1024 ≤ 992 ∧ n / 2 ^ 10 % 32 ≤ 16 ∧ n / 2 ^ 16 % 256 ≠ 0) ↔
    ¬(fld n 0 10 = 0 ∨ 992 < fld n 0 10 ∨ 16 < fld n 10 5 ∨ fld n 16 8 = 0) := by
  simp only [fld]
  omega

theorem recordSize_fld (n : Nat) : recordSize (fld n 0 10) = 0x20C0 + 128 * (n % 1024) :=
  congrArg recordSize (fld_zero n 10)

/-- Settles O28: draining and popping leave whose turn it is, so the access that is located is the one that leaves. -/
theorem recordWordsIssue : Obligations.RecordWordsIssue := by
  unfold Obligations.RecordWordsIssue
  refine ⟨fun m a b s u tgt e hsrc => ⟨fun hbad => ?reuse, fun hfits hcap hroom hwalked hfed hloc => ?rinit⟩,
    fun m a s u tgt e hsrc hcap hroom hwalked hfed hloc => ?rinval, fun m d a s tgt e hsrc hcap hroom hstore hloc => ?rstat⟩
  case reuse =>
    rw [rinit_fits_iff, not_not] at hbad
    simp only [exec, execRinit, hsrc, Res.bind_ok, if_pos hbad, issue_trap]
  case rinit =>
    rw [rinit_fits_iff] at hfits
    rw [← recordSize_fld] at hcap
    rw [drainRange_cur, popAll_cur] at hloc
    simp only [exec, execRinit, hsrc, Res.bind_ok, if_neg hfits, hcap, room_of_hasRoom hroom, hwalked, hfed]
    rw [parkedReq_of_located hloc, issue_ok]
    rfl
  case rinval =>
    rw [drainRange_cur, popAll_cur] at hloc
    simp only [exec, execRinval, hsrc, Res.bind_ok, hcap, room_of_hasRoom hroom, hwalked, hfed]
    rw [parkedReq_of_located hloc, issue_ok]
    rfl
  case rstat =>
    simp only [exec, execRstat, hsrc, Res.bind_ok, hcap, room_of_hasRoom hroom, hstore]
    rw [parkedReq_of_located hloc, issue_ok]
    rfl

end Sys2Proof.Machine
end

section
/-! SUPPORT. How many bytes a range that is read gives (R75): one for each of its addresses. -/

namespace Sys2Proof.Machine

theorem length_devBytes (s : State) (ten pa n : Nat) : (devBytes s ten pa n).length = n := by
  induction n generalizing pa with
  | zero => rfl
  | succ n ih => rw [devBytes, List.length_cons, ih]

theorem length_devSeen (s : State) (g pa n : Nat) : (devSeen s g pa n).length = n := by
  induction n generalizing pa with
  | zero => rfl
  | succ n ih => rw [devSeen, List.length_cons, ih]

theorem length_overlay (bs : List (BitVec 8)) (own : Sparse (BitVec 8)) : (overlay bs own).length = bs.length := by
  rw [overlay, List.length_map, List.length_zipIdx]

theorem length_cleanBytes (bs : List (BitVec 8)) : (cleanBytes bs).length = bs.length := by rw [cleanBytes, List.length_map]

/-- By target: nowhere, a page not translated, a slice, device memory, a control window, another part. -/
theorem length_readPiece {s u : State} {b : Sender} {ea len : Nat} {xs : List MByte} (h : readPiece s b ea len = (.ok xs, u)) :
    xs.length = len := by
  unfold readPiece at h
  split at h
  case h_1 => nomatch h
  case h_2 =>
    split at h
    · obtain ⟨rfl, -⟩ := by simpa using h
      rw [length_cleanBytes, length_bytesOf]
    · nomatch h
  case h_3 =>
    split at h
    · nomatch h
    · obtain ⟨rfl, -⟩ := by simpa using h
      rw [List.length_map, List.length_zipIdx, length_rangeOf]
  case h_4 =>
    obtain ⟨rfl, -⟩ := by simpa using h
    split
    · rw [List.length_map, List.length_zipIdx, length_devSeen]
    · rw [List.length_map, List.length_zipIdx, length_devBytes]
  case h_5 =>
    split at h
    · nomatch h
    · obtain ⟨rfl, -⟩ := by simpa using h
      rw [length_cleanBytes, List.length_map, List.length_range]
  case h_6 =>
    obtain ⟨rfl, -⟩ := by simpa using h
    rw [List.length_map, length_overlay, length_bytesOf]

theorem length_readPieces {b : Sender} {ps : List (Nat × Nat)} {s u : State} {xs : List MByte} (h : readPieces s b ps = (.ok xs, u)) :
    xs.length = (ps.map (·.2)).sum := by
  induction ps generalizing s u xs with
  | nil =>
    obtain ⟨rfl, -⟩ := by simpa [readPieces] using h
    rfl
  | cons p ps ih =>
    obtain ⟨ea, len⟩ := p
    unfold readPieces at h
    split at h
    · rename_i ys t hpiece
      split at h
      · rename_i zs v hrest
        obtain ⟨rfl, -⟩ := by simpa using h
        rw [List.length_append, length_readPiece hpiece, ih hrest, List.map_cons, List.sum_cons]
      · rename_i hrest
        exact absurd h (hrest _ _)
    · rename_i hpiece
      exact absurd h (hpiece _ _)

theorem cutAt_none (step n a : Nat) : cutAt step n a 0 = [] := by cases n <;> rfl

/-- Enough pieces cover the whole range. -/
theorem sum_cutAt {step : Nat} (hstep : 0 < step) {n a len : Nat} (h : a % step + len ≤ n * step) :
    ((cutAt step n a len).map (·.2)).sum = len := by
  induction n generalizing a len with
  | zero =>
    obtain rfl : len = 0 := by omega
    rfl
  | succ n ih =>
    obtain rfl | hlen := Nat.eq_zero_or_pos len
    · rw [cutAt_none]
      rfl
    rw [Nat.succ_mul] at h
    rw [cutAt, if_neg hlen.ne', List.map_cons, List.sum_cons]
    obtain hlast | hmore := Nat.le_total len (step - a % step)
    · rw [Nat.min_eq_left hlast, Nat.sub_self, cutAt_none]
      rfl
    · have hmod : a % step < step := Nat.mod_lt _ hstep
      have hnext : (a + (step - a % step)) % step = 0 := by
        rw [show a + (step - a % step) = a / step * step + step by have := Nat.div_add_mod' a step; omega, Nat.add_mod_right,
          Nat.mul_mod_left]
      rw [Nat.min_eq_right hmore, ih (by rw [hnext]; omega), Nat.add_sub_cancel' hmore]

theorem length_readSpan {s u : State} {b : Sender} {ea len : Nat} {xs : List MByte} (h : readSpan s b ea len = (.ok xs, u)) :
    xs.length = len := by
  rw [length_readPieces h, piecesOf, sum_cutAt (by decide)]
  omega

end Sys2Proof.Machine
end

section
/-! PROOFS. Elements of streams, the words that a sequencer sends, and the blocks of an `oload` (R109, R125, R202, R214-R217, R223, R224,
R238). -/

namespace Sys2Proof.Machine

/-! ## Elements of streams (R202, R214-R217) -/

section Arrival
variable {g p k : Nat} {s : State} (hp : p < 64)
include hp

theorem arrival_names : (p + 64 * k) % 64 = p ∧ (p + 64 * k) / 64 = k := by omega

theorem exec_arrival_of_fetch (hq : ((s.slot g).port p).outQ = []) (hmay : mayFetch s g p = true) :
    exec (.streamElementArrival g (p + 64 * k)) s = .next (fetchElem s g p) := by
  obtain ⟨hport, -⟩ := arrival_names (k := k) hp
  simp only [exec, execStreamElementArrival, hport, hq, hmay, if_true]

theorem exec_arrival_of_write {e : OutElem} (he : ((s.slot g).port p).outQ[k]? = some e) (hmay : mayWrite s g p k = true) :
    exec (.streamElementArrival g (p + 64 * k)) s = .next (writeNext s g p k e) := by
  obtain ⟨hport, hplace⟩ := arrival_names (k := k) hp
  simp only [exec, execStreamElementArrival, hport, hplace]
  cases hq : ((s.slot g).port p).outQ with
  | nil =>
    rw [hq] at he
    nomatch he
  | cons x xs =>
    rw [hq] at he
    simp only [hmay, if_true, he]

theorem exec_arrival_of_waits (hq : ((s.slot g).port p).outQ ≠ []) (hmay : mayWrite s g p k = false) :
    exec (.streamElementArrival g (p + 64 * k)) s = .next s := by
  obtain ⟨hport, hplace⟩ := arrival_names (k := k) hp
  simp only [exec, execStreamElementArrival, hport, hplace]
  cases hes : ((s.slot g).port p).outQ with
  | nil => contradiction
  | cons x xs => simp only [hmay, Bool.false_eq_true, if_false]

end Arrival

section Fetch
variable {g p : Nat} {s u : State}

theorem fetchElem_of_refused {c : Cause}
    (hcap : capCheck ((s.slot g).port p).cap (((s.slot g).port p).addrOf ((s.slot g).port p).nextIn) ((s.slot g).port p).size permR
      ((s.slot g).port p).size = some c) :
    fetchElem s g p = fetchedInto s g p ⟨0, false, some c⟩ := by
  simp only [fetchElem, hcap]

variable (hcap : capCheck ((s.slot g).port p).cap (((s.slot g).port p).addrOf ((s.slot g).port p).nextIn) ((s.slot g).port p).size permR
  ((s.slot g).port p).size = none)
include hcap

theorem fetchElem_of_read {xs : List MByte}
    (hread : readSpan s (threadSender s g) ((s.slot g).port p).nextRead.1 ((s.slot g).port p).nextRead.2 = (.ok xs, u)) :
    fetchElem s g p = pieceInto u g p xs := by
  simp only [fetchElem, hcap, hread]

theorem fetchElem_of_failed
    (hread : readSpan s (threadSender s g) ((s.slot g).port p).nextRead.1 ((s.slot g).port p).nextRead.2 = (.fail, u)) :
    fetchElem s g p = fetchedInto u g p ⟨0, false, some .access⟩ := by
  simp only [fetchElem, hcap, hread]

end Fetch

/-! ## Words of a body (R223, R224) -/

section Send
variable {core : Nat} {s u : State} {b : SeqBody} {i : Instr} (hseq : (s.core core).seq = some b) (hsend : canSend s core = true)
  (hword : seqWord b s = .ok i u)
include hseq hsend hword

theorem exec_sequencerSend_of_ok {t : State} (hop : sendOp u b i = .ok () t) :
    exec (.sequencerSend core) s = .next (t.onCore core fun c => { c with seq := nextSend b }) := by
  simp only [exec, execSequencerSend, hseq, hsend, Bool.not_true, Bool.false_eq_true, if_false, hword, Res.bind_ok, hop]

theorem exec_sequencerSend_of_trap {c : Cause} {n : Nat} (hop : sendOp u b i = .trap c n) :
    exec (.sequencerSend core) s = .next (seqFail s b.slot c (b.rep.ofs + 1 + b.word) b.rep n) := by
  simp only [exec, execSequencerSend, hseq, hsend, Bool.not_true, Bool.false_eq_true, if_false, hword, Res.bind_ok, hop]

end Send

/-! ## Blocks of an `oload` (R109, R238) -/

/-- A block of a slot holds the bytes that were written to it. -/
theorem opmem_setBlock (c : Core) (n i : Nat) {xs : List MByte} {a : Nat} (h : canonical 0 c.opmem = true) (ha : a < xs.length) :
    look 0 (c.setBlock n i xs).opmem (16384 * n + 64 * i + a) = (xs.getD a (0, false)).1 := by
  rw [Core.setBlock, look_setRange _ _ _ _ h, if_pos (by rw [List.length_map]; omega), Nat.add_sub_cancel_left]
  simp [List.getD_eq_getElem?_getD, ha]

theorem deferred_deferTrap (s : State) (g : Nat) (c : Cause) (ofs : Nat) (rep : Option Rep) (info : Nat) :
    ((deferTrap s g c ofs rep info).slot g).deferred.isSome = true := by
  rw [deferTrap, State.slot_onSlot_self]
  split
  · assumption
  · rfl

theorem core_deferTrap (s : State) (g : Nat) (c : Cause) (ofs : Nat) (rep : Option Rep) (info i : Nat) :
    (deferTrap s g c ofs rep info).core i = s.core i := rfl

/-- A failure of the sequencer's takes only the body from its core. -/
theorem core_seqFail (s : State) (g : Nat) (c : Cause) (ofs : Nat) (rep : Rep) (info i : Nat) :
    ∃ q, (seqFail s g c ofs rep info).core i = { s.core i with seq := q } := by
  rw [seqFail, core_deferTrap]
  obtain rfl | hother := eq_or_ne i (coreOf g)
  · rw [State.core_onCore_self]
    split
    · split
      · exact ⟨_, rfl⟩
      · exact ⟨_, rfl⟩
    · exact ⟨_, rfl⟩
  · exact ⟨_, State.core_onCore_other _ _ hother⟩

section Land
variable {j : OloadJob} {i : Nat} {xs : List MByte} (s : State) (core : Nat)

/-- A job once a block has landed. -/
def OloadJob.landed (j : OloadJob) (i : Nat) (xs : List MByte) : OloadJob := { j with left := j.left.erase i, psn := j.psn || anyPsn xs }

theorem landBlock_of_more (h : j.left.erase i ≠ []) : landBlock s core j i xs =
    s.onCore core fun c => { c.setBlock j.res i xs with oloads := c.oloads.map fun o => if o = j then j.landed i xs else o } := by
  have hmore : (j.left.erase i).isEmpty = false := by rwa [Bool.eq_false_iff, ne_eq, List.isEmpty_iff]
  simp only [landBlock, OloadJob.landed, hmore, Bool.false_eq_true, if_false, Bool.not_false, if_true]

section Last
variable (hlast : j.left.erase i = [])
include hlast

/-- The last block leaves the header of what was loaded (R109). -/
theorem landBlock_of_whole (hwhole : (j.psn || anyPsn xs) = false) : landBlock s core j i xs =
    (dropDone s j.slot j.since).onCore core fun c =>
      { c.setBlock j.res i xs with oloads := c.oloads.erase j, hdrs := put 0 c.hdrs j.res (loadedHdr j.cap j.desc) } := by
  simp only [landBlock, hlast, hwhole, List.isEmpty_nil, Bool.not_true, Bool.not_false, Bool.false_eq_true, if_false, if_true]

/-- Where a block was poisoned, the last one leaves the header as it was and a trap that is deferred (R109, R351). -/
theorem landBlock_of_spoiled (hspoiled : (j.psn || anyPsn xs) = true) :
    let t := (dropDone s j.slot j.since).onCore core fun c => { c.setBlock j.res i xs with oloads := c.oloads.erase j }
    landBlock s core j i xs = if j.seq then seqFail t j.slot .poison j.ofs j.rep 0
      else deferTrap t j.slot .poison j.ofs (if j.rep.active then some j.rep else none) 0 := by
  simp only [landBlock, hlast, hspoiled, List.isEmpty_nil, Bool.not_true, Bool.false_eq_true, if_false, if_true]
  rfl

theorem landed_of_spoiled (hspoiled : (j.psn || anyPsn xs) = true) :
    ((landBlock s core j i xs).core core).oloads = (s.core core).oloads.erase j ∧
      ((landBlock s core j i xs).core core).hdrs = (s.core core).hdrs ∧
      ((landBlock s core j i xs).slot j.slot).deferred.isSome = true := by
  rw [landBlock_of_spoiled s core hlast hspoiled]
  split
  · obtain ⟨q, hcore⟩ := core_seqFail ((dropDone s j.slot j.since).onCore core fun c =>
      { c.setBlock j.res i xs with oloads := c.oloads.erase j }) j.slot .poison j.ofs j.rep 0 core
    rw [hcore, State.core_onCore_self]
    exact ⟨rfl, rfl, deferred_deferTrap ..⟩
  · rw [core_deferTrap, State.core_onCore_self]
    exact ⟨rfl, rfl, deferred_deferTrap ..⟩

end Last

end Land

/-! ### The header that a load leaves (R86, R109) -/

/-- The number of a header whose slot is loaded. -/
theorem makeHdr_toNat (sva swz fmt nblk nvec : Nat) : (makeHdr sva true swz fmt nblk nvec).toNat =
    sva % 2 ^ 57 * 2 ^ 71 + 2 ^ 63 + swz % 8 * 2 ^ 60 + fmt % 256 * 2 ^ 52 + nblk % 4 * 2 ^ 50 + nvec % 256 * 2 ^ 42 := by
  rw [makeHdr, BitVec.toNat_ofNat, if_pos rfl, Nat.mod_eq_of_lt]
  omega

theorem testBit_makeHdr_full (sva swz fmt nblk nvec : Nat) : (makeHdr sva true swz fmt nblk nvec).toNat.testBit 63 = true := by
  rw [Nat.testBit_eq_decide_div_mod_eq, makeHdr_toNat, decide_eq_true_iff]
  omega

theorem swz_makeHdr (sva swz fmt nblk nvec : Nat) : (makeHdr sva true swz fmt nblk nvec).toNat / 2 ^ 60 % 8 = swz % 8 := by
  rw [makeHdr_toNat]
  omega

/-- A loaded header is listed: it is not zero. -/
theorem put_makeHdr (m : Sparse W128) (n sva swz fmt nblk nvec : Nat) :
    put 0 m n (makeHdr sva true swz fmt nblk nvec) = ins m n (makeHdr sva true swz fmt nblk nvec) := by
  refine if_neg fun hzero => ?_
  have hfull := testBit_makeHdr_full sva swz fmt nblk nvec
  rw [hzero] at hfull
  exact absurd hfull (by decide)

theorem loadedHdr_eq (cap : RegVal) (desc : W128) : loadedHdr cap desc =
    makeHdr (if isGlobal cap.addr then desc.toNat / 2 ^ 64 % 2 ^ 57 else cap.addr % 2 ^ 57) true (desc.toNat / 2 ^ 18 % 8)
      (desc.toNat % 256) (desc.toNat / 2 ^ 8 % 4) (desc.toNat / 2 ^ 10 % 256) := by
  simp [loadedHdr, fld]

/-! ### Its blocks (R238) -/

theorem exec_oloadComplete_of_read {core k i : Nat} {s u : State} {j : OloadJob} {xs : List MByte}
    (hj : (s.core core).oloads[k % (s.core core).oloads.length]? = some j)
    (hi : (j.reading s)[k / (s.core core).oloads.length]? = some i) (hready : oloadReady s j i = true)
    (hread : readSpan s (opSender s j.slot j.since) (j.cap.addr + 64 * i) 64 = (.ok xs, u)) :
    exec (.oloadComplete core k) s = .next (landBlock u core j i xs) := by
  simp only [exec, execOloadComplete, hj, hi, Option.filter_some, hready, if_true, OloadJob.block, hread]

/-- Settles O48: a block that is read has its 64 bytes, which is what the slot then holds; a load ends with its last block, by the header or
by a deferred trap. -/
theorem streamsSequencersAndLoads : Obligations.StreamsSequencersAndLoads := by
  unfold Obligations.StreamsSequencersAndLoads
  refine ⟨fun g p k s hp => ⟨exec_arrival_of_waits hp, fun e he hmay => ⟨fun hwhole => ?whole, fun hlong htaken => ?first⟩,
    fun hq hmay => ⟨fun c hcap => ?refused, fun hcap => ⟨fun xs u hread => ⟨fun hless => ?part, fun hall => ?fetched⟩,
      fun u hread => ?failed⟩⟩⟩, fun core s b hseq hsend => ⟨fun i u t hword => exec_sequencerSend_of_ok hseq hsend hword,
      fun i u c n hword => exec_sequencerSend_of_trap hseq hsend hword⟩, fun b => rfl,
    fun core k i s u j xs hj hi hready hres hblock hopmem hhdrs hread => ⟨_, exec_oloadComplete_of_read hj hi hready hread, ?load⟩⟩
  case whole =>
    rw [exec_arrival_of_write hp he hmay, writeNext, if_pos (by simpa using hwhole)]
  case first =>
    rw [exec_arrival_of_write hp he hmay, writeNext, if_neg (by simp [htaken, hlong])]
    rfl
  case refused =>
    rw [exec_arrival_of_fetch hp hq hmay, fetchElem_of_refused hcap]
    rfl
  case part =>
    rw [exec_arrival_of_fetch hp hq hmay, fetchElem_of_read hcap hread, pieceInto]
    exact congrArg _ (if_pos hless)
  case fetched =>
    rw [exec_arrival_of_fetch hp hq hmay, fetchElem_of_read hcap hread, pieceInto]
    exact congrArg _ (if_neg (Nat.not_lt.mpr hall))
  case failed =>
    rw [exec_arrival_of_fetch hp hq hmay, fetchElem_of_failed hcap hread]
    rfl
  case load =>
    have hbytes : ∀ a < 64, look 0 ((u.core core).setBlock j.res i xs).opmem (16384 * j.res + 64 * i + a) = (xs.getD a (0, false)).1 :=
      fun a ha => opmem_setBlock _ _ _ hopmem (by rwa [length_readSpan hread])
    by_cases hlast : j.left.erase i = []
    · cases hpsn : j.psn || anyPsn xs with
      | true =>
        obtain ⟨holoads, hkept, hdeferred⟩ := landed_of_spoiled u core hlast hpsn
        exact ⟨fun hmore => absurd hlast hmore, fun _ => holoads, fun hmore => absurd hlast (hmore.resolve_right (nomatch ·)),
          fun _ hclean => (nomatch hclean), fun _ _ => ⟨hkept, hdeferred⟩⟩
      | false =>
        rw [landBlock_of_whole u core hlast hpsn, State.core_onCore_self, loadedHdr_eq, put_makeHdr]
        refine ⟨fun hmore => absurd hlast hmore, fun _ => rfl, fun _ => hbytes, fun _ _ => ?_, fun _ hbad => (nomatch hbad)⟩
        dsimp only [Core.hdr]
        rw [look_ins_self, testBit_makeHdr_full, swz_makeHdr]
        exact ⟨rfl, Nat.mod_mod _ _, rfl⟩
    · rw [landBlock_of_more u core hlast, State.core_onCore_self]
      exact ⟨fun _ => ⟨rfl, rfl⟩, fun h => absurd h hlast, fun _ => hbytes, fun h => absurd h hlast, fun h => absurd h hlast⟩

end Sys2Proof.Machine
end

section
/-! PROOFS. Fences (R129, R135-R137): what each waits for, how far it goes at an issue of its word, and whether the word then completes. -/

namespace Sys2Proof.Machine

/-! ## What a fence waits for (R136) -/

/-- The array and the sequencer have nothing of slot `g`: the first wait of kind `m`. -/
def MatrixIdle (s : State) (g : Nat) : Prop :=
  (∀ e ∈ (s.core (coreOf g)).queue, e.slot ≠ g) ∧ (∀ j ∈ (s.core (coreOf g)).oloads, j.slot ≠ g) ∧
    ∀ b, (s.core (coreOf g)).seq = some b → b.slot ≠ g

/-- No load, atomic or relaxed access of slot `g` is left, sent or not, appended elements among them: the first wait of kind `rw`. -/
def AccessesDone (s : State) (g : Nat) : Prop :=
  (∀ r ∈ s.net, r.slot ≠ g) ∧ (∀ r ∈ (s.slot g).results, r.cls = none) ∧ (∀ j ∈ (s.core (coreOf g)).oloads, j.slot ≠ g) ∧
    (∀ e ∈ (s.core (coreOf g)).queue, e.slot = g → opAccesses e.op = false) ∧ anyUnsent s g opAccesses = false ∧
    ∀ q ∈ (s.slot g).ports, q.2.outQ = []

/-- No reply is owed to slot `g` and no kick of it is at an engine: what kind `x` waits for besides. -/
def KicksDone (s : State) (g : Nat) : Prop := (s.slot g).results = [] ∧ ∀ e ∈ s.engines, ∀ k ∈ e.2.kicks, k.slot ≠ g

/-- Whether the ports of a list of pairs have each fetched its number of elements again, or an element that fails. -/
def FetchedAgain (x : Slot) (l : List (Nat × Nat)) : Prop :=
  ∀ q ∈ l, (x.port q.1).dir ≠ 1 ∨ q.2 ≤ (x.port q.1).nextIn ∨ ∃ e ∈ (x.port q.1).fetched, e.cause.isSome = true

theorem matrixBusy_eq_false_iff {s : State} {g : Nat} : matrixBusy s g = false ↔ MatrixIdle s g := by
  unfold matrixBusy MatrixIdle
  cases hseq : (s.core (coreOf g)).seq <;> simp [hseq, and_assoc]

theorem refetched_iff {x : Slot} {l : List (Nat × Nat)} : refetched x l = true ↔ FetchedAgain x l := by
  simp [refetched, FetchedAgain, or_assoc]

theorem refetched_eq_false_iff {x : Slot} {l : List (Nat × Nat)} : refetched x l = false ↔ ¬FetchedAgain x l := by
  rw [← refetched_iff, Bool.not_eq_true]

section First
variable {s : State} {g kind scope : Nat} {f : FenceWait}

theorem fenceFirst_iff (hkind : f.kind = kind) (hle : kind ≤ 2) : fenceFirst s g f = true ↔
    if kind = 2 then MatrixIdle s g else AccessesDone s g ∧ (kind = 1 → KicksDone s g) := by
  subst hkind
  unfold fenceFirst
  dsimp only
  split
  · rw [Bool.not_eq_true', matrixBusy_eq_false_iff]
  · have hother : f.kind ≠ 1 ↔ f.kind = 0 := by omega
    simp [AccessesDone, KicksDone, and_assoc, imp_iff_not_or, hother]

theorem fenceDrained_iff (hscope : f.scope = scope) : fenceDrained s g f = true ↔ f.markers = [] ∧ f.acks = [] ∧
    (scope < 5 ∨ ∀ d ∈ s.stores, d.thr = thrOf s g → d.id < f.since → toPeer d.line = false) := by
  simp [fenceDrained, hscope, and_assoc]

theorem FenceWait.wide_iff (hkind : f.kind = kind) (hscope : f.scope = scope) :
    f.wide = true ↔ kind = 1 ∨ (kind = 0 ∧ 1 ≤ scope) := by simp [FenceWait.wide, hkind, hscope]

end First

/-! ## How far a fence goes at an issue (R129, R136, R137) -/

section Advance
variable {s : State} {g : Nat} {f : FenceWait} (hf : (s.slot g).fence = some f)
include hf

theorem advanceFence_of_unsent (hsent : f.sent = false) (hstays : f.wide = true → fenceFirst s g f = false) : advanceFence s g = s := by
  have hfirst : (f.wide && fenceFirst s g f) = false := by cases h : f.wide <;> simp [h, hstays]
  simp [advanceFence, hf, hsent, hfirst]

theorem advanceFence_of_sent (hsent : f.sent = true) (hstays : f.kind = 1 → f.refetch = none → fenceDrained s g f = false) :
    advanceFence s g = s := by
  have hdrained : (f.kind == 1 && f.refetch.isNone && fenceDrained s g f) = false := by
    simpa [and_imp] using hstays
  simp [advanceFence, hf, hsent, hdrained]

/-- The drain and the markers of a fence whose first wait is over; with a live base die it goes no further at once. -/
theorem advanceFence_of_drains (hsent : f.sent = false) (hwide : f.wide = true) (hfirst : fenceFirst s g f = true)
    (hmarkers : fenceMarkers (drainAll s g) ≠ []) : advanceFence s g = sendMarkers s g f := by
  have hopen : ∀ t, fenceDrained t g { f with sent := true, since := (drainAll s g).nextId, markers := fenceMarkers (drainAll s g) } = false :=
    fun t => by simp [fenceDrained, hmarkers]
  simp [advanceFence, hf, hsent, hwide, hfirst, sendMarkers, hopen]

theorem advanceFence_of_refetch (hsent : f.sent = true) (hkind : f.kind = 1) (hnew : f.refetch = none) (hdrained : fenceDrained s g f = true) :
    advanceFence s g = refetch s g f := by
  simp [advanceFence, hf, hsent, hkind, hnew, hdrained]

theorem fenceDone_of_fence : fenceDone s g = (fenceOver s g && (!f.wide || (f.sent && (f.kind == 0 || f.refetch.isSome)))) := by
  simp [fenceDone, hf]

theorem fenceOver_of_unsent (hnew : f.refetch = none) (hsent : f.sent = false) : fenceOver s g = fenceFirst s g f := by
  simp [fenceOver, hf, hnew, hsent]

theorem fenceOver_of_sent (hnew : f.refetch = none) (hsent : f.sent = true) : fenceOver s g = fenceDrained s g f := by
  simp [fenceOver, hf, hnew, hsent]

theorem fenceOver_of_refetch {l : List (Nat × Nat)} (hl : f.refetch = some l) : fenceOver s g = refetched (s.slot g) l := by
  simp [fenceOver, hf, hl]

theorem fenceDone_of_refetch {l : List (Nat × Nat)} (hsent : f.sent = true) (hl : f.refetch = some l) :
    fenceDone s g = refetched (s.slot g) l := by
  simp [fenceDone_of_fence hf, fenceOver_of_refetch hf hl, hsent, hl]

end Advance

/-! ## What its word then comes to -/

/-- A fence that has begun goes on, as far as it can, at an issue of its word. -/
def resumeFence (s : State) : Res Unit :=
  let t := advanceFence s s.cur
  if fenceDone t t.cur then .ok () (t.onSlot t.cur fun x => { x with fence := none }) else .wait .fence t

/-- The state in which the fence of the thread has begun. -/
def fenceBegun (kind scope : Nat) (s : State) : State :=
  match (s.slot s.cur).fence with
  | none => s.onSlot s.cur fun x => { x with fence := some ⟨kind, scope, false, s.nextId, [], [], none⟩ }
  | some _ => s

theorem withFence_eq (kind scope : Nat) (s : State) : withFence kind scope s = resumeFence (fenceBegun kind scope s) := rfl

theorem fenceBegun_cur (kind scope : Nat) (s : State) : (fenceBegun kind scope s).cur = s.cur := by
  unfold fenceBegun
  split <;> rfl

theorem sendMarkers_cur (s : State) (g : Nat) (f : FenceWait) : (sendMarkers s g f).cur = s.cur := drainWhere_cur s g _

section Resume
variable {m : Bool} {s u t : State} (hcur : u.cur = s.cur) (ht : advanceFence u s.cur = t) (htcur : t.cur = s.cur)
include hcur ht htcur

theorem issue_resumeFence_of_done (hdone : fenceDone t s.cur = true) :
    issue m s (resumeFence u) = .next (issued m s.cur (t.onSlot s.cur fun x => { x with fence := none })) := by
  simp [resumeFence, hcur, ht, htcur, hdone]

theorem issue_resumeFence_of_open (hopen : fenceDone t s.cur = false) :
    issue m s (resumeFence u) = .next (t.onSlot s.cur fun x => { x with status := .parked .fence, mark := false }) := by
  simp [resumeFence, hcur, ht, htcur, hopen]

end Resume

/-! ## Input ports that fetch again (R136) -/

/-- A port without the elements that it has fetched and not popped. -/
def Port.emptied (q : Port) : Port := { q with fetched := [], part := [], nextIn := q.nextIn - q.fetched.length }

/-- A slot whose input ports have discarded what they had fetched, for a fence. -/
def Slot.emptied (x : Slot) (f : Option FenceWait) : Slot := { x with fence := f, ports := x.ports.map fun q => (q.1, q.2.emptied) }

/-- The ports that are to fetch again, each with how far it had come. -/
def fetchedPorts (x : Slot) : List (Nat × Nat) := x.ports.filterMap fun p => if p.2.fetched.isEmpty then none else some (p.1, p.2.nextIn)

theorem look_map {α : Type} (d : α) (f : α → α) (hd : f d = d) (m : Sparse α) (i : Nat) :
    look d (m.map fun q => (q.1, f q.2)) i = f (look d m i) := by
  induction m with
  | nil => exact hd.symm
  | cons kv m ih =>
    simp only [List.map_cons, look, ih]
    split
    · exact hd.symm
    · split <;> rfl

theorem mem_of_look_ne {α : Type} {d : α} {m : Sparse α} {i : Nat} (h : look d m i ≠ d) : (i, look d m i) ∈ m := by
  induction m with
  | nil => exact absurd rfl h
  | cons kv m ih =>
    obtain ⟨k, v⟩ := kv
    unfold look at h ⊢
    split at h
    · exact absurd rfl h
    · next hbelow =>
      rw [if_neg hbelow]
      split
      · next hi => exact hi ▸ List.mem_cons_self
      · next hi => exact List.mem_cons_of_mem _ (ih (by rwa [if_neg hi] at h))

theorem port_emptied (x : Slot) (f : Option FenceWait) (k : Nat) : (x.emptied f).port k = (x.port k).emptied := by
  unfold Slot.port
  exact look_map _ _ rfl _ _

theorem mem_fetchedPorts {x : Slot} {k : Nat} (h : (x.port k).fetched ≠ []) : (k, (x.port k).nextIn) ∈ fetchedPorts x := by
  have hmem : (k, x.port k) ∈ x.ports := mem_of_look_ne fun hd => h (by unfold Slot.port; rw [hd])
  exact List.mem_filterMap.mpr ⟨_, hmem, by simp [h]⟩

theorem fetchedPorts_eq_nil {x : Slot} (h : ∀ q ∈ x.ports, q.2.fetched = []) : fetchedPorts x = [] :=
  List.filterMap_eq_nil_iff.mpr fun q hq => by simp [h q hq]

/-- A refetch leaves its slot so, and waits for those ports. -/
theorem refetch_eq (s : State) (g : Nat) (f : FenceWait) :
    refetch s g f = s.onSlot g fun x => x.emptied (some { f with refetch := some (fetchedPorts (s.slot g)) }) := rfl

/-- A port that discards something is one that must fetch again. -/
theorem not_fetchedAgain_of_discards {x : Slot} {f : Option FenceWait} {k : Nat} (hdir : (x.port k).dir = 1)
    (hfetched : (x.port k).fetched ≠ []) (hnext : (x.port k).fetched.length ≤ (x.port k).nextIn) :
    ¬FetchedAgain (x.emptied f) (fetchedPorts x) := fun h => by
  have hk := h _ (mem_fetchedPorts hfetched)
  have hsome := List.length_pos_of_ne_nil hfetched
  rw [port_emptied] at hk
  simp [Port.emptied, hdir] at hk
  omega

/-- Settles O20: a fence by how far it has come: before its drain, with its markers on their way, and with its ports fetching again. -/
theorem fencesWaitForAccesses : Obligations.FencesWaitForAccesses := by
  unfold Obligations.FencesWaitForAccesses
  intro o s p hp g set waits ends new u x c idle loads kicks first wide f hf hkind hscope drained d
  have hrow : p.1 ≤ 2 ∧ exec p.2 s = issue o.s s (resumeFence (fenceBegun p.1 o.scope s)) := by
    fin_cases hp <;> exact ⟨by omega, congrArg (issue o.s s) (withFence_eq ..)⟩
  obtain ⟨hle, hexec⟩ := hrow
  have hcur : u.cur = s.cur := fenceBegun_cur p.1 o.scope s
  have hends : ∀ t : State, t.cur = s.cur → advanceFence u g = t → fenceDone t g = true → ends t := fun t htcur ht hdone =>
    hexec.trans (issue_resumeFence_of_done hcur ht htcur hdone)
  have hwaits : ∀ t : State, t.cur = s.cur → advanceFence u g = t → fenceDone t g = false → waits t := fun t htcur ht hopen =>
    hexec.trans (issue_resumeFence_of_open hcur ht htcur hopen)
  have hfirst : fenceFirst u g f = true ↔ first := fenceFirst_iff hkind hle
  have hdrained : fenceDrained u g f = true ↔ drained := fenceDrained_iff hscope
  have hwide : f.wide = true ↔ wide := FenceWait.wide_iff hkind hscope
  clear_value u
  refine ⟨fun hsent hnew h => ?early, fun hsent hnew h hnarrow => ?narrow, fun hsent hnew h hw hmarkers => ?drains,
    fun hsent hw hnew h => ?undrained, fun hsent hrw hw hnew h => ?acknowledged, fun hsent hx hnew h => ?refetches,
    fun l hsent hx hl => ?again⟩
  case early =>
    have hopen : fenceFirst u g f = false := by simpa using mt hfirst.mp h
    refine hwaits u hcur (advanceFence_of_unsent hf hsent fun _ => hopen) ?_
    rw [fenceDone_of_fence hf, fenceOver_of_unsent hf hnew hsent, hopen, Bool.false_and]
  case narrow =>
    have hnarrow' : f.wide = false := by simpa using mt hwide.mp hnarrow
    refine hends u hcur (advanceFence_of_unsent hf hsent fun hw => absurd hw (by simp [hnarrow'])) ?_
    rw [fenceDone_of_fence hf, fenceOver_of_unsent hf hnew hsent, hfirst.mpr h, hnarrow']
    rfl
  case drains =>
    refine hwaits (sendMarkers u g f) ((sendMarkers_cur u g f).trans hcur)
      (advanceFence_of_drains hf hsent (hwide.mpr hw) (hfirst.mpr h) hmarkers) ?_
    have hf' : ((sendMarkers u g f).slot g).fence = some { f with sent := true, since := d.nextId, markers := fenceMarkers d } := by
      simp [sendMarkers, d]
    have hmarkers' : fenceMarkers d ≠ [] := hmarkers
    rw [fenceDone_of_fence hf', fenceOver_of_sent hf' hnew rfl]
    simp [fenceDrained, hmarkers']
  case undrained =>
    have hopen : fenceDrained u g f = false := by simpa using mt hdrained.mp h
    refine hwaits u hcur (advanceFence_of_sent hf hsent fun _ _ => hopen) ?_
    rw [fenceDone_of_fence hf, fenceOver_of_sent hf hnew hsent, hopen, Bool.false_and]
  case acknowledged =>
    have hkind' : f.kind = 0 := hkind.trans hrw
    refine hends u hcur (advanceFence_of_sent hf hsent fun hx => absurd hx (by simp [hkind'])) ?_
    rw [fenceDone_of_fence hf, fenceOver_of_sent hf hnew hsent, hdrained.mpr h, hsent, hkind']
    simp
  case refetches =>
    have hadv := advanceFence_of_refetch hf hsent (hkind.trans hx) hnew (hdrained.mpr h)
    have hslot : (refetch u g f).slot g = x.emptied (some { f with refetch := some (fetchedPorts x) }) := by
      rw [refetch_eq, State.slot_onSlot_self]
    have hdone := fenceDone_of_refetch (congrArg Slot.fence hslot) hsent rfl
    rw [hslot] at hdone
    refine ⟨_, fetchedPorts x, rfl, fun hnone => hends _ hcur hadv (hdone.trans (refetched_iff.mpr ?_)),
      fun ⟨k, hdir, hfetched, hnext⟩ => hwaits _ hcur hadv (hdone.trans (refetched_eq_false_iff.mpr ?_))⟩
    · rw [fetchedPorts_eq_nil hnone]
      exact fun q hq => absurd hq List.not_mem_nil
    · exact not_fetchedAgain_of_discards hdir hfetched hnext
  case again =>
    have hadv : advanceFence u g = u := advanceFence_of_sent hf hsent fun _ hnone => absurd (hl.symm.trans hnone) (by simp)
    have hdone : fenceDone u g = refetched x l := fenceDone_of_refetch hf hsent hl
    exact ⟨fun hagain => hends u hcur hadv (hdone.trans (refetched_iff.mpr hagain)),
      fun hagain => hwaits u hcur hadv (hdone.trans (refetched_eq_false_iff.mpr hagain))⟩

end Sys2Proof.Machine
end

section
/-! PROOFS. Commands of an engine (R139, R254-R256, R271-R275, R280, R385, R390, R407): how a kick is taken, what a running command does, and
what is left of its queue when it has ended. -/

namespace Sys2Proof.Machine

/-! ## What leaves the engines alone -/

theorem engines_withSram (s : State) (m : Store) : ({ s with sram := m } : State).engines = s.engines := rfl

theorem engines_sramWrite (s : State) (cl ofs n v : Nat) : (sramWrite s cl ofs n v).engines = s.engines := engines_withSram _ _

theorem engines_setWordFull (s : State) (cl ofs : Nat) (f : Bool) : (setWordFull s cl ofs f).engines = s.engines := by
  unfold setWordFull
  split
  · rfl
  · exact (engines_withSram _ _).trans (State.setCluster_engines ..)

theorem engines_fillWord (s : State) (cl ofs v : Nat) : (fillWord s cl ofs v).engines = s.engines :=
  (engines_setWordFull ..).trans (engines_sramWrite ..)

theorem engines_faultEntry (s : State) (cl fsrc fcode ten fseq addr aux : Nat) :
    (faultEntry s cl fsrc fcode ten fseq addr aux).engines = s.engines := by
  unfold faultEntry
  dsimp only
  split
  · exact State.setCluster_engines ..
  · exact (State.setCluster_engines ..).trans ((engines_fillWord ..).trans ((engines_sramWrite ..).trans
      ((engines_sramWrite ..).trans (engines_sramWrite ..))))

theorem engines_traceStore (s : State) (cl ofs core slot chip : Nat) : (traceStore s cl ofs core slot chip).engines = s.engines := by
  unfold traceStore
  dsimp only
  split
  · rfl
  · exact (State.setCluster_engines ..).trans ((engines_sramWrite ..).trans (engines_sramWrite ..))

theorem engines_genFill {s t : State} {cl part : Nat} {eng : Option Nat} {c : RegVal} {gen status count : Nat} {made : Bool}
    (h : genFill s cl part eng c gen status count = some (made, t)) : t.engines = s.engines := by
  unfold genFill at h
  split at h
  · split at h
    · split at h
      · cases h
      · cases h
        rfl
    · split at h
      · split at h
        · cases h
        · dsimp only at h
          split at h
          · cases h
            rfl
          · split at h
            · cases h
              split
              · exact engines_fillWord ..
              · exact (engines_traceStore ..).trans (engines_fillWord ..)
            · cases h
              exact engines_fillWord ..
      · cases h
  · cases h

theorem engines_engFault (s : State) (e : Nat) (k : Kick) (seq code addr aux : Nat) :
    (engFault s e k seq code addr aux).engines = s.engines := engines_faultEntry ..

theorem engines_replyKick (s : State) (k : Kick) (v : Nat) : (replyKick s k v).engines = s.engines := by
  unfold replyKick
  split <;> rfl

theorem engines_engFill (s : State) (e : Nat) (k : Kick) (seq : Nat) (c : RegVal) (gen status count : Nat) :
    (engFill s e k seq c gen status count).engines = s.engines := by
  unfold engFill
  split
  · rfl
  · split
    · next h => exact engines_genFill h
    · next h => exact (engines_engFault ..).trans (engines_genFill h)
    · split <;> exact engines_engFault ..

theorem engines_setTile (s : State) (cl n v : Nat) : (setTile s cl n v).engines = s.engines := rfl

theorem engines_enterTiles (s : State) (e : Nat) (c : Cmd) : (enterTiles s e c).engines = s.engines := by
  unfold enterTiles
  dsimp only
  split <;> split <;> rfl

theorem engines_leaveTiles (s : State) (c : Cmd) (ok : Bool) : (leaveTiles s c ok).engines = s.engines := by
  unfold leaveTiles
  grind [engines_setTile]

/-! ## What is left of a queue (R256) -/

/-- The commands of a state's engine have the numbers that those of another's have, and as many have ended. -/
structure QueueKept (s t : State) (e : Nat) : Prop where
  seqs : (t.engine e).cmds.map Cmd.seq = (s.engine e).cmds.map Cmd.seq
  done : (t.engine e).done = (s.engine e).done

namespace QueueKept
variable {s t u : State} {e : Nat}

protected theorem trans (h : QueueKept s t e) (h' : QueueKept t u e) : QueueKept s u e :=
  ⟨h'.seqs.trans h.seqs, h'.done.trans h.done⟩

theorem of_engines (h : t.engines = s.engines) (e : Nat) : QueueKept s t e := by
  have he : t.engine e = s.engine e := congrArg (look Engine.reset · e) h
  exact ⟨by rw [he], by rw [he]⟩

/-- An engine whose queue holds commands of the same numbers. -/
theorem setCmds (n : Nat) {cs : List Cmd} (h : cs.map Cmd.seq = (s.engine n).cmds.map Cmd.seq) (e : Nat) :
    QueueKept s (s.setEngine n { s.engine n with cmds := cs }) e := by
  by_cases he : e = n
  · subst he
    exact ⟨by rw [State.engine_setEngine_self]; exact h, by rw [State.engine_setEngine_self]⟩
  · exact ⟨by rw [State.engine_setEngine_other _ _ he], by rw [State.engine_setEngine_other _ _ he]⟩

theorem not_mem_of_seqs {cs ds : List Cmd} (h : cs.map Cmd.seq = ds.map Cmd.seq) {n : Nat} (hn : ∀ d ∈ ds, d.seq ≠ n) :
    ∀ d ∈ cs, d.seq ≠ n := fun d hd => by
  obtain ⟨d', hd', heq⟩ := List.mem_map.mp (h ▸ List.mem_map_of_mem hd)
  exact heq ▸ hn d' hd'

end QueueKept

/-- What `enterQueue` does with one command of its queue. -/
def enterNext (e : Nat) (acc : State × List Cmd × Bool) (c : Cmd) : State × List Cmd × Bool :=
  let (s, out, open_) := acc
  if c.entered then (s, out ++ [c], open_)
  else if open_ && tilesFree s c then (enterTiles s e c, out ++ [{ c with entered := true }], true)
  else (s, out ++ [c], false)

theorem enterQueue_eq (s : State) (e : Nat) : enterQueue s e =
    let r := (s.engine e).cmds.foldl (enterNext e) (s, [], true)
    r.1.setEngine e { r.1.engine e with cmds := r.2.1 } := rfl

theorem enterNext_kept (e : Nat) (acc : State × List Cmd × Bool) (c : Cmd) :
    (enterNext e acc c).1.engines = acc.1.engines ∧ (enterNext e acc c).2.1.map Cmd.seq = acc.2.1.map Cmd.seq ++ [c.seq] := by
  obtain ⟨s, out, open_⟩ := acc
  unfold enterNext
  dsimp only
  split
  · simp
  · split <;> simp [engines_enterTiles]

theorem foldl_enterNext_kept (e : Nat) (cs : List Cmd) (acc : State × List Cmd × Bool) :
    (cs.foldl (enterNext e) acc).1.engines = acc.1.engines ∧
      (cs.foldl (enterNext e) acc).2.1.map Cmd.seq = acc.2.1.map Cmd.seq ++ cs.map Cmd.seq := by
  induction cs generalizing acc with
  | nil => simp
  | cons c cs ih =>
    obtain ⟨hengines, hseqs⟩ := enterNext_kept e acc c
    exact ⟨(ih _).1.trans hengines, by rw [List.foldl_cons, (ih _).2, hseqs, List.append_assoc]; rfl⟩

theorem enterQueue_kept (s : State) (n e : Nat) : QueueKept s (enterQueue s n) e := by
  obtain ⟨hengines, hseqs⟩ := foldl_enterNext_kept n (s.engine n).cmds (s, [], true)
  rw [enterQueue_eq]
  have hkept := fun i => QueueKept.of_engines hengines i
  exact (hkept e).trans (.setCmds n (hseqs.trans (hkept n).seqs.symm) e)

theorem enterAll_kept (s : State) (n e : Nat) : QueueKept s (enterAll s n) e := by
  unfold enterAll
  split
  · exact (enterQueue_kept ..).trans (enterQueue_kept ..)
  · exact enterQueue_kept ..

section Ends
variable (s : State) (e : Nat) (c : Cmd)

theorem engine_popCmd (seq : Nat) : (popCmd s e seq).engine e =
    { s.engine e with cmds := (s.engine e).cmds.filter (fun d => d.seq != seq), done := (s.engine e).done + 1 } :=
  State.engine_setEngine_self ..

/-- A command that has left is not in a queue that holds the numbers left behind. -/
theorem left_of_kept {t : State} (h : QueueKept (popCmd s e c.seq) t e) :
    (∀ d ∈ (t.engine e).cmds, d.seq ≠ c.seq) ∧ (t.engine e).done = (s.engine e).done + 1 := by
  obtain ⟨hseqs, hdone⟩ := h
  rw [engine_popCmd] at hseqs hdone
  exact ⟨QueueKept.not_mem_of_seqs hseqs fun d hd => by simpa using (List.mem_filter.mp hd).2, hdone⟩

theorem failCmd_kept (code addr aux : Nat) : QueueKept (popCmd s e c.seq) (failCmd s e c code addr aux) e :=
  (QueueKept.of_engines ((engines_leaveTiles ..).trans (engines_engFault ..)) e).trans (enterAll_kept ..)

theorem finishCmd_kept (status n : Nat) : QueueKept (popCmd s e c.seq) (finishCmd s e c status n) e :=
  (QueueKept.of_engines ((engines_engFill ..).trans (engines_leaveTiles ..)) e).trans (enterAll_kept ..)

end Ends

/-! ## Taking a kick (R254, R255, R273) -/

/-- What an engine does with its oldest kick by what acceptance comes to. -/
def settleKick (e : Nat) (k : Kick) : Accept × State → State
  | (.miss va, s) => askEngWalk s e 1 va 1 0
  | (.rc n, s) => takeKick s e k n
  | (.poisoned, s) => poisonMet (takeKick s e k 2) e
  | (.layer l, s) =>
    let s := takeKick s e k 0
    s.setEngine e { s.engine e with layers := (s.engine e).layers ++ [l] }
  | (.cmd c, s) =>
    let s := takeKick s e k 0
    if idOf e = 1 ∧ k.fn = 1 then
      let n := fld k.a.bits.toNat 0 3
      (s.onCluster (e / 2) fun t => { t with pats := put 0 t.pats n c.ap1 }).setEngine e { s.engine e with done := (s.engine e).done + 1 }
    else enterAll (s.setEngine e { s.engine e with cmds := (s.engine e).cmds ++ [c] }) e

section Kick
variable {s u : State} {e seq : Nat} {k : Kick} {ks : List Kick}

theorem exec_engineKickAccept_of_stat (hk : (s.engine e).kicks = k :: ks) (hstat : k.fn = 0x10) :
    exec (.engineKickAccept e) s =
      .next (replyKick (s.setEngine e { s.engine e with kicks := ks }) k (statReply s k.cl (idOf e))) := by
  show execEngineKickAccept e s = _
  simp [execEngineKickAccept, canAccept, hk, hstat]

theorem exec_engineKickAccept_of_command (hk : (s.engine e).kicks = k :: ks) (hfn : k.fn ≠ 0x10)
    (hroom : (s.engine e).cmds.length + (s.engine e).layers.length < 32) (hwalk : engWalking s e 1 = false)
    (hheld : rangeHeld s k.sender (k.a.addr, if idOf e = 4 then 256 else 64) = false) :
    exec (.engineKickAccept e) s = .next (settleKick e k
      (if idOf e = 4 then acceptGate s k ((s.engine e).seq % 2 ^ 32) else acceptCmd s e k ((s.engine e).seq % 2 ^ 32))) := by
  have hcan : canAccept s e = true := by simp [canAccept, hk, hroom, hwalk, hheld]
  show execEngineKickAccept e s = _
  simp [execEngineKickAccept, hcan, hk, hfn] <;> rfl

theorem acceptCmd_of_pattern (he : idOf e = 1) (hfn : k.fn = 1) {v : Nat} (hv : patValue k.b = some v) :
    acceptCmd s e k seq = (.cmd
      { kick := k, seq := seq, asrc := RegVal.zero, adone := RegVal.zero, actl := 0, ap0 := 0, ap1 := v, entered := true, moved := false
        todo := [], fin := none, got := [] }, s) := by
  simp [acceptCmd, he, hfn, hv]

theorem acceptCmd_of_badPattern (he : idOf e = 1) (hfn : k.fn = 1) (hv : patValue k.b = none) : acceptCmd s e k seq = (.rc 1, s) := by
  simp [acceptCmd, he, hfn, hv]

section Record
variable (hfn : idOf e = 1 → k.fn ≠ 1)
include hfn

theorem acceptCmd_of_unread (hread : readArg s k 64 = (.fail, u)) :
    acceptCmd s e k seq = (if argPoisoned u k then .poisoned else .rc 2, u) := by
  have hrecord : ¬(idOf e = 1 ∧ k.fn = 1) := fun h => hfn h.1 h.2
  simp [acceptCmd, hrecord, hread]

theorem acceptCmd_of_read {n : Nat} (hread : readArg s k 64 = (.ok n, u)) : acceptCmd s e k seq =
    (if acceptRc u e (recordCmd u k n seq) n ≠ 0 then .rc (acceptRc u e (recordCmd u k n seq) n)
      else .cmd (if idOf e = 1 then
        { recordCmd u k n seq with ap1 := look 0 (u.cluster (e / 2)).pats (fld (recordCmd u k n seq).ap0 16 3) }
        else recordCmd u k n seq), u) := by
  have hrecord : ¬(idOf e = 1 ∧ k.fn = 1) := fun h => hfn h.1 h.2
  simp only [acceptCmd, if_neg hrecord, hread]
  split <;> rfl

end Record

theorem settleKick_of_pattern (he : idOf e = 1) (hfn : k.fn = 1) (c : Cmd) : settleKick e k (.cmd c, s) =
    ((takeKick s e k 0).onCluster (e / 2) fun t => { t with pats := put 0 t.pats (k.a.bits.toNat % 8) c.ap1 }).setEngine e
      { (takeKick s e k 0).engine e with done := ((takeKick s e k 0).engine e).done + 1 } := by
  rw [settleKick, if_pos ⟨he, hfn⟩, fld_zero]
  rfl

theorem settleKick_of_record (hfn : idOf e = 1 → k.fn ≠ 1) (c : Cmd) : settleKick e k (.cmd c, s) =
    enterAll ((takeKick s e k 0).setEngine e { (takeKick s e k 0).engine e with cmds := ((takeKick s e k 0).engine e).cmds ++ [c] }) e := by
  rw [settleKick, if_neg fun h => hfn h.1 h.2]

end Kick

/-- A kick that is taken has left its queue, whatever the reply. -/
theorem engine_takeKick (s : State) (e : Nat) (k : Kick) (rc : Nat) :
    (takeKick s e k rc).engine e = { s.engine e with kicks := (s.engine e).kicks.drop 1, seq := (s.engine e).seq + 1 } := by
  have hengines : (takeKick s e k rc).engines =
      (s.setEngine e { s.engine e with kicks := (s.engine e).kicks.drop 1, seq := (s.engine e).seq + 1 }).engines := by
    unfold takeKick
    dsimp only
    split
    · exact engines_replyKick ..
    · exact (engines_engFault ..).trans (engines_replyKick ..)
  exact (congrArg (look Engine.reset · e) hengines).trans (State.engine_setEngine_self ..)

/-! ## Running a command (R139, R275, R385, R390) -/

section Run
variable {s u : State} {e : Nat} {c : Cmd}

theorem exec_engineCommandComplete_of_running (hrun : runningCmd s e = some c) (hcan : canRun s e = true) :
    exec (.engineCommandComplete e) s = .next (runCmd s e c) := by
  show execEngineCommandComplete e s = _
  simp [execEngineCommandComplete, hrun, hcan]

theorem exec_engineAccessFailed_of_entered (hrun : runningCmd s e = some c) (hentered : c.entered = true) (cause : Nat) :
    exec (.engineAccessFailed e cause) s = .next (failCmd s e c 0x11 c.kick.a.addr (cause % 2 ^ 8)) := by
  show execEngineAccessFailed e cause s = _
  simp [execEngineAccessFailed, hrun, hentered]

theorem runCmd_of_writing {f : Nat × Nat × Bool} (hfin : c.fin = some f) : runCmd s e c = writeNextPiece s e c f := by
  simp only [runCmd, hfin]

theorem runCmd_of_copyEngine (hfin : c.fin = none) (he : idOf e = 0) : runCmd s e c = runCopy s e c := by
  simp only [runCmd, hfin, he]

section Source
variable {ea len : Nat} {f : List MByte → State → State} {xs : List MByte} {r : Span Unit}
  (hread : readMost s c.kick.sender (piecesOf 64 (ea + c.got.length) (len - c.got.length)) = (xs, r, u))
include hread

theorem srcBytes_of_fenced (hpsn : anyPsn xs = true) (hfences : fences u e = true) : srcBytes s e c ea len f = poisonMet u e := by
  simp [srcBytes, hread, hpsn, hfences]

variable (hfree : anyPsn xs = false ∨ fences u e = false)
include hfree

theorem srcBytes_of_whole (hr : r = .ok ()) : srcBytes s e c ea len f = f (c.got ++ xs) (drainSource u e c 0) := by
  have hgoes : ¬(anyPsn xs && fences u e) = true := by simpa [imp_iff_not_or] using hfree
  subst hr
  simp only [srcBytes, hread, if_neg hgoes]

theorem srcBytes_of_miss {va : Nat} (hr : r = .miss va) : srcBytes s e c ea len f =
    askEngWalk (drainSource (setCmd u e { c with got := c.got ++ xs }) e c (len - c.got.length - xs.length)) e (cmdWalk c.seq) va 1 0 := by
  have hgoes : ¬(anyPsn xs && fences u e) = true := by simpa [imp_iff_not_or] using hfree
  subst hr
  simp only [srcBytes, hread, if_neg hgoes]

end Source

theorem writeAndEnd_of_bytes {xs : List MByte} (hxs : xs ≠ []) (ea status count : Nat) : writeAndEnd s e c ea xs status count =
    setCmd s e { c with todo := piecesTo ea xs, fin := some (status, count, anyPsn xs), got := [] } := by
  rw [writeAndEnd, if_neg (by simpa using hxs)]

/-- A fill writes bytes that are not poisoned, and at least one where its range is not empty. -/
theorem runCopy_of_fill (hfn : c.kick.fn = 1) {lo hi : Nat} (hbounds : capBounds c.kick.b = some (lo, hi)) :
    runCopy s e c = writeAndEnd s e c lo
      ((List.range (hi - lo)).map fun i => (BitVec.ofNat 8 (c.ap0 / 256 ^ ((lo + i) % 8)), false)) 0 ((hi - lo) % 2 ^ 40) := by
  have hbyte : ∀ i, BitVec.ofNat 8 (fld c.ap0 (8 * i) 8) = BitVec.ofNat 8 (c.ap0 / 256 ^ i) := fun i => by
    rw [fld, Nat.pow_mul]
    exact BitVec.eq_of_toNat_eq (by simp)
  simp only [runCopy, hfn, hbounds, hbyte]

theorem anyPsn_clean {α : Type} (l : List α) (f : α → BitVec 8) : anyPsn (l.map fun x => (f x, false)) = false := by
  simp [anyPsn]

theorem writeNextPiece_of_written {f : Nat × Nat × Bool} {p : Nat × List MByte} {ps : List (Nat × List MByte)} (htodo : c.todo = p :: ps)
    (hmissing : missing s c.kick.sender 2 [(p.1, p.2.length)] = none)
    (hwritten : writePiece s c.kick.sender (0xFFF, idOf e) p.1 p.2 = some u) : writeNextPiece s e c f =
      if ps ≠ [] then
        setCmd (if c.dtv then pendTile u c.kick.cl c.dtile 1 (((ps.map fun (q : Nat × List MByte) => q.2.length).sum + 63) / 64) else u) e
          { c with todo := ps }
      else endWrites u e c f := by
  simp only [writeNextPiece, htodo, hmissing, hwritten]
  cases ps <;> rfl

end Run

/-- Settles O39: by what the acceptance of a kick comes to, by how far the reads of a copy get, and by what leaves the queue. -/
theorem engineCommandsBeginAndEnd : Obligations.EngineCommandsBeginAndEnd := by
  unfold Obligations.EngineCommandsBeginAndEnd
  refine ⟨?accept, ?taken, ?read, ?written, fun e s c => exec_engineCommandComplete_of_running, ?failed, ?ended⟩
  case accept =>
    intro e s k ks x seq hk
    refine ⟨exec_engineKickAccept_of_stat hk, fun hfn hroom hwalk hheld => ?_⟩
    have hexec := exec_engineKickAccept_of_command hk hfn hroom hwalk hheld
    refine ⟨fun he => ?gate, fun he hpat => ?pattern, fun he hrec => ?record⟩
    case gate =>
      rw [if_pos he] at hexec
      exact ⟨fun rc u h => hexec.trans (congrArg (Host.Outcome.next ∘ settleKick e k) h),
        fun l u h => hexec.trans (congrArg (Host.Outcome.next ∘ settleKick e k) h)⟩
    case pattern =>
      rw [if_neg (by omega)] at hexec
      refine ⟨fun v hv => ?_, fun hv => ?_⟩
      · rw [hexec, acceptCmd_of_pattern he hpat hv, settleKick_of_pattern he hpat]
      · rw [hexec, acceptCmd_of_badPattern he hpat hv, settleKick]
    case record =>
      rw [if_neg he] at hexec
      refine ⟨fun u hread => ?_, fun n u hread => ⟨fun hrc => ?_, fun hrc => ?_⟩⟩
      · rw [hexec, acceptCmd_of_unread hrec hread]
        split <;> rfl
      · rw [hexec, acceptCmd_of_read hrec hread, if_pos hrc, settleKick]
      · rw [hexec, acceptCmd_of_read hrec hread, if_neg (not_not.mpr hrc), settleKick_of_record hrec]
        rfl
  case taken =>
    intro e rc s k t
    rw [engine_takeKick]
    exact ⟨rfl, rfl, fun hrc => if_neg hrc⟩
  case read =>
    intro e s u c xs r keeps writes had hrun hcan he hfin
    have hexec := exec_engineCommandComplete_of_running hrun hcan
    rw [runCmd_of_copyEngine hfin he] at hexec
    refine ⟨fun hcopy hread => ?copy, fun lo hi hfill hbounds hlt => ?fill⟩
    case copy =>
      have hsrc : runCopy s e c = srcBytes s e c c.asrc.addr c.count fun xs s => writeAndEnd s e c c.kick.b.addr xs 0 c.count := by
        simp only [runCopy, hcopy]
      rw [hsrc] at hexec
      refine ⟨fun hpsn hfences => ?_, fun hfree => ⟨fun hr hxs => ?_, fun va hr => ?_⟩⟩
      · rw [hexec, srcBytes_of_fenced hread hpsn hfences]
      · refine hexec.trans ?_
        rw [srcBytes_of_whole hread hfree hr, writeAndEnd_of_bytes hxs]
        rfl
      · rw [hexec, srcBytes_of_miss hread hfree hr]
        rfl
    case fill =>
      have hsome : (List.range (hi - lo)).map (fun i => (BitVec.ofNat 8 (c.ap0 / 256 ^ ((lo + i) % 8)), false)) ≠ [] := by
        simpa using by omega
      refine hexec.trans ?_
      rw [runCopy_of_fill hfill hbounds, writeAndEnd_of_bytes hsome, anyPsn_clean]
      rfl
  case written =>
    intro e s u c status n bad p ps left t hrun hcan hfin htodo hmissing hwritten
    rw [exec_engineCommandComplete_of_running hrun hcan, runCmd_of_writing hfin, writeNextPiece_of_written htodo hmissing hwritten]
    rfl
  case failed => exact fun e cause s c hrun hentered => exec_engineAccessFailed_of_entered hrun hentered cause
  case ended =>
    intro e code addr aux status n s c x y
    obtain ⟨hfailed, hfailedDone⟩ := left_of_kept s e c (failCmd_kept s e c code addr aux)
    obtain ⟨hfinished, hfinishedDone⟩ := left_of_kept s e c (finishCmd_kept s e c status n)
    exact ⟨hfailed, hfinished, hfailedDone, hfinishedDone⟩

end Sys2Proof.Machine
end

section
/-! PROOFS. The decoder and the encoder (R143-R150): what the decoder reads from a word that the encoder wrote, for each format; that the
decoder undoes the encoder on every well-formed instruction; words written out from the encoding tables. -/

namespace Sys2Proof.Encoding

open Laws.Fits (reg_lt dst_lt gen_lt any_le float_le int_le f32_le and_l and_r engOne_reg engNone_reg bit_le putSel_lt)

/-! ## What is read from a word (R143) -/

/-- The fields of the word `w`: the common high half, and the number that the low half is. -/
structure Reads (w op : Nat) (s : Bool) (d a b c x : Nat) : Prop where
  op : fld w 56 7 = op
  mark : mark w = s
  d : fD w = d
  a : fA w = a
  b : fB w = b
  c : fC w = c
  low : w % 2 ^ 32 = x

namespace Reads
variable {w op d a b c x lo n v : Nat} {s : Bool}

/-- A word that is written from fields within their widths holds these fields. -/
theorem of_word (hw : w = word op s d a b c + x) (ho : op < 128 := by omega) (hd : d < 64 := by omega)
    (ha : a < 64 := by omega) (hb : b < 64 := by omega) (hc : c < 64 := by omega) (hx : x < 2 ^ 32 := by omega) :
    Reads w op s d a b c x := by
  subst hw
  constructor
  case mark => cases s <;> simp [Sys2Proof.mark, fld, word] <;> omega
  all_goals
    simp only [fld, fD, fA, fB, fC, word]
    split <;> omega

variable (f : Reads w op s d a b c x)
include f

/-- A field of the low half is a field of its number. -/
theorem fld_low (hv : x / 2 ^ lo % 2 ^ n = v) (hn : lo + n ≤ 32) : fld w lo n = v := by
  obtain ⟨m, hm⟩ := Nat.exists_eq_add_of_le hn
  rw [← hv, ← f.low, fld, hm, Nat.pow_add, Nat.pow_add, Nat.mul_assoc, Nat.mod_mul_right_div_self,
    Nat.mod_mod_of_dvd _ (Nat.dvd_mul_right ..)]

/-- The 32-bit immediate. -/
theorem imm : fld w 0 32 = x := by rw [fld, Nat.pow_zero, Nat.div_one, f.low]

/-- The function number in bits 31:24. -/
theorem fn (hv : x / 2 ^ 24 = v := by omega) : fld w 24 8 = v := by
  have hlow := f.low
  exact f.fld_low (by omega) (by decide)

/-- The number in bits 23:16. -/
theorem num (hv : x / 2 ^ 16 % 2 ^ 8 = v := by omega) : fld w 16 8 = v := f.fld_low hv (by decide)

/-- The function number of an I word, in bits 43:40. -/
theorem fn4 (hv : b / 4 = v := by omega) : fld w 40 4 = v := by
  have hb := f.b
  simp only [fB, fld] at hb ⊢
  omega

/-- The three fields of an M word in bits 37:32. -/
theorem memLow : fld w 35 3 = c / 8 ∧ fld w 34 1 = c / 4 % 2 ∧ fld w 32 2 = c % 4 := by
  have hc := f.c
  simp only [fC, fld] at hc ⊢
  omega

/-- The length and the stagger of REP, in bits 34:32 and 39:35 (R147). -/
theorem rep : fld w 32 3 = c % 8 ∧ fld w 35 5 = b % 4 * 8 + c / 8 := by
  have hb := f.b
  have hc := f.c
  simp only [fB, fC, fld] at hb hc ⊢
  omega

end Reads

/-- A Boolean is read back from its bit. -/
theorem bit_beq_one (v : Bool) : (bit v == 1) = v := by cases v <;> rfl

/-! ## The formats (R144, R147-R150)

In each format the word of an instruction decodes to it, where the decoder answers `mk` for the opcode and the function number. -/

section Formats
variable {w op k : Nat} {p : Nat → Bool} (hp : ∀ r, p r = true → r < 64)

include hp in
theorem r3 {mk : R3 → Instr} {o : R3} (h : (p o.d && isReg o.a && isReg o.b) = true) (e : some (putR3 op k o) = some w)
    (raw : fld w 56 7 = op → fld w 24 8 = k → decodeRaw w = some (mk (getR3 w))) (ho : op < 128 := by decide) (hk : k < 256 := by decide) :
    decodeRaw w = some (mk o) := by
  have hd := hp _ (and_l (and_l h))
  have ha := reg_lt _ (and_r (and_l h))
  have hb := reg_lt _ (and_r h)
  have f : Reads w op o.s o.d o.a o.b 0 (k * 2 ^ 24) := .of_word (Option.some.inj e).symm
  rw [raw f.op f.fn, getR3, f.mark, f.d, f.a, f.b]

include hp in
theorem r2 {mk : R2 → Instr} {o : R2} (h : (p o.d && isReg o.a) = true) (e : some (putR2 op k o) = some w)
    (raw : fld w 56 7 = op → fld w 24 8 = k → decodeRaw w = some (mk (getR2 w))) (ho : op < 128 := by decide) (hk : k < 256 := by decide) :
    decodeRaw w = some (mk o) := by
  have hd := hp _ (and_l h)
  have ha := reg_lt _ (and_r h)
  have f : Reads w op o.s o.d o.a 0 0 (k * 2 ^ 24) := .of_word (Option.some.inj e).symm
  rw [raw f.op f.fn, getR2, f.mark, f.d, f.a]

include hp in
theorem r4 {mk : R4 → Instr} {o : R4} (h : (p o.d && isReg o.a && isReg o.b && isReg o.c) = true) (e : some (putR4 op k o) = some w)
    (raw : fld w 56 7 = op → fld w 24 8 = k → decodeRaw w = some (mk (getR4 w))) (ho : op < 128 := by decide) (hk : k < 256 := by decide) :
    decodeRaw w = some (mk o) := by
  have hd := hp _ (and_l (and_l (and_l h)))
  have ha := reg_lt _ (and_r (and_l (and_l h)))
  have hb := reg_lt _ (and_r (and_l h))
  have hc := reg_lt _ (and_r h)
  have f : Reads w op o.s o.d o.a o.b o.c (k * 2 ^ 24) := .of_word (Option.some.inj e).symm
  rw [raw f.op f.fn, getR4, f.mark, f.d, f.a, f.b, f.c]

theorem imm {mk : ImmOp → Instr} {o : ImmOp} {n : Nat} (h : (isDst o.d && isReg o.a && decide (o.imm < n)) = true)
    (e : some (putImm op k o) = some w) (raw : fld w 56 7 = op → fld w 40 4 = k → decodeRaw w = some (mk (getImm w)))
    (ho : op < 128 := by decide) (hk : k < 16 := by decide) (hn : n ≤ 2 ^ 32 := by decide) : decodeRaw w = some (mk o) := by
  have hd := dst_lt _ (and_l (and_l h))
  have ha := reg_lt _ (and_r (and_l h))
  have hi := of_decide_eq_true (and_r h)
  have hbit := bit_le o.w
  obtain rfl := Option.some.inj e
  have f : Reads (putImm op k o) op o.s o.d o.a (k * 4) (bit o.w) o.imm := .of_word (by simp only [putImm, word]; omega)
  have hform : fld (putImm op k o) 32 1 = bit o.w := by
    have hc := f.c
    simp only [fC, fld] at hc ⊢
    omega
  rw [raw f.op f.fn4, getImm, f.mark, f.d, f.a, hform, f.imm, bit_beq_one]

include hp in
theorem li {mk : LiOp → Instr} {o : LiOp} (h : (p o.d && decide (o.imm < 2 ^ 32)) = true) (e : some (putLi op k o) = some w)
    (raw : fld w 56 7 = op → fld w 40 4 = k → decodeRaw w = some (mk (getLi w))) (ho : op < 128 := by decide) (hk : k < 16 := by decide) :
    decodeRaw w = some (mk o) := by
  have hd := hp _ (and_l h)
  have hi := of_decide_eq_true (and_r h)
  obtain rfl := Option.some.inj e
  have f : Reads (putLi op k o) op o.s o.d 0 (k * 4) 0 o.imm := .of_word (by simp only [putLi, word]; omega)
  rw [raw f.op f.fn4, getLi, f.mark, f.d, f.imm]

include hp in
theorem field {mk : FieldOp → Instr} {o : FieldOp}
    (h : (p o.d && isReg o.a && decide (o.pos < 64) && decide (o.wm1 < 64) && decide (o.pos + o.wm1 + 1 ≤ 64)) = true)
    (e : some (putField op k o) = some w) (raw : fld w 56 7 = op → fld w 40 4 = k → decodeRaw w = some (mk (getField w)))
    (ho : op < 128 := by decide) (hk : k < 16 := by decide) : decodeRaw w = some (mk o) := by
  simp only [Bool.and_eq_true, decide_eq_true_eq] at h
  obtain ⟨⟨⟨⟨hd, ha⟩, hpos⟩, hwm⟩, -⟩ := h
  replace hd := hp _ hd
  replace ha := reg_lt _ ha
  obtain rfl := Option.some.inj e
  have f : Reads (putField op k o) op o.s o.d o.a (k * 4) 0 (o.wm1 * 2 ^ 8 + o.pos) := .of_word (by simp only [putField, word]; omega)
  rw [raw f.op f.fn4, getField, f.mark, f.d, f.a, f.fld_low (v := o.pos) (by omega) (by decide), f.fld_low (v := o.wm1) (by omega) (by decide)]

theorem skip {mk : SkipOp → Instr} {o : SkipOp} (h : (isReg o.a && decide (1 ≤ o.n) && decide (o.n ≤ 15)) = true)
    (e : some (putSkip op k o) = some w) (raw : fld w 56 7 = op → fld w 40 4 = k → decodeRaw w = some (mk (getSkip w)))
    (ho : op < 128 := by decide) (hk : k < 16 := by decide) : decodeRaw w = some (mk o) := by
  have ha := reg_lt _ (and_l (and_l h))
  have hn := of_decide_eq_true (and_r h)
  obtain rfl := Option.some.inj e
  have f : Reads (putSkip op k o) op o.s 0 o.a (k * 4) 0 o.n := .of_word (by simp only [putSkip, word]; omega)
  rw [raw f.op f.fn4, getSkip, f.mark, f.a, f.fld_low (v := o.n) (by omega) (by decide)]

theorem capImm {mk : CapImmOp → Instr} {o : CapImmOp} {n : Nat} (h : (isDst o.d && isReg o.a && decide (o.imm < n)) = true)
    (e : some (putCapImm op k o) = some w) (raw : fld w 56 7 = op → fld w 40 4 = k → decodeRaw w = some (mk (getCapImm w)))
    (ho : op < 128 := by decide) (hk : k < 16 := by decide) (hn : n ≤ 2 ^ 32 := by decide) : decodeRaw w = some (mk o) := by
  have hd := dst_lt _ (and_l (and_l h))
  have ha := reg_lt _ (and_r (and_l h))
  have hi := of_decide_eq_true (and_r h)
  obtain rfl := Option.some.inj e
  have f : Reads (putCapImm op k o) op o.s o.d o.a (k * 4) 0 o.imm := .of_word (by simp only [putCapImm, word]; omega)
  rw [raw f.op f.fn4, getCapImm, f.mark, f.d, f.a, f.imm]

/-- The fields of a V word within their widths. -/
theorem vec_of {mk : VecOp → Instr} {o : VecOp} (hd : o.d < 64) (ha : o.a < 64) (hb : o.b < 64) (hc : o.c < 64) (hy : o.ty ≤ 10)
    (hr : o.rnd ≤ 3) (hm : o.k < 64) (e : some (putVec op k o) = some w)
    (raw : fld w 56 7 = op → fld w 24 8 = k → decodeRaw w = some (mk (getVec w))) (ho : op < 128) (hk : k < 256) :
    decodeRaw w = some (mk o) := by
  have hme := bit_le o.me
  have hmz := bit_le o.mz
  obtain rfl := Option.some.inj e
  have f : Reads (putVec op k o) op o.s o.d o.a o.b o.c
      (k * 2 ^ 24 + o.ty * 2 ^ 20 + o.rnd * 2 ^ 18 + bit o.me * 2 ^ 17 + bit o.mz * 2 ^ 16 + o.k * 2 ^ 10) :=
    .of_word (by simp only [putVec, Nat.add_assoc])
  rw [raw f.op f.fn, getVec, f.mark, f.d, f.a, f.b, f.c, f.fld_low (v := o.ty) (by omega) (by decide),
    f.fld_low (v := o.rnd) (by omega) (by decide), f.fld_low (v := bit o.me) (by omega) (by decide),
    f.fld_low (v := bit o.mz) (by omega) (by decide), f.fld_low (v := o.k) (by omega) (by decide), bit_beq_one, bit_beq_one]

theorem vec {mk : VecOp → Instr} {o : VecOp} {n : Nat} {ty : Nat → Bool} {rnd : RndRule} {mask : MaskRule} (ht : ∀ t, ty t = true → t ≤ 10)
    (h : vecWf ty rnd mask n o = true) (e : some (putVec op k o) = some w)
    (raw : fld w 56 7 = op → fld w 24 8 = k → decodeRaw w = some (mk (getVec w))) (ho : op < 128 := by decide) (hk : k < 256 := by decide) :
    decodeRaw w = some (mk o) := by
  have reg_or_zero (q : Prop) [Decidable q] (r : Nat) (hr : (if q then isReg r else decide (r = 0)) = true) : r < 64 := by
    split at hr
    · exact reg_lt _ hr
    · exact of_decide_eq_true hr ▸ (by decide)
  simp only [vecWf, maskWf, Bool.and_eq_true] at h
  obtain ⟨⟨⟨⟨⟨⟨⟨⟨hd, ha⟩, hb⟩, hc⟩, hy⟩, hr⟩, -⟩, ⟨⟨-, hm⟩, -⟩⟩, -⟩ := h
  exact vec_of (dst_lt _ hd) (reg_lt _ ha) (reg_or_zero _ _ hb) (reg_or_zero _ _ hc) (ht _ hy) (of_decide_eq_true hr) (gen_lt _ hm) e raw ho hk

theorem cvt {mk : VecOp → Instr} {o : VecOp} (h : cvtWf o = true) (e : some (putVec op k o) = some w)
    (raw : fld w 56 7 = op → fld w 24 8 = k → decodeRaw w = some (mk (getVec w))) (ho : op < 128 := by decide) (hk : k < 256 := by decide) :
    decodeRaw w = some (mk o) := by
  simp only [cvtWf, maskWf, Bool.and_eq_true] at h
  obtain ⟨⟨⟨⟨⟨⟨⟨hd, ha⟩, hb⟩, hc⟩, hy⟩, hr⟩, ⟨⟨-, hm⟩, -⟩⟩, -⟩ := h
  exact vec_of (dst_lt _ hd) (reg_lt _ ha) (reg_lt _ hb) (Nat.lt_of_le_of_lt (any_le _ hc) (by decide)) (any_le _ hy) (of_decide_eq_true hr)
    (gen_lt _ hm) e raw ho hk

/-- `fectl` alone has a function number, which is its SH. -/
theorem mem {mk : MemOperand → Instr} {o : MemOperand} (h : memWf o = true) (hd : o.d < 64) (e : some (putMem op o) = some w)
    (raw : fld w 56 7 = op → fld w 35 3 = o.sh → decodeRaw w = some (mk (getMem w))) (ho : op < 128 := by decide) :
    decodeRaw w = some (mk o) := by
  simp only [memWf, Bool.and_eq_true, decide_eq_true_eq] at h
  obtain ⟨⟨⟨⟨⟨ha, hx⟩, hsh⟩, hord⟩, -⟩, hdisp⟩ := h
  replace ha := reg_lt _ ha
  replace hx := reg_lt _ hx
  have hrx := bit_le o.rx
  obtain rfl := Option.some.inj e
  have f : Reads (putMem op o) op o.s o.d o.a o.x (o.sh * 8 + bit o.rx * 4 + o.ord) o.disp := .of_word (by simp only [putMem, word]; omega)
  obtain ⟨fsh, frx, ford⟩ := f.memLow
  have hsh' : fld (putMem op o) 35 3 = o.sh := by omega
  have hrx' : fld (putMem op o) 34 1 = bit o.rx := by omega
  have hord' : fld (putMem op o) 32 2 = o.ord := by omega
  rw [raw f.op hsh', getMem, f.mark, f.d, f.a, f.b, hsh', hrx', hord', f.imm, bit_beq_one]

theorem amo {mk : AmoOp → Instr} {o : AmoOp} (h : amoWf o = true) (hc : o.c < 64) (e : some (putAmo k o) = some w)
    (raw : fld w 56 7 = 101 → fld w 24 8 = k → decodeRaw w = some (mk (getAmo w))) (hk : k < 256 := by decide) :
    decodeRaw w = some (mk o) := by
  simp only [amoWf, Bool.and_eq_true, decide_eq_true_eq] at h
  obtain ⟨⟨⟨hd, ha⟩, hb⟩, hord⟩ := h
  replace hd := gen_lt _ hd
  replace ha := reg_lt _ ha
  replace hb := reg_lt _ hb
  have hsize : (if o.dbl then 3 else 2) ≤ 3 ∧ ((if o.dbl then 3 else 2) == 3) = o.dbl := by cases o.dbl <;> decide
  obtain ⟨hsize, hdbl⟩ := hsize
  obtain rfl := Option.some.inj e
  have f : Reads (putAmo k o) 101 o.s o.d o.a o.b o.c (k * 2 ^ 24 + (if o.dbl then 3 else 2) * 2 ^ 22 + o.ord * 2 ^ 20) :=
    .of_word (by simp only [putAmo, Nat.add_assoc])
  rw [raw f.op f.fn, getAmo, f.mark, f.d, f.a, f.b, f.c, f.fld_low (v := if o.dbl then 3 else 2) (by omega) (by decide),
    f.fld_low (v := o.ord) (by omega) (by decide), hdbl]

theorem mat {mk : MatOperand → Instr} {o : MatOperand} (h : matWf o = true) (hc : o.c < 64) (e : some (putMat op k o) = some w)
    (raw : fld w 56 7 = op → fld w 24 8 = k → decodeRaw w = some (mk (getMat w))) (ho : op < 128 := by decide) (hk : k < 256 := by decide) :
    decodeRaw w = some (mk o) := by
  simp only [matWf, Bool.and_eq_true, decide_eq_true_eq] at h
  obtain ⟨⟨⟨hacc, ha⟩, hb⟩, hswz⟩ := h
  have hz := bit_le o.z
  obtain rfl := Option.some.inj e
  have f : Reads (putMat op k o) op o.s o.acc o.a o.b o.c (k * 2 ^ 24 + o.swz * 2 ^ 21 + bit o.z * 2 ^ 20) :=
    .of_word (by simp only [putMat, Nat.add_assoc])
  rw [raw f.op f.fn, getMat, f.mark, f.d, f.a, f.b, f.c, f.fld_low (v := o.swz) (by omega) (by decide),
    f.fld_low (v := bit o.z) (by omega) (by decide), bit_beq_one]

/-- The engine in bits 30:26 and its function in bits 37:31 (R252). -/
theorem eng {id : Nat} {mk : EngOp → Instr} {o : EngOp} (h : (isGen o.d && isReg o.a && isReg o.b) = true) (e : some (putEng id k o) = some w)
    (raw : fld w 56 7 = 126 → fld w 26 5 = id → fld w 31 7 = k → decodeRaw w = some (mk (getEng w))) (hi : id < 32 := by decide)
    (hk : k < 128 := by decide) : decodeRaw w = some (mk o) := by
  have hd := gen_lt _ (and_l (and_l h))
  have ha := reg_lt _ (and_r (and_l h))
  have hb := reg_lt _ (and_r h)
  have hrel := bit_le o.rel
  obtain rfl := Option.some.inj e
  have f : Reads (putEng id k o) 126 o.s o.d o.a o.b (k / 2) (k % 2 * 2 ^ 31 + id * 2 ^ 26 + bit o.rel * 2 ^ 25) :=
    .of_word (by simp only [putEng, word]; omega)
  have hfn : fld (putEng id k o) 31 7 = k := by
    have hc := f.c
    have hlow := f.low
    simp only [fC, fld] at hc ⊢
    omega
  rw [raw f.op (f.fld_low (by omega) (by decide)) hfn, getEng, f.mark, f.d, f.a, f.b, f.fld_low (v := bit o.rel) (by omega) (by decide), bit_beq_one]

theorem fence {mk : FenceOp → Instr} {o : FenceOp} (h : decide (o.scope ≤ 6) = true)
    (e : some (word 104 o.s 0 0 0 0 + k * 2 ^ 24 + o.scope * 2 ^ 16) = some w)
    (raw : fld w 56 7 = 104 → fld w 24 8 = k → decodeRaw w = some (mk ⟨mark w, fld w 16 4⟩)) (hk : k < 256 := by decide) :
    decodeRaw w = some (mk o) := by
  have hscope := of_decide_eq_true h
  obtain rfl := Option.some.inj e
  have f : Reads _ 104 o.s 0 0 0 0 (k * 2 ^ 24 + o.scope * 2 ^ 16) := .of_word (Nat.add_assoc ..)
  rw [raw f.op f.fn, f.mark, f.fld_low (v := o.scope) (by omega) (by decide)]

end Formats

/-! ## The word of `end` (R55, R243) -/

theorem selWidth_pos {wc : Nat} (h0 : wc ≠ 0) (h3 : wc ≤ 3) : 0 < selWidth wc := by
  obtain rfl | rfl | rfl : wc = 1 ∨ wc = 2 ∨ wc = 3 := by omega
  all_goals decide

/-- The fields of a selector are within their widths. -/
theorem sel_lt {x : Sel} (h : selWf x = true) : x.reg < 64 ∧ x.ofs < 16 ∧ x.wc < 4 := by
  unfold selWf at h
  split at h
  · simp only [Bool.and_eq_true, decide_eq_true_eq] at h
    omega
  case isFalse h0 =>
    simp only [Bool.and_eq_true, decide_eq_true_eq] at h
    obtain ⟨⟨hr, h3⟩, hbits⟩ := h
    have hreg := reg_lt _ hr
    have hpos := selWidth_pos h0 h3
    omega

/-- A selector is read back from its twelve bits. -/
theorem getSel_of_putSel {w lo : Nat} {x : Sel} (h : selWf x = true) (hx : w / 2 ^ lo % 2 ^ 12 = putSel x) : getSel w lo = x := by
  obtain ⟨hreg, hofs, hwc⟩ := sel_lt h
  obtain ⟨reg, ofs, wc⟩ := x
  simp only [putSel] at hx hreg hofs hwc
  simp only [getSel, fld, Nat.pow_add, ← Nat.div_div_eq_div_mul]
  generalize w / 2 ^ lo = v at hx ⊢
  simp only [Sel.mk.injEq]
  omega

theorem endBlk {o : EndOp} {w : Nat} (h : (Instr.endBlk o).wf = true) (e : encode (.endBlk o) = some w) : decodeRaw w = some (.endBlk o) := by
  simp only [Instr.wf, Bool.and_eq_true, decide_eq_true_eq] at h
  obtain ⟨⟨⟨⟨⟨htable, h0⟩, h1⟩, h2⟩, h3⟩, -⟩ := h
  have b0 := putSel_lt h0
  have b1 := putSel_lt h1
  have b2 := putSel_lt h2
  have b3 := putSel_lt h3
  have hs : (if o.s then 2 ^ 63 else 0) = bit o.s * 2 ^ 63 := by cases o.s <;> rfl
  have bs := bit_le o.s
  have hw := Option.some.inj e
  rw [hs] at hw
  have hop : fld w 56 7 = 120 := by rw [fld]; omega
  have hmark : fld w 63 1 = bit o.s := by rw [fld]; omega
  have ht : fld w 48 8 = o.table := by rw [fld]; omega
  have g0 : getSel w 0 = o.sel0 := getSel_of_putSel h0 (by omega)
  have g1 : getSel w 12 = o.sel1 := getSel_of_putSel h1 (by omega)
  have g2 : getSel w 24 = o.sel2 := getSel_of_putSel h2 (by omega)
  have g3 : getSel w 36 = o.sel3 := getSel_of_putSel h3 (by omega)
  simp only [decodeRaw, decodeEND, hop, mark, hmark, bit_beq_one, ht, g0, g1, g2, g3]

/-! ## The word of `rep` (R147, R220) -/

theorem rep {o : RepOp} {w : Nat} (h : (Instr.rep o).wf = true) (e : encode (.rep o) = some w) : decodeRaw w = some (.rep o) := by
  simp only [Instr.wf, Bool.and_eq_true, decide_eq_true_eq] at h
  obtain ⟨⟨⟨ha, hlen⟩, hstagger⟩, hfix⟩ := h
  replace ha := reg_lt _ ha
  replace hfix : o.fix < 2 ^ 32 := hfix.trans_le (Nat.pow_le_pow_right (by decide) (by omega))
  have hw := Option.some.inj e
  simp only [word] at hw
  have f : Reads w 106 o.s 0 o.a (o.stagger / 8) (o.stagger % 8 * 8 + o.lenm1) o.fix := .of_word (by
    simp only [word]
    omega)
  obtain ⟨flen, fstagger⟩ := f.rep
  have glen : fld w 32 3 = o.lenm1 := by omega
  have gstagger : fld w 35 5 = o.stagger := by omega
  rw [decodeRaw, f.op, decodeREP, f.fn4 (v := 0), f.mark, f.a, glen, gstagger, f.imm]
  rfl

/-- The format bytes of `macc.st` (R234). -/
theorem storeFormat_lt {x : Nat} (h : storeFormat x = true) : x < 256 := by
  simp only [storeFormat, narrowFloat, narrowInt, Bool.or_eq_true, Bool.and_eq_true, decide_eq_true_eq] at h
  omega

/-! ## Every instruction -/

/-- The decoder undoes the encoder: one case for each format and group, and one for each word that has a layout of its own. -/
theorem decodeRaw_of_encode {i : Instr} {w : Nat} (h : i.wf = true) (e : encode i = some w) : decodeRaw w = some i := by
  cases i
  case add o | sub o | and o | or o | xor o | andn o | orn o | xnor o | shl o | shr o | sra o | rotl o | rotr o | min o | max o | minu o
      | maxu o | cmpeq o | cmpne o | cmplt o | cmpltu o | cmple o | cmpleu o =>
    exact r3 dst_lt h e fun ho hf => by rw [decodeRaw, ho, decodeIALU, hf]; rfl
  case mul o | mulh o | mulhu o | div o | divu o | rem o | remu o =>
    exact r3 dst_lt h e fun ho hf => by rw [decodeRaw, ho, decodeIMUL, hf]; rfl
  case cadd o | cbnd o | cbndX o | cperm o | csub o | ccmp o | cseal o | cunseal o =>
    exact r3 dst_lt h e fun ho hf => by rw [decodeRaw, ho, decodeCAP, hf]; rfl
  case rank o | selb o => exact r3 gen_lt h e fun ho hf => by rw [decodeRaw, ho, decodeBITMAP, hf]; rfl
  case clz o | ctz o | popc o | bswap o | abs o | neg o => exact r2 dst_lt h e fun ho hf => by rw [decodeRaw, ho, decodeIALU, hf]; rfl
  case mov o => exact r2 dst_lt h e fun ho hf => by rw [decodeRaw, ho, decodeMOV, hf]; rfl
  case cclr o | cgetAddr o | cgetBase o | cgetTop o | cgetPerm o | cgetTag o =>
    exact r2 dst_lt h e fun ho hf => by rw [decodeRaw, ho, decodeCAP, hf]; rfl
  case tget o => exact r2 gen_lt h e fun ho hf => by rw [decodeRaw, ho, decodeTASK, hf]; rfl
  case sel o => exact r4 dst_lt h e fun ho hf => by rw [decodeRaw, ho, decodeIALU, hf]; rfl
  case madd o => exact r4 dst_lt h e fun ho hf => by rw [decodeRaw, ho, decodeIMUL, hf]; rfl
  case hmix o => exact r4 dst_lt h e fun ho hf => by rw [decodeRaw, ho, decodeHMIX, hf]; rfl
  case spawn o => exact r4 gen_lt h e fun ho hf => by rw [decodeRaw, ho, decodeTASK, hf]; rfl
  case addi o | andi o | ori o | xori o | cmpeqi o | cmplti o | cmpltui o | mini o | maxi o =>
    exact imm h e fun ho hf => by rw [decodeRaw, ho, decodeIALUI, hf]; rfl
  case shli o | shri o | srai o => exact imm h e (fun ho hf => by rw [decodeRaw, ho, decodeIALUI, hf]; rfl) (hn := by split <;> decide)
  case li o => exact li dst_lt h e fun ho hf => by rw [decodeRaw, ho, decodeLI, hf]; rfl
  case liq1 o | liq2 o | liq3 o => exact li gen_lt h e fun ho hf => by rw [decodeRaw, ho, decodeLI, hf]; rfl
  case ext o | extS o => exact field dst_lt h e fun ho hf => by rw [decodeRaw, ho, decodeBITF, hf]; rfl
  case ins o => exact field gen_lt h e fun ho hf => by rw [decodeRaw, ho, decodeBITF, hf]; rfl
  case skipZ o | skipNz o | skipNeg o | skipNneg o => exact skip h e fun ho hf => by rw [decodeRaw, ho, decodeSKIP, hf]; rfl
  case caddI o | cpermI o | cbndI o => exact capImm h e fun ho hf => by rw [decodeRaw, ho, decodeCAPI, hf]; rfl
  case vadd o | vsub o | vmul o | vmin o | vmax o | vabs o | vneg o | vand o | vor o | vxor o =>
    exact vec any_le h e fun ho hf => by rw [decodeRaw, ho, decodeVARITH, hf]; rfl
  case vcmpEq o | vcmpNe o | vcmpLt o | vcmpLe o | vcmpGt o | vcmpGe o =>
    exact vec any_le h e fun ho hf => by rw [decodeRaw, ho, decodeVCMP, hf]; rfl
  case vsel o => exact vec any_le h e fun ho hf => by rw [decodeRaw, ho, decodeVSEL, hf]; rfl
  case vredsum o | vredmax o | vredmin o => exact vec any_le h e fun ho hf => by rw [decodeRaw, ho, decodeVRED, hf]; rfl
  case vshuf o | vbcast o | vext o => exact vec any_le h e fun ho hf => by rw [decodeRaw, ho, decodeVPERM, hf]; rfl
  case vins o => exact vec any_le (and_l h) e fun ho hf => by rw [decodeRaw, ho, decodeVPERM, hf]; rfl
  case vdiv o | vsqrt o => exact vec float_le h e fun ho hf => by rw [decodeRaw, ho, decodeVARITH, hf]; rfl
  case vfma o | vfms o | vfnma o => exact vec float_le h e fun ho hf => by rw [decodeRaw, ho, decodeVFMA, hf]; rfl
  case vcmpUn o => exact vec float_le h e fun ho hf => by rw [decodeRaw, ho, decodeVCMP, hf]; rfl
  case vredargmax o => exact vec float_le h e fun ho hf => by rw [decodeRaw, ho, decodeVRED, hf]; rfl
  case vexp2 o | vlog2 o | vrcp o | vrsqrt o | vtanh o | vsig o | vgelu o =>
    exact vec float_le h e fun ho hf => by rw [decodeRaw, ho, decodeVSPEC, hf]; rfl
  case vshl o | vshr o | vsra o => exact vec int_le h e fun ho hf => by rw [decodeRaw, ho, decodeVARITH, hf]; rfl
  case smerge o => exact vec f32_le h e fun ho hf => by rw [decodeRaw, ho, decodeSMERGE, hf]; rfl
  case vcvt o | vcvtI o => exact cvt h e fun ho hf => by rw [decodeRaw, ho, decodeVCVT, hf]; rfl
  case ldB o | ldH o | ldW o | ldD o | ldQ o | ldC o =>
    exact mem (and_l (and_l h)) (gen_lt _ (and_r (and_l h))) e fun ho _ => by rw [decodeRaw, ho]; rfl
  case stB o | stH o | stW o | stD o | stQ o | stC o =>
    exact mem (and_l (and_l h)) (reg_lt _ (and_r (and_l h))) e fun ho _ => by rw [decodeRaw, ho]; rfl
  case ldfe o | ldff o =>
    exact mem (and_l (and_l (and_l h))) (gen_lt _ (and_r (and_l (and_l h)))) e fun ho _ => by rw [decodeRaw, ho]; rfl
  case stef o | stfill o =>
    exact mem (and_l (and_l (and_l h))) (reg_lt _ (and_r (and_l (and_l h)))) e fun ho _ => by rw [decodeRaw, ho]; rfl
  case fectlRead o =>
    simp only [Instr.wf, Bool.and_eq_true, decide_eq_true_eq] at h
    obtain ⟨⟨⟨⟨⟨hm, hd⟩, -⟩, -⟩, -⟩, hsh⟩ := h
    exact mem hm (gen_lt _ hd) e fun ho hf => by rw [decodeRaw, ho, decodeFECTL, hf, hsh]; rfl
  case fectlEmpty o | fectlFull o =>
    simp only [Instr.wf, Bool.and_eq_true, decide_eq_true_eq] at h
    obtain ⟨⟨⟨⟨⟨hm, hd⟩, -⟩, -⟩, -⟩, hsh⟩ := h
    exact mem hm (by omega) e fun ho hf => by rw [decodeRaw, ho, decodeFECTL, hf, hsh]; rfl
  case amoAdd o | amoAnd o | amoOr o | amoXor o | amoMin o | amoMax o | amoMinu o | amoMaxu o | amoSwap o =>
    exact amo (and_l h) (of_decide_eq_true (and_r h) ▸ by decide) e fun ho hf => by rw [decodeRaw, ho, decodeAMO, hf]; rfl
  case amoCas o => exact amo (and_l h) (reg_lt _ (and_r h)) e fun ho hf => by rw [decodeRaw, ho, decodeAMO, hf]; rfl
  case amoFaddF32 o =>
    exact amo (and_l (and_l h)) (of_decide_eq_true (and_r (and_l h)) ▸ by decide) e fun ho hf => by rw [decodeRaw, ho, decodeAMO, hf]; rfl
  case mma o => exact mat (and_l h) (of_decide_eq_true (and_r h) ▸ by decide) e fun ho hf => by rw [decodeRaw, ho, decodeMMA, hf]; rfl
  case mmq o => exact mat (and_l h) (of_decide_eq_true (and_r h) ▸ by decide) e fun ho hf => by rw [decodeRaw, ho, decodeMMQ, hf]; rfl
  case mml o =>
    have hc : o.c ≤ 46 := of_decide_eq_true (and_r (and_l h))
    exact mat (and_l (and_l (and_l h))) (by omega) e fun ho hf => by rw [decodeRaw, ho, decodeMML, hf]; rfl
  case mmd o | mmdFull o =>
    have hc : o.c ≤ 46 := of_decide_eq_true (and_r (and_l h))
    exact mat (and_l (and_l (and_l h))) (by omega) e fun ho hf => by rw [decodeRaw, ho, decodeMMD, hf]; rfl
  case copyXfer o | copyFill o | copyRread o | distCfg o | collAllreduce o | collReduce o | collBcast o | collAllgather o | ctxSave o =>
    exact eng h e fun ho hi hf => by rw [decodeRaw, ho, decodeENG, hi, hf]; rfl
  case copyRwrite o | copyRsend o | copyRemap o | distDeal o | ctxRestore o | ctxScrub o | gateRun o =>
    exact eng (engOne_reg h) e fun ho hi hf => by rw [decodeRaw, ho, decodeENG, hi, hf]; rfl
  case copyStat o | distStat o | collStat o | ctxStat o | gateStat o | dispatchStat o | combineStat o =>
    exact eng (engNone_reg h) e fun ho hi hf => by rw [decodeRaw, ho, decodeENG, hi, hf]; rfl
  case fenceRw o | fenceX o | fenceM o => exact fence h e fun ho hf => by rw [decodeRaw, ho, decodeFENCE, hf]; rfl
  case rep o => exact rep h e
  case endBlk o => exact endBlk h e
  -- The words with a layout of their own; the steps of other agents have no word.
  all_goals
    simp only [encode, reduceCtorEq, Option.some.injEq, Nat.add_assoc] at e
  all_goals
    simp only [Instr.wf, isReg, isGen, isPort, isSpr, Bool.and_eq_true, Bool.or_eq_true, Bool.not_eq_true', decide_eq_true_eq] at h
    subst e
  case sbindIn o =>
    have f : Reads _ 105 o.s o.port o.a o.b 0 0 := .of_word (Nat.add_zero _).symm
    rw [decodeRaw, f.op, decodeSTREAM, f.fn (v := 0), f.mark, f.d, f.a, f.b]; rfl
  case sbindOut o =>
    have f : Reads _ 105 o.s o.port o.a o.b 0 (2 ^ 24) := .of_word rfl
    rw [decodeRaw, f.op, decodeSTREAM, f.fn (v := 1), f.mark, f.d, f.a, f.b]; rfl
  case sunbind s port =>
    have f : Reads _ 105 s port 0 0 0 (2 * 2 ^ 24) := .of_word rfl
    rw [decodeRaw, f.op, decodeSTREAM, f.fn (v := 2), f.mark, f.d]; rfl
  case sstat s d port =>
    have f : Reads _ 105 s d port 0 0 (3 * 2 ^ 24) := .of_word rfl
    rw [decodeRaw, f.op, decodeSTREAM, f.fn (v := 3), f.mark, f.d, f.a]; rfl
  case rinit s a b =>
    have f : Reads _ 115 s 0 a b 0 (2 * 2 ^ 24) := .of_word rfl
    rw [decodeRaw, f.op, decodeMMD, f.fn (v := 2), f.mark, f.a, f.b]; rfl
  case rinval s a =>
    have f : Reads _ 115 s 0 a 0 0 (3 * 2 ^ 24) := .of_word rfl
    rw [decodeRaw, f.op, decodeMMD, f.fn (v := 3), f.mark, f.a]; rfl
  case rstat s d a =>
    have f : Reads _ 115 s d a 0 0 (4 * 2 ^ 24) := .of_word rfl
    rw [decodeRaw, f.op, decodeMMD, f.fn (v := 4), f.mark, f.d, f.a]; rfl
  case maccSt o =>
    have hfmt : o.fmt < 256 := storeFormat_lt h.2
    have f : Reads _ 116 o.s o.acc o.a o.b 0 (o.fmt * 2 ^ 16) := .of_word rfl
    rw [decodeRaw, f.op, decodeACC, f.fn (v := 0), f.mark, f.d, f.a, f.b, f.num (v := o.fmt)]; rfl
  case maccZ s acc =>
    have f : Reads _ 116 s acc 0 0 0 (2 ^ 24) := .of_word rfl
    rw [decodeRaw, f.op, decodeACC, f.fn (v := 1), f.mark, f.d]; rfl
  case mqfin s acc slot swz =>
    have f : Reads _ 116 s acc 0 0 slot (2 * 2 ^ 24 + swz * 2 ^ 21) := .of_word rfl
    rw [decodeRaw, f.op, decodeACC, f.fn (v := 2), f.mark, f.d, f.c, f.fld_low (lo := 21) (n := 3) (v := swz) (by omega) (by decide)]; rfl
  case oclaim s res =>
    have f : Reads _ 117 s 0 0 0 0 (res * 2 ^ 16) := .of_word rfl
    rw [decodeRaw, f.op, decodeOPER, f.fn (v := 0), f.mark, f.num (v := res)]; rfl
  case orel s res =>
    have f : Reads _ 117 s 0 0 0 0 (2 ^ 24 + res * 2 ^ 16) := .of_word rfl
    rw [decodeRaw, f.op, decodeOPER, f.fn (v := 1), f.mark, f.num (v := res)]; rfl
  case oload s slot a b =>
    have f : Reads _ 117 s 0 a b 0 (2 * 2 ^ 24 + slot * 2 ^ 16) := .of_word rfl
    rw [decodeRaw, f.op, decodeOPER, f.fn (v := 2), f.mark, f.num (v := slot), f.a, f.b]; rfl
  case ostat s d res =>
    have f : Reads _ 117 s d 0 0 0 (3 * 2 ^ 24 + res * 2 ^ 16) := .of_word rfl
    rw [decodeRaw, f.op, decodeOPER, f.fn (v := 3), f.mark, f.d, f.num (v := res)]; rfl
  case tdef s tile a b =>
    have f : Reads _ 118 s 0 a b 0 (tile * 2 ^ 16) := .of_word rfl
    rw [decodeRaw, f.op, decodeTILE, f.fn (v := 0), f.mark, f.num (v := tile), f.a, f.b]; rfl
  case tstate s d tile =>
    have f : Reads _ 118 s d 0 0 0 (2 ^ 24 + tile * 2 ^ 16) := .of_word rfl
    rw [decodeRaw, f.op, decodeTILE, f.fn (v := 1), f.mark, f.d, f.num (v := tile)]; rfl
  case tset s tile b =>
    have f : Reads _ 118 s 0 0 b 0 (2 * 2 ^ 24 + tile * 2 ^ 16) := .of_word rfl
    rw [decodeRaw, f.op, decodeTILE, f.fn (v := 2), f.mark, f.num (v := tile), f.b]; rfl
  case tfree s tile =>
    have f : Reads _ 118 s 0 0 0 0 (3 * 2 ^ 24 + tile * 2 ^ 16) := .of_word rfl
    rw [decodeRaw, f.op, decodeTILE, f.fn (v := 3), f.mark, f.num (v := tile)]; rfl
  case matchKey s d a table =>
    have f : Reads _ 121 s d a 0 0 table := .of_word rfl
    rw [decodeRaw, f.op, decodeMATCH, f.fn4 (v := 0), f.mark, f.d, f.a, f.imm]; rfl
  case tblWr s table a b c =>
    have f : Reads _ 122 s 0 a b c (table * 2 ^ 16) := .of_word rfl
    rw [decodeRaw, f.op, decodeTBL, f.fn (v := 0), f.mark, f.num (v := table), f.a, f.b, f.c]; rfl
  case tblCommit s d table a =>
    have f : Reads _ 122 s d a 0 0 (2 ^ 24 + table * 2 ^ 16) := .of_word rfl
    rw [decodeRaw, f.op, decodeTBL, f.fn (v := 1), f.mark, f.d, f.num (v := table), f.a]; rfl
  case tblRd s d table a b =>
    have f : Reads _ 122 s d a b 0 (2 * 2 ^ 24 + table * 2 ^ 16) := .of_word rfl
    rw [decodeRaw, f.op, decodeTBL, f.fn (v := 2), f.mark, f.d, f.num (v := table), f.a, f.b]; rfl
  case tblSync s table a =>
    have f : Reads _ 122 s 0 a 0 0 (3 * 2 ^ 24 + table * 2 ^ 16) := .of_word rfl
    rw [decodeRaw, f.op, decodeTBL, f.fn (v := 3), f.mark, f.num (v := table), f.a]; rfl
  case dec s a b =>
    have f : Reads _ 123 s 0 a b 0 (2 ^ 24) := .of_word rfl
    rw [decodeRaw, f.op, decodeTASK, f.fn (v := 1), f.mark, f.a, f.b]; rfl
  case tsetCnt s a b =>
    have f : Reads _ 123 s 0 a b 0 (3 * 2 ^ 24) := .of_word rfl
    rw [decodeRaw, f.op, decodeTASK, f.fn (v := 3), f.mark, f.a, f.b]; rfl
  case mfs s d spr =>
    have f : Reads _ 124 s d 0 0 0 (spr * 2 ^ 4) := .of_word rfl
    rw [decodeRaw, f.op, decodeSYS, f.fn (v := 0), f.mark, f.d, f.fld_low (v := spr) (by omega) (by decide)]; rfl
  case mts s spr a =>
    have f : Reads _ 124 s 0 a 0 0 (2 ^ 24 + spr * 2 ^ 4) := .of_word rfl
    rw [decodeRaw, f.op, decodeSYS, f.fn (v := 1), f.mark, f.fld_low (v := spr) (by omega) (by decide), f.a]; rfl
  case tlbi s a b =>
    have f : Reads _ 124 s 0 a b 0 (2 * 2 ^ 24) := .of_word rfl
    rw [decodeRaw, f.op, decodeSYS, f.fn (v := 2), f.mark, f.a, f.b]; rfl
  case tlbsync s =>
    have f : Reads _ 124 s 0 0 0 0 (3 * 2 ^ 24) := .of_word rfl
    rw [decodeRaw, f.op, decodeSYS, f.fn (v := 3), f.mark]; rfl
  case portwr s a b c =>
    have f : Reads _ 124 s 0 a b c (4 * 2 ^ 24) := .of_word rfl
    rw [decodeRaw, f.op, decodeSYS, f.fn (v := 4), f.mark, f.a, f.b, f.c]; rfl
  case portfail s a b =>
    have f : Reads _ 124 s 0 a b 0 (5 * 2 ^ 24) := .of_word rfl
    rw [decodeRaw, f.op, decodeSYS, f.fn (v := 5), f.mark, f.a, f.b]; rfl
  case diagSt s a b c =>
    have f : Reads _ 124 s 0 a b c (6 * 2 ^ 24) := .of_word rfl
    rw [decodeRaw, f.op, decodeSYS, f.fn (v := 6), f.mark, f.a, f.b, f.c]; rfl
  case trap s a =>
    have f : Reads _ 124 s 0 a 0 0 (7 * 2 ^ 24) := .of_word rfl
    rw [decodeRaw, f.op, decodeSYS, f.fn (v := 7), f.mark, f.a]; rfl
  case halt s =>
    have f : Reads _ 124 s 0 0 0 0 (8 * 2 ^ 24) := .of_word rfl
    rw [decodeRaw, f.op, decodeSYS, f.fn (v := 8), f.mark]; rfl

theorem decodeWord_of_encode {i : Instr} {w : Nat} (h : i.wf = true) (e : encode i = some w) : decodeWord w = .ok i := by
  simp [decodeWord, decodeRaw_of_encode h e, e, h]

/-- The decoder answers only what it has checked against the encoder and the limits. -/
theorem encode_of_decodeWord {i : Instr} {w : Nat} (h : decodeWord w = .ok i) : encode i = some w ∧ i.wf = true := by
  unfold decodeWord at h
  split at h
  case h_1 => cases h
  case h_2 j hraw =>
    split at h
    case isTrue => cases h
    case isFalse henc =>
      split at h
      case isTrue hwf =>
        cases h
        exact ⟨not_not.mp henc, hwf⟩
      case isFalse => cases h

/-- Settles O55: the decoder undoes the encoder, and answers only what encodes back to its word. -/
theorem encodeAndDecodeAgree : Obligations.EncodeAndDecodeAgree :=
  ⟨fun _ _ => decodeWord_of_encode, fun _ _ => encode_of_decodeWord⟩

/-! ## Words written out (R3, R143) -/

/-- The bytes of a word, lowest address first, make the word. -/
theorem wordOfBytes_bytesOfWord (n w : Nat) : wordOfBytes (bytesOfWord n w) = w % 256 ^ n := by
  induction n generalizing w with
  | zero => simp [bytesOfWord, wordOfBytes, Nat.mod_one]
  | succ n ih => rw [bytesOfWord, wordOfBytes, ih, BitVec.toNat_ofNat, pow_succ' 256 n, Nat.mod_mul]

theorem length_bytesOfWord (n w : Nat) : (bytesOfWord n w).length = n := by
  induction n generalizing w with
  | zero => rfl
  | succ n ih => rw [bytesOfWord, List.length_cons, ih]

/-- What eight bytes decode to is what their word decodes to. -/
theorem decodeTableWord_eq {w : Nat} (hw : w < 2 ^ 64) : decodeTableWord 64 w = (decodeWord w).toOption := by
  have hlen := length_bytesOfWord 8 w
  have hword : wordOfBytes (bytesOfWord 8 w) = w := (wordOfBytes_bytesOfWord 8 w).trans (Nat.mod_eq_of_lt hw)
  rw [decodeTableWord, Nat.mod_eq_of_lt hw, decodeBytes, if_neg (by omega), List.take_of_length_le (by omega), hword]
  cases decodeWord w <;> rfl

theorem decodeTableWord_of_encode {i : Instr} {w : Nat} (h : i.wf = true) (e : encode i = some w) (hw : w < 2 ^ 64 := by decide) :
    decodeTableWord 64 w = some i := by
  rw [decodeTableWord_eq hw, decodeWord_of_encode h e]
  rfl

theorem decodeTableWord_of_error {w : Nat} {c : DecodeError} (h : decodeWord w = .error c) (hw : w < 2 ^ 64 := by decide) :
    decodeTableWord 64 w = none := by
  rw [decodeTableWord_eq hw, h]
  rfl

/-- Settles O54: the first six words are those of well-formed instructions; of the others three have a reserved opcode or function
number, one has a nonzero unused field, and two name a register that may not stand in D, a port and a reserved number. -/
theorem decodesWrittenWords : Obligations.DecodesWrittenWords := by
  refine ⟨?addi, ?mul, ?sel, ?cadd, ?vcvt, ?halt, ?opcode0, ?ialu23, ?opcode127, ?portDst, ?unusedField, ?reservedDst⟩
  case addi | mul | sel | cadd | vcvt | halt => exact decodeTableWord_of_encode rfl rfl
  case opcode0 | ialu23 | opcode127 => exact decodeTableWord_of_error (c := .reserved) rfl
  case unusedField => exact decodeTableWord_of_error (c := .zeroField) (by decide)
  case portDst | reservedDst => exact decodeTableWord_of_error (c := .limit) (by decide)

end Sys2Proof.Encoding
end

section
/-! PROOFS. Setting bounds (R73, R176). -/

namespace Sys2Proof.Machine

/-! ## Fields of a register value -/

theorem toNat_set (v : RegVal) {lo n : Nat} (x : Nat) (h : lo + n ≤ 128) : (v.set lo n x).bits.toNat = setFld v.bits.toNat lo n x := by
  rw [RegVal.set, BitVec.toNat_ofNat, Nat.mod_eq_of_lt (setFld_lt x v.bits.isLt h)]

/-- A field of a register value reads as it was set. -/
theorem fld_set_same (v : RegVal) {lo n : Nat} (x : Nat) (h : lo + n ≤ 128) : fld (v.set lo n x).bits.toNat lo n = x % 2 ^ n := by
  rw [toNat_set v x h, fld_setFld_same]

/-- A field of a register value stays where another one is set. -/
theorem fld_set_apart (v : RegVal) {lo n lo' n' : Nat} (x : Nat) (h : lo + n ≤ 128) (hap : lo' + n' ≤ lo ∨ lo + n ≤ lo') :
    fld (v.set lo n x).bits.toNat lo' n' = fld v.bits.toNat lo' n' := by
  rw [toNat_set v x h, fld_setFld_apart _ _ hap]

/-! ## Rounding -/

theorem roundDown_le (x e : Nat) : roundDown x e ≤ x := Nat.div_mul_le_self x _

theorem le_roundUp (x e : Nat) : x ≤ roundUp x e := by
  have hpos := Nat.two_pow_pos e
  have hdiv := Nat.div_add_mod' (x + 2 ^ e - 1) (2 ^ e)
  have hmod := Nat.mod_lt (x + 2 ^ e - 1) hpos
  rw [roundUp]
  omega

/-- Rounding outward adds less than two units. -/
theorem roundUp_sub_roundDown_lt (b n e : Nat) : roundUp (b + n) e - roundDown b e < n + 2 * 2 ^ e := by
  have hpos := Nat.two_pow_pos e
  have hup : roundUp (b + n) e ≤ b + n + 2 ^ e - 1 := Nat.div_mul_le_self ..
  have hdown := Nat.div_add_mod' b (2 ^ e)
  have hmod := Nat.mod_lt b hpos
  rw [roundDown]
  omega

/-! ## The exponent -/

/-- Whether the mantissas of exponent `e` hold the region from `b` to `t`, rounded outward (R176). -/
def boundsFit (b t e : Nat) : Bool := decide (roundUp t e - roundDown b e < 2 ^ (e + 16))

theorem boundsExp_eq (b t : Nat) : boundsExp b t = ((List.range 57).find? (boundsFit b t)).getD 56 := rfl

/-- A region of a 64-bit length fits at exponent 49. -/
theorem boundsFit_49 (b : Nat) {n : Nat} (hn : n < 2 ^ 64) : boundsFit b (b + n) 49 = true := by
  have hlt := roundUp_sub_roundDown_lt b n 49
  rw [boundsFit, decide_eq_true_iff]
  omega

/-- The exponent chosen for a region of a 64-bit length is the least that fits, and at most 49. -/
theorem boundsExp_least (b : Nat) {n : Nat} (hn : n < 2 ^ 64) :
    boundsExp b (b + n) ≤ 49 ∧ boundsFit b (b + n) (boundsExp b (b + n)) = true ∧
      ∀ e < boundsExp b (b + n), boundsFit b (b + n) e = false := by
  have hfit := boundsFit_49 b hn
  have hmem : 49 ∈ List.range 57 := List.mem_range.mpr (by decide)
  obtain ⟨e, he⟩ := Option.isSome_iff_exists.mp (List.find?_isSome.mpr ⟨49, hmem, hfit⟩)
  rw [boundsExp_eq, he, Option.getD_some]
  obtain ⟨hpos, -, hless⟩ := List.find?_range_eq_some.mp he
  have hleast : ∀ e' < e, boundsFit b (b + n) e' = false := fun e' h => by simpa using hless e' h
  refine ⟨Nat.le_of_not_lt fun h => ?_, hpos, hleast⟩
  rw [hleast 49 h] at hfit
  exact absurd hfit (by decide)

/-! ## The bounds that a capability decodes to -/

/-- Bounds `B` and `T`, in units of 2^`e`, decode from their low 16 bits and an address in unit `B`, where they are less than 2^16 units
apart (R73). -/
theorem capBounds_of_fields {v : RegVal} {e B T : Nat} (he : v.exp = e) (hexp : e ≤ 56) (hbm : v.bm = B % 2 ^ 16)
    (htm : v.tm = T % 2 ^ 16) (haddr : v.addr / 2 ^ e = B) (hBT : B ≤ T) (hfit : T - B < 2 ^ 16) (htop : T * 2 ^ e ≤ 2 ^ 72) :
    capBounds v = some (B * 2 ^ e, T * 2 ^ e) := by
  subst he
  have hpow : 2 ^ (v.exp + 16) = 2 ^ v.exp * 2 ^ 16 := Nat.pow_add ..
  have hwin : v.addr / 2 ^ (v.exp + 16) = B / 2 ^ 16 := by rw [hpow, ← Nat.div_div_eq_div_mul, haddr]
  have hwrap : ¬v.addr % 2 ^ (v.exp + 16) < v.bm * 2 ^ v.exp := by
    rw [hpow, Nat.mod_mul, haddr, hbm, Nat.mul_comm (2 ^ v.exp)]
    exact Nat.not_lt.mpr (Nat.le_add_left ..)
  have hbase : B / 2 ^ 16 * 2 ^ (v.exp + 16) + v.bm * 2 ^ v.exp = B * 2 ^ v.exp := by
    rw [hpow, hbm, Nat.mul_comm (2 ^ v.exp), ← Nat.mul_assoc, ← Nat.add_mul, Nat.div_add_mod']
  have htops : B / 2 ^ 16 * 2 ^ (v.exp + 16) + v.tm * 2 ^ v.exp + (if v.tm < v.bm then 2 ^ (v.exp + 16) else 0) = T * 2 ^ v.exp := by
    have hT : T = (B / 2 ^ 16 * 2 ^ 16) + v.tm + (if v.tm < v.bm then 2 ^ 16 else 0) := by
      rw [hbm, htm]
      split
      · omega
      · omega
    rw [hT, hpow]
    split
    · ring
    · ring
  unfold capBounds
  dsimp only
  rw [hwin, if_neg hwrap, Int.add_sub_cancel]
  simp only [← Int.natCast_add, hbase, htops, Int.toNat_natCast]
  refine if_neg ?_
  rintro (h | h | h)
  · exact absurd hexp (Nat.not_le.mpr h)
  · exact absurd (Int.natCast_nonneg _) (Int.not_le.mpr h)
  · exact absurd (Int.ofNat_le.mpr htop) (Int.not_le.mpr h)

/-! ## What `cbnd` leaves -/

section SetBounds
variable (v : RegVal) {len : Nat} (exact : Bool) (hlen : len < 2 ^ 64)

/-- Fields outside `E`, `BM` and `TM` stay. -/
theorem fld_setBounds {lo n : Nat} (h : lo + n ≤ 72 ∨ 110 ≤ lo) :
    fld (setBounds v len exact).bits.toNat lo n = fld v.bits.toNat lo n := by
  refine (fld_set_apart _ _ (by decide) (by omega)).trans ?_
  rw [fld_set_apart _ _ (by decide) (by omega), fld_set_apart _ _ (by decide) (by omega)]

theorem setBounds_addr : (setBounds v len exact).addr = v.addr := fld_setBounds v exact (by decide)
theorem setBounds_perm : (setBounds v len exact).perm = v.perm := fld_setBounds v exact (by decide)
theorem setBounds_otype : (setBounds v len exact).otype = v.otype := fld_setBounds v exact (by decide)

theorem setBounds_bm : (setBounds v len exact).bm =
    roundDown v.addr (boundsExp v.addr (v.addr + len)) / 2 ^ boundsExp v.addr (v.addr + len) % 2 ^ 16 := by
  refine (fld_set_apart _ _ (by decide) (by decide)).trans ?_
  rw [fld_set_same _ _ (by decide)]

theorem setBounds_tm : (setBounds v len exact).tm =
    roundUp (v.addr + len) (boundsExp v.addr (v.addr + len)) / 2 ^ boundsExp v.addr (v.addr + len) % 2 ^ 16 :=
  fld_set_same _ _ (by decide)

include hlen in
theorem setBounds_exp : (setBounds v len exact).exp = boundsExp v.addr (v.addr + len) := by
  have hle := (boundsExp_least v.addr hlen).1
  refine (fld_set_apart _ _ (by decide) (by decide)).trans ?_
  rw [fld_set_apart _ _ (by decide) (by decide), fld_set_same _ _ (by decide)]
  exact Nat.mod_eq_of_lt (by omega)

/-- The new capability is tagged where the old one is usable and its region holds the rounded one (R176). -/
theorem setBounds_tag : (setBounds v len exact).tag = true ↔ v.tag = true ∧ v.otype = 0 ∧
    roundUp (v.addr + len) (boundsExp v.addr (v.addr + len)) ≤ 2 ^ 72 ∧
    (∃ b t, capBounds v = some (b, t) ∧ b ≤ roundDown v.addr (boundsExp v.addr (v.addr + len)) ∧
      roundUp (v.addr + len) (boundsExp v.addr (v.addr + len)) ≤ t) ∧
    (exact = true → roundDown v.addr (boundsExp v.addr (v.addr + len)) = v.addr ∧
      roundUp (v.addr + len) (boundsExp v.addr (v.addr + len)) = v.addr + len) := by
  unfold setBounds
  dsimp only
  generalize boundsExp v.addr (v.addr + len) = e
  match capBounds v with
  | none => simp
  | some (b, t) => cases exact <;> simp [usable, and_assoc]

include hlen in
/-- The new capability covers exactly the rounded region, where this ends inside the address space (R176). -/
theorem capBounds_setBounds (htop : roundUp (v.addr + len) (boundsExp v.addr (v.addr + len)) ≤ 2 ^ 72) :
    capBounds (setBounds v len exact) = some (roundDown v.addr (boundsExp v.addr (v.addr + len)),
      roundUp (v.addr + len) (boundsExp v.addr (v.addr + len))) := by
  obtain ⟨hle, hfit, -⟩ := boundsExp_least v.addr hlen
  have hexp := setBounds_exp v exact hlen
  have hbm := setBounds_bm v (len := len) exact
  have htm := setBounds_tm v (len := len) exact
  have haddr := setBounds_addr v (len := len) exact
  generalize boundsExp v.addr (v.addr + len) = e at *
  have hpos := Nat.two_pow_pos e
  have hlow := roundDown_le v.addr e
  have hhigh := le_roundUp (v.addr + len) e
  rw [boundsFit, decide_eq_true_iff, Nat.pow_add, Nat.mul_comm] at hfit
  rw [roundDown, Nat.mul_div_cancel _ hpos] at hbm
  rw [roundUp, Nat.mul_div_cancel _ hpos] at htm
  rw [roundUp, roundDown] at *
  have hBT := Nat.le_of_mul_le_mul_right (hlow.trans (Nat.le_of_add_right_le hhigh)) hpos
  rw [← Nat.sub_mul] at hfit
  exact capBounds_of_fields hexp (by omega) hbm htm (by rw [haddr]) hBT (Nat.lt_of_mul_lt_mul_right hfit) htop

end SetBounds

/-- Settles O10: the exponent chosen is the first that fits, and 49 fits every length of 64 bits; the fields that it leaves decode to the
rounded region. -/
theorem capabilityBoundsResults : Obligations.CapabilityBoundsResults := by
  unfold Obligations.CapabilityBoundsResults
  intro up down narrowed
  have hnarrowed : ∀ (v : RegVal) (len : Nat) (exact : Bool), len < 2 ^ 64 → narrowed v len exact (setBounds v len exact) := by
    intro v len exact hlen
    obtain ⟨hle, hfit, hleast⟩ := boundsExp_least v.addr hlen
    exact ⟨boundsExp v.addr (v.addr + len), hle, of_decide_eq_true hfit, fun e he => of_decide_eq_false (hleast e he),
      setBounds_exp v exact hlen, setBounds_bm v exact, setBounds_tm v exact, setBounds_addr v exact, setBounds_perm v exact,
      setBounds_otype v exact, setBounds_tag v exact, capBounds_setBounds v exact hlen, roundDown_le .., le_roundUp ..⟩
  refine ⟨fun o s places t hready => ⟨⟨_, issue_computeVal hready, ?least⟩, _, issue_computeVal hready, ?exact⟩,
    fun o s places t hready himm => ⟨_, issue_computeVal hready, ?imm⟩⟩
  case least => exact hnarrowed _ _ false (BitVec.isLt _)
  case exact => exact hnarrowed _ _ true (BitVec.isLt _)
  case imm => exact hnarrowed _ _ false (himm.trans (by decide))

end Sys2Proof.Machine
end

section
/-! PROOFS. Integer words (R159-R164, R171, R172): what the function of each gives, and the division by zero. -/

namespace Sys2Proof.Machine

/-! ## From the model's functions to operations of words -/

theorem gives2_of_binary {i : R3 → Instr} {f g : W64 → W64 → W64} (hexec : ∀ o s, exec (i o) s = binary o s f)
    (hval : ∀ a b, f a b = g a b) : Gives2 i g :=
  fun o => gives_of_computeVal (hexec o) fun _ => congrArg RegVal.ofInt (hval ..)

theorem gives1_of_unary {i : R2 → Instr} {f g : W64 → W64} (hexec : ∀ o s, exec (i o) s = unary o s f) (hval : ∀ a, f a = g a) :
    Gives1 i g :=
  fun o => gives_of_computeVal (hexec o) fun _ => congrArg RegVal.ofInt (hval ..)

theorem givesImm_of_immediate {i : ImmOp → Instr} {f f' : W64 → W64 → W64} {g g' : BitVec 32 → BitVec 32 → W64}
    (hexec : ∀ o s, exec (i o) s = immediate o s f g) (hwhole : ∀ a b, f a b = f' a b) (hlow : ∀ a k, g a k = g' a k) :
    GivesImm i f' g' := by
  refine fun o => gives_of_computeVal (hexec o) fun s => congrArg RegVal.ofInt ?_
  rw [hwhole, hlow]
  rfl

theorem truth_of_iff {c : Bool} {p : Prop} [Decidable p] (h : c = true ↔ p) : truth c = if p then 1 else 0 := if_congr h rfl rfl

theorem count_eq (b : W64) : count b = b.toNat % 64 := fld_zero ..

/-! ## Binary functions (R159) -/

theorem valShl_eq (a b : W64) : valShl a b = a <<< (b.toNat % 64) := by rw [valShl, count_eq]
theorem valShr_eq (a b : W64) : valShr a b = a >>> (b.toNat % 64) := by rw [valShr, count_eq]
theorem valRotl_eq (a b : W64) : valRotl a b = a.rotateLeft (b.toNat % 64) := by rw [valRotl, count_eq]
theorem valRotr_eq (a b : W64) : valRotr a b = a.rotateRight (b.toNat % 64) := by rw [valRotr, count_eq]
theorem valSra_eq_sshiftRight (a b : W64) : valSra a b = a.sshiftRight (b.toNat % 64) := by rw [valSra, count_eq]

/-- An arithmetic shift divides by a power of two, rounding down. -/
theorem valSra_eq (a b : W64) : valSra a b = BitVec.ofInt 64 (a.toInt / 2 ^ (b.toNat % 64)) := by
  rw [valSra_eq_sshiftRight, BitVec.sshiftRight, Int.shiftRight_eq_div_pow]
  norm_cast

theorem valMin_eq (a b : W64) : valMin a b = if a.toInt ≤ b.toInt then a else b := if_congr BitVec.sle_iff_toInt_le rfl rfl
theorem valMax_eq (a b : W64) : valMax a b = if b.toInt ≤ a.toInt then a else b := if_congr BitVec.sle_iff_toInt_le rfl rfl
theorem valMinu_eq (a b : W64) : valMinu a b = if a.toNat ≤ b.toNat then a else b := if_congr BitVec.ule_iff_toNat_le rfl rfl
theorem valMaxu_eq (a b : W64) : valMaxu a b = if b.toNat ≤ a.toNat then a else b := if_congr BitVec.ule_iff_toNat_le rfl rfl
theorem valCmpeq_eq (a b : W64) : valCmpeq a b = if a = b then 1 else 0 := truth_of_iff beq_iff_eq
theorem valCmplt_eq (a b : W64) : valCmplt a b = if a.toInt < b.toInt then 1 else 0 := truth_of_iff BitVec.slt_iff_toInt_lt
theorem valCmpltu_eq (a b : W64) : valCmpltu a b = if a.toNat < b.toNat then 1 else 0 := truth_of_iff BitVec.ult_iff_toNat_lt
theorem valCmple_eq (a b : W64) : valCmple a b = if a.toInt ≤ b.toInt then 1 else 0 := truth_of_iff BitVec.sle_iff_toInt_le
theorem valCmpleu_eq (a b : W64) : valCmpleu a b = if a.toNat ≤ b.toNat then 1 else 0 := truth_of_iff BitVec.ule_iff_toNat_le
theorem valCmpne_eq (a b : W64) : valCmpne a b = if a = b then 0 else 1 := (truth_of_iff bne_iff_ne).trans (ite_not ..)

/-- Settles O1: every word is `binary`, so each clause is about its function, written in the model with the shift count as a field of
B and with the Boolean comparisons of words. -/
theorem binaryIntegerResults : Obligations.BinaryIntegerResults := by
  unfold Obligations.BinaryIntegerResults
  refine ⟨?add, ?sub, ?and, ?andn, ?or, ?orn, ?xor, ?xnor, ?shl, ?shr, ?sra, ?rotl, ?rotr, ?min, ?max, ?minu, ?maxu, ?cmpeq, ?cmpne,
    ?cmplt, ?cmpltu, ?cmple, ?cmpleu⟩
  case add | sub | and | andn | or | orn | xor | xnor => exact gives2_of_binary (fun _ _ => rfl) fun _ _ => rfl
  case shl => exact gives2_of_binary (fun _ _ => rfl) valShl_eq
  case shr => exact gives2_of_binary (fun _ _ => rfl) valShr_eq
  case sra => exact gives2_of_binary (fun _ _ => rfl) valSra_eq
  case rotl => exact gives2_of_binary (fun _ _ => rfl) valRotl_eq
  case rotr => exact gives2_of_binary (fun _ _ => rfl) valRotr_eq
  case min => exact gives2_of_binary (fun _ _ => rfl) valMin_eq
  case max => exact gives2_of_binary (fun _ _ => rfl) valMax_eq
  case minu => exact gives2_of_binary (fun _ _ => rfl) valMinu_eq
  case maxu => exact gives2_of_binary (fun _ _ => rfl) valMaxu_eq
  case cmpeq => exact gives2_of_binary (fun _ _ => rfl) valCmpeq_eq
  case cmpne => exact gives2_of_binary (fun _ _ => rfl) valCmpne_eq
  case cmplt => exact gives2_of_binary (fun _ _ => rfl) valCmplt_eq
  case cmpltu => exact gives2_of_binary (fun _ _ => rfl) valCmpltu_eq
  case cmple => exact gives2_of_binary (fun _ _ => rfl) valCmple_eq
  case cmpleu => exact gives2_of_binary (fun _ _ => rfl) valCmpleu_eq

/-! ## Unary functions (R161) -/

/-- As many numbers from 0 upward pass a test as come before the first that does not. -/
theorem length_takeWhile_range {p : Nat → Bool} {n k : Nat} (hk : k ≤ n) (hbelow : ∀ i < k, p i = true)
    (hat : k < n → p k = false) :
    ((List.range n).takeWhile p).length = k := by
  obtain ⟨m, rfl⟩ := Nat.exists_eq_add_of_le hk
  rw [List.range_add, List.takeWhile_append_of_pos (by simpa using hbelow), List.length_append, List.length_range]
  cases m with
  | zero => rfl
  | succ m => simp [List.range_succ_eq_map, hat (by omega)]

theorem valClz_eq (a : W64) : valClz a = BitVec.ofNat 64 ((List.range 64).takeWhile fun i => !a.getLsbD (63 - i)).length := by
  unfold valClz
  split
  case isTrue hzero =>
    subst hzero
    rw [length_takeWhile_range (Nat.le_refl 64) (by simp) (by simp)]
    rfl
  case isFalse hne =>
    have hpos : a.toNat ≠ 0 := fun h => hne (BitVec.eq_of_toNat_eq h)
    have htop : a.toNat.log2 < 64 := (Nat.log2_lt hpos).mpr a.isLt
    have habove := (Nat.log2_lt hpos).mp (Nat.lt_succ_self _)
    rw [length_takeWhile_range (k := 63 - a.toNat.log2) (by omega)]
    · intro i hi
      rw [Bool.not_eq_true', BitVec.getLsbD]
      exact Nat.testBit_lt_two_pow (habove.trans_le (Nat.pow_le_pow_right Nat.two_pos (by omega)))
    · intro _
      have hlog : 63 - (63 - a.toNat.log2) = a.toNat.log2 := by omega
      rw [hlog, BitVec.getLsbD, Nat.testBit_log2 hpos]
      rfl

theorem valCtz_eq (a : W64) : valCtz a = BitVec.ofNat 64 ((List.range 64).takeWhile fun i => !a.getLsbD i).length := by
  rw [valCtz]
  match hfind : (List.range 64).find? fun i => a.getLsbD i with
  | none => rw [length_takeWhile_range (Nat.le_refl 64) (List.find?_range_eq_none.mp hfind) (by simp), Option.getD_none]
  | some k =>
    obtain ⟨hset, hmem, hclear⟩ := List.find?_range_eq_some.mp hfind
    rw [length_takeWhile_range (List.mem_range.mp hmem).le hclear (fun _ => by rw [hset]; rfl), Option.getD_some]

theorem ofBytes_concat (bs : List (BitVec 8)) (b : BitVec 8) : ofBytes (bs ++ [b]) = ofBytes bs + b.toNat * 256 ^ bs.length := by
  induction bs with
  | nil => simp [ofBytes]
  | cons c bs ih =>
    rw [List.cons_append, ofBytes, ih, ofBytes, List.length_cons, Nat.pow_succ]
    ring

/-- The bytes of a number in the other order, as a number: byte `i` is the `i`-th from the top. -/
theorem ofBytes_reverse_bytesOf (n x : Nat) :
    ofBytes (bytesOf n x).reverse = (List.range n).foldl (fun s i => s + x / 256 ^ (n - 1 - i) % 256 * 256 ^ i) 0 := by
  induction n generalizing x with
  | zero => rfl
  | succ n ih =>
    have hshift : ∀ s, ∀ i ∈ List.range n,
        s + x / 256 / 256 ^ (n - 1 - i) % 256 * 256 ^ i = s + x / 256 ^ (n + 1 - 1 - i) % 256 * 256 ^ i := by
      intro s i hi
      have hexp : n + 1 - 1 - i = 1 + (n - 1 - i) := by have := List.mem_range.mp hi; omega
      rw [hexp, Nat.pow_add, ← Nat.div_div_eq_div_mul, Nat.pow_one]
    rw [bytesOf, List.reverse_cons, ofBytes_concat, ih, List.foldl_ext _ _ _ hshift, List.range_succ, List.foldl_append,
      List.length_reverse, length_bytesOf]
    simp

theorem valBswap_eq (a : W64) :
    valBswap a = BitVec.ofNat 64 ((List.range 8).foldl (fun n i => n + a.toNat / 256 ^ (7 - i) % 256 * 256 ^ i) 0) := by
  rw [valBswap, ofBytes_reverse_bytesOf]

theorem valAbs_eq (a : W64) : valAbs a = if a.toInt < 0 then 0 - a else a := by
  exact if_congr BitVec.slt_iff_toInt_lt (BitVec.zero_sub a).symm rfl

/-- Settles O2: every word is `unary`. The model finds the highest set bit of `clz` by a logarithm and the lowest of `ctz` by a search. -/
theorem unaryIntegerResults : Obligations.UnaryIntegerResults := by
  unfold Obligations.UnaryIntegerResults
  refine ⟨?clz, ?ctz, ?popc, ?bswap, ?abs, ?neg⟩
  case clz => exact gives1_of_unary (fun _ _ => rfl) valClz_eq
  case ctz => exact gives1_of_unary (fun _ _ => rfl) valCtz_eq
  case popc => exact gives1_of_unary (fun _ _ => rfl) fun a => by rw [valPopc, List.countP_eq_length_filter]
  case bswap => exact gives1_of_unary (fun _ _ => rfl) valBswap_eq
  case abs => exact gives1_of_unary (fun _ _ => rfl) valAbs_eq
  case neg => exact gives1_of_unary (fun _ _ => rfl) fun a => (BitVec.zero_sub a).symm

/-! ## Products and quotients (R162) -/

theorem valMulh_eq (a b : W64) : valMulh a b = ((a.signExtend 128 * b.signExtend 128) >>> 64).setWidth 64 := by
  refine BitVec.eq_of_toNat_eq ?_
  rw [valMulh, BitVec.signExtend, BitVec.signExtend, ← BitVec.ofInt_mul, BitVec.toNat_setWidth, BitVec.toNat_ushiftRight,
    Nat.shiftRight_eq_div_pow, BitVec.toNat_ofInt, BitVec.toNat_ofInt]
  generalize a.toInt * b.toInt = p
  omega

theorem valMulhu_eq (a b : W64) : valMulhu a b = ((a.setWidth 128 * b.setWidth 128) >>> 64).setWidth 64 := by
  refine BitVec.eq_of_toNat_eq ?_
  have hprod : a.toNat * b.toNat < 2 ^ 128 := (Nat.mul_lt_mul'' a.isLt b.isLt).trans_eq (by decide)
  have ha : a.toNat < 2 ^ 128 := a.isLt.trans (by decide)
  have hb : b.toNat < 2 ^ 128 := b.isLt.trans (by decide)
  rw [valMulhu, BitVec.toNat_ofNat, BitVec.toNat_setWidth, BitVec.toNat_ushiftRight, BitVec.toNat_mul, BitVec.toNat_setWidth,
    BitVec.toNat_setWidth, Nat.mod_eq_of_lt ha, Nat.mod_eq_of_lt hb, Nat.shiftRight_eq_div_pow,
    Nat.mod_eq_of_lt hprod]

theorem valDiv_eq_sdiv (a b : W64) : valDiv a b = a.sdiv b := by
  refine BitVec.eq_of_toInt_eq ?_
  rw [valDiv, BitVec.toInt_ofInt, BitVec.toInt_sdiv]

theorem valRem_eq_srem (a b : W64) : valRem a b = a.srem b := by
  rw [valRem, ← BitVec.toInt_srem, BitVec.ofInt_toInt]

/-- The one quotient that 64 bits do not hold comes out as its dividend. -/
theorem valDiv_eq (a b : W64) : valDiv a b = (if a = 1 <<< 63 ∧ b.toInt = -1 then 1 <<< 63 else a.sdiv b : W64) := by
  split
  case isTrue hmost =>
    obtain ⟨rfl, hb⟩ := hmost
    rw [valDiv, hb]
    decide
  case isFalse => exact valDiv_eq_sdiv a b

theorem valRem_eq (a b : W64) : valRem a b = if a = 1 <<< 63 ∧ b.toInt = -1 then 0 else a.srem b := by
  split
  case isTrue hmost =>
    obtain ⟨rfl, hb⟩ := hmost
    rw [valRem, hb]
    decide
  case isFalse => exact valRem_eq_srem a b

/-- A division by a divisor that is not zero completes. -/
theorem division_of_ne_zero {o : R3} {s t : State} {places : List OutElem} (f : W64 → W64 → W64)
    (hready : Ready s [o.a, o.b] o.d places t) (hne : srcInt s [o.a, o.b] 1 ≠ 0) :
    division o s f = .next (wrote o.s s.cur [o.a, o.b] o.d (RegVal.ofInt (f (srcInt s [o.a, o.b] 0) (srcInt s [o.a, o.b] 1))) 0 places t) :=
  issue_compute hready (if_neg hne)

/-- A division by zero traps DIVZERO. -/
theorem division_of_zero {o : R3} {s : State} (f : W64 → W64 → W64) (hsrc : checkSrc s s.cur [o.a, o.b] o.d = .ok () s)
    (hzero : srcInt s [o.a, o.b] 1 = 0) : division o s f = .next (trapHere s s.cur .divzero 0) :=
  issue_compute_trap hsrc (if_pos hzero)

/-- The four divisions are `division` with some quotient or remainder. -/
theorem exec_division (o : R3) : ∀ i ∈ [Instr.div o, .divu o, .rem o, .remu o], ∃ f, ∀ s, exec i s = division o s f := by
  simp only [List.forall_mem_cons]
  exact ⟨⟨valDiv, fun _ => rfl⟩, ⟨fun a b => BitVec.ofNat 64 (a.toNat / b.toNat), fun _ => rfl⟩, ⟨valRem, fun _ => rfl⟩,
    ⟨fun a b => BitVec.ofNat 64 (a.toNat % b.toNat), fun _ => rfl⟩, List.forall_mem_nil _⟩

/-- Settles O3: the words compute their products in the integers; a division past its check of the divisor is a word that computes. -/
theorem productAndQuotientResults : Obligations.ProductAndQuotientResults := by
  unfold Obligations.ProductAndQuotientResults
  refine ⟨?mul, ?mulh, ?mulhu, ?madd, fun o s places t hready hne => ⟨?div, ?divu, ?rem, ?remu⟩⟩
  case mul => exact gives2_of_binary (fun _ _ => rfl) fun _ _ => rfl
  case mulh => exact gives2_of_binary (fun _ _ => rfl) valMulh_eq
  case mulhu => exact gives2_of_binary (fun _ _ => rfl) valMulhu_eq
  case madd => exact fun o => gives_of_computeVal (fun _ => rfl) fun _ => rfl
  case div =>
    refine (division_of_ne_zero valDiv hready hne).trans ?_
    rw [valDiv_eq]
  case divu =>
    refine (division_of_ne_zero (fun a b => BitVec.ofNat 64 (a.toNat / b.toNat)) hready hne).trans ?_
    dsimp only
    rw [← BitVec.toNat_udiv, BitVec.ofNat_toNat, BitVec.setWidth_eq]
    rfl
  case rem =>
    refine (division_of_ne_zero valRem hready hne).trans ?_
    rw [valRem_eq]
  case remu =>
    refine (division_of_ne_zero (fun a b => BitVec.ofNat 64 (a.toNat % b.toNat)) hready hne).trans ?_
    dsimp only
    rw [← BitVec.toNat_umod, BitVec.ofNat_toNat, BitVec.setWidth_eq]
    rfl

/-- Settles O4: the four divisions make one check of the divisor, after those of their sources (R348). -/
theorem divisionByZeroTraps : Obligations.DivisionByZeroTraps := by
  unfold Obligations.DivisionByZeroTraps
  intro o s hsrc hzero i hi
  obtain ⟨f, hexec⟩ := exec_division o i hi
  rw [hexec, division_of_zero f hsrc hzero]

/-! ## Selection, hash and move (R160, R171, R172) -/

/-- Settles O5: `sel` takes one of its values whole, `mov` its only one, and the model's `mix` is that of the statement. -/
theorem selectHashMoveResults : Obligations.SelectHashMoveResults := by
  unfold Obligations.SelectHashMoveResults
  refine ⟨fun o => ?sel, fun o => ?hmix, fun o => ?mov⟩
  case sel =>
    refine gives_of_computeVal (fun _ => rfl) fun s => ?_
    change (if srcInt s [o.a, o.b, o.c] 2 != 0 then fieldVal s s.cur [o.a, o.b, o.c] 0 else fieldVal s s.cur [o.a, o.b, o.c] 1) = _
    by_cases hzero : srcInt s [o.a, o.b, o.c] 2 = 0
    · rw [hzero]
      rfl
    · rw [if_pos (bne_iff_ne.mpr hzero), if_neg hzero]
  case hmix => exact gives_of_computeVal (fun _ => rfl) fun _ => rfl
  case mov => exact gives_of_computeVal (fun _ => rfl) fun _ => rfl

/-! ## Immediates (R163, R164) -/

/-- Settles O6: every word is `immediate`, with the function of its register form on 64 bits. -/
theorem immediateResults : Obligations.ImmediateResults := by
  unfold Obligations.ImmediateResults
  refine ⟨?addi, ?andi, ?ori, ?xori, ?shli, ?shri, ?srai, ?cmpeqi, ?cmplti, ?cmpltui, ?mini, ?maxi⟩
  case addi | andi | ori | xori => exact givesImm_of_immediate (fun _ _ => rfl) (fun _ _ => rfl) fun _ _ => rfl
  case shli => exact givesImm_of_immediate (fun _ _ => rfl) valShl_eq fun _ _ => rfl
  case shri => exact givesImm_of_immediate (fun _ _ => rfl) valShr_eq fun _ _ => rfl
  case srai => exact givesImm_of_immediate (fun _ _ => rfl) valSra_eq_sshiftRight fun _ _ => rfl
  case cmpeqi =>
    exact givesImm_of_immediate (g := fun a k => truth (a == k)) (fun _ _ => rfl) valCmpeq_eq fun _ _ => truth_of_iff beq_iff_eq
  case cmplti =>
    exact givesImm_of_immediate (g := fun a k => truth (a.slt k)) (fun _ _ => rfl) valCmplt_eq fun _ _ =>
      truth_of_iff BitVec.slt_iff_toInt_lt
  case cmpltui =>
    exact givesImm_of_immediate (g := fun a k => truth (a.ult k)) (fun _ _ => rfl) valCmpltu_eq fun _ _ =>
      truth_of_iff BitVec.ult_iff_toNat_lt
  case mini =>
    exact givesImm_of_immediate (fun _ _ => rfl) valMin_eq fun _ _ =>
      congrArg (BitVec.signExtend 64) (if_congr BitVec.sle_iff_toInt_le rfl rfl)
  case maxi =>
    exact givesImm_of_immediate (fun _ _ => rfl) valMax_eq fun _ _ =>
      congrArg (BitVec.signExtend 64) (if_congr BitVec.sle_iff_toInt_le rfl rfl)

end Sys2Proof.Machine
end

section
/-! PROOFS. Capability words (R174, R175, R177-R179) that move an address, shrink permissions, inspect and seal. -/

namespace Sys2Proof.Machine

/-! ## Moves and permissions (R175, R177) -/

theorem usable_eq (v : RegVal) : usable v = (v.tag && decide (v.otype = 0)) := by rw [usable, beq_eq_decide]

theorem capMove_eq (v : RegVal) (na : Nat) :
    capMove v na = { v.set 0 72 na with
      tag := v.tag && decide (v.otype = 0) && decide (capBounds (v.set 0 72 na) ≠ none)
        && decide (capBounds (v.set 0 72 na) = capBounds v) } := by
  rw [capMove, usable_eq, beq_eq_decide]
  cases capBounds (v.set 0 72 na) with
  | none => rfl
  | some _ => simp

theorem maskPerms_eq (v : RegVal) (m : Nat) :
    maskPerms v m = { v.set 110 12 (v.perm &&& (m % 2 ^ 11)) with tag := v.tag && decide (v.otype = 0) } := by rw [maskPerms, usable_eq]

/-- Settles O9: `capMove` and `maskPerms` are the functions of the statement, with the tag's test as a Boolean. -/
theorem capabilityMoveResults : Obligations.CapabilityMoveResults := by
  unfold Obligations.CapabilityMoveResults
  intro moved shrunk
  refine ⟨fun o => ?cadd, fun o => ?caddI, fun o => ?cperm, fun o => ?cpermI, fun o => ?cclr⟩
  case cadd => exact gives_of_computeVal (fun _ => rfl) fun _ => capMove_eq ..
  case caddI =>
    refine gives_of_computeVal (fun _ => rfl) fun s => (capMove_eq ..).trans ?_
    rw [sext_eq_toInt (by decide)]
    rfl
  case cperm => exact gives_of_computeVal (fun _ => rfl) fun _ => maskPerms_eq ..
  case cpermI => exact gives_of_computeVal (fun _ => rfl) fun _ => maskPerms_eq ..
  case cclr => exact gives_of_computeVal (fun _ => rfl) fun _ => rfl

/-! ## Inspection (R178) -/

theorem regVal_ofInt_truth (p : Bool) : RegVal.ofInt (truth p) = RegVal.ofNat (if p then 1 else 0) := by cases p <;> rfl

theorem mul_bit (n : Nat) (p : Bool) : n * bit p = if p then n else 0 := (mul_ite ..).trans (by rw [Nat.mul_one, Nat.mul_zero])

theorem capCompare_eq (a b : RegVal) : capCompare a b =
    (if decide (a.bits = b.bits ∧ a.tag = b.tag) then 1 else 0) + (if decide (a.addr = b.addr) then 2 else 0)
      + (if decide (a.addr < b.addr) then 4 else 0)
      + if (match capBounds a, capBounds b with
        | some (ab, at_), some (bb, bt) => decide (a.tag = true ∧ b.tag = true ∧ bb ≤ ab ∧ at_ ≤ bt)
        | _, _ => false) then 8 else 0 := by
  have hsame : (a.bits == b.bits && a.tag == b.tag) = decide (a.bits = b.bits ∧ a.tag = b.tag) := by
    rw [beq_eq_decide, beq_eq_decide, Bool.decide_and]
  rw [capCompare, hsame, beq_eq_decide, mul_bit, mul_bit, mul_bit]
  congr 3
  match capBounds a, capBounds b with
  | none, _ => rfl
  | some _, none => rfl
  | some (ab, at_), some (bb, bt) => simp [Bool.and_assoc]

/-- Settles O11: each form reads fields, and the bounds where there are any. -/
theorem capabilityInspectionResults : Obligations.CapabilityInspectionResults := by
  unfold Obligations.CapabilityInspectionResults
  intro ofBool
  refine ⟨fun o => ?addr, fun o => ?base, fun o => ?top, fun o => ?perm, fun o => ?tag, fun o => ?csub, fun o => ?ccmp⟩
  case addr => exact gives_of_computeVal (fun _ => rfl) fun _ => rfl
  case base =>
    refine gives_of_computeVal (fun _ => rfl) fun s => congrArg RegVal.ofNat ?_
    rw [values_one, List.getD_cons_zero]
    cases capBounds (fieldVal s s.cur [o.a] 0) with
    | none => rfl
    | some _ => rfl
  case top =>
    refine gives_of_computeVal (fun _ => rfl) fun s => congrArg RegVal.ofNat ?_
    rw [values_one, List.getD_cons_zero]
    cases capBounds (fieldVal s s.cur [o.a] 0) with
    | none => rfl
    | some _ => rfl
  case perm => exact gives_of_computeVal (fun _ => rfl) fun _ => congrArg RegVal.ofNat (congrArg _ (Nat.mul_comm ..))
  case tag => exact gives_of_computeVal (fun _ => rfl) fun _ => regVal_ofInt_truth _
  case csub => exact gives_of_computeVal (fun _ => rfl) fun _ => rfl
  case ccmp => exact gives_of_computeVal (fun _ => rfl) fun _ => congrArg RegVal.ofNat (capCompare_eq ..)

/-! ## Sealing (R179) -/

section Typed
variable {o : R3} {s : State}

/-- A type that the thread may use passes. -/
theorem typeCheck_of_granted {g t : Nat} (hlo : 2 ≤ t) (hhi : t ≤ 63)
    (hgrant : (s.slot g).prv ≠ 0 ∨ bitAt (s.part (partOf s g)).tgrant t = true) : typeCheck s g t = none := by
  rw [typeCheck, if_neg (by omega), if_neg]
  rintro ⟨hprv, hbit⟩
  obtain h | h := hgrant
  · exact h hprv
  · simp [h] at hbit

theorem typeCheck_of_outside {g t : Nat} (h : t < 2 ∨ 63 < t) : typeCheck s g t = some .capperm := if_pos h

theorem typeCheck_of_not_granted {g t : Nat} (hlo : 2 ≤ t) (hhi : t ≤ 63)
    (hgrant : ¬((s.slot g).prv ≠ 0 ∨ bitAt (s.part (partOf s g)).tgrant t = true)) : typeCheck s g t = some .priv := by
  obtain ⟨hprv, hbit⟩ := not_or.mp hgrant
  rw [typeCheck, if_neg (by omega), if_pos ⟨not_not.mp hprv, by simpa using hbit⟩]

theorem typed_of_passed {t : State} {places : List OutElem} (f : RegVal → Nat → RegVal) (hready : Ready s [o.a, o.b] o.d places t)
    (hpass : typeCheck s s.cur (srcInt s [o.a, o.b] 1).toNat = none) :
    typed o s f = .next (wrote o.s s.cur [o.a, o.b] o.d (f (fieldVal s s.cur [o.a, o.b] 0) (srcInt s [o.a, o.b] 1).toNat) 0 places t) := by
  refine issue_compute hready ?_
  change (match typeCheck s s.cur (srcInt s [o.a, o.b] 1).toNat with | some c => Sum.inl c | none => _) = _
  rw [hpass]
  rfl

theorem typed_of_cause {c : Cause} (f : RegVal → Nat → RegVal) (hsrc : checkSrc s s.cur [o.a, o.b] o.d = .ok () s)
    (hcause : typeCheck s s.cur (srcInt s [o.a, o.b] 1).toNat = some c) : typed o s f = .next (trapHere s s.cur c 0) := by
  refine issue_compute_trap hsrc ?_
  change (match typeCheck s s.cur (srcInt s [o.a, o.b] 1).toNat with | some c => Sum.inl c | none => _) = _
  rw [hcause]
end Typed

/-- Both forms are `typed`. -/
theorem exec_typed (o : R3) : ∀ i ∈ [Instr.cseal o, .cunseal o], ∃ f, ∀ s, exec i s = typed o s f := by
  simp only [List.forall_mem_cons]
  exact ⟨⟨fun a t => { a.set 122 6 t with tag := usable a }, fun _ => rfl⟩,
    ⟨fun a t => { a.set 122 6 0 with tag := a.tag && a.otype == t }, fun _ => rfl⟩, List.forall_mem_nil _⟩

/-- Settles O12: the check of the type decides between completion and the two traps. -/
theorem sealingResults : Obligations.SealingResults := by
  unfold Obligations.SealingResults
  intro o s a t granted
  refine ⟨fun places u hready hlo hhi hgrant => ?given, fun hsrc i hi => ?traps⟩
  case given =>
    have hpass := typeCheck_of_granted hlo hhi hgrant
    refine ⟨(typed_of_passed (fun a t => { a.set 122 6 t with tag := usable a }) hready hpass).trans ?_,
      (typed_of_passed (fun a t => { a.set 122 6 0 with tag := a.tag && a.otype == t }) hready hpass).trans ?_⟩
    · rw [usable_eq]
    · rw [beq_eq_decide]
  case traps =>
    obtain ⟨f, hexec⟩ := exec_typed o i hi
    refine ⟨fun hout => ?_, fun hlo hhi hgrant => ?_⟩
    · rw [hexec, typed_of_cause f hsrc (typeCheck_of_outside hout)]
    · rw [hexec, typed_of_cause f hsrc (typeCheck_of_not_granted hlo hhi hgrant)]

end Sys2Proof.Machine
end

section
/-! PROOFS. The frame of the words that compute (R155, R156): what each operation of such a word leaves as it was. -/

namespace Sys2Proof.Machine

/-! ## One slot -/

/-- What a word with sources `fs` and destination `d` may change in the slot whose word it is. -/
structure OwnFrame (fs : List Nat) (d : Nat) (x y : Slot) : Prop where
  own : y = { x with ctx := y.ctx, ports := y.ports, ofs := y.ofs, status := y.status, mark := y.mark }
  ctx : y.ctx = { x.ctx with regs := y.ctx.regs, stat := y.ctx.stat, rep := y.ctx.rep }
  regs : ∀ r, r ≠ d → y.ctx.reg r = x.ctx.reg r
  stat : ∀ k, 5 ≤ k → y.ctx.stat.getLsbD k = x.ctx.stat.getLsbD k
  ports : ∀ p, p ∉ fs → p ≠ d → y.port p = x.port p

namespace OwnFrame
variable {fs : List Nat} {d : Nat}

/-- Flags are bits 4:0 of `STAT` (R102). -/
theorem flags (x : Slot) (fl : Nat) :
    OwnFrame fs d x { x with ctx := { x.ctx with stat := x.ctx.stat ||| BitVec.ofNat 64 (fl % 32) } } where
  own := rfl
  ctx := rfl
  regs _ _ := rfl
  stat k hk := by
    have hclear : (fl % 32).testBit k = false := Nat.testBit_lt_two_pow
      ((Nat.mod_lt fl (by decide)).trans_le (Nat.pow_le_pow_right Nat.two_pos hk))
    simp [BitVec.getLsbD_or, BitVec.getLsbD_ofNat, hclear]
  ports _ _ _ := rfl

/-- A port that a source or the destination names. -/
theorem port (x : Slot) {p : Nat} (q : Port) (hp : p ∈ fs ∨ p = d) : OwnFrame fs d x { x with ports := ins x.ports p q } where
  own := rfl
  ctx := rfl
  regs _ _ := rfl
  stat _ _ := rfl
  ports p' hsrc hdst := look_ins_other _ _ _ (by rintro rfl; exact hp.elim hsrc hdst)

theorem reg (x : Slot) (v : RegVal) : OwnFrame fs d x { x with ctx := { x.ctx with regs := ins x.ctx.regs d v } } where
  own := rfl
  ctx := rfl
  regs _ hr := look_ins_other _ _ _ hr
  stat _ _ := rfl
  ports _ _ _ := rfl

/-- Going on to the next word moves the offset and the repetition (R222). -/
theorem nextWord (x : Slot) : OwnFrame fs d x (nextWord x) := by
  unfold Machine.nextWord
  dsimp only
  split
  · split
    · exact ⟨rfl, rfl, fun _ _ => rfl, fun _ _ => rfl, fun _ _ _ => rfl⟩
    · exact ⟨rfl, rfl, fun _ _ => rfl, fun _ _ => rfl, fun _ _ _ => rfl⟩
  · exact ⟨rfl, rfl, fun _ _ => rfl, fun _ _ => rfl, fun _ _ _ => rfl⟩

theorem park {x y : Slot} (h : OwnFrame fs d x y) (st : SlotStatus) (m : Bool) : OwnFrame fs d x { y with status := st, mark := m } :=
  ⟨by rw [h.own], h.ctx, h.regs, h.stat, h.ports⟩

theorem afterIssue (m owes : Bool) (x : Slot) : OwnFrame fs d x (afterIssue m owes x) := by
  have hnext : OwnFrame fs d x (Machine.nextWord x) := nextWord x
  unfold Machine.afterIssue
  dsimp only
  split
  · exact hnext.park _ _
  · split
    · exact hnext.park _ _
    · exact hnext.park _ _

end OwnFrame

/-! ## The part -/

namespace ComputeFrame

protected theorem refl (s : State) (fs : List Nat) (d : Nat) : ComputeFrame s s fs d :=
  ⟨rfl, fun _ _ => rfl, rfl, rfl, fun _ _ => rfl, fun _ _ => rfl, fun _ _ _ => rfl, fun _ => ⟨rfl, rfl, rfl, rfl⟩⟩

section Steps
variable {s t u : State} {fs : List Nat} {d : Nat} (h : ComputeFrame s t fs d)
include h

theorem cur : t.cur = s.cur := by rw [h.part]

/-- A change of the thread's own slot. -/
theorem onSlot {f : Slot → Slot} (hf : ∀ x, OwnFrame fs d x (f x)) : ComputeFrame s (t.onSlot s.cur f) fs d := by
  have hown := hf (t.slot s.cur)
  have hgather : (f (t.slot s.cur)).gather = (t.slot s.cur).gather := by rw [hown.own]
  refine ⟨?part, fun g hg => ?others, ?own, ?ctx, fun r hr => ?regs, fun k hk => ?stat, fun p hsrc hdst => ?ports, fun hd => ?sent⟩
  case part => rw [State.onSlot, State.setSlot, h.part]
  case others => rw [State.slot_onSlot_other _ _ hg, h.others g hg]
  all_goals rw [State.slot_onSlot_self]
  case own =>
    refine hown.own.trans ?_
    rw [hgather, h.own]
  case ctx =>
    refine hown.ctx.trans ?_
    rw [h.ctx]
  case regs => rw [hown.regs r hr, h.regs r hr]
  case stat => rw [hown.stat k hk, h.stat k hk]
  case ports => rw [hown.ports p hsrc hdst, h.ports p hsrc hdst]
  case sent => rw [hgather]; exact h.sent hd

/-- What the thread has on its way, for a destination that is a port. -/
theorem onWay (hd : 48 ≤ d) (n : Nat) (w : List WalkJob) : ComputeFrame s { t with nextId := n, walks := w } fs d :=
  ⟨by rw [h.part], h.others, h.own, h.ctx, h.regs, h.stat, h.ports, fun hreg => absurd hreg (Nat.not_lt.mpr hd)⟩

theorem foldl {β : Type} {f : State → β → State} {l : List β}
    (hf : ∀ t, ∀ b ∈ l, ComputeFrame s t fs d → ComputeFrame s (f t b) fs d) :
    ComputeFrame s (l.foldl f t) fs d := List.foldlRecOn l f h fun t ht b hb => hf t b hb ht

theorem orFlags (fl : Nat) : ComputeFrame s (orFlags t s.cur fl) fs d := h.onSlot fun x => .flags x fl

theorem setPort {p : Nat} (q : Port) (hp : p ∈ fs ∨ p = d) : ComputeFrame s (setPort t s.cur p q) fs d := h.onSlot fun x => .port x q hp

theorem writeReg (v : RegVal) : ComputeFrame s (writeReg t s.cur d v) fs d := by
  unfold Machine.writeReg
  split
  · exact h.onSlot fun x => .reg x v
  · exact h

/-! ### Pops (R155) -/

theorem popPort {p : Nat} (hp : p ∈ fs) : ComputeFrame s (popPort t s.cur p) fs d := by
  unfold Machine.popPort
  dsimp only
  split
  · split
    · exact (h.orFlags _).setPort _ (.inl hp)
    · exact h.setPort _ (.inl hp)
  · exact h.setPort _ (.inl hp)

/-- A word pops ports that its sources name. -/
theorem popAll : ComputeFrame s (popAll t s.cur fs) fs d := by
  refine h.foldl fun u pk hpk hu => hu.popPort ?_
  obtain ⟨⟨p, j⟩, hfield, hsome⟩ := List.mem_filterMap.mp hpk
  split at hsome
  · obtain rfl := Option.some.inj hsome
    exact List.fst_mem_of_mem_zipIdx (x := (p, j)) hfield
  · nomatch hsome

/-! ### Appended values (R156, R217) -/

section Append
variable (hd : 48 ≤ d)
include hd

theorem putElem (e : OutElem) : ComputeFrame s (putElem t s.cur d e) fs d := (h.onWay hd (t.nextId + 1) t.walks).setPort _ (.inr rfl)

theorem closeBlock : ComputeFrame s (closeBlock t s.cur d) fs d := by
  unfold Machine.closeBlock
  extract_lets q
  split
  · exact h
  · exact ((h.orFlags _).setPort _ (.inr rfl)).putElem hd _

theorem appendValue (v : BitVec 32) (places : List OutElem) : ComputeFrame s (appendValue t s.cur d v places) fs d := by
  unfold Machine.appendValue
  dsimp only
  split
  · exact h.setPort _ (.inr rfl)
  · split
    · exact (h.setPort _ (.inr rfl)).closeBlock hd
    · exact h.setPort _ (.inr rfl)

theorem appendPort (v : RegVal) (places : List OutElem) : ComputeFrame s (appendPort t s.cur d v places) fs d := by
  unfold Machine.appendPort
  dsimp only
  split
  · exact h.foldl fun u _ _ hu => hu.appendValue hd _ _
  · split
    · exact (h.setPort _ (.inr rfl)).putElem hd _
    · exact h

/-! ### The place of an appended value (R215, R217) -/

theorem placeElem {q : Port} {k : Nat} {e : OutElem} (hok : placeElem t q k = .ok e u) : ComputeFrame s u fs d := by
  unfold Machine.placeElem at hok
  dsimp only at hok
  split at hok
  · nomatch hok
  · split at hok
    · rw [← (Res.ok.inj hok).2]
      exact h.onWay hd t.nextId _
    · obtain ⟨te, w, hfind, htarget⟩ := Res.bind_eq_ok.mp hok
      obtain rfl := findAt_ok hfind
      split at htarget
      · nomatch htarget
      · rw [← (Res.ok.inj htarget).2]
        exact h

omit hd in
theorem beginBlock {q : Port} {k : Nat} {e : OutElem} (hok : beginBlock t q k = .ok e u) : ComputeFrame s u fs d := by
  unfold Machine.beginBlock at hok
  dsimp only at hok
  split at hok
  · nomatch hok
  · split at hok
    · nomatch hok
    · nomatch hok
    · rw [← (Res.ok.inj hok).2]
      exact h
    · rw [← (Res.ok.inj hok).2]
      exact h

omit h hd in
/-- Operations one after the other, each of which answers an item of a list. -/
theorem foldl_bind {α : Type} {op : Nat → State → Res α}
    (hop : ∀ v t x u, ComputeFrame s t fs d → op v t = .ok x u → ComputeFrame s u fs d)
    (vs : List Nat) {r : Res (List α)} (hr : ∀ l u, r = .ok l u → ComputeFrame s u fs d) :
    ∀ l u, vs.foldl (fun (r : Res (List α)) v => r.bind fun l s => (op v s).bind fun x s => .ok (l ++ [x]) s) r = .ok l u →
      ComputeFrame s u fs d := by
  induction vs generalizing r with
  | nil => exact hr
  | cons v vs ih =>
    refine ih fun l u hok => ?_
    obtain ⟨_, t, hbefore, hrest⟩ := Res.bind_eq_ok.mp hok
    obtain ⟨x, w, hnext, hlast⟩ := Res.bind_eq_ok.mp hrest
    rw [← (Res.ok.inj hlast).2]
    exact hop v t x w (hr _ _ hbefore) hnext

theorem checkAppend {places : List OutElem} (hok : checkAppend t d = .ok places u) : ComputeFrame s u fs d := by
  unfold Machine.checkAppend at hok
  dsimp only at hok
  split at hok
  · nomatch hok
  · split at hok
    · nomatch hok
    · split at hok
      · nomatch hok
      · split at hok
        · obtain ⟨e, w, hplace, hlast⟩ := Res.bind_eq_ok.mp hok
          rw [← (Res.ok.inj hlast).2]
          exact h.placeElem hd hplace
        · refine foldl_bind (fun v t x u ht => ht.placeElem hd) _ (foldl_bind (fun v t x u ht => ht.beginBlock) _ fun l w hw => ?_) _ _ hok
          rw [← (Res.ok.inj hw).2]
          exact h

end Append

theorem checkDst {places : List OutElem} (hok : checkDst t d = .ok places u) : ComputeFrame s u fs d := by
  unfold Machine.checkDst at hok
  split at hok
  next hport => exact h.checkAppend hport.1 hok
  next =>
    rw [← (Res.ok.inj hok).2]
    exact h

theorem putResult (v : RegVal) (places : List OutElem) : ComputeFrame s (putResult t d v places) fs d := by
  unfold Machine.putResult
  rw [h.cur]
  split
  next hport => exact h.appendPort hport.1 v places
  next => exact h.writeReg v

end Steps

/-- What a word leaves that has popped its sources, written its result and issued. -/
theorem wrote {s t : State} {fs : List Nat} {d : Nat} {places : List OutElem} (hready : Ready s fs d places t)
    (m : Bool) (v : RegVal) (fl : Nat) :
    ComputeFrame s (wrote m s.cur fs d v fl places t) fs d := by
  have hdst := (ComputeFrame.refl s fs d).checkDst hready.dst
  unfold Machine.wrote issued
  rw [hdst.cur]
  exact (((hdst.popAll).orFlags fl).putResult v places).onSlot fun x => .afterIssue m _ x

end ComputeFrame

/-! ## The words that compute -/

/-- Instruction `i` computes a value from the sources `fs` for the destination `d`. -/
def ComputesVal (i : Instr) (fs : List Nat) (d : Nat) : Prop := ∃ m f, ∀ s, exec i s = issue m s (computeVal s fs d f)

theorem ComputesVal.frame {i : Instr} {fs : List Nat} {d : Nat} (h : ComputesVal i fs d) {s t u : State} {places : List OutElem}
    (hready : Ready s fs d places t) (hexec : exec i s = .next u) : ComputeFrame s u fs d := by
  obtain ⟨m, f, hi⟩ := h
  rw [hi, issue_computeVal hready] at hexec
  exact Host.Outcome.next.inj hexec ▸ ComputeFrame.wrote hready ..

/-- Settles O60: pops, flags, the result and the issue of a word each change only what the frame leaves free, and every word of the lists
is such a word, a division once its divisor has passed. -/
theorem computeWordsFrame : Obligations.ComputeWordsFrame := by
  unfold Obligations.ComputeWordsFrame
  intro frame any
  refine ⟨fun m s fs d v fl places t hready => .wrote hready m v fl, fun o => ?binary, fun o i hi => ?division, fun o => ?unary,
    fun o => ?ternary, fun o => ?immediate, fun o => ?li, fun o => ?field⟩
  case division =>
    intro s places t u hready hne hexec
    obtain ⟨f, hdiv⟩ := exec_division o i hi
    rw [hdiv, division_of_ne_zero f hready hne] at hexec
    exact Host.Outcome.next.inj hexec ▸ .wrote hready ..
  case li => exact fun s places t u hready _ hexec => ComputesVal.frame ⟨o.s, _, fun _ => rfl⟩ hready hexec
  case binary | unary | ternary | immediate | field =>
    simp only [List.forall_mem_cons, List.not_mem_nil, IsEmpty.forall_iff, implies_true, and_true]
    and_intros
    all_goals exact fun s places t u hready _ hexec => ComputesVal.frame ⟨o.s, _, fun _ => rfl⟩ hready hexec

end Sys2Proof.Machine
end

section
/-! SUPPORT. Bitmaps of words (R168-R170): counting and selecting set bits word by word and in the whole. -/

namespace Sys2Proof.Machine

/-! ## Bits of two parts -/

/-- The bits set below a place. -/
def bitsBelow (v k : Nat) : Nat := (List.range k).countP (bitAt v)

theorem setBits_eq (v n : Nat) : setBits v n = bitsBelow v n := List.countP_eq_length_filter.symm

section Parts
variable {x m : Nat} (v : Nat) (hx : x < 2 ^ m)
include hx

theorem bitAt_low {k : Nat} (hk : k < m) : bitAt (x + v * 2 ^ m) k = bitAt x k := by
  rw [← testBit_eq_bitAt, ← testBit_eq_bitAt, Nat.add_comm, Nat.mul_comm, Nat.testBit_two_pow_mul_add _ hx, if_pos hk]

theorem bitAt_high (k : Nat) : bitAt (x + v * 2 ^ m) (m + k) = bitAt v k := by
  rw [← testBit_eq_bitAt, ← testBit_eq_bitAt, Nat.add_comm x, Nat.mul_comm, Nat.testBit_two_pow_mul_add _ hx, if_neg (by omega),
    Nat.add_sub_cancel_left]

theorem bitsBelow_low {k : Nat} (hk : k ≤ m) : bitsBelow (x + v * 2 ^ m) k = bitsBelow x k :=
  List.countP_congr fun i hi => by rw [bitAt_low v hx ((List.mem_range.mp hi).trans_le hk)]

theorem bitsBelow_high (k : Nat) : bitsBelow (x + v * 2 ^ m) (m + k) = bitsBelow x m + bitsBelow v k := by
  have htail : bitAt (x + v * 2 ^ m) ∘ (m + ·) = bitAt v := funext (bitAt_high v hx)
  rw [bitsBelow, List.range_add, List.countP_append, List.countP_map, htail]
  exact congrArg (· + _) (bitsBelow_low v hx (Nat.le_refl m))

end Parts

/-! ## The bit with a rank -/

/-- Whether bit `k` is set with `n` set bits below it (R169). -/
def hasRank (v n k : Nat) : Bool := bitAt v k && bitsBelow v k == n

/-- The `n`-th of the set bits is the first set bit with `n` set bits below it. -/
theorem nthSet_eq_find? (v n len : Nat) : nthSet v n len = (List.range len).find? (hasRank v n) := by
  induction len with
  | zero => rfl
  | succ len ih =>
    have hlen : ((List.range len).filter (bitAt v)).length = bitsBelow v len := setBits_eq v len
    rw [nthSet, List.range_succ, List.find?_append, ← ih, nthSet, List.filter_append, List.getElem?_append, hlen]
    by_cases hn : n < bitsBelow v len
    · rw [if_pos hn, List.getElem?_eq_getElem (hlen ▸ hn)]
      rfl
    · have hbefore : ((List.range len).filter (bitAt v))[n]? = none := List.getElem?_eq_none (by omega)
      rw [if_neg hn, hbefore, Option.none_or]
      by_cases hbit : bitAt v len
      · by_cases hrank : bitsBelow v len = n
        · simp [hasRank, hbit, hrank]
        · have hpos : n - bitsBelow v len ≠ 0 := by omega
          simp [hasRank, hbit, hrank, hpos]
      · simp [hasRank, hbit]

theorem nthSet_eq_none_iff (v n len : Nat) : nthSet v n len = none ↔ bitsBelow v len ≤ n := by
  rw [nthSet, List.getElem?_eq_none_iff, ← setBits_eq, setBits]

/-- A bit with a rank is looked for in the low part, and then in the high part with the rank that remains. -/
theorem find?_hasRank {x m : Nat} (v n k : Nat) (hx : x < 2 ^ m) :
    (List.range (m + k)).find? (hasRank (x + v * 2 ^ m) n) =
      match nthSet x n m with
      | some j => some j
      | none => ((List.range k).find? (hasRank v (n - bitsBelow x m))).map (m + ·) := by
  have hlow : (List.range m).find? (hasRank (x + v * 2 ^ m) n) = nthSet x n m := by
    rw [nthSet_eq_find?]
    refine List.find?_congr fun i hi => ?_
    have him := List.mem_range.mp hi
    rw [hasRank, hasRank, bitAt_low v hx him, bitsBelow_low v hx him.le]
  rw [List.range_add, List.find?_append, hlow, List.find?_map]
  cases hnth : nthSet x n m with
  | some j => rfl
  | none =>
    have hrank := (nthSet_eq_none_iff x n m).mp hnth
    have hhigh : hasRank (x + v * 2 ^ m) n ∘ (m + ·) = hasRank v (n - bitsBelow x m) := by
      funext i
      rw [Function.comp_apply, hasRank, hasRank, bitAt_high v hx, bitsBelow_high v hx]
      congr 1
      rw [Bool.eq_iff_iff, beq_iff_eq, beq_iff_eq]
      omega
    rw [hhigh, Option.none_or]

/-! ## Word by word -/

/-- The number whose bytes are those of the words of a bitmap, each a value and its bytes. -/
def wholeBitmap (ws : List (Nat × Nat)) : Nat := ws.foldr (fun w v => w.1 + v * 2 ^ (8 * w.2)) 0

theorem wholeBitmap_cons (w : Nat × Nat) (ws : List (Nat × Nat)) : wholeBitmap (w :: ws) = w.1 + wholeBitmap ws * 2 ^ (8 * w.2) := rfl

/-- The bytes of a bitmap. -/
def wholeBytes (ws : List (Nat × Nat)) : Nat := (ws.map (·.2)).sum

theorem wholeBytes_cons (w : Nat × Nat) (ws : List (Nat × Nat)) : wholeBytes (w :: ws) = w.2 + wholeBytes ws := List.sum_cons

/-- One word of a `rank` that has no result yet (R168). -/
def rankOn (a : Nat ⊕ (Nat × Nat)) (w : Nat × Nat) : Nat ⊕ (Nat × Nat) :=
  match a with
  | .inl x => .inl x
  | .inr ic => rankWord ic.1 ic.2 w.1 w.2

/-- One word of a `selb` that has no result yet: the rank that remains, the bits passed and the bytes left (R169). -/
def selbOn (a : Nat ⊕ (Nat × Nat × Nat)) (w : Nat × Nat) : Nat ⊕ (Nat × Nat × Nat) :=
  match a with
  | .inl x => .inl x
  | .inr nb =>
    match selbWord nb.1 nb.2.1 w.1 w.2 nb.2.2 with
    | .inl x => .inl x
    | .inr m => .inr (m.1, m.2, nb.2.2 - w.2)

theorem foldl_rankOn_inl (ws : List (Nat × Nat)) (x : Nat) : ws.foldl rankOn (.inl x) = .inl x := List.foldl_fixed' (fun _ => rfl) ws

theorem foldl_selbOn_inl (ws : List (Nat × Nat)) (x : Nat) : ws.foldl selbOn (.inl x) = .inl x := List.foldl_fixed' (fun _ => rfl) ws

/-- The words of a `rank` one after the other count the bits below its index in the whole bitmap. -/
theorem foldl_rankOn {ws : List (Nat × Nat)} (hws : ∀ w ∈ ws, w.1 < 2 ^ (8 * w.2)) (n cnt : Nat) (hn : n < 8 * wholeBytes ws) :
    ws.foldl rankOn (.inr (n, cnt)) = .inl (cnt + bitsBelow (wholeBitmap ws) n + if bitAt (wholeBitmap ws) n then 2 ^ 64 else 0) := by
  induction ws generalizing n cnt with
  | nil => exact absurd hn (Nat.not_lt_zero _)
  | cons w ws ih =>
    obtain ⟨hw, hrest⟩ := List.forall_mem_cons.mp hws
    rw [wholeBytes_cons] at hn
    rw [List.foldl_cons, rankOn, rankWord, wholeBitmap_cons, setBits_eq, setBits_eq]
    by_cases hin : n < 8 * w.2
    · rw [if_pos hin, foldl_rankOn_inl, bitAt_low _ hw hin, bitsBelow_low _ hw hin.le, Nat.mul_comm, mul_bit]
    · rw [if_neg hin, ih hrest _ _ (by omega)]
      obtain ⟨k, rfl⟩ := Nat.exists_eq_add_of_le (Nat.not_lt.mp hin)
      rw [Nat.add_sub_cancel_left, bitAt_high _ hw, bitsBelow_high _ hw, Nat.add_assoc cnt]

/-- The words of a `selb` one after the other find the bit of its rank in the whole bitmap. -/
theorem foldl_selbOn {ws : List (Nat × Nat)} (hne : ws ≠ []) (hws : ∀ w ∈ ws, w.1 < 2 ^ (8 * w.2)) (hpos : ∀ w ∈ ws, 0 < w.2)
    (n base : Nat) :
    ws.foldl selbOn (.inr (n, base, wholeBytes ws)) =
      .inl (((List.range (8 * wholeBytes ws)).find? (hasRank (wholeBitmap ws) n)).elim (2 ^ 64 - 1) (base + ·)) := by
  induction ws generalizing n base with
  | nil => exact absurd rfl hne
  | cons w ws ih =>
    obtain ⟨hw, hrest⟩ := List.forall_mem_cons.mp hws
    obtain ⟨-, hrestPos⟩ := List.forall_mem_cons.mp hpos
    rw [List.foldl_cons, selbOn, wholeBytes_cons, wholeBitmap_cons, Nat.mul_add, find?_hasRank _ _ _ hw]
    dsimp only
    rw [selbWord]
    cases nthSet w.1 n (8 * w.2) with
    | some j => exact foldl_selbOn_inl ws _
    | none =>
      dsimp only
      cases ws with
      | nil =>
        rw [if_pos (c := w.2 + wholeBytes [] ≤ w.2) (Nat.le_refl _)]
        rfl
      | cons w' ws =>
        have hleft : ¬w.2 + wholeBytes (w' :: ws) ≤ w.2 := by
          have := hrestPos w' List.mem_cons_self
          rw [wholeBytes_cons]
          omega
        rw [if_neg hleft, Nat.add_sub_cancel_left, setBits_eq]
        refine (ih (List.cons_ne_nil _ _) hrest hrestPos ..).trans (congrArg Sum.inl ?_)
        rw [Option.elim_map]
        simp only [Nat.add_assoc]
        rfl

end Sys2Proof.Machine
end

section
/-! PROOFS. `rank` and `selb` as they issue (R168-R170, R348, R352): their checks, and the search that each sends. -/

namespace Sys2Proof.Machine

/-! ## The search leaves (R170) -/

section Send
variable {s : State} {fs : List Nat} {op : MemOp} {ea len d : Nat}

/-- A search of a range with a page that names nothing traps ACCESS. -/
theorem sendBitmap_of_unnamed (h : ¬∀ q ∈ piecesOf 4096 ea len, locate s s.cur q.1 q.2 1 ≠ none) :
    sendBitmap s fs op ea len d = .trap .access ea := by
  rw [sendBitmap, if_pos]
  rw [List.any_eq_true]
  obtain ⟨q, hq, hnone⟩ := not_forall₂.mp h
  exact ⟨q, hq, Option.isNone_iff_eq_none.mpr (not_not.mp hnone)⟩

/-- A search whose pages all name something leaves for its first word. -/
theorem sendBitmap_of_located {tgt : Target} {e : Option TlbEntry} (hop : isBitmap op = true)
    (hpages : ∀ q ∈ piecesOf 4096 ea len, locate s s.cur q.1 q.2 1 ≠ none) (hroom : hasRoom s s.cur (clsOf ea 0 false) = true)
    (hstore : storeRoom s (newReq s s.cur (clsOf ea 0 false) op ea len 0 d) = .ok () s)
    (hloc : locate (popAll s s.cur fs) s.cur ea (min len (8 - ea % 8)) 1 = some (.at_ tgt e)) :
    sendBitmap s fs op ea len d = .ok () (bitmapSent s fs (newReq s s.cur (clsOf ea 0 false) op ea len 0 d) tgt e) := by
  have hnamed : ¬(piecesOf 4096 ea len).any (fun q => (locate s s.cur q.1 q.2 1).isNone) = true := by
    rw [List.any_eq_true]
    rintro ⟨q, hq, hnone⟩
    exact hpages q hq (Option.isNone_iff_eq_none.mp hnone)
  have hreach : ((newReq s s.cur (clsOf ea 0 false) op ea len 0 d).withPops s (popAll s s.cur fs) fs).reach =
      min len (8 - ea % 8) := if_pos hop
  have hissue := issueReq_of_located (r := (newReq s s.cur (clsOf ea 0 false) op ea len 0 d).withPops s (popAll s s.cur fs) fs)
    (hreach ▸ hloc)
  rw [sendBitmap, if_neg hnamed, room_of_hasRoom hroom, Res.bind_ok]
  dsimp only
  rw [hstore, Res.bind_ok, hissue, Res.bind_ok, bitmapSent]
  split <;> rfl

end Send

/-- What the statement says of a word that sends a search of `len` bytes: it traps ACCESS where a page names nothing, and else its search
leaves. -/
theorem exec_of_sendBitmap {i : Instr} {m : Bool} {s : State} {fs : List Nat} {op : MemOp} {ea len d : Nat} (hop : isBitmap op = true)
    (hexec : exec i s = issue m s (sendBitmap s fs op ea len d)) :
    let r := newReq s s.cur (clsOf ea 0 false) op ea len 0 d
    let named := ∀ q ∈ piecesOf 4096 ea len, locate s s.cur q.1 q.2 1 ≠ none
    (¬named → exec i s = .next (trapHere s s.cur .access ea)) ∧
    (named → hasRoom s s.cur (clsOf ea 0 false) = true → storeRoom s r = .ok () s →
      ∀ tgt e, locate (popAll s s.cur fs) s.cur ea (min len (8 - ea % 8)) 1 = some (.at_ tgt e) →
        exec i s = .next (issued m s.cur (bitmapSent s fs r tgt e))) := by
  refine ⟨fun hnamed => ?_, fun hnamed hroom hstore tgt e hloc => ?_⟩
  · rw [hexec, sendBitmap_of_unnamed hnamed, issue_trap]
  · rw [hexec, sendBitmap_of_located hop hnamed hroom hstore hloc, issue_ok]

/-! ## `rank` up to its search (R168) -/

section Rank
variable {o : R3} {s : State} {c : RegVal} {n : Nat} (hsrc : checkSrc s s.cur [o.a, o.b] 0 = .ok () s)
  (hcap : fieldVal s s.cur [o.a, o.b] 0 = c) (hnum : (fieldVal s s.cur [o.a, o.b] 1).int.toNat = n)
include hsrc hnum

theorem exec_rank_of_far (hfar : 2 ^ 20 ≤ n) : exec (.rank o) s = .next (trapHere s s.cur .access 0) := by
  change execRank o s = _
  rw [execRank]
  dsimp only
  rw [hsrc, Res.bind_ok, hnum, if_pos hfar, issue_trap]

include hcap

theorem exec_rank_of_cause {x : Cause} (hin : n < 2 ^ 20) (hcause : capCheck c c.addr (n / 8 + 1) permR 1 = some x) :
    exec (.rank o) s = .next (trapHere s s.cur x c.addr) := by
  change execRank o s = _
  rw [execRank]
  dsimp only
  rw [hsrc, Res.bind_ok, hnum, hcap, if_neg (Nat.not_le.mpr hin), hcause, issue_trap]

theorem exec_rank_of_passed (hin : n < 2 ^ 20) (hpass : capCheck c c.addr (n / 8 + 1) permR 1 = none) :
    exec (.rank o) s = issue o.s s (sendBitmap s [o.a, o.b] (.rank n 0 false) c.addr (n / 8 + 1) o.d) := by
  change execRank o s = _
  rw [execRank]
  dsimp only
  rw [hsrc, Res.bind_ok, hnum, hcap, if_neg (Nat.not_le.mpr hin), hpass]

end Rank

/-! ## `selb` up to its search (R169) -/

/-- The bytes that a `selb` searches. -/
def selbLen (c : RegVal) : Nat := match capBounds c with | some (_, t) => min (t - c.addr) (2 ^ 17) | none => 0

/-- Whether a capability may be read at its address, its bounds left out. -/
def mayRead (c : RegVal) : Bool := hasPerm c (permR ||| if isGlobal c.addr then permGLB else 0)

/-- The cause of a capability through which a `selb` searches `len` bytes. -/
def selbCause (c : RegVal) (len : Nat) : Option Cause :=
  if len = 0 then (if !c.tag then some .captag else if c.otype ≠ 0 ∨ !mayRead c then some .capperm else none)
  else capCheck c c.addr len permR 1

/-- A `selb` past its sources, for bit `n` of `len` bytes. -/
def selbSearch (o : R3) (s : State) (c : RegVal) (n len : Nat) : Res Unit :=
  match selbCause c len with
  | some x => .trap x c.addr
  | none =>
    if len = 0 then .ok () (pushResult (popAll s s.cur [o.a, o.b]) s.cur (plainResult o.d (RegVal.ofNat (2 ^ 64 - 1))))
    else sendBitmap s [o.a, o.b] (.selb n 0 false) c.addr len o.d

theorem exec_selb {o : R3} {s : State} (hsrc : checkSrc s s.cur [o.a, o.b] 0 = .ok () s) :
    exec (.selb o) s = issue o.s s
      (selbSearch o s (fieldVal s s.cur [o.a, o.b] 0) (srcInt s [o.a, o.b] 1).toNat (selbLen (fieldVal s s.cur [o.a, o.b] 0))) := by
  change execSelb o s = _
  rw [execSelb]
  dsimp only
  rw [hsrc, Res.bind_ok]
  rfl

theorem selbLen_of_bounds {c : RegVal} {b t : Nat} (h : capBounds c = some (b, t)) : selbLen c = min (t - c.addr) (2 ^ 17) := by
  rw [selbLen, h]

/-- Through a capability whose top its address has reached, and through one without bounds, a `selb` searches no byte. -/
theorem selbLen_of_empty {c : RegVal} (h : ∀ b t, capBounds c = some (b, t) → t ≤ c.addr) : selbLen c = 0 := by
  match hbounds : capBounds c with
  | some (b, t) => rw [selbLen_of_bounds hbounds, Nat.sub_eq_zero_of_le (h b t hbounds), Nat.zero_min]
  | none => rw [selbLen, hbounds]

section Selb
variable {o : R3} {s : State} {c : RegVal} {n len : Nat}

theorem selbSearch_of_cause {x : Cause} (h : selbCause c len = some x) : selbSearch o s c n len = .trap x c.addr := by
  rw [selbSearch, h]

theorem selbSearch_of_passed (h : selbCause c len = none) (hlen : len ≠ 0) :
    selbSearch o s c n len = sendBitmap s [o.a, o.b] (.selb n 0 false) c.addr len o.d := by
  rw [selbSearch, h]
  exact if_neg hlen

theorem selbSearch_of_empty (h : selbCause c 0 = none) :
    selbSearch o s c n 0 = .ok () (pushResult (popAll s s.cur [o.a, o.b]) s.cur (plainResult o.d (RegVal.ofNat (2 ^ 64 - 1)))) := by
  rw [selbSearch, h]
  rfl

theorem selbCause_of_bytes (hlen : len ≠ 0) : selbCause c len = capCheck c c.addr len permR 1 := if_neg hlen

/-- With no byte to search, tag, then seal and permissions are checked. -/
theorem selbCause_zero : (c.tag = false → selbCause c 0 = some .captag) ∧
    (c.tag = true → c.otype ≠ 0 ∨ mayRead c = false → selbCause c 0 = some .capperm) ∧
    (c.tag = true → c.otype = 0 → mayRead c = true → selbCause c 0 = none) := by
  rw [selbCause, if_pos rfl]
  refine ⟨fun htag => ?_, fun htag hbad => ?_, fun htag hseal hmay => ?_⟩
  · simp [htag]
  · simp [htag, hbad]
  · simp [htag, hseal, hmay]

/-- A `selb` with no byte to search traps on tag, seal or permissions, or finds no bit at once. -/
theorem exec_selb_of_empty (hsrc : checkSrc s s.cur [o.a, o.b] 0 = .ok () s)
    (hempty : selbLen (fieldVal s s.cur [o.a, o.b] 0) = 0) :
    let c := fieldVal s s.cur [o.a, o.b] 0
    let traps := fun (x : Cause) => exec (.selb o) s = .next (trapHere s s.cur x c.addr)
    (c.tag = false → traps .captag) ∧ (c.tag = true → c.otype ≠ 0 ∨ mayRead c = false → traps .capperm) ∧
    (c.tag = true → c.otype = 0 → mayRead c = true → exec (.selb o) s = .next (issued o.s s.cur
      (pushResult (popAll s s.cur [o.a, o.b]) s.cur (plainResult o.d (RegVal.ofNat (2 ^ 64 - 1)))))) := by
  intro c traps
  have htraps : ∀ x, selbCause c 0 = some x → traps x := fun x hx => by
    change exec (.selb o) s = _
    rw [exec_selb hsrc, hempty, selbSearch_of_cause hx, issue_trap]
  obtain ⟨hcaptag, hcapperm, hpass⟩ := selbCause_zero (c := c)
  refine ⟨fun htag => htraps _ (hcaptag htag), fun htag hbad => htraps _ (hcapperm htag hbad), fun htag hseal hmay => ?_⟩
  rw [exec_selb hsrc, hempty, selbSearch_of_empty (hpass htag hseal hmay), issue_ok]

end Selb

/-- Settles O21: each word makes its checks and then sends its search; the words of a search keep the count, or the rank that remains,
of the bits that they have passed. -/
theorem bitmapWordsSearch : Obligations.BitmapWordsSearch := by
  unfold Obligations.BitmapWordsSearch
  intro pages named searches nothing
  refine ⟨fun o s => ?rank, fun o s b t => ?selb, fun o s hsrc hbounds => ?unbounded, fun ws n hws => ?words⟩
  case rank =>
    intro fs c i hsrc
    exact ⟨exec_rank_of_far hsrc rfl, fun hin => ⟨fun x hcause => exec_rank_of_cause hsrc rfl rfl hin hcause,
      fun hpass => exec_of_sendBitmap rfl (exec_rank_of_passed hsrc rfl rfl hin hpass)⟩⟩
  case selb =>
    intro fs c n len hsrc hbounds
    have hlen : selbLen c = len := selbLen_of_bounds hbounds
    have hbytes : c.addr < t → len ≠ 0 := fun h => by
      change min (t - c.addr) (2 ^ 17) ≠ 0
      omega
    refine ⟨fun hlt x hcause => ?_, fun hlt hpass => exec_of_sendBitmap rfl ?_, fun hle => exec_selb_of_empty hsrc ?_⟩
    · rw [exec_selb hsrc, hlen, selbSearch_of_cause ((selbCause_of_bytes (hbytes hlt)).trans hcause), issue_trap]
    · rw [exec_selb hsrc, hlen, selbSearch_of_passed ((selbCause_of_bytes (hbytes hlt)).trans hpass) (hbytes hlt)]
    · refine selbLen_of_empty fun b' t' h => ?_
      obtain ⟨-, rfl⟩ := Prod.mk.inj (Option.some.inj (hbounds.symm.trans h))
      exact hle
  case unbounded => exact exec_selb_of_empty hsrc (selbLen_of_empty fun b t h => nomatch hbounds.symm.trans h)
  case words =>
    intro whole bytes below rankOn' selbOn'
    refine ⟨fun hn => ?_, fun hne hpos => ?_⟩
    · refine (foldl_rankOn hws n 0 hn).trans ?_
      rw [Nat.zero_add]
      rfl
    · refine (foldl_selbOn hne hws hpos n 0).trans (congrArg Sum.inl ?_)
      change ((List.range (8 * bytes)).find? (hasRank whole n)).elim _ _ = ((List.range (8 * bytes)).find? (hasRank whole n)).getD _
      cases (List.range (8 * bytes)).find? (hasRank whole n) with
      | none => rfl
      | some j => exact Nat.zero_add j

end Sys2Proof.Machine
end
